-- ==== Sys2Proof/Word.lean ====
section
/-!
DEFINITION. The word types of the Daldom GX4 (00_scope.md R1, R5; 02_registers_and_state.md R41, R44):
a scalar register is 64 bits, an element of a vector register 32 bits, memory is bytes.
-/
namespace Sys2Proof

/-- A 32-bit element of a vector register, and a scalar instruction word (R44, R57). -/
abbrev Word := BitVec 32
/-- A 64-bit scalar register value or virtual address (R41). -/
abbrev DWord := BitVec 64
/-- One byte of memory (R5). -/
abbrev Byte := BitVec 8
/-- A lane instruction: W0 in bits 31:0, W1 in 63:32, W2 in 95:64 (R57). -/
abbrev LaneWord := BitVec 96

end Sys2Proof
end

