-- ==== Sys2Proof/Machine/Bits.lean ====
section
/-!
DEFINITION. Bit operations shared by the scalar and lane instructions: the counter generator (R39), leading zeros, ones and
reversal (R81, R120), the atomic operations (R174, R185), division (R12, R82) and CRC-32C (R262, R293, R296).
-/
namespace Sys2Proof.Machine

/-- One round of the generator (R39). -/
def sowRound (x : Word) : Word := (x ^^^ (x >>> 16)) * 0x2C9EB3A5
/-- SOW32(c, k) (R39). -/
def sow32 (c k : Word) : Word :=
  let x := sowRound (sowRound (sowRound (c ^^^ k)))
  x ^^^ (x >>> 15)

/-- Leading zero bits of a w-bit value: w for zero. -/
def clzNat (w x : Nat) : Nat := if x = 0 then w else w - 1 - Nat.log2 x
/-- Ones among the low w bits. -/
def popNat : Nat → Nat → Nat
  | 0, _ => 0
  | w + 1, x => x % 2 + popNat w (x / 2)
/-- The low w bits reversed. -/
def revNat : Nat → Nat → Nat
  | 0, _ => 0
  | w + 1, x => (x % 2) * 2 ^ w + revNat w (x / 2)

/-- A w-bit pattern read as two's complement (R9). -/
def toSigned (w x : Nat) : Int := if x % 2 ^ w < 2 ^ (w - 1) then (x % 2 ^ w : Nat) else (x % 2 ^ w : Nat) - (2 ^ w : Nat)
/-- An integer reduced modulo 2^w (R11). -/
def ofInt (w : Nat) (x : Int) : Nat := (x % (2 ^ w : Nat)).toNat

/-- Quotient and remainder of R12 on w-bit patterns, wrapping. -/
def divRem (w : Nat) (signed : Bool) (a b : Nat) : Nat × Nat :=
  if b % 2 ^ w = 0 then (2 ^ w - 1, a % 2 ^ w)
  else if signed then
    let x := toSigned w a
    let y := toSigned w b
    (ofInt w (Int.tdiv x y), ofInt w (Int.tmod x y))
  else (a % 2 ^ w / (b % 2 ^ w), a % 2 ^ w % (b % 2 ^ w))

/-- CRC-32C of bytes, from a running value (PRESUMED, unsafe: assumption 5: the Castagnoli polynomial, reflected). -/
def crcBits : Nat → Nat → Nat
  | 0, c => c
  | n + 1, c => crcBits n (if c % 2 = 1 then (c / 2) ^^^ 0x82F63B78 else c / 2)
/-- PRESUMED, unsafe: assumption 5. -/
def crcGo : List Byte → Nat → Nat
  | [], c => c
  | b :: t, c => crcGo t (crcBits 8 (c ^^^ b.toNat))
/-- PRESUMED, unsafe: assumption 5. -/
def crc32c (bs : List Byte) : Nat := (crcGo bs 0xFFFFFFFF) ^^^ 0xFFFFFFFF

end Sys2Proof.Machine
end

