-- ==== Sys2Proof/Config.lean ====
section
/-!
DEFINITION. What this part fixes (00_scope.md R1) and the free values: constants with no body, so that nothing
can be proved about what they are. Each free value stands where the spec leaves a value open and the machine goes on.
-/
namespace Sys2Proof.Config

/-- The group width W of this part (R1). -/
def W : Nat := 32
/-- Cores of a package (R1). -/
def cores : Nat := 192
/-- Mesh columns and rows of one die (R1). -/
def meshX : Nat := 8
def meshY : Nat := 6
/-- Group slots of a core and of a quadrant (R1). -/
def slotsPerCore : Nat := 64
def slotsPerQuadrant : Nat := 16
/-- Vector registers of one quadrant at W = 32 (R44). -/
def quadrantRegs : Nat := 4096
/-- Bytes of core SRAM (R1). -/
def sramBytes : Nat := 1572864
/-- Enabled memory slices of a fully enabled part (R1). -/
def slices : Nat := 128
/-- Bytes of one memory slice: 1,572,864 granules of 4 KiB (R393). -/
def sliceBytes : Nat := 1572864 * 4096

/-- Further ck that pass while no stream can issue, by the number of free values drawn: how long anything takes is timing (DESIGN CHOICE,
safe: assumption 1). -/
opaque freeTicks : Nat → Nat
/-- The ck that a stream's next instruction waits for what the spec does not time, by the number of free values drawn (DESIGN CHOICE,
safe: assumption 1). -/
opaque freeStallCk : Nat → Nat
/-- The word of the n-th value the spec leaves open and lets the machine go on with (DESIGN CHOICE, safe: assumption 3). -/
opaque freeWord : Nat → BitVec 64
/-- The side of a rounding boundary on which a computed value lies that fixed point cannot tell from it (DESIGN CHOICE, safe: assumption 8). -/
opaque freeSide : Nat → Bool
/-- What becomes of a plain lane load that finds its sector in L1, by the number of free values drawn and the sector: 0 it is served from
there, 1 the sector has left, otherwise the sector holds an error (DESIGN CHOICE, unsafe: assumption 20). -/
opaque freeSector : Nat → Nat → Nat
/-- The physical address of a record of a slice's spill area, by slice and place: firmware lays the areas out (DESIGN CHOICE, unsafe: assumption 58). -/
opaque spillAt : Nat → Nat → Nat
/-- Where the OP bytes of the fabric atomics that have no code in R174 begin among the bytes it does not use (DESIGN CHOICE, safe: assumption 27). -/
opaque opBase : Nat
/-- The part's identity key: the modulus and the private exponent (R473; DESIGN CHOICE, safe: assumption 4). -/
opaque idModulus : Nat
opaque idExponent : Nat
/-- A byte of the digest of the fuse contents, by the SVN floor blown into them (DESIGN CHOICE, safe: assumption 4). -/
opaque fuseByte : Nat → Nat → BitVec 8
/-- The byte of the boot ROM, flash or digests that the spec does not give (DESIGN CHOICE, safe: assumption 4). -/
opaque romByte : Nat → BitVec 8

end Sys2Proof.Config
end

