-- ==== Sys2Proof/Syntax.lean ====
section
/-!
DEFINITION. The instructions and events of the Daldom GX4: one constructor of Instr per row of
spec/opcode_table.json. Scalar instructions carry the fields of R58 to R61, lane instructions those of R63 to R65,
and the events of 95_what_each_step_holds.md carry what the outside party or the engine supplies.
-/
namespace Sys2Proof

/-- The number of a scalar register `s0`..`s63` (R58). -/
abbrev SReg := BitVec 6
/-- The number of a condition bit `c0`..`c7` (R41). -/
abbrev CReg := BitVec 3
/-- The number of a predicate `p0`..`p127` (R45). -/
abbrev PReg := BitVec 7

/-- The scope of an acquire, release or fence (R169). -/
inductive Scope where
  | team | clu | dev | fab | sys
deriving DecidableEq, Repr

/-- The size of a scalar or lane access (R61, R181). -/
inductive MSize where
  | byte | half | word | dword
deriving DecidableEq, Repr

/-- The kind of a fence (R175, R186). -/
inductive FenceKind where
  | acq | rel | ar
deriving DecidableEq, Repr

/-- The order field of VATOM (R185). -/
inductive MOrder where
  | rlx | acq | rel | ar
deriving DecidableEq, Repr

/-- The operations of VATOM (R185). -/
inductive AtomOp where
  | add | exch | cas | min | max | and | or | xor
deriving DecidableEq, Repr

/-- The type codes 0x0..0xE of R65, in the order of their codes. -/
inductive LType where
  | s32 | n32 | s64 | n64 | s16x2 | n16x2 | s8x4 | n8x4 | f32 | f64 | f16x2 | bf16x2 | l32 | l16x2 | b32
deriving DecidableEq, Repr

/-- The rounding modes of R16. -/
inductive Rnd where
  | rne | rtz | rdn | rup | rna
deriving DecidableEq, Repr

/-- A lane operand field, decoded by the table of R47. -/
inductive Opd where
  /-- `v0`..`v2047` -/
  | v (n : BitVec 11)
  /-- `s0`..`s63`, broadcast to every lane, or a scalar target -/
  | s (n : SReg)
  /-- queue port `q0`..`q15` -/
  | q (n : BitVec 4)
  /-- the constants 0x850..0x854 -/
  | zero | lane | width | group | team
deriving DecidableEq, Repr

/-- The switch marker and the guard of a lane instruction (R63). -/
structure LHdr where
  sw : Bool
  guard : PReg
  gneg : Bool
deriving DecidableEq, Repr

/-- A lane instruction in the general form of R64. `x` holds mod[12:0], whose meaning is the instruction's own;
an unused operand field is `.v 0`, encoding 0x000. -/
structure LOp where
  h : LHdr
  vd : Opd
  va : Opd
  vb : Opd
  vc : Opd
  ty : LType
  rnd : Rnd
  sat : Bool
  pd : PReg
  ftz : Bool
  x : BitVec 13
deriving DecidableEq, Repr

/-- A lane instruction in the immediate form of R65. -/
structure LImm where
  h : LHdr
  vd : Opd
  va : Opd
  imm : Word
  ty : LType
  sat : Bool
deriving DecidableEq, Repr

/-- VLD, VST and GRAD.ADD: the mod layout of R181. -/
structure LMem where
  h : LHdr
  vd : Opd
  va : Opd
  vb : Opd
  vc : Opd
  ty : LType
  fresh : Bool
  raw : Bool
  elem : Bool
  size : MSize
  form1 : Bool
deriving DecidableEq, Repr

/-- VATOM: the mod layout of R185. -/
structure LAtom where
  h : LHdr
  vd : Opd
  va : Opd
  vb : Opd
  vc : Opd
  ty : LType
  form1 : Bool
  op : AtomOp
  order : MOrder
  scope : Scope
deriving DecidableEq, Repr

/-- GLD and GST: the mod layout of R193. -/
structure LGrid where
  h : LHdr
  vd : Opd
  va : Opd
  vb : Opd
  vc : Opd
  ty : LType
  slot : BitVec 4
  k : SReg
deriving DecidableEq, Repr

/-- The matrix instructions: the mod layout of R224. -/
structure LMx where
  h : LHdr
  vd : Opd
  va : Opd
  vb : Opd
  vc : Opd
  af : BitVec 4
  bf : BitVec 4
  sat : Bool
  d : BitVec 4
  tag : BitVec 4
  pw : BitVec 8
deriving DecidableEq, Repr

/-- The operand fields of a rendering, adjoint or tape instruction (R238). -/
structure LRen where
  h : LHdr
  vd : Opd
  va : Opd
  vb : Opd
  vc : Opd
deriving DecidableEq, Repr

/-- Where the distributor takes a launch record from (R364, R367): hardware queue 64·d + n, or the graph-edge queue
whose header lies at a virtual address of an address space of a domain. -/
inductive LaunchSrc where
  | queue (idx : Nat)
  | edge (dom asn : Nat) (va : DWord)
deriving DecidableEq, Repr

/-- A fabric packet: the header beat of R449 and the data that follows it. -/
structure Packet where
  type : BitVec 8
  flags : BitVec 8
  src : BitVec 16
  dst : BitVec 16
  tag : BitVec 16
  len : Word
  pkey : BitVec 16
  op : BitVec 8
  status : BitVec 8
  addr : DWord
  aux : DWord
  aux2 : DWord
  /-- bytes 40..63 of the header beat are zero (R449) -/
  tailZero : Bool
  data : List Byte
deriving DecidableEq, Repr

/-- A firmware image in flash (R472): its bytes, header and body; or, where they are not known, what the boot ROM finds in it:
whether every check but that of the SVN holds, its SVN, and its ENTRY. -/
inductive FlashImage where
  | found (ok : Bool) (svn : Nat) (entry : DWord)
  | bytes (b : List Byte)
deriving DecidableEq, Repr

/-- What a cold or warm start meets outside the device: the outcome of each step of R468 that can fail; the primary and the fallback image,
`none` where the flash cannot be read; what the fuses hold; what the board has rewritten in flash since the last start; and what firmware
assigns through no register of the spec. -/
structure StartEnv where
  fusesOk : Bool
  romOk : Bool
  primary : Option FlashImage
  fallback : Option FlashImage
  /-- the digest of the signing key, and the fused repairs, as records of R465 (R468 step 1, R472) -/
  keyDigest : List Byte
  fused : List DWord
  pllOk : Bool
  failedStacks : List Nat
  bistOk : Bool
  zeroFillOk : Bool
  planesUp : List Nat
  /-- the package number, the domains' partition keys and the units' keys, by unit, and the domains with failover (R439, R448) -/
  pkg : Nat
  pkeys : BitVec 16 × BitVec 16
  unitKeys : List (Nat × BitVec 16)
  failover : List Nat
  /-- the two copies of the start counter and of the repair sector where the board has rewritten them; a counter copy is `none` where
  its CRC-32C is wrong (R465, R471) -/
  counterCopies : Option (List (Option Nat))
  sector : Option (List (List Byte))
deriving DecidableEq, Repr

/-- Where an error of main memory's data lies (R456, R461). -/
inductive ErrPlace where
  | l2 | granary | hbm
deriving DecidableEq, Repr

/-- What a check of R456 finds, or what strikes a word that it protects (R456, R462): an error of a memory word or a tag that a patrol
scrub, an access, an eviction or a write-back meets; an uncorrectable error that nothing has met yet; an error of a register, of SRAM, of a
channel message or of a tape share's word; a link's retries, and a mesh link at its retry limit. -/
inductive Finding where
  | clean
  | corrected (w : ErrPlace)
  | uncorrectable (w : ErrPlace)
  | tag (granary : Bool)
  | struck
  | scalarReg (gid reg : Nat) (fixed : Bool)
  | vectorReg (gid key : Nat) (fixed : Bool)
  | scratch (team off : Nat) (fixed : Bool)
  | pinned (fixed : Bool)
  | message (cluster ch prod cons i : Nat) (fixed : Bool)
  | tapeWord (gid word : Nat) (fixed : Bool)
  | retried (struct link : Nat)
  | meshLost (link : Nat)
deriving DecidableEq, Repr
/-- What SCRUB_PASS brings: a finding, and whether a patrol scrub made it. -/
structure ScrubFind where
  patrol : Bool
  what : Finding
deriving DecidableEq, Repr
/-- What PCIE_LINK_DOWN brings (R444): the port, how many of the newest messages on it were not acknowledged, and the tags of the requests that
were not. -/
structure LinkLoss where
  port : Nat
  unacked : Nat
  tags : List Nat
deriving DecidableEq, Repr

/-- One constructor per row of spec/opcode_table.json. -/
inductive Instr where
  -- Instructions with operands and the two illegal words; the code generator takes at most 245 such constructors, so
  -- these come first, then the instructions without operands, then the events.
  -- Scalar arithmetic and logic, R81
  | sadd (d a b : SReg) | ssub (d a b : SReg) | smul (d a b : SReg) | smulh (d a b : SReg) | smulhn (d a b : SReg)
  | sdiv (d a b : SReg) | sdivn (d a b : SReg) | srem (d a b : SReg) | sremn (d a b : SReg) | sand (d a b : SReg)
  | sor (d a b : SReg) | sxor (d a b : SReg) | sandn (d a b : SReg) | sshl (d a b : SReg) | sshr (d a b : SReg)
  | ssra (d a b : SReg) | smin (d a b : SReg) | smax (d a b : SReg) | sminn (d a b : SReg) | smaxn (d a b : SReg)
  | sclz (d a : SReg) | spopc (d a : SReg) | sbrev (d a : SReg) | ssow (d a b : SReg)
  -- immediates, R83, R85
  | saddi (d a : SReg) (imm : BitVec 14) | sandi (d a : SReg) (imm : BitVec 12) | sori (d a : SReg) (imm : BitVec 12)
  | sxori (d a : SReg) (imm : BitVec 12) | sshli (d a : SReg) (n : BitVec 6) | sshri (d a : SReg) (n : BitVec 6)
  | ssrai (d a : SReg) (n : BitVec 6) | slui (d : SReg) (imm : BitVec 20) | slhi (d : SReg) (imm : BitVec 20)
  -- compares and select, R86, R87
  | scmpEq (k : CReg) (a b : SReg) | scmpNe (k : CReg) (a b : SReg) | scmpLt (k : CReg) (a b : SReg)
  | scmpLe (k : CReg) (a b : SReg) | scmpLtn (k : CReg) (a b : SReg) | scmpLen (k : CReg) (a b : SReg)
  | scmpiEq (k : CReg) (a : SReg) (imm : BitVec 14) | scmpiNe (k : CReg) (a : SReg) (imm : BitVec 14)
  | scmpiLt (k : CReg) (a : SReg) (imm : BitVec 14) | scmpiLe (k : CReg) (a : SReg) (imm : BitVec 14)
  | scmpiLtn (k : CReg) (a : SReg) (imm : BitVec 14) | scmpiLen (k : CReg) (a : SReg) (imm : BitVec 14)
  | ssel (d a b : SReg) (k : CReg)
  -- scalar memory, R172 to R175
  | sld (d a : SReg) (size : MSize) (n : Bool) (off : BitVec 10) | sst (d a : SReg) (size : MSize) (off : BitVec 10)
  | sldAcq (d a : SReg) (scope : Scope) (size : MSize) | sstRel (a b : SReg) (scope : Scope) (size : MSize)
  | satomAdd (d a b : SReg) (scope : Scope) (size : MSize) | satomExch (d a b : SReg) (scope : Scope) (size : MSize)
  | satomCas (d a b : SReg) (scope : Scope) (size : MSize) | satomMin (d a b : SReg) (scope : Scope) (size : MSize)
  | satomMax (d a b : SReg) (scope : Scope) (size : MSize) | sfenceAcq (scope : Scope) | sfenceRel (scope : Scope)
  | sfenceAr (scope : Scope)
  -- control flow, lane runs, regions, R88 to R94
  | sbr (neg : Bool) (k : CReg) (off : BitVec 22) | scall (d : SReg) (off : BitVec 20) | sjr (d a : SReg)
  | run (idx : BitVec 20) | runr (k : SReg)
  -- system registers, R96, R97
  | sget (d : SReg) (num : BitVec 12) | sgetView (k : CReg) (num : BitVec 12) | sset (num : BitVec 12) (a : SReg)
  -- streams, R178
  | strmDef (k : BitVec 4) (a : SReg) | strmBind (j k : BitVec 4) | strmPos (d : SReg) (k : BitVec 4)
  | strmSeek (k : BitVec 4) (a : SReg) | strmClose (k : BitVec 4)
  -- copies, R195 to R200
  | cpTensTile (t l c p : SReg) | cpTensConv (t l c p : SReg) | cpTensGather (t l c p : SReg)
  | cpTry (k : CReg) (t : SReg) (imm : BitVec 14)
  -- barriers, watches, channels, R202 to R205
  | cluArrive (d : SReg) (b : BitVec 4) | cluWait (a : SReg) (b : BitVec 4) | arrSet (a b : SReg) | arrWait (a : SReg)
  | send (a : SReg) (ch : BitVec 5) | recv (d : SReg) (ch : BitVec 5) | sendTry (k : CReg) (a : SReg) (ch : BitVec 5)
  | recvTry (d : SReg) (k : CReg) (ch : BitVec 5)
  -- launch control, R209 to R212
  | launchQ (a b : SReg) | launchTry (k : CReg) (a b : SReg)
  -- system calls, breakpoints, instruction caches, R98 to R101, R213
  | syscall (d a b : SReg) | brk (code : BitVec 6)
  -- fabric, grids, tape, gradients, collectives, replay
  | xfer (d a : SReg) | gridBind (g : BitVec 4) (a : SReg) | gridPub (g : BitVec 4) (a : SReg)
  | gridStat (d : SReg) (g : BitVec 4) | tapeOpen (a : SReg) | tapeMark (a : SReg) | tapeStat (d : SReg)
  | gradSeal (d a b : SReg) | collAr (d a : SReg) | collAg (d a : SReg) | collRs (d a : SReg) | collBc (d a : SReg)
  | replayRec (a b : SReg) | replayPlay (a b : SReg) | replayChk (d : SReg)
  -- privileged, R104 to R109
  | tlbinvPage (a b : SReg) | tlbinvSpace (b : SReg) | tlbinvDom (b : SReg) | ctxSave (d a b : SReg)
  | ctxLoad (d a b : SReg) | domSet (d a b : SReg) | wdt (a : SReg)
  -- lane integer, R112 to R123
  | vnop (o : LOp) | vmov (o : LOp) | vmovi (i : LImm) | vadd (o : LOp) | vsub (o : LOp) | vaddc (o : LOp)
  | vsubb (o : LOp) | vmul (o : LOp) | vmulh (o : LOp) | vmad (o : LOp) | vmadw (o : LOp) | vdiv (o : LOp)
  | vrem (o : LOp) | vmin (o : LOp) | vmax (o : LOp) | vabs (o : LOp) | vneg (o : LOp) | vand (o : LOp)
  | vor (o : LOp) | vxor (o : LOp) | vandn (o : LOp) | vnot (o : LOp) | vlop3 (o : LOp) | vshl (o : LOp)
  | vshr (o : LOp) | vsar (o : LOp) | vrot (o : LOp) | vfshl (o : LOp) | vclz (o : LOp) | vpopc (o : LOp)
  | vbrev (o : LOp) | vbfx (o : LOp) | vbfi (o : LOp) | vpermb (o : LOp) | vaddi (i : LImm) | vmuli (i : LImm)
  | vandi (i : LImm) | vori (i : LImm) | vxori (i : LImm) | vshfi (i : LImm) | vsad (o : LOp) | vdot4 (o : LOp)
  -- predicates and cross-lane, R124 to R139
  | vcmp (o : LOp) | vcmpi (i : LImm) | vfcmp (o : LOp) | vsel (o : LOp) | vclass (o : LOp) | plog (o : LOp)
  | psetRange (o : LOp) | psetMask (o : LOp) | p2v (o : LOp) | v2p (o : LOp) | vshfl (o : LOp) | vlogstep (o : LOp)
  | vreduce (o : LOp) | vscan (o : LOp) | vballot (o : LOp) | vtopk (o : LOp)
  -- loops and the execution mask, R140 to R144
  | loopImm (cnt : BitVec 20) (n : BitVec 8) | loopReg (va : Opd) (n : BitVec 8)
  | loopw (pa : PReg) (cap : BitVec 14) (n : BitVec 8) | emsetAnd (o : LOp) | emsetAndn (o : LOp) | emsetOr (o : LOp)
  | emsetSet (o : LOp) | emsetSetHi (o : LOp)
  -- lane float, R147 to R154
  | vfadd (o : LOp) | vfsub (o : LOp) | vfmul (o : LOp) | vfma (o : LOp) | vfmin (o : LOp) | vfmax (o : LOp)
  | vfdiv (o : LOp) | vfsqrt (o : LOp) | vfrcp (o : LOp) | vfrsq (o : LOp) | vfexp2 (o : LOp) | vflog2 (o : LOp)
  | vfsin (o : LOp) | vfcos (o : LOp) | vftanh (o : LOp) | vffrc (o : LOp) | vfrnd (o : LOp) | vfscale (o : LOp)
  | vfdot2 (o : LOp)
  -- conversions and q4, R155 to R159
  | vcvt (o : LOp) | vpack (o : LOp) | vunpack (o : LOp) | vq4encSuper (o : LOp) | vq4encScale (o : LOp)
  | vq4encCode (o : LOp) | vq4dec (o : LOp)
  -- level-index, R160 to R164
  | ladd (o : LOp) | lsub (o : LOp) | lmul (o : LOp) | ldiv (o : LOp) | lcmp (o : LOp) | lcvt (o : LOp)
  | lrcp (o : LOp) | lneg (o : LOp)
  -- the status word and the counter generator, R165 to R167
  | vstatGet (o : LOp) | vstatSet (o : LOp) | vstatClr (o : LOp) | vsow (o : LOp) | vunit (o : LOp)
  -- lane memory, R183 to R187, R193
  | vld (m : LMem) | vst (m : LMem) | vatom (m : LAtom) | gradAdd (m : LMem) | gld (m : LGrid) | gst (m : LGrid)
  | vfence (h : LHdr) (kind : FenceKind) (scope : Scope)
  -- matrix, R228 to R234
  | mxLdb (m : LMx) | mxMma (m : LMx) | mxMma16 (m : LMx) | mxPairW (m : LMx) | mxPairE (m : LMx) | mxZero (m : LMx)
  -- rendering, adjoint and tape, R238
  | trace (r : LRen) (any cullb : Bool) | hitAdj (r : LRen) | tex (r : LRen) | texAdj (r : LRen)
  | vbRd (r : LRen) (fresh : Bool) (k : SReg) | bary (r : LRen) (lin : Bool) | baryAdj (r : LRen) (lin : Bool)
  | edgeSamp (r : LRen) (k : SReg) (n1 : BitVec 8) | discard (r : LRen) | park (r : LRen) (code : BitVec 8)
  | rejoin (r : LRen) | vdepth (r : LRen) (pd : PReg) | tapePush (r : LRen) (n1 : BitVec 3)
  | tapePop (r : LRen) (n1 : BitVec 3)
  -- words that are not instructions
  | illegalOpcode (w : Word) | illegalLaneOpcode (w : LaneWord)
  -- instructions without operands
  | syncL | region | barTeam | trigger | exit | yield | icinvTeam | icinvClu | icinvDev | icinvFab | icinvSys
  | tapeClose | replayOff | eret | tlbinvAll | endl | vret
  -- system registers, R96, R97 (events and members without a word of their own)
  | perfctlClear (v : DWord)
  -- copies, R195 to R200 (events and members without a word of their own)
  | cpTryTimeout (gid : Nat)
  -- fabric, grids, tape, gradients, collectives, replay (events and members without a word of their own)
  | tapeMarkRet (a : SReg)
  -- lane memory, R183 to R187, R193 (events and members without a word of their own)
  | thresherContribution (pa : Nat) (val : Word)
  -- matrix, R228 to R234 (events and members without a word of their own)
  | pairTimeout (gid : Nat)
  -- events of engines and of a group's service, 95
  | recompute (gid : Nat) | streamPrefetch (gid port : Nat) | storeEngineWrite (gid port : Nat)
  | copyComplete (job : Nat) | xferComplete (job : Nat) | collComplete (job : Nat) | headlandDelivery (n : Nat)
  | staleHaloTimeout (gid : Nat) | syscallReply (gid : Nat) | laneResume (core seq : Nat)
  | faultDisposition (dom seq : Nat) | fpTrapCollect (core : Nat)
  -- launches, placement, pre-emption
  | launchPush (queue : Nat) (offset : Nat) (bytes : List Byte) | launchTake (src : LaunchSrc)
  | gangPlace (launch : Nat) (die x y : Nat) (quads : List Nat) | gangCommit (launch : Nat) | teamReady (team : Nat)
  | launchComplete (launch : Nat) | yieldRequest (cluster : Nat) (req : Bool) (deadline : Word) (areas : List (Nat × Nat))
  | deadlineExpiry (cluster : Nat) (areas : List (Nat × Nat))
  | forcedPreemption (cluster : Nat) (areas : List (Nat × Nat)) | saveComplete (area : Nat)
  | contextRestore (area core : Nat) | ticketPass (launch : Nat) | stileTimeout (gid : Nat) | gleanerSample
  -- the visibility pass
  | visibilityPass (launch : Nat) | passComplete (launch : Nat) | passFault (launch : Nat)
  -- fabric
  | peerTimeout (gid : Nat) | fabricRead (p : Packet) | fabricWrite (p : Packet) | fabricAtomic (p : Packet)
  | fabricVectorRead (p : Packet) | fabricVectorWrite (p : Packet) | fabricXferData (p : Packet)
  | fabricCollSegment (p : Packet) | fabricHeadlandPacket (p : Packet) | fabricResponse (p : Packet)
  | fabricBadPacket (p : Packet) | rateRecovery (pkg : Nat) | fabricPlaneDown (plane : Nat)
  | meshNarrow (link : Nat) (quarter : Bool) | meshWiden (link : Nat)
  -- host
  | pcieLinkDown (loss : LinkLoss) | hostBar2Access (dom : Nat) (off : Nat) (write : Option (List Byte)) (len : Nat)
  | hostRegisterWrite (dom : Nat) (off : Nat) (v : DWord) | attestCmd (dom : Nat) (v : DWord) | attestDone (dom : Nat)
  -- privileged registers with a behaviour of their own
  | privRegisterWrite (num : BitVec 12) (v : DWord) | qfcfgWrite (v : DWord) | qfbaseWrite (v : DWord)
  | pinsizeWrite (v : DWord) | l2pqWrite (die : BitVec 2) (v : DWord) | quotaWrite (num : BitVec 3) (v : DWord)
  | dcfgWrite (dom : BitVec 1) (v : DWord) | ssctlWrite (v : DWord) | fabctlWrite (v : DWord)
  | svnfloorWrite (v : DWord) | warmrst (env : StartEnv) | ready | policyInterrupt
  | watchdogExpiry (core : BitVec 2) (env : StartEnv) | coldStart (env : StartEnv)
  | perst (port : Nat) (env : StartEnv)
  -- integrity and power
  | scrubPass (pa : Nat) (find : ScrubFind) | rowSpare (stack channel : Nat) (row : Option Nat)
  | wayDisable (die slice way : Nat) (granary : Bool) | powerCapThrottle | thermalThrottle | thermalTrip
  -- words that are not instructions (events and members without a word of their own)
  | gradSealComplete (job : Nat) | powerLoss | pcieLinkUp (port : Nat)
  | pcieCompletion (tag : Nat) (ok : Bool) (data : List Byte) | issuePromotion (gid : Nat) (lane : Bool)
  | throttleRelease
deriving DecidableEq, Repr

end Sys2Proof
end

