-- ==== Sys2Proof/Machine/State.lean ====
section
/-!
DEFINITION. The state of the Daldom GX4 as plain data: the group in focus and the other resident groups, their teams,
clusters and launches, the cores, the host domains, the policy cores and their privileged registers, the engines'
pending work, memory, and the data that says who moves next. The reasons a step can stop stand here too.
-/
namespace Sys2Proof.Machine

/-- A sparse map: keys rising, no entry equal to the map's default; an unlisted key reads as the default. -/
abbrev SMap (α : Type) := List (Nat × α)

/-- Memory: one canonical list of cells keyed by physical address, and by `scratchKey` for core SRAM of a team;
an unlisted byte reads as zero (R290, R468 step 8). -/
abbrev Memory := List Host.Cell

/-! ### Traps and waits -/

/-- The trap codes of R394. -/
inductive TrapCode where
  | illegalOpcode | reservedField | hazard | illegalConvergence | privilege | misaligned | pageNotPresent
  | protection | format | bounds | staleHalo | copyBounds | queueUnbound | pairTimeout | tapeExhausted | tapeCrc
  | channelUndeclared | recompute | fpTrap | syscall | brk | replayDiverge | uncorrectableData
deriving DecidableEq, Repr

/-- The kinds of a trap (R394, R400). -/
inductive TrapKind where
  | precise | restart | collected
deriving DecidableEq, Repr

/-- A trap as its report gives it (R400). `lane = none` is the LANE value 0xFF. -/
structure Trap where
  code : TrapCode
  kind : TrapKind := .precise
  sub : Nat := 0
  addr : DWord := 0
  lane : Option Nat := none
  mask : Word := 0
  flags : BitVec 16 := 0
  others : Nat := 0
  /-- STALE_HALO: the grid slot, the tag, the coordinates of the lowest stale lane, and RCVSTEP (R301), for which the record of R400 has
  no bytes -/
  halo : Option (Nat × Nat × List Int × Nat) := none
  /-- the fault of a fetch (STREAM 2 or 3) -/
  fetch : Bool := false
  /-- the lane index of a collected trap's instruction -/
  pcAt : Option Nat := none
  /-- the place and the home of the data that the access needs and that hold an uncorrectable error: the error record is still to be written
  (R458, R461) -/
  errAt : Option (Nat × Nat) := none
deriving DecidableEq, Repr

/-- Why a stream of a group waits without having performed its instruction (R375, R422). -/
inductive Stall where
  | drain | runQueueFull | scoreboard | cpTry | barrier | cluWait | arrWait | chanFull | chanEmpty | launchFull
  | queueEmpty | queueFull | staleHalo | pairWait | rejoin | staging | stile | replayFold | pcie | peer | fabricRate
  | syscallFull | syscallDone | recomputeHold | exitWait | gridPub | faultQueueFull | pushWait | recall
deriving DecidableEq, Repr

/-- Why the machine stops with a fault. -/
inductive Fault where
  /-- A policy core fetches code that nothing has loaded: the boot ROM's and the firmware's contents are not in the
  spec (R468, R472). Raised by `step` alone; safe. -/
  | noFirmware
deriving DecidableEq, Repr

/-- Why a step refuses. -/
inductive Refusal where
  /-- The instruction has no meaning yet. Raised by an arm of `exec` alone; safe. -/
  | notModelled (mnemonic : String)
deriving DecidableEq, Repr

/-! ### A group -/

/-- The scalar context of a group's scalar stream or of a policy core (R41, R102): the PC, `s1`..`s63` (unlisted
registers read zero), `c7`..`c0`, and the registers that await a pending write (TOKMASK of R377). -/
structure SCtx where
  pc : DWord := 0
  sreg : SMap DWord := []
  cond : BitVec 8 := 1
  tok : BitVec 64 := 0
  /-- the registers that hold an uncorrectable error (R56, R458) -/
  bad : BitVec 64 := 0
deriving DecidableEq, Repr

/-- An open loop frame (R141). -/
structure Frame where
  start : Nat
  stop : Nat
  isW : Bool
  pa : PReg
deriving DecidableEq, Repr

/-- A lane run: its next lane index, the scalar registers as they stood at its RUN (R42, R91), the registers among them whose pending
write is still to come (R92), and the run's number in the order of the group's RUN instructions (R417). -/
structure Run where
  lpc : Nat
  snap : SMap DWord
  wait : BitVec 64 := 0
  num : Nat := 0
  /-- the registers that held an uncorrectable error at its RUN (R458) -/
  bad : BitVec 64 := 0
deriving DecidableEq, Repr

/-- One element of a queue port's vector: a fetched word, or a fault held until the pop (R179). -/
inductive QElem where
  | val (w : Word)
  | held (t : Trap)
deriving DecidableEq, Repr

/-- A location an address reaches: its key in memory, and its page's attributes (R284). -/
structure Loc where
  key : Nat
  home : Nat := 1
  pfd : Nat := 0
  g : Bool := false
  d : Bool := false
  h : Bool := false
deriving DecidableEq, Repr

/-- One element pushed to a store port: its location, already translated (R179), its word, its address. -/
structure QStore where
  loc : Loc
  w : Word
  va : DWord := 0
deriving DecidableEq, Repr

/-- One vector pushed to a store port and not yet written: the port, and its elements in lane order (R179). -/
structure PushVec where
  port : Nat
  elems : List QStore
deriving DecidableEq, Repr

/-- A stream descriptor and its queue (R176 to R180). -/
structure Stream where
  defined : Bool := false
  base : DWord := 0
  store : Bool := false
  esz : Bool := false
  fresh : Bool := false
  ndim : Nat := 1
  counts : List Nat := []
  strides : List Int := []
  pos : Nat := 0
  port : Option Nat := none
  loadQ : List (List QElem) := []
deriving DecidableEq, Repr

/-- A grid slot's binding: the descriptor's address, and the group's partition plus one; 0: unbound (R190, R296). -/
structure GridSlot where
  desc : DWord
  part : Nat
deriving DecidableEq, Repr

/-- An entry of the spill stack: a span that was spilled whole or dropped (R265). -/
structure TapeEntry where
  span : Nat
  dropped : Bool
deriving DecidableEq, Repr

/-- A recompute segment: its start word, checkpoint id, whether it is still open (R266), and the first word after
its last span. -/
structure TapeSeg where
  start : Nat
  id : Word
  isOpen : Bool
  stop : Nat
  /-- the top record when the segment began -/
  prev : Option Nat
deriving DecidableEq, Repr

/-- Membership of a replay session (R412, R417). -/
structure Replay where
  sess : DWord
  play : Bool
  pid : Nat
  g : Word
  idx : Nat
  /-- words that are not folded yet, in hash order: their place in it (2·n for the scalar stream after n runs, 2·n + 1 for run n), their
  data, their address -/
  pend : List (Nat × Word × Word)
deriving DecidableEq, Repr

/-- A pending result of the hazard rule: consecutive vector registers, a predicate (0: none), the positions from its producer
within which a reader is a hazard (0 for a variable-latency producer), whether its producer is a matrix instruction, and whether it is a GLD or a TAPE.POP,
whose results a save does not wait for (R70, R377, R379). -/
structure Pending where
  first : Nat
  count : Nat
  pred : Nat
  dist : Nat
  mx : Bool := false
  late : Bool := false
deriving DecidableEq, Repr

/-- The hazard state of a group (R72): fixed-latency results oldest first, and variable-latency destinations. -/
structure Hazard where
  fixed : List Pending := []
  var : List Pending := []
deriving DecidableEq, Repr

/-- The lane stream of a group: the active run, the queued runs, the open loop frames and counters (R91, R141). -/
structure LaneCtx where
  active : Option Run := none
  queue : List Run := []
  /-- runs enqueued so far -/
  count : Nat := 0
  frames : List Frame := []
  lc : SMap Word := []
  /-- lane instructions of the loop buffer by lane index, taken when the outermost loop opened (R280) -/
  loopBuf : List (Nat × LaneWord) := []
deriving DecidableEq, Repr

/-- The tape of a group (R262 to R270). Data words are numbered from `TAPE.OPEN`; span n holds words 30n..30n+29. -/
structure Tape where
  opened : Bool := false
  spill : DWord := 0
  spillSz : Nat := 0
  handler : DWord := 0
  /-- the next data word to write -/
  wpos : Nat := 0
  /-- first word of the top record -/
  top : Option Nat := none
  /-- data words of the resident spans, and the CRC words of those that are closed -/
  words : SMap Word := []
  crcs : SMap Word := []
  /-- headers of the resident spans: [31] CONT, [30] RECOMP, [29:0] sequence number -/
  hdrs : SMap Word := []
  /-- data words that hold an uncorrectable error (R456) -/
  bad : List Nat := []
  /-- lowest resident span -/
  resLo : Nat := 0
  /-- the spill stack, top first -/
  stack : List TapeEntry := []
  segs : List TapeSeg := []
  /-- the class of the spans now begun -/
  cls1 : Bool := false
  /-- the next record is the first after a mark of class 0 or 1 -/
  marked : Bool := false
  crcErr : Bool := false
  exh : Bool := false
  recomp : Bool := false
  /-- a pop is held by the recompute event (R268) -/
  held : Bool := false
  /-- the lane stream held with it -/
  heldLane : LaneCtx := {}
  savedS1 : DWord := 0
  savedPc : DWord := 0
deriving DecidableEq, Repr

/-- A region entry: the group's resume point (R94, R396). -/
structure RegionEntry where
  pc : DWord := 0
  regcnt : DWord := 0
  lane : LaneCtx := {}
  streams : SMap Stream := []
  tape : Tape := {}
  /-- the replay session, with G and the words still pending (R95, R417) -/
  replay : Option Replay := none
deriving DecidableEq, Repr

/-- What kind of program a group runs (R255, R256, R327). -/
inductive Prog where
  | kernel
  | resolve
  | coverage (launch : Nat) (noDiscard : Bool)
deriving DecidableEq, Repr

/-- A group's progress. -/
inductive Phase where
  /-- placed, zero-fill or commit outstanding (R371) -/
  | placed
  | running
  /-- stopped on a fault, awaiting the disposition of record `seq` of its domain's group fault queue; `none` while the
  queue is full (R395, R399) -/
  | stopped (seq : Option Nat) (t : Trap) (lane : Bool)
  /-- suspended by SYSCALL until DONE in slot number `seq` (R99, R100) -/
  | suspended (seq : Nat) (d : SReg) (rep : Bool) (vrep : Nat) (em : Word)
  /-- a fault has been found and the other stream's instruction in flight completes first (R375, R395) -/
  | stopping (t : Trap) (lane : Bool)
deriving DecidableEq, Repr

/-- A group's part in its gang's leaving the cores (R374, R375). -/
inductive Leave where
  | stay
  /-- its YIELD has issued and drains -/
  | yielding
  /-- its YIELD has made a light save -/
  | light
  /-- a forced save has been ordered; what is in flight completes first -/
  | forcing
  /-- it has stopped and is to be saved as a forced pre-emption saves it -/
  | forced
deriving DecidableEq, Repr

/-- The instruction that parks a lane, as its resumption needs it (R258). -/
inductive ParkOp where
  | trace (r : LRen) (any cullb : Bool)
  | hitAdj (r : LRen)
  | tex (r : LRen)
  | texAdj (r : LRen)
  | vbRd (r : LRen)
  | edgeSamp (r : LRen) (n1 : BitVec 8)
  | park
  | discard
deriving DecidableEq, Repr

/-- The samples that an EDGE.SAMP has read, each its id, its depth and whether it lies outside the buffer; `none`: the read could not be
made (R258). -/
abbrev SampleReads := List (Option (Nat × Word × Bool))

/-- A parked lane's outstanding record in the core's fault queue (R258): the instruction that DISP 1 re-executes for the lane, the
operands and the descriptor it has read. -/
structure ParkRec where
  lane : Nat
  core : Nat
  seq : Nat
  op : ParkOp
  lpc : Nat
  opds : DWord × DWord × DWord
  desc : List Byte
  reads : SampleReads
  regcnt : DWord
deriving DecidableEq, Repr

/-- One group: everything chapter 02 gives it (R40 to R56), its streams, its tape and its hazard state. -/
structure Group where
  gid : Nat := 0
  team : Nat := 0
  gidx : Nat := 0
  slot : Nat := 0
  live : Bool := false
  phase : Phase := .placed
  /-- the system call that a group awaits while FP_TRAP has stopped it (R398) -/
  call : Option Phase := none
  prog : Prog := .kernel
  sc : SCtx := {}
  lane : LaneCtx := {}
  /-- vector register k, lane l at key 32·k + l (R44) -/
  vreg : SMap Word := []
  /-- the words of vector registers that hold an uncorrectable error, by key (R56, R458) -/
  badV : List Nat := []
  /-- predicate k as a mask of lanes (R45); `p0` is not stored -/
  preds : SMap Word := []
  em : Word := BitVec.allOnes 32
  parkMask : Word := 0
  killMask : Word := 0
  /-- the parked lanes whose parking instruction has issued since the region entry: a restart discards their runs (R261) -/
  parkNew : Word := 0
  parked : List ParkRec := []
  /-- LSTAT of each lane (R20) -/
  lstat : SMap Word := []
  haz : Hazard := {}
  streams : SMap Stream := []
  /-- vectors pushed to the group's store ports that the store engine has still to write, in push order (R179, R312) -/
  pushes : List PushVec := []
  grids : SMap GridSlot := []
  tape : Tape := {}
  replay : Option Replay := none
  /-- G as REPLAY.OFF has frozen it (R214, R377) -/
  frozen : Word := 0
  region : RegionEntry := {}
  regcnt : DWord := 0
  fpte : DWord := 0
  lastTrap : BitVec 8 := 0
  det : Bool := false
  copyTrap : Bool := false
  haloWait : DWord := 0x10000
  laneSel : DWord := 0
  perfctl : DWord := 0
  pcnt0 : DWord := 0
  pcnt1 : DWord := 0
  yieldReq : Bool := false
  deadline : Word := 0
  winsz : Nat := 64
  predsz : Nat := 16
  scb : DWord := 0
  lcb : DWord := 0
  triggered : Bool := false
  /-- the generation of the team barrier the group has joined (R202) -/
  barJoined : Option Nat := none
  /-- CP.TRY has begun its wait, and its timeout has come (R200) -/
  tryWait : Bool := false
  tryOver : Bool := false
  /-- the stalled GLD or GST has passed HALOWAIT (R301) -/
  haloOver : Bool := false
  /-- the held request has passed STILEWAIT (R416) -/
  stileOver : Bool := false
  /-- the grants that the held instruction of each stream already has: its place, and the lines (R414, R416) -/
  grantS : Option (Nat × List Nat) := none
  grantL : Option (Nat × List Nat) := none
  sStall : Option Stall := none
  lStall : Option Stall := none
  promoS : Bool := false
  promoL : Bool := false
  /-- consecutive ck for which each stream has been ready without issuing (R373, R432) -/
  ageS : Nat := 0
  ageL : Nat := 0
  /-- the ck that each stream's next instruction still waits for its fetch, a marker, a pipe or a result, and that wait's reason code
  (R422); `none`: not yet known -/
  restS : Option (Nat × Nat) := none
  restL : Option (Nat × Nat) := none
  leave : Leave := .stay
  /-- a fence release at `.sys` stands before each stream's further stores (R305) -/
  relS : Bool := false
  relL : Bool := false
  /-- a fault that the group owes: it is taken at the group's next issue slot (R395, R398, R441) -/
  owed : Option Trap := none
deriving DecidableEq, Repr

/-! ### Teams, clusters, launches -/

/-- A staged access of deterministic mode: location and its home, size in bytes, data, virtual address (R404), the replay session's
descriptor and the PID of the storing group (R414), that group, and whether the Stile's limit has released it (R416). -/
structure Staged where
  pa : Nat
  home : Nat
  size : Nat
  data : DWord
  va : DWord := 0
  sess : Option (DWord × Bool × Nat) := none
  gid : Nat := 0
  released : Bool := false
deriving DecidableEq, Repr

/-- A resident or saved team (R271 to R275). -/
structure Team where
  tid : Nat := 0
  launch : Nat := 0
  cluster : Nat := 0
  k : Nat := 0
  core : Nat := 0
  q0 : Nat := 0
  teamlin : Nat := 0
  tx : Nat := 0
  ty : Nat := 0
  tz : Nat := 0
  ngroups : Nat := 1
  scrsz : Nat := 0
  tapesz : Nat := 0
  exited : List Nat := []
  barArrived : List Nat := []
  barGen : Nat := 0
  /-- arrival watches: address, target (R204) -/
  watches : List (DWord × DWord) := []
  staged : List Staged := []
  /-- the die where the team was first placed: its L2 holds the staging store (R404) -/
  stageDie : Nat := 0
  /-- every staged entry performed and every group exited (R405) -/
  released : Bool := false
  committed : Bool := false
  filled : Bool := false
  resident : Bool := true
deriving DecidableEq, Repr

/-- A channel instance (R281). -/
structure Chan where
  ch : Nat
  prod : Nat
  cons : Nat
  depth : Nat
  msgs : List DWord
  /-- the messages that hold an uncorrectable error, by place from the head (R456) -/
  bad : List Nat := []
  /-- groups whose RECV waits, the earliest first -/
  waits : List Nat := []
deriving DecidableEq, Repr

/-- A cluster of teams (R273, R203). -/
structure Cluster where
  cid : Nat := 0
  launch : Nat := 0
  w : Nat := 1
  h : Nat := 1
  die : Nat := 0
  x0 : Nat := 0
  y0 : Nat := 0
  /-- phase counter of barrier b -/
  phase : SMap Word := []
  /-- groups that have arrived in the current phase of barrier b -/
  arrived : SMap (List Nat) := []
  chans : List Chan := []
  /-- the save areas firmware has chosen for a yield, by k (R376) -/
  areas : List (Nat × Nat) := []
deriving DecidableEq, Repr

/-- A launch record (R361). -/
structure LaunchRec where
  scb : DWord := 0
  lcb : DWord := 0
  gx : Nat := 1
  gy : Nat := 1
  gz : Nat := 1
  regs : Nat := 64
  preds : Nat := 16
  team : Nat := 1
  cw : Nat := 1
  ch : Nat := 1
  pass : Bool := false
  det : Bool := false
  after : Bool := false
  scratch : Nat := 0
  tape : Nat := 0
  /-- the channel table as read when the record was taken -/
  chans : List Chan := []
  args : List DWord := [0, 0, 0, 0]
  compl : DWord := 0
  cval : DWord := 0
deriving DecidableEq, Repr

/-- A fragment of the visibility pass that awaits its verdict (R327). -/
structure Frag where
  id : Nat
  x : Nat
  y : Nat
  prim : Nat
  mask : Nat
  /-- depth of each covered sample, by sample -/
  zs : SMap Word
  /-- b1 and b2 at the first covered sample, and the depth its record held when the fragment was tested -/
  b1 : Word
  b2 : Word
  old : Word
  /-- its coverage group and lane once it has them, its replaced depth, whether VDEPTH discarded it, and its verdict (R255, R256) -/
  gid : Option Nat := none
  lane : Nat := 0
  newZ : Option Word := none
  dropped : Bool := false
  verdict : Option Bool := none
deriving DecidableEq, Repr

/-- The progress of a visibility pass (R319 to R331). -/
structure Pass where
  started : Bool := false
  /-- the pass descriptor and the visibility buffer descriptor as read at the start -/
  desc : List Byte := []
  vbd : List Byte := []
  /-- the number that the pass's own reads of the host and peer windows carry -/
  rid : Nat := 0
  prim : Nat := 0
  /-- the units of BINBUF that hold primitive `prim`, once it has been copied there (R325) -/
  bins : Option (List DWord) := none
  flushes : Nat := 0
  /-- the fragments that await their verdict or a coverage group, in order (R328) -/
  held : List Frag := []
  nextFrag : Nat := 0
  cullW : Nat := 0
  cullArea : Nat := 0
  cullFace : Nat := 0
  frags : Nat := 0
  discards : Nat := 0
  code : Nat := 0
  done : Bool := false
  /-- the pass waits for the disposition of its fault record (R332) -/
  faulted : Option Nat := none
deriving DecidableEq, Repr

/-- An active launch (R361 to R369). -/
structure Launch where
  num : Nat := 0
  dom : Nat := 0
  asn : Nat := 0
  prio : Nat := 0
  cls : Nat := 0
  src : LaunchSrc := .queue 0
  /-- CLOCK at which its record became eligible (R370) -/
  since : Nat := 0
  rcd : LaunchRec := {}
  /-- gangs whose placement has begun -/
  gangs : Nat := 0
  exits : Nat := 0
  triggers : Nat := 0
  aborted : Bool := false
  /-- TEAMLIN that holds the ticket (R405) -/
  ticket : Nat := 0
  /-- the launch whose group pushed it (R368) -/
  parent : Option Nat := none
  /-- firmware has been told that no core fits the ticket holder's gang (R408) -/
  told : Bool := false
  pass : Pass := {}
deriving DecidableEq, Repr

/-- A hardware launch queue (R364 to R366). -/
structure LaunchQueue where
  owner : Nat := 15
  en : Bool := false
  stop : Bool := false
  log2 : Nat := 0
  prio : Nat := 0
  cls : Nat := 0
  asn : Nat := 0
  base : Nat := 0
  free : Nat := 0
  dropped : Nat := 0
  malf : Bool := false
  ovf : Bool := false
  head : Nat := 0
  tail : Nat := 0
  /-- the last launch taken from the queue, for AFTER (R365) -/
  last : Option Nat := none
deriving DecidableEq, Repr

/-! ### Cores -/

/-- An exact real, an infinity, a NaN or a signed zero: m·2^e with m ≠ 0 in `fin` (R222, R226). -/
inductive XVal where
  | nan
  | inf (neg : Bool)
  | zero (neg : Bool)
  | fin (m : Int) (e : Int)
deriving DecidableEq, Repr

/-- A tile of the B store (R215, R216): its designator, element width and kind, owner team, and the value of element
(k, c) at key 128·k + c, with its scale applied (R222); unlisted elements are +0. -/
structure Tile where
  d : Nat
  width : Nat
  kind : Nat
  owner : Nat
  vals : SMap XVal
deriving DecidableEq, Repr

/-- The FP_TRAP collection window of a core (R398): the candidates in issue order, with their lanes and flags. -/
structure FpCand where
  gid : Nat
  slot : Nat
  lane : Nat
  mask : Word
  flags : Word
  lpc : Nat
  /-- CLOCK of its ck -/
  ck : Nat := 0
deriving DecidableEq, Repr

/-- An outstanding record of a core's lane fault queue (R258, R399). -/
structure LfRec where
  seq : Nat
  gid : Nat
  lane : Nat
deriving DecidableEq, Repr

/-- A waiting side of MX.PAIR, or a failure mark for the side that is still to take it (R232, R233): the pair's west core, the
side, the tag, the group that waits or left the mark, and the instruction. -/
structure PairWait where
  core : Nat
  west : Bool
  tag : Nat
  gid : Nat
  m : LMx
deriving DecidableEq, Repr

/-- One core (R1, R108, R215, R258, R286, R398, R421). -/
structure Core where
  owner : Nat := 15
  pin : Nat := 0
  tiles : List Tile := []
  /-- the width of the most recent accepted MX.LDB of designator D (R219) -/
  lastWidth : SMap Nat := []
  lfSeq : Nat := 0
  lfLive : List LfRec := []
  sampSlot : Nat := 0
  fpWin : List FpCand := []
  /-- bytes of held scratch partitions, and the remap table: up to 16 saved groups to which an engine still delivers, each with its area
  (R379) -/
  held : Nat := 0
  remap : List (Nat × Nat) := []
  /-- where the affine address engine's round over (slot, port) stands: 16·slot + port (R278) -/
  strmTurn : Nat := 0
deriving DecidableEq, Repr

/-! ### Package -/

/-- A policy core (R102, R103, R109). -/
structure PolicyCore where
  sc : SCtx := {}
  epc : DWord := 0
  ecause : DWord := 0
  ie : Bool := false
  pie : Bool := false
  evec : DWord := 0
  /-- the running watchdog's timeout in µs -/
  wdt : Option Word := none
  halted : Bool := false
  /-- what a group's stream has beside its registers, as the scalar instruction set leaves it here (R102): stream descriptors, grid
  slots, tape, replay membership -/
  ctx : Group := {}
deriving DecidableEq, Repr

/-- The privileged registers of the package (R467), each under its name. -/
structure Priv where
  memtop : DWord := 0xC000000000
  ssctl : DWord := 0
  ssbase : DWord := 0
  sssize : DWord := 0
  sswptr : DWord := 0
  ssrptr : DWord := 0
  ssdrop : DWord := 0
  /-- L2Q0..L2Q3 and GRQ0..GRQ3 (R446): [12:8] MAX, [4:0] MIN -/
  l2q : SMap DWord := []
  grq : SMap DWord := []
  fabctl : DWord := 1
  meshctl : DWord := 0
  errbase : DWord := 0
  errsize : DWord := 0x1000
  errwptr : DWord := 0
  errrptr : DWord := 0
  errdrop : DWord := 0
  scrubctl : DWord := 0x1003C0018
  repairstat : DWord := 0
  irqpend : DWord := 0
  pwrcap : DWord := 2400
  svnfloor : DWord := 0
  wdstat : DWord := 0
  qsel : DWord := 0
  pinsel : DWord := 0
  /-- HOME 2 quota of die d in units of 2 MiB (R475) -/
  l2pq : SMap Nat := []
deriving DecidableEq, Repr

/-- A write to flash that is under way (R465, R471): of a copy of the start counter, or of the repair sector. -/
inductive FlashWrite where
  | counter (i v : Nat)
  | sector (i gen : Nat) (recs : List DWord)
deriving DecidableEq, Repr

/-- The start registers and what flash keeps (R465, R470, R471). -/
structure Start where
  /-- the device has power -/
  on : Bool := true
  step : Nat := 9
  reason : Nat := 0
  attempts : Nat := 0
  safe : Bool := false
  image : Bool := false
  cause : Nat := 0
  failed : Bool := false
  /-- DSTARTP as firmware reads and writes it shows these fields; the flash counter's two copies -/
  counter : List (Option Nat) := [some 1, some 1]
  retired : Option Nat := none
  /-- the two copies of the repair sector: GEN and the records, oldest first (R465) -/
  sector : List (Option (Nat × List DWord)) := [some (0, []), some (0, [])]
  /-- repairs applied for the current run only (R465, full sector) -/
  extra : List DWord := []
  /-- the writes to flash that are under way, in their order, and whether this start has raised the counter -/
  writes : List FlashWrite := []
  raised : Bool := true
  /-- the last power-down was a thermal trip -/
  trip : Bool := false
  /-- owners of the memory units before a warm start, until READY (R469) -/
  oldUnits : Option (SMap Nat) := none
  /-- the verified image's SVN, its ENTRY, and its SHA-512 where its bytes are known (R472, R473) -/
  svn : Nat := 0
  entry : DWord := 0
  digest : Option (List Byte) := none
  throttlePower : Bool := false
  throttleHeat : Bool := false
deriving DecidableEq, Repr

/-- The attestation window of a domain (R473). -/
structure Attest where
  status : Nat := 0
  nonce : List Byte := []
  latched : List Byte := []
  report : List Byte := []
  /-- the other domain's report is served first -/
  behind : Bool := false
deriving DecidableEq, Repr

/-- An outstanding record of a domain's group fault queue (R400, R401). -/
structure GfRec where
  seq : Nat
  /-- the stopped group, or the faulted pass's launch -/
  gid : Option Nat
  pass : Option Nat
  withdrawn : Bool
deriving DecidableEq, Repr

/-- A host domain: its configuration block address and its registers (R388, R440, R399). -/
structure Domain where
  dcfg : DWord := 0
  /-- the 256 bytes of the configuration block as the device has read them last, byte 0 in the low bits (R388, R389) -/
  block : Nat := 0
  gfSeq : Nat := 0
  gfLive : List GfRec := []
  scSeq : Nat := 0
  scLive : List Nat := []
  commbase : DWord := 0
  commcnt : DWord := 0
  refused : Nat := 0
  refsticky : Bool := false
  refaddr : DWord := 0
  failover : Bool := false
  altpath : Bool := false
  linkUp : Bool := true
  attest : Attest := {}
  /-- the MSI-X table in words of 8 bytes, by number: a vector's address, then its data and its control word, which masks it at
  reset; and the pending bits (R439) -/
  msixAddr : SMap DWord := []
  msixData : SMap DWord := []
  msixPend : BitVec 16 := 0
  /-- partition key of the domain's fabric requests (R448) -/
  pkey : BitVec 16 := 0
deriving DecidableEq, Repr

/-- A cached translation (R391): the page's base address, its level (0: 64 KiB, 1: 2 MiB, 2: 1 GiB), its leaf entry. -/
structure TlbEntry where
  dom : Nat
  asn : Nat
  base : Nat
  level : Nat
  leaf : DWord
deriving DecidableEq, Repr

/-- A line that an L2 or Granary slice holds (R446, R447): its number (physical address div 512), way, traffic class, and whether it is
dirty. -/
structure CacheLine where
  line : Nat
  way : Nat
  cls : Nat
  dirty : Bool
deriving DecidableEq, Repr

/-- A 128-byte sector that a core's L1 holds, with the bytes it was filled with (R287, R288). -/
structure L1Sector where
  core : Nat
  sector : Nat
  bytes : List Byte
deriving DecidableEq, Repr

/-- A Thresher's sum for one word (R187, R293), in units of 2^-149; `stamp` orders the entries by their last contribution. -/
structure ThrEntry where
  pa : Nat
  sum : Int
  nan : Bool
  pinf : Bool
  ninf : Bool
  count : Nat
  stamp : Nat
  dom : Nat
deriving DecidableEq, Repr

/-- A record of a slice's spill area (R293): whose word it is, its place in the area, and its 64 bytes. -/
structure Spill where
  dom : Nat
  pa : Nat
  slice : Nat
  index : Nat
  bytes : List Byte
deriving DecidableEq, Repr

/-- A COLL in progress at this rank (R208, R454): the operation (0 .AR, 1 .AG, 2 .RS, 3 .BC), the record's fields, the packages by
rank, this rank, its own data, the keys of the destination's elements, the result segments that have come (offset, bytes), the
code, and whether the result is whole. -/
structure Coll where
  op : Nat
  count : Nat
  ty : Nat
  rop : Nat
  root : Nat
  comm : Nat
  seq : Nat
  key : Nat
  pkgs : List Nat
  rank : Nat
  own : List Byte
  keys : List Nat
  got : List (Nat × List Byte) := []
  code : Nat := 0
  finished : Bool := false
  /-- this rank's result has been written, and the writes that another package performs await their answers -/
  written : Bool := false
deriving DecidableEq, Repr

/-- The kinds of engine work whose end writes a token (R199). -/
inductive JobKind where
  /-- CP.TENS: the data has been moved, the status word is ready -/
  | copy
  /-- XFER: packets not yet acknowledged, bytes acknowledged, the first code other than 0 -/
  | xfer (left acked code : Nat)
  /-- COLL -/
  | coll (c : Coll)
  /-- GRAD.SEAL: the physical ranges to fold (start, bytes), or every word of the domain -/
  | seal (ranges : Option (List (Nat × Nat)))
deriving DecidableEq, Repr

/-- A piece of engine work in flight: the group and the register its end writes. `area` is the save area of a group
saved meanwhile (R379). -/
structure Job where
  id : Nat
  gid : Nat
  dom : Nat
  asn : Nat
  launch : Nat
  reg : SReg
  kind : JobKind
  status : DWord
  area : Option (Nat × Nat)
deriving DecidableEq, Repr

/-- The tag of a ghost cell (R298, R302). -/
structure CellTag where
  step : Nat
  isLocal : Bool
deriving DecidableEq, Repr

/-- An entry of a grid's owner table (R295). -/
structure GOwner where
  addr : Nat
  team : Nat
  pkg : Nat
  die : Nat
deriving DecidableEq, Repr

/-- A grid descriptor and its owner table as GRID.BIND has read them (R294, R295), with the KIND (0: plain words) and DBASE of
its format and the CRC-32C of the descriptor (R296). -/
structure GridD where
  id : Nat
  ndim : Nat
  pfd : Nat
  kind : Nat
  dbase : Nat
  gw : Nat
  rad : Nat
  depth : Nat
  nbuf : Nat
  fault : Bool
  bc : List Nat
  n : List Nat
  p : List Nat
  consts : List Nat
  owners : List GOwner
  crc : Nat
deriving DecidableEq, Repr

/-- A partition as its Headland engine keeps it (R297 to R302). -/
structure GridPart where
  part : Nat
  published : Option Nat := none
  /-- steps delivered on each neighbour region: (neighbour, step) -/
  recv : List (Nat × Nat) := []
  /-- synthesised ghost cells written: (cell of the box, step) -/
  synth : List (Nat × Nat) := []
  /-- synthesised cells whose reference cells await a delivery: (cell, step) -/
  await : List (Nat × Nat) := []
  /-- tags of ghost cells, keyed by storage element (R295) -/
  tags : SMap (Option CellTag) := []
deriving DecidableEq, Repr

/-- A grid of this package, named by domain, address space and descriptor address, with the launches whose groups have bound
it. -/
structure Grid where
  dom : Nat
  asn : Nat
  desc : DWord
  d : GridD
  launches : List Nat
  parts : List GridPart
deriving DecidableEq, Repr

/-- A delivery of a published step to a neighbour, not yet written (R297, R298): cells as (cell of the receiver's box, raw word).
`packet` is the packet of a delivery that came from another package, `sent` says that the receiver is on one. -/
structure Delivery where
  id : Nat
  dom : Nat
  asn : Nat
  desc : DWord
  src : Nat
  dst : Nat
  step : Nat
  cells : List (Nat × Nat)
  sent : Bool := false
  packet : Option Packet := none
  /-- the launch on whose behalf it is made, until it has been written or has failed (R369) -/
  launch : Option Nat := none
deriving DecidableEq, Repr

/-- A record pushed into a graph-edge queue and not yet taken: the place of the queue's header, the record's number there, and the
domain, the address space and the launch of the group that pushed it (R368, R370, R388). -/
structure EdgePush where
  key : Nat
  seq : Nat
  dom : Nat
  asn : Nat
  parent : Nat
deriving DecidableEq, Repr

/-- A fabric request of this package, outstanding or waiting at its source (R449, R453). -/
structure FabReq where
  tag : Nat := 0
  dst : Nat := 0
  bytes : Nat := 0
  /-- the piece of work, the group with the channel of its stream, and the launch on whose behalf it goes -/
  job : Option Nat := none
  gid : Option Nat := none
  ch : Nat := 0
  launch : Option Nat := none
  /-- the elements it carries, in packet order: (physical address, size) -/
  cells : List (Nat × Nat) := []
  write : Bool := false
  /-- a release's own store (R306) -/
  sync : Bool := false
  /-- an XFER packet: where the transfer begins, and the packet's number (R451) -/
  hop : Option (Nat × Nat) := none
  /-- the Headland delivery it carries -/
  deliv : Option Nat := none
  /-- it is a launch's completion write (R369) -/
  compl : Bool := false
  /-- CLOCK at its departure, and its plane (R451) -/
  sent : Nat := 0
  plane : Nat := 0
deriving DecidableEq, Repr

/-- A request that waits at its source: for the rate limit, for the cap, for an old plane's requests, or behind an earlier one to its
target (R451, R453). -/
structure HeldReq where
  req : FabReq
  pkt : Packet
deriving DecidableEq, Repr

/-- The fabric source state (R448 to R453). -/
structure Fabric where
  pkg : Nat := 0
  planesDown : List Nat := []
  /-- RL_d, default 1,440, and W_d, default 4 KiB, per target package -/
  rl : SMap Nat := []
  wcap : SMap Nat := []
  /-- the ck in which the rate limit lets the next request to each target go (R453) -/
  rlNext : SMap Nat := []
  /-- CLOCK plus one at the latest cut of each target's rate; 0: never (R453) -/
  cutAt : SMap Nat := []
  /-- CLOCK at each target's latest response with ECE, or addition to its rate (R453) -/
  quietAt : SMap Nat := []
  /-- smallest round-trip sample to each target -/
  minRtt : SMap Nat := []
  /-- partition key of each 1 GiB unit (R448) -/
  keys : SMap (BitVec 16) := []
  reqs : List FabReq := []
  /-- requests waiting at the source, oldest first (R453) -/
  waiting : List HeldReq := []
  nextTag : Nat := 0
  /-- the tag of the next request to a host (R441, R442) -/
  hostTag : Nat := 0
  /-- packets sent, each with its plane, newest first -/
  out : List (Nat × Packet) := []
  /-- COLL sequence number per communicator, by domain and communicator -/
  collSeq : SMap Nat := []
  /-- COLL segments that came before this rank's COLL -/
  collHeld : List Packet := []
  /-- width of each mesh link: unlisted full, 1 half, 2 quarter (R455) -/
  links : SMap Nat := []
deriving DecidableEq, Repr

/-- What the device sends to a host, on a port (R443): a write of bytes at a bus address, which has Relaxed Ordering set or is ordered after
every earlier one; or an MSI-X message of a domain on a vector, with the address and the data of its table entry, which is ordered. -/
inductive HostMsg where
  | write (port addr : Nat) (data : List Byte) (relaxed : Bool)
  | msix (port dom vec : Nat) (addr data : DWord)
deriving DecidableEq, Repr

/-- A read or atomic in the host or peer window (R441, R442), of a group's stream by its channel or of the device: awaiting its completion,
or complete with status 0 ok, 1 refused, 3 data error, 5 no response, and the bytes or the old value that came back, which no other
access sees. An atomic is (operation, operand, expected value). -/
structure RemReq where
  gid : Nat
  ch : Nat := 0
  pa : Nat
  size : Nat
  atomic : Option (Nat × DWord × DWord) := none
  isDone : Bool := false
  status : Nat := 0
  /-- the lane of a VATOM, the tag of the packet or the PCIe request that asks, and the value that came back -/
  lane : Option Nat := none
  tag : Nat := 0
  val : Nat := 0
deriving DecidableEq, Repr

/-- A request from outside at this package's memory (R439, R449): a host's access through BAR2, or a packet. -/
inductive InReq where
  | bar2 (dom off : Nat) (write : Option (List Byte)) (len : Nat)
  | packet (p : Packet)
deriving DecidableEq, Repr

/-- A request that waits for the recall of a line, for a grant or for a read of its own (R201, R416): with its number, the place of its
draws among the free values, and the lines it has been granted. -/
structure Arrival where
  num : Nat
  req : InReq
  seed : Nat
  granted : List Nat
deriving DecidableEq, Repr

/-- A replay session of this package (R412, R413): its domain and address space (a policy core's addresses are physical), its
descriptor's address and bytes, its STATUS, whether it replays, and the participants that have joined it. -/
structure Session where
  dom : Nat
  asn : Nat
  phys : Bool
  desc : DWord
  rcd : List Byte
  status : Nat
  play : Bool
  pids : List Nat
deriving DecidableEq, Repr

/-- A session at one home node (R415, R416): the chunks that its log holds and the last one, once they have been read; the place that a
replay has reached, as a chunk and the grants of it consumed; and whether logging has stopped. -/
structure SessNode where
  dom : Nat
  asn : Nat
  desc : DWord
  node : Nat
  loaded : Bool := false
  count : Nat := 0
  last : Nat := 0
  chunk : Nat := 0
  taken : Nat := 0
  stopped : Bool := false
deriving DecidableEq, Repr

/-- A saved team (R376 to R380): its save area, what the image in memory does not hold byte for byte, and STATE. -/
structure SavedTeam where
  area : Nat
  tid : Nat
  cid : Nat
  groups : List Group
  tiles : List Tile
  lastWidth : SMap Nat
  /-- the core whose SRAM stays held, and its bytes (R379) -/
  holds : Option (Nat × Nat)
  /-- results that are still to be written into the saved windows: the group's index and the word's key (R379) -/
  late : List (Nat × Nat) := []
  complete : Bool
deriving DecidableEq, Repr

/-- An engine's pending event: its end of a piece of work that an instruction has started. -/
inductive Ev where
  | copyComplete (job : Nat)
  | xferComplete (job : Nat)
  | collComplete (job : Nat)
  | gradSealComplete (job : Nat)
  | streamPrefetch (gid port : Nat)
  | storeEngineWrite (gid port : Nat)
  | recompute (gid : Nat)
  | syscallReply (gid : Nat)
  | headlandDelivery (n : Nat)
  | launchTake (src : LaunchSrc)
  | gangCommit (launch : Nat)
  | teamReady (team : Nat)
  | launchComplete (launch : Nat)
  | ticketPass (launch : Nat)
  | saveComplete (area : Nat)
  | visibilityPass (launch : Nat)
  | passComplete (launch : Nat)
  | passFault (launch : Nat)
  | laneResume (core seq : Nat)
  | faultDisposition (dom seq : Nat)
  | attestDone (dom : Nat)
  | contextRestore (area core : Nat)
  | startStep
  | flashWrite
deriving DecidableEq, Repr

/-- A party that can move next: a stream that the schedulers have chosen in this ck, the next ck itself, an engine's pending event, a
policy core, or the next event from outside. -/
inductive Agent where
  | issue (k : Nat)
  | ck
  | engine (k : Nat)
  | policy (k : Nat)
  | external
deriving DecidableEq, Repr

/-- Which scalar context the scalar instructions act on. -/
inductive Party where
  | group
  | policy (k : Nat)
deriving DecidableEq, Repr

/-- What a start meets when every part is sound (R468). -/
def soundEnv : StartEnv :=
  { fusesOk := true, romOk := true, primary := some (.found true 0 0), fallback := some (.found true 0 0), keyDigest := [], fused := []
    pllOk := true, failedStacks := [], bistOk := true, zeroFillOk := true, planesUp := List.range 72, pkg := 0, pkeys := (0, 0)
    unitKeys := [], failover := [], counterCopies := none, sector := none }

/-- The whole machine. -/
structure State where
  /-- the group in focus, and the other resident groups -/
  g : Group := {}
  others : List Group := []
  party : Party := .policy 0
  teams : List Team := []
  clusters : List Cluster := []
  launches : List Launch := []
  nextLaunch : Nat := 1
  nextId : Nat := 1
  /-- distributor: launches whose gang is placed and not committed -/
  placing : Option Nat := none
  queues : SMap LaunchQueue := []
  edges : List EdgePush := []
  /-- the last launch taken from each graph-edge queue, by the place of its header (R365) -/
  edgeLast : List (Nat × Nat) := []
  /-- heads of queues that are eligible: source, the record's number there, CLOCK at which it became eligible (R370) -/
  ripe : List (LaunchSrc × Nat × Nat) := []
  /-- launches that hold a reservation, each with the cores kept for it (R372) -/
  resv : List (Nat × List Nat) := []
  coreTab : SMap Core := []
  dom0 : Domain := {}
  dom1 : Domain := {}
  /-- owner domain of each 1 GiB unit of main memory (R108); unlisted: 15 -/
  units : SMap Nat := []
  pol0 : PolicyCore := {}
  pol1 : PolicyCore := {}
  pol2 : PolicyCore := {}
  pol3 : PolicyCore := {}
  priv : Priv := {}
  start : Start := {}
  /-- what the latest start meets or has met outside the device -/
  env : StartEnv := soundEnv
  mem : Memory := []
  /-- code words of the policy cores' own memory, where the image's body has been copied (R472), keyed by address; an unlisted word has
  no value -/
  pcode : List (Nat × Word) := []
  /-- poisoned words, by where they begin: 16 bytes in main memory and HOME 2 lines, 8 in core SRAM (R456, R460) -/
  poison : List Nat := []
  tlb : List TlbEntry := []
  threshers : List ThrEntry := []
  spills : List Spill := []
  /-- lines of main memory in the L2 and Granary slices, most recently used first -/
  l2 : List CacheLine := []
  granary : List CacheLine := []
  l1 : List L1Sector := []
  jobs : List Job := []
  grids : List Grid := []
  deliveries : List Delivery := []
  pairs : List PairWait := []
  /-- failure marks of MX.PAIR: the side that is still to take it (R233) -/
  pairMarks : List PairWait := []
  fabric : Fabric := {}
  remote : List RemReq := []
  /-- the channel of the party that moves, which its window requests carry: 0 scalar stream, 1 lane stream, 2 + l the agent of parked lane l,
  34 + p the engine of port p; from 2^16 on an engine of the device, whatever the group -/
  ch : Nat := 0
  /-- requests from outside that wait, oldest first (R201, R416) -/
  waitIn : List Arrival := []
  /-- device-initiated host traffic but for its reads, newest first (R399, R443) -/
  hostOut : List HostMsg := []
  /-- completions of host reads through BAR2: (domain, offset, bytes, the data-poisoned bit), newest first (R439, R458) -/
  hostRd : List (Nat × Nat × List Byte × Bool) := []
  saved : List SavedTeam := []
  sessions : List Session := []
  sessNodes : List SessNode := []
  clock : Nat := 0
  /-- free values drawn so far; turns that the default rule has given -/
  fresh : Nat := 0
  turn : Nat := 0
  /-- the streams chosen in this ck that have still to issue: group, lane stream or scalar stream (R373) -/
  issueQ : List (Nat × Bool) := []
  /-- CLOCK of the Gleaner's next sample (R421) -/
  sampAt : Nat := 0
  /-- engine events not yet performed, oldest first; events from outside not yet taken -/
  engineQ : List Ev := []
  inbox : List Instr := []
  plan : List Agent := []
deriving DecidableEq, Repr

/-- The machine right after reset: the hardware's part of the cold start has run (R468 steps 1 to 9), no group is
resident, every register has its reset value, main memory is zero (step 8), and policy core 0 is at the firmware's
entry, whose code nothing has loaded. DESIGN CHOICE, unsafe: assumption 18. DEDUCED, unsafe: assumption 19. DESIGN CHOICE, unsafe: assumption 48. -/
def State.reset : State := {}

end Sys2Proof.Machine
end

