-- ==== Sys2Proof/Machine/Float.lean ====
section
/-!
DEFINITION. Exact values and their rounding: the binary formats and the narrow kinds (R13, R14, R22), RoundTo and the order of
outcomes (R15 to R18, R23), conversion to integers (R19), and exact sums, products, quotients and roots. An exact value that is
not a dyadic number is given by its leading bits and one sticky bit below them, which rounds alike.
-/
namespace Sys2Proof.Machine

/-! ### Flags (R20) -/

def fNV : Nat := 1
def fDZ : Nat := 2
def fOF : Nat := 4
def fUF : Nat := 8
def fNX : Nat := 16
def fSAT : Nat := 32
def fLXU : Nat := 256
def fLXD : Nat := 512
def fLRX : Nat := 1024
def fLTOP : Nat := 2048

/-! ### Formats -/

/-- A binary format: exponent and fraction bits, the magnitude pattern of its largest finite value, of its infinity, and its
canonical NaN. -/
structure Fmt where
  eb : Nat
  fb : Nat
  top : Nat
  inf : Option Nat
  nan : Nat
deriving DecidableEq, Repr

def f64 : Fmt := ⟨11, 52, 0x7FEFFFFFFFFFFFFF, some 0x7FF0000000000000, 0x7FF8000000000000⟩
def f32 : Fmt := ⟨8, 23, 0x7F7FFFFF, some 0x7F800000, 0x7FC00000⟩
def f16 : Fmt := ⟨5, 10, 0x7BFF, some 0x7C00, 0x7E00⟩
def bf16 : Fmt := ⟨8, 7, 0x7F7F, some 0x7F80, 0x7FC0⟩
def e8 : Fmt := ⟨4, 3, 0x7E, none, 0x7F⟩
def w8 : Fmt := ⟨5, 2, 0x7B, some 0x7C, 0x7E⟩
def f6 : Fmt := ⟨3, 2, 0x1F, none, 0⟩
def f4 : Fmt := ⟨2, 1, 0x7, none, 0⟩

def Fmt.bias (f : Fmt) : Int := 2 ^ (f.eb - 1) - 1
/-- The exponent of the unit of the smallest subnormal. -/
def Fmt.qmin (f : Fmt) : Int := 1 - f.bias - f.fb
def Fmt.width (f : Fmt) : Nat := 1 + f.eb + f.fb
def Fmt.mag (f : Fmt) (x : Nat) : Nat := x % 2 ^ (f.eb + f.fb)
def Fmt.neg (f : Fmt) (x : Nat) : Bool := x / 2 ^ (f.eb + f.fb) % 2 == 1
/-- A magnitude with its sign. -/
def Fmt.signed (f : Fmt) (neg : Bool) (m : Nat) : Nat := if neg then 2 ^ (f.eb + f.fb) + m else m

/-- A sign applied to a magnitude. -/
def signInt (neg : Bool) (m : Nat) : Int := if neg then -(m : Int) else m

/-- The exact value of a pattern; under `.ftz` a subnormal reads as a zero of its sign (R15). -/
def Fmt.decode (f : Fmt) (ftz : Bool) (x : Nat) : XVal :=
  let m := f.mag x
  let n := f.neg x
  if f.top < m then (if f.inf = some m then .inf n else .nan)
  else if m / 2 ^ f.fb = 0 then (if m = 0 || ftz then .zero n else .fin (signInt n m) f.qmin)
  else .fin (signInt n (2 ^ f.fb + m % 2 ^ f.fb)) (f.qmin + (m / 2 ^ f.fb - 1 : Nat))

/-- A NaN whose most significant fraction bit is 0 (R14). -/
def Fmt.isSnan (f : Fmt) (x : Nat) : Bool := f.decode false x == .nan && f.mag x / 2 ^ (f.fb - 1) % 2 == 0

/-! ### Rounding (R16, R17) -/

/-- `m / 2^s` rounded to an integer, and whether it changed. -/
def rint (r : Rnd) (neg : Bool) (m s : Nat) : Nat × Bool :=
  if s = 0 then (m, false)
  else
    let q := m / 2 ^ s
    let rem := m % 2 ^ s
    let half := 2 ^ (s - 1)
    let up := match r with
      | .rne => half < rem || (rem == half && q % 2 == 1)
      | .rna => half ≤ rem
      | .rtz => false
      | .rdn => neg && rem != 0
      | .rup => !neg && rem != 0
    (if up then q + 1 else q, rem != 0)

/-- `m·2^k` rounded to an integer; far below one half, any non-zero value rounds like a quarter. -/
def scaleRound (r : Rnd) (neg : Bool) (m : Nat) (k : Int) : Nat × Bool :=
  if 0 ≤ k then (m * 2 ^ k.toNat, false)
  else if (Nat.log2 m + 2 : Nat) < (-k).toNat then rint r neg 1 2
  else rint r neg m (-k).toNat

/-- What rounding a magnitude `m·2^e`, `m > 0`, gives: the magnitude pattern with the exponent unbounded above, and whether it
is inexact and tiny (R17). -/
structure Rounded where
  bits : Nat
  inexact : Bool
  tiny : Bool
deriving DecidableEq, Repr

def roundMag (f : Fmt) (r : Rnd) (neg : Bool) (m : Nat) (e : Int) : Rounded :=
  let top : Int := Nat.log2 m + e
  let qu := top - f.fb
  let q := max qu f.qmin
  let (n, inx) := scaleRound r neg m (e - q)
  let emin := 1 - f.bias
  let tiny := top + 1 < emin || (top < emin && (scaleRound r neg m (e - qu)).1 < 2 ^ (f.fb + 1))
  ⟨(q - f.qmin).toNat * 2 ^ f.fb + n, inx, tiny⟩

/-- Rounding toward infinity on overflow by mode (R17). -/
def toInf (r : Rnd) (neg : Bool) : Bool :=
  match r with
  | .rne | .rna => true
  | .rtz => false
  | .rdn => neg
  | .rup => !neg

/-- The order table of R18 from row 4 on, for an exact value: pattern and flags. DEDUCED, unsafe: assumption 43. -/
def Fmt.settle (f : Fmt) (r : Rnd) (sat ftz : Bool) : XVal → Nat × Nat
  | .nan => (f.nan, 0)
  | .inf n => if sat then (f.signed n f.top, fSAT) else (f.signed n (f.inf.getD f.top), 0)
  | .zero n => (f.signed n 0, 0)
  | .fin m e =>
    let n := decide (m < 0)
    let x := roundMag f r n m.natAbs e
    if f.top < x.bits then
      if toInf r n && !sat then (f.signed n (f.inf.getD f.top), fOF + fNX)
      else (f.signed n f.top, fOF + fNX + (if toInf r n then fSAT else 0))
    else if x.tiny && ftz then (f.signed n 0, fUF + fNX)
    else (f.signed n x.bits, (if x.inexact then fNX else 0) + (if x.tiny && x.inexact then fUF else 0))

/-- RoundTo(fmt, mode, x) of R17 without its flags. -/
def Fmt.round (f : Fmt) (r : Rnd) (x : XVal) : Nat := (f.settle r false false x).1
/-- RNE32 (R17). -/
def rne32 (x : XVal) : Nat := f32.round .rne x

/-- Rounding into a narrow kind (R23): RNE, saturating. `snan` is read for a NaN alone. -/
def Fmt.narrow (f : Fmt) (snan : Bool) : XVal → Nat × Nat
  | .nan => if f.nan = 0 then (0, fNV) else (f.nan, if snan then fNV else 0)
  | .inf n => match f.inf with
    | some i => (f.signed n i, 0)
    | none => (f.signed n f.top, fSAT)
  | .zero n => (f.signed n 0, 0)
  | .fin m e =>
    let n := decide (m < 0)
    let x := roundMag f .rne n m.natAbs e
    if f.top < x.bits then (f.signed n f.top, fSAT + fNX)
    else (f.signed n x.bits, (if x.inexact then fNX else 0) + (if x.tiny && x.inexact then fUF else 0))

/-- The range of a w-bit integer type. -/
def intMax (w : Nat) (signed : Bool) : Int := if signed then 2 ^ (w - 1) - 1 else 2 ^ w - 1
def intMin (w : Nat) (signed : Bool) : Int := if signed then -(2 ^ (w - 1)) else 0

/-- An exact value rounded to an integer, and whether it changed. -/
def toInteger (r : Rnd) (m : Int) (e : Int) : Int × Bool :=
  let n := decide (m < 0)
  let (q, inx) := scaleRound r n m.natAbs e
  (signInt n q, inx)

/-- Float to integer (R19): always saturating. -/
def toIntSat (w : Nat) (signed : Bool) (r : Rnd) : XVal → Nat × Nat
  | .nan => (0, fNV)
  | .inf n => (ofInt w (if n then intMin w signed else intMax w signed), fNV)
  | .zero _ => (0, 0)
  | .fin m e =>
    if 200 < Nat.log2 m.natAbs + e then (ofInt w (if m < 0 then intMin w signed else intMax w signed), fSAT + fNX)
    else
      let (x, inx) := toInteger r m e
      if intMax w signed < x then (ofInt w (intMax w signed), fSAT + fNX)
      else if x < intMin w signed then (ofInt w (intMin w signed), fSAT + fNX)
      else (ofInt w x, if inx then fNX else 0)

/-- An integer as an exact value. -/
def ofInteger (x : Int) : XVal := if x = 0 then .zero false else .fin x 0

/-! ### Exact arithmetic -/

def XVal.neg : XVal → XVal
  | .nan => .nan
  | .inf n => .inf !n
  | .zero n => .zero !n
  | .fin m e => .fin (-m) e
def XVal.isNeg : XVal → Bool
  | .nan => false
  | .inf n | .zero n => n
  | .fin m _ => decide (m < 0)
def XVal.abs (x : XVal) : XVal := if x.isNeg then x.neg else x
/-- A non-zero multiple of a power of two, or a zero of a given sign. -/
def mkFin (m : Int) (e : Int) (zneg : Bool) : XVal := if m = 0 then .zero zneg else .fin m e

/-- The exact sum; opposite values give −0 only under RDN (R17). -/
def XVal.add (rdn : Bool) : XVal → XVal → XVal × Nat
  | .nan, _ | _, .nan => (.nan, 0)
  | .inf a, .inf b => if a = b then (.inf a, 0) else (.nan, fNV)
  | .inf a, _ | _, .inf a => (.inf a, 0)
  | .zero a, .zero b => (.zero (if a = b then a else rdn), 0)
  | .zero _, x | x, .zero _ => (x, 0)
  | .fin m e, .fin n k =>
    let q := min e k
    (mkFin (m * 2 ^ (e - q).toNat + n * 2 ^ (k - q).toNat) q rdn, 0)

/-- The exact product. -/
def XVal.mul : XVal → XVal → XVal × Nat
  | .nan, _ | _, .nan => (.nan, 0)
  | .inf _, .zero _ | .zero _, .inf _ => (.nan, fNV)
  | .inf a, x | x, .inf a => (.inf (a != x.isNeg), 0)
  | .zero a, x | x, .zero a => (.zero (a != x.isNeg), 0)
  | .fin m e, .fin n k => (.fin (m * n) (e + k), 0)

/-- Leading bits with a sticky bit: `q` and whether something non-zero follows. -/
def sticky (q : Nat) (rest : Bool) : Nat := 2 * q + (if rest then 1 else 0)

/-- The quotient of finite non-zero values, to at least 130 − 53 leading bits and a sticky bit. -/
def quotient (m : Int) (e : Int) (n : Int) (k : Int) : XVal :=
  let a := m.natAbs * 2 ^ 160
  let q := a / n.natAbs
  .fin (signInt (decide (m < 0) != decide (n < 0)) (sticky q (a % n.natAbs != 0))) (e - k - 161)

/-- The exact quotient (R18, R151). -/
def XVal.div : XVal → XVal → XVal × Nat
  | .nan, _ | _, .nan => (.nan, 0)
  | .inf _, .inf _ | .zero _, .zero _ => (.nan, fNV)
  | .inf a, y => (.inf (a != y.isNeg), 0)
  | .zero a, y => (.zero (a != y.isNeg), 0)
  | x, .inf b => (.zero (x.isNeg != b), 0)
  | .fin m _, .zero b => (.inf (decide (m < 0) != b), fDZ)
  | .fin m e, .fin n k => (quotient m e n k, 0)

/-- The integer square root, by fuel halving of the remaining bits. -/
def isqrtGo : Nat → Nat → Nat → Nat
  | 0, _, r => r
  | b + 1, x, r => let c := r + 2 ^ b; isqrtGo b x (if c * c ≤ x then c else r)
def isqrt (x : Nat) : Nat := isqrtGo (Nat.log2 x / 2 + 1) x 0

/-- An even exponent: `m·2^e` with `e` even. -/
def evenExp (m : Nat) (e : Int) : Nat × Int := if e % 2 = 0 then (m, e) else (2 * m, e - 1)

/-- The root of a finite positive value. -/
def rootOfFin (m : Nat) (e : Int) : XVal :=
  let (a, k) := evenExp m e
  let x := a * 2 ^ 160
  let q := isqrt x
  .fin (sticky q (q * q != x)) (k / 2 - 81)
/-- The reciprocal root of a finite positive value. -/
def rsqrtOfFin (m : Nat) (e : Int) : XVal :=
  let (a, k) := evenExp m e
  let x := 2 ^ 320
  let q := isqrt (x / a)
  .fin (sticky q (q * q * a != x)) (-(k / 2) - 161)

/-- An order on exact values other than NaN; zeros of both signs are equal. -/
def XVal.cmp : XVal → XVal → Ordering
  | .inf a, .inf b => if a = b then .eq else if a then .lt else .gt
  | .inf a, _ => if a then .lt else .gt
  | _, .inf b => if b then .gt else .lt
  | x, y =>
    let num : XVal → Int × Int := fun
      | .fin m e => (m, e)
      | _ => (0, 0)
    let (m, e) := num x
    let (n, k) := num y
    let q := min e k
    compare (m * 2 ^ (e - q).toNat) (n * 2 ^ (k - q).toNat)

/-! ### The shared shape of an IEEE operation (R18) -/

/-- Rows 1 and 2 settle NaN operands; the exact outcome then rounds. -/
def fpOp (f : Fmt) (r : Rnd) (sat ftz : Bool) (ops : List Nat) (exact : List XVal → XVal × Nat) : Nat × Nat :=
  if ops.any f.isSnan then (f.nan, fNV)
  else
    let xs := ops.map (f.decode ftz)
    if xs.contains .nan then (f.nan, 0)
    else
      let (x, fl) := exact xs
      let (b, g) := f.settle r sat ftz x
      (b, fl ||| g)

/-- Two operands of a list. -/
def on1 (g : XVal → XVal × Nat) : List XVal → XVal × Nat
  | [a] => g a
  | _ => (.nan, 0)
def on2 (g : XVal → XVal → XVal × Nat) : List XVal → XVal × Nat
  | [a, b] => g a b
  | _ => (.nan, 0)

def fpAdd (f : Fmt) (r : Rnd) (sat ftz : Bool) (a b : Nat) : Nat × Nat := fpOp f r sat ftz [a, b] (on2 (XVal.add (r == .rdn)))
def fpSub (f : Fmt) (r : Rnd) (sat ftz : Bool) (a b : Nat) : Nat × Nat :=
  fpOp f r sat ftz [a, b] (on2 fun x y => XVal.add (r == .rdn) x y.neg)
def fpMul (f : Fmt) (r : Rnd) (sat ftz : Bool) (a b : Nat) : Nat × Nat := fpOp f r sat ftz [a, b] (on2 XVal.mul)
def fpDiv (f : Fmt) (r : Rnd) (sat ftz : Bool) (a b : Nat) : Nat × Nat := fpOp f r sat ftz [a, b] (on2 XVal.div)

/-- VFMA (R147): 0 × ∞ is invalid even beside a quiet NaN addend. -/
def fpFma (f : Fmt) (r : Rnd) (sat ftz : Bool) (a b c : Nat) : Nat × Nat :=
  let x := f.decode ftz a
  let y := f.decode ftz b
  if [a, b, c].any f.isSnan then (f.nan, fNV)
  else match XVal.mul x y with
    | (.nan, 1) => (f.nan, fNV)
    | (p, _) => fpOp f r sat ftz [a, b, c] (fun
      | [_, _, z] => XVal.add (r == .rdn) p z
      | _ => (.nan, 0))

/-- VFSQRT and VFRSQ (R150, R151). -/
def xsqrt : XVal → XVal × Nat
  | .zero n => (.zero n, 0)
  | .inf false => (.inf false, 0)
  | .fin m e => if m < 0 then (.nan, fNV) else (rootOfFin m.natAbs e, 0)
  | .inf true => (.nan, fNV)
  | .nan => (.nan, 0)
def xrsqrt : XVal → XVal × Nat
  | .zero n => (.inf n, fDZ)
  | .inf false => (.zero false, 0)
  | .fin m e => if m < 0 then (.nan, fNV) else (rsqrtOfFin m.natAbs e, 0)
  | .inf true => (.nan, fNV)
  | .nan => (.nan, 0)
def xrcp (x : XVal) : XVal × Nat := XVal.div (.fin 1 0) x

def fpUn (f : Fmt) (r : Rnd) (sat ftz : Bool) (g : XVal → XVal × Nat) (a : Nat) : Nat × Nat := fpOp f r sat ftz [a] (on1 g)

/-- VFMIN and VFMAX (R149): `lt` says which of two comparable values is taken. -/
def fpMinMax (f : Fmt) (isMax nan ftz : Bool) (a b : Nat) : Nat × Nat :=
  let fl := if f.isSnan a || f.isSnan b then fNV else 0
  let x := f.decode ftz a
  let y := f.decode ftz b
  let flush (v : XVal) (p : Nat) : Nat := match v with
    | .zero n => f.signed n 0
    | _ => p
  if x == .nan && y == .nan then (f.nan, fl)
  else if x == .nan then (if nan then f.nan else flush y b, fl)
  else if y == .nan then (if nan then f.nan else flush x a, fl)
  else
    let less : Bool := match XVal.cmp x y with
      | .lt => true
      | .gt => false
      | .eq => x.isNeg && !y.isNeg
    (if less != isMax then flush x a else flush y b, 0)

/-- The float conditions (R125): eq, ne, lt, le, gt, ge, un, or by code; a NaN operand's flag is the caller's. -/
def cmpFloat (code : Nat) (x y : XVal) : Bool :=
  if x == .nan || y == .nan then code == 1 || code == 6
  else
    let o := XVal.cmp x y
    match code with
    | 0 => o == .eq
    | 1 => o != .eq
    | 2 => o == .lt
    | 3 => o != .gt
    | 4 => o == .gt
    | 5 => o != .lt
    | 7 => true
    | _ => false

/-- VFRND (R152): an integral value of the same format; no flag but NV for a signalling NaN. -/
def fpRnd (f : Fmt) (r : Rnd) (ftz : Bool) (a : Nat) : Nat × Nat :=
  match f.decode ftz a with
  | .nan => (f.nan, if f.isSnan a then fNV else 0)
  | .inf n => (f.signed n (f.inf.getD f.top), 0)
  | .zero n => (f.signed n 0, 0)
  | .fin m e =>
    if 0 ≤ e then (a, 0)
    else
      let (q, _) := toInteger r m e
      (f.round r (mkFin q 0 (decide (m < 0))), 0)

/-- VFFRC (R152): a − floor(a), rounded; a rounding up to 1.0 gives the value below. An exact 0 is +0 in every mode, for an integral a that is
not 0 too: DEDUCED, unsafe: assumption 56. -/
def fpFrc (f : Fmt) (r : Rnd) (ftz : Bool) (a : Nat) : Nat × Nat :=
  match f.decode ftz a with
  | .nan => (f.nan, if f.isSnan a then fNV else 0)
  | .inf _ => (f.nan, fNV)
  | .zero _ => (0, 0)
  | .fin m e =>
    if 0 ≤ e then (0, 0)
    else
      let d := 2 ^ (-e).toNat
      let (b, g) := f.settle r false ftz (mkFin (m % d) e false)
      let one := f.round .rne (.fin 1 0)
      if b = one then (one - 1, fNX) else (b, g)

/-- VFSCALE (R153). An infinite a comes back unchanged with `.sat` too: DEDUCED, unsafe: assumption 56. -/
def fpScale (f : Fmt) (r : Rnd) (sat ftz : Bool) (a : Nat) (n : Int) : Nat × Nat :=
  match f.decode ftz a with
  | .inf s => (f.signed s (f.inf.getD f.top), 0)
  | _ => fpUn f r sat ftz (fun
    | .fin m e => (.fin m (e + n), 0)
    | x => (x, 0)) a

/-- VFDOT2 (R154): two products of a packed format and an f32 addend, one rounding. -/
def fpDot2 (f : Fmt) (r : Rnd) (sat ftz : Bool) (a0 b0 a1 b1 c : Nat) : Nat × Nat :=
  if [a0, b0, a1, b1].any f.isSnan || f32.isSnan c then (f32.nan, fNV)
  else
    let p0 := XVal.mul (f.decode ftz a0) (f.decode ftz b0)
    let p1 := XVal.mul (f.decode ftz a1) (f.decode ftz b1)
    let z := f32.decode ftz c
    if p0.2 = fNV || p1.2 = fNV then (f32.nan, fNV)
    else if p0.1 == .nan || p1.1 == .nan || z == .nan then (f32.nan, 0)
    else
      let (x, fl) := sum3 (r == .rdn) p0.1 p1.1 z
      let (b, g) := f32.settle r sat ftz x
      (b, fl ||| g)
where
  /-- Three terms summed exactly: zeros of one sign keep it, an exact cancellation is −0 only under RDN. -/
  sum3 (rdn : Bool) (x y z : XVal) : XVal × Nat :=
    let (s, f1) := XVal.add rdn x y
    if f1 = fNV then (.nan, fNV)
    else
      let (t, f2) := XVal.add rdn s z
      (t, f2)

/-- The predicates of VCLASS (R127), one bit per class: −∞, −normal, −subnormal, −0, +0, +subnormal, +normal, +∞, sNaN, qNaN. -/
def classBit (f : Fmt) (a : Nat) : Nat :=
  let n := f.neg a
  match f.decode false a with
  | .nan => if f.isSnan a then 8 else 9
  | .inf _ => if n then 0 else 7
  | .zero _ => if n then 3 else 4
  | .fin .. =>
    let k := if f.mag a / 2 ^ f.fb = 0 then 2 else 1
    if n then k else 7 - k

end Sys2Proof.Machine
end

