-- ==== Sys2Proof/Machine/Sparse.lean ====
section
/-!
DEFINITION. Sparse maps and memory: reading, and writing that keeps the canonical form (keys rising, no entry equal to the
default), with byte order decided once (R5).
-/
namespace Sys2Proof.Machine

variable {α : Type}

/-- The value at a key; an unlisted key reads as `d`. -/
def SMap.get (d : α) : SMap α → Nat → α
  | [], _ => d
  | (j, v) :: t, k => if j = k then v else SMap.get d t k

/-- The map without its entries for a key. -/
def SMap.erase : SMap α → Nat → SMap α
  | [], _ => []
  | (j, v) :: t, k => if j = k then SMap.erase t k else (j, v) :: SMap.erase t k

/-- The entry placed before the first greater key. -/
def SMap.insert : SMap α → Nat → α → SMap α
  | [], k, v => [(k, v)]
  | (j, w) :: t, k, v => if k < j then (k, v) :: (j, w) :: t else (j, w) :: SMap.insert t k v

/-- Write a value; the default removes the entry. -/
def SMap.set [DecidableEq α] (d : α) (m : SMap α) (k : Nat) (v : α) : SMap α :=
  if v = d then SMap.erase m k else SMap.insert (SMap.erase m k) k v

/-- Write a value for each key of a list. -/
def SMap.setAll [DecidableEq α] (d : α) (m : SMap α) (ks : List Nat) (f : Nat → α) : SMap α :=
  ks.foldl (fun m k => SMap.set d m k (f k)) m

/-- Keys rise strictly from above `lo`, and no entry equals the default. -/
def SMap.wfFrom [DecidableEq α] (d : α) (lo : Option Nat) : SMap α → Bool
  | [] => true
  | (k, v) :: t => (match lo with
      | none => true
      | some j => j < k) && v != d && SMap.wfFrom d (some k) t

/-- The canonical form. -/
def SMap.wf [DecidableEq α] (d : α) (m : SMap α) : Bool := SMap.wfFrom d none m

/-- Memory's canonical form: addresses rising, no zero byte listed. -/
abbrev Memory.wf (m : Memory) : Prop := SMap.wf (0 : Byte) m = true

/-- The byte at a physical address or scratch key. DEDUCED, unsafe: assumption 19. -/
def Memory.byte (m : Memory) (a : Nat) : Byte := SMap.get (0 : Byte) m a

/-- Write one byte. -/
def Memory.setByte (m : Memory) (a : Nat) (v : Byte) : Memory := SMap.set (0 : Byte) m a v

/-- The little-endian value of `n` bytes from `a` (R5). -/
def Memory.read (m : Memory) (a : Nat) : Nat → Nat
  | 0 => 0
  | n + 1 => (Memory.byte m a).toNat + 256 * Memory.read m (a + 1) n

/-- Write the low `n` bytes of a value from `a`, little-endian. -/
def Memory.write (m : Memory) (a : Nat) : Nat → Nat → Memory
  | 0, _ => m
  | n + 1, v => Memory.write (Memory.setByte m a (BitVec.ofNat 8 v)) (a + 1) n (v / 256)

/-- The bytes from `a`. -/
def Memory.bytes (m : Memory) (a : Nat) : Nat → List Byte
  | 0 => []
  | n + 1 => Memory.byte m a :: Memory.bytes m (a + 1) n

/-- Write a list of bytes from `a`. -/
def Memory.setBytes (m : Memory) (a : Nat) : List Byte → Memory
  | [] => m
  | b :: t => Memory.setBytes (Memory.setByte m a b) (a + 1) t

/-- Clear the bytes `lo ≤ a < hi`: the entries of a range go. -/
def Memory.clear (m : Memory) (lo hi : Nat) : Memory := m.filter fun c => !(lo ≤ c.1 && c.1 < hi)

/-- The little-endian bytes of a value. -/
def leBytes : Nat → Nat → List Byte
  | 0, _ => []
  | n + 1, v => BitVec.ofNat 8 v :: leBytes n (v / 256)

/-- The little-endian value of bytes. -/
def ofBytes : List Byte → Nat
  | [] => 0
  | b :: t => b.toNat + 256 * ofBytes t

/-- The lanes of a mask, ascending. -/
def lanesOf (m : Word) : List Nat := (List.range Config.W).filter fun l => m.getLsbD l

/-- The mask of the lanes that satisfy `f`. -/
def maskOf (f : Nat → Bool) : Word :=
  (List.range Config.W).foldl (fun m l => if f l then m ||| BitVec.ofNat 32 (2 ^ l) else m) 0

/-- A little-endian field of a record's bytes. -/
def fieldOf (b : List Byte) (off n : Nat) : Nat := ofBytes ((b.drop off).take n)

end Sys2Proof.Machine
end

