-- ==== Sys2Proof/Machine/Image.lean ====
section
/-!
DEFINITION. The firmware image as the boot ROM checks it (R472): SHA-512, the RSA-4096 signature of RFC 8017, the reserved bytes, the
SVN and the entry, and the repair sector's copies (R465).
-/
namespace Sys2Proof.Machine

/-! ### SHA-512 (the standard's function, which R472 names; PRESUMED, unsafe: assumption 52) -/

/-- The integer part of the k-th root of x, from bit n down. -/
def rootFrom (k x : Nat) : Nat → Nat → Nat
  | 0, r => r
  | n + 1, r => rootFrom k x n (if (r + 2 ^ n) ^ k ≤ x then r + 2 ^ n else r)

/-- The first 80 primes. -/
def primes80 : List Nat :=
  [2, 3, 5, 7, 11, 13, 17, 19, 23, 29, 31, 37, 41, 43, 47, 53, 59, 61, 67, 71, 73, 79, 83, 89, 97, 101, 103, 107, 109, 113] ++
  [127, 131, 137, 139, 149, 151, 157, 163, 167, 173, 179, 181, 191, 193, 197, 199, 211, 223, 227, 229, 233, 239, 241, 251, 257] ++
  [263, 269, 271, 277, 281, 283, 293, 307, 311, 313, 317, 331, 337, 347, 349, 353, 359, 367, 373, 379, 383, 389, 397, 401, 409]

/-- The round constants: 64 fraction bits of the primes' cube roots; the first state: those of the square roots of the first 8. -/
def shaK : List DWord := primes80.map fun p => BitVec.ofNat 64 (rootFrom 3 (p * 2 ^ 192) 68 0)
def shaInit : List DWord := (primes80.take 8).map fun p => BitVec.ofNat 64 (rootFrom 2 (p * 2 ^ 128) 70 0)

/-- The message schedule, newest first, after n further words. -/
def shaSchedule : Nat → List DWord → List DWord
  | 0, w => w
  | n + 1, w =>
    let x := w.getD 14 0
    let y := w.getD 1 0
    let s0 := x.rotateRight 1 ^^^ x.rotateRight 8 ^^^ x >>> 7
    let s1 := y.rotateRight 19 ^^^ y.rotateRight 61 ^^^ y >>> 6
    shaSchedule n ((s1 + w.getD 6 0 + s0 + w.getD 15 0) :: w)

/-- One round on the eight working words. -/
def shaRound (v : List DWord) (kw : DWord × DWord) : List DWord :=
  let a := v.getD 0 0
  let e := v.getD 4 0
  let t1 := v.getD 7 0 + (e.rotateRight 14 ^^^ e.rotateRight 18 ^^^ e.rotateRight 41) +
    ((e &&& v.getD 5 0) ^^^ (~~~e &&& v.getD 6 0)) + kw.1 + kw.2
  let t2 := (a.rotateRight 28 ^^^ a.rotateRight 34 ^^^ a.rotateRight 39) +
    ((a &&& v.getD 1 0) ^^^ (a &&& v.getD 2 0) ^^^ (v.getD 1 0 &&& v.getD 2 0))
  [t1 + t2, a, v.getD 1 0, v.getD 2 0, v.getD 3 0 + t1, e, v.getD 5 0, v.getD 6 0]

/-- A number from bytes, the most significant first. -/
def ofBytesBE (b : List Byte) : Nat := b.foldl (fun n x => n * 256 + x.toNat) 0
/-- A number's n bytes, the most significant first. -/
def bytesBE (n v : Nat) : List Byte := (leBytes n v).reverse

/-- The state after one block of 128 bytes. -/
def shaBlock (h : List DWord) (b : List Byte) : List DWord :=
  let w := (List.range 16).map fun i => BitVec.ofNat 64 (ofBytesBE ((b.drop (8 * i)).take 8))
  let v := (shaK.zip (shaSchedule 64 w.reverse).reverse).foldl shaRound h
  (h.zip v).map fun x => x.1 + x.2
/-- The state after n blocks. -/
def shaBlocks : Nat → List DWord → List Byte → List DWord
  | 0, h, _ => h
  | n + 1, h, b => shaBlocks n (shaBlock h (b.take 128)) (b.drop 128)

/-- SHA-512 of bytes. PRESUMED, unsafe: assumption 52. -/
def sha512 (b : List Byte) : List Byte :=
  let n := (b.length + 17 + 127) / 128
  let p := b ++ 0x80 :: List.replicate (128 * n - b.length - 17) 0 ++ bytesBE 16 (8 * b.length)
  ((shaBlocks n shaInit p).map fun w => bytesBE 8 w.toNat).flatten

/-! ### The signature (RSASSA-PKCS1-v1_5 with SHA-512) -/

/-- b^e modulo n, for an exponent of a number of bits. PRESUMED, unsafe: assumption 52. -/
def powMod (bits b e n : Nat) : Nat :=
  (List.range bits).foldl (fun r i => r * r % n * (if e.testBit (bits - 1 - i) then b else 1) % n) (1 % n)

/-- The encoded message of 512 bytes for a digest. PRESUMED, unsafe: assumption 52. -/
def pkcs1 (digest : List Byte) : List Byte :=
  [0x00, 0x01] ++ List.replicate 426 0xFF ++ [0x00] ++
    [0x30, 0x51, 0x30, 0x0D, 0x06, 0x09, 0x60, 0x86, 0x48, 0x01, 0x65, 0x03, 0x04, 0x02, 0x03, 0x05, 0x00, 0x04, 0x40] ++ digest

/-- The signature verifies over the digest. PRESUMED, unsafe: assumption 52. -/
def rsaOk (modulus : List Byte) (e : Nat) (sig digest : List Byte) : Bool :=
  let n := ofBytesBE modulus
  let x := ofBytesBE sig
  n != 0 && x < n && powMod 32 x e n == ofBytesBE (pkcs1 digest)
/-- The signature of a body with a private key. PRESUMED, unsafe: assumption 52. -/
def rsaSign (modulus exponent : Nat) (body : List Byte) : List Byte :=
  bytesBE 512 (powMod 4096 (ofBytesBE (pkcs1 (sha512 body))) exponent modulus)

/-! ### The image (R472) -/

/-- The body of an image: LEN bytes after the header. -/
def imageBody (b : List Byte) : List Byte := (b.drop 4096).take (fieldOf b 12 4)
/-- What the signature covers. -/
def imageSigned (b : List Byte) : List Byte := b.take 1024 ++ imageBody b
/-- Every check but that of the SVN. DEDUCED, unsafe: assumption 53. -/
def imageOk (key b : List Byte) : Bool :=
  let zero (off n : Nat) : Bool := ((b.drop off).take n).all (· == 0)
  zero 24 40 && zero 580 444 && zero 1536 2560 && sha512 ((b.drop 64).take 516) == key &&
    rsaOk ((b.drop 64).take 512) (fieldOf b 576 4) ((b.drop 1024).take 512) (sha512 (imageSigned b))

/-- What the ROM finds in an image: whether every check but that of the SVN holds, the SVN and ENTRY. DEDUCED, unsafe: assumption 53. -/
def imageFindings (key : List Byte) : FlashImage → Bool × Nat × DWord
  | .found ok svn entry => (ok, svn, entry)
  | .bytes b => (imageOk key b, fieldOf b 8 4, BitVec.ofNat 64 (fieldOf b 16 8))
/-- The code words of the policy cores' memory once the body has been copied there, by offset in the body. DEDUCED, unsafe: assumption 53. -/
def imageCode : FlashImage → List (Nat × Word)
  | .found .. => []
  | .bytes b => (List.range ((imageBody b).length / 4)).map fun i => (4 * i, BitVec.ofNat 32 (fieldOf (imageBody b) (4 * i) 4))
/-- SHA-512 of the image as verified, where its bytes are known. DEDUCED, unsafe: assumption 53. -/
def imageDigest : FlashImage → Option (List Byte)
  | .found .. => none
  | .bytes b => some (sha512 (imageSigned b))

/-! ### The repair sector (R465) -/

/-- The copy that a start reads: valid, and of the larger GEN. -/
def sectorCopy (c : List (Option (Nat × List DWord))) : Option (Nat × List DWord) :=
  c.foldl (fun (best : Option (Nat × List DWord)) x => match best, x with
    | none, y => y
    | some a, some b => if a.1 < b.1 then some b else some a
    | some a, none => some a) none
/-- Its records; none when neither copy is valid. -/
def sectorRecords (c : List (Option (Nat × List DWord))) : List DWord := ((sectorCopy c).map (·.2)).getD []
/-- The 4 KiB of a copy: GEN, COUNT, the records, erased bytes, and the CRC-32C. -/
def sectorImage (gen : Nat) (recs : List DWord) : List Byte :=
  let b := leBytes 4 gen ++ leBytes 4 recs.length ++ (recs.map fun r => leBytes 8 r.toNat).flatten ++
    List.replicate (4084 - 8 * recs.length) 0xFF
  b ++ leBytes 4 (crc32c b)
/-- What a copy's bytes hold: `none` where its CRC is not valid. -/
def sectorOf (b : List Byte) : Option (Nat × List DWord) :=
  let n := fieldOf b 4 4
  if fieldOf b 4092 4 = crc32c (b.take 4092) ∧ n ≤ 510 then
    some (fieldOf b 0 4, (List.range n).map fun i => BitVec.ofNat 64 (fieldOf b (8 + 8 * i) 8))
  else none
/-- The write that appends a record: the copy of the lower GEN is written, with a GEN one above the other's (R465). DEDUCED, unsafe: assumption 54. -/
def sectorAppend (c : List (Option (Nat × List DWord))) (r : DWord) : FlashWrite :=
  let i := match c with
    | [none, _] => 0
    | [_, none] => 1
    | [some a, some b] => if b.1 < a.1 then 1 else 0
    | _ => 0
  .sector i (((sectorCopy c).map (·.1 + 1)).getD 1) (sectorRecords c ++ [r])

/-- Flash once a write has landed. -/
def Start.flash (x : Start) : FlashWrite → Start
  | .counter i v => { x with counter := x.counter.set i (some v) }
  | .sector i gen recs => { x with sector := x.sector.set i (some (gen, recs)) }
/-- Flash once a write has been cut by a loss of power: the copy is not valid (R465, R471). -/
def Start.cut (x : Start) : FlashWrite → Start
  | .counter i _ => { x with counter := x.counter.set i none }
  | .sector i _ _ => { x with sector := x.sector.set i none }
/-- The repair sector once what is under way has landed. -/
def Start.sectorNow (x : Start) : List (Option (Nat × List DWord)) := (x.writes.foldl Start.flash x).sector
/-- The repairs in effect beside the fused ones: those of the sector, and those of this run alone (R465). -/
def Start.repairs (x : Start) : List DWord := sectorRecords x.sectorNow ++ x.extra

end Sys2Proof.Machine
end

