-- ==== Sys2Proof/Machine/Cache.lean ====
section
/-!
DEFINITION. Slices of main memory (R393), the L2 and Granary lines with the choice of a victim (R285, R445 to R447, R463), and the L1
sectors of a core (R287, R288).
-/
namespace Sys2Proof.Machine

/-! ### Slices -/

/-- A field of a number. -/
def bitsOf (x lo len : Nat) : Nat := (x >>> lo) % 2 ^ len

/-- The fitted slice of a main-memory address and the address within it (R393). -/
def sliceOf (s : State) (a : Nat) : Nat × Nat :=
  let n := match s.start.retired with
    | none => Config.slices
    | some _ => Config.slices - 8
  let e := a / 4096 % n
  let f := match s.start.retired with
    | none => e
    | some r => if e < 8 * r then e else e + 8
  (f, a / 4096 / n * 4096 + a % 4096)

/-! ### L2 and the Granary (R446, R447) -/

/-- Sets of a slice's cache. -/
def cacheSets (granary : Bool) : Nat := if granary then 16384 else 256
/-- The slice and the set of a line: the spec gives no index, and the line's number within its slice is taken. DESIGN CHOICE, unsafe: assumption 60. -/
def setOf (s : State) (granary : Bool) (line : Nat) : Nat × Nat :=
  let x := sliceOf s (512 * line)
  (x.1, x.2 / 512 % cacheSets granary)

/-- L2 ways of a die that hold the staging stores of 64 KiB of its deterministic teams; a way of a die is 4 MiB (R404, R446). -/
def stagingWays (s : State) (granary : Bool) (slice : Nat) : Nat :=
  if granary then 0
  else ((s.teams.filter fun t => !t.released && t.stageDie == slice / 32 && s.launches.any fun l => l.num == t.launch && l.rcd.det).length + 63)
    / 64
/-- The ways of a slice that take part in replacement: those of HOME 2 lines, of staging lines and disabled ways do not (R286, R404, R446,
R463). -/
def usableWays (s : State) (granary : Bool) (slice : Nat) : List Nat :=
  let rs := s.start.repairs ++ s.env.fused
  let off (w : Nat) : Bool := rs.any fun r => bitsOf r.toNat 60 4 == 3 && bitsOf r.toNat 47 1 == (if granary then 1 else 0) &&
    bitsOf r.toNat 56 4 * 32 + bitsOf r.toNat 48 8 == slice && bitsOf r.toNat 40 5 == w
  let n := if granary then 16 else 24 - (SMap.get 0 s.priv.l2pq (slice / 32) * 2 + 3) / 4 - stagingWays s granary slice
  (List.range n).filter fun w => !off w

/-- MIN and MAX of a class (R446). -/
def quotaOf (s : State) (granary : Bool) (cls : Nat) : Nat × Nat :=
  let q := if granary then SMap.get 0x1000 s.priv.grq cls else SMap.get 0x1800 s.priv.l2q cls
  (bitsOf q.toNat 0 5, bitsOf q.toNat 8 5)

/-- The victim of a fill by a class in a full set whose lines stand most recently used first, with the ways of staging lines, which count
as class 2; `none`: the line is not allocated (R447). DESIGN CHOICE, unsafe: assumption 60. -/
def victim (s : State) (granary : Bool) (staging cls : Nat) (here : List CacheLine) : Option CacheLine :=
  let lru (p : CacheLine → Bool) : Option CacheLine := here.reverse.find? p
  let occ (c : Nat) : Nat := (here.filter fun x => x.cls == c).length + if c = 2 then staging else 0
  let over_ (x : CacheLine) : Bool := (quotaOf s granary x.cls).2 < occ x.cls
  let own (x : CacheLine) : Bool := x.cls == cls
  (lru over_ <|> if (quotaOf s granary cls).2 ≤ occ cls then lru own else none) <|>
    (lru (fun x => (quotaOf s granary x.cls).1 < occ x.cls) <|> lru own)

/-- An access by a class to a line of a cache: whether the cache holds the line afterwards, what was evicted, and the lines. A hit
keeps the line's class (R445). DESIGN CHOICE, unsafe: assumption 60. -/
def useLine (s : State) (granary : Bool) (line cls : Nat) (store : Bool) (ls : List CacheLine) : Bool × Option CacheLine × List CacheLine :=
  match ls.find? fun x => x.line == line with
  | some x => (true, none, { x with dirty := x.dirty || store } :: ls.filter fun y => y.line != line)
  | none =>
    let k := setOf s granary line
    let ways := usableWays s granary k.1
    let inSet (x : CacheLine) : Bool := setOf s granary x.line == k
    let here := ls.filter fun x => inSet x && ways.contains x.way
    let rest := ls.filter fun x => !inSet x
    match ways.find? fun w => !here.any fun x => x.way == w with
    | some w => (true, none, { line := line, way := w, cls := cls, dirty := store } :: here ++ rest)
    | none => match victim s granary (stagingWays s granary k.1) cls here with
      | some v => (true, some v, { line := line, way := v.way, cls := cls, dirty := store } :: (here.filter fun x => x.line != v.line) ++ rest)
      | none => (false, none, ls)

/-- An access to a line of main memory at its home: L2, and on a miss the Granary, which an evicted dirty line of L2 makes dirty. DESIGN CHOICE, unsafe: assumption 60. -/
def State.useCaches (s : State) (key cls : Nat) (store : Bool) : State :=
  let line := key / 512
  let hit := s.l2.any fun x => x.line == line
  let (held, v, l2) := useLine s false line cls store s.l2
  if hit then { s with l2 := l2 }
  else
    let gr := (useLine s true line cls (store && !held) s.granary).2.2
    let old := match v with
      | some x => if x.dirty then some x.line else none
      | none => none
    { s with l2 := l2, granary := gr.map fun (x : CacheLine) => if some x.line == old then { x with dirty := true } else x }

/-- The traffic class of a launch's accesses (R364): graphics 0, tensor and copy 1, management 3. DESIGN CHOICE, unsafe: assumption 60. -/
def trafficClass (cls : Nat) : Nat := if cls = 0 then 0 else if cls = 3 then 3 else 1

/-! ### L1 (R287, R288) -/

/-- Pages whose sectors L1 may hold. -/
def Loc.inL1 (l : Loc) : Bool := (l.home == 0 || l.home == 2) && !l.h
/-- A core's sector that holds an address. -/
def State.sector? (s : State) (core key : Nat) : Option L1Sector := s.l1.find? fun x => x.core == core && x.sector == key / 128
/-- A sector leaves a core's L1: it may at any time. -/
def State.dropSector (s : State) (core key : Nat) : State :=
  { s with l1 := s.l1.filter fun x => !(x.core == core && x.sector == key / 128) }
/-- A sector enters a core's L1 of 256 KiB, which holds 2,048: one more makes the oldest leave (R1, R287). DESIGN CHOICE, unsafe: assumption 60. -/
def State.addSector (s : State) (core key : Nat) (b : List Byte) : State :=
  let t := s.dropSector core key
  let old := ((t.l1.filter fun x => x.core == core).drop 2047).map (·.sector)
  { t with l1 := ⟨core, key / 128, b⟩ :: t.l1.filter fun x => !(x.core == core && old.contains x.sector) }
/-- Every sector leaves every L1. -/
def State.dropL1 (s : State) : State := { s with l1 := [] }
/-- Every sector of a core leaves its L1. -/
def State.dropSectors (s : State) (core : Nat) : State := { s with l1 := s.l1.filter fun x => x.core != core }

end Sys2Proof.Machine
end

