-- ==== Sys2Proof/Machine/Translate.lean ====
section
/-!
DEFINITION. Addresses: the package's tables by number, the domain configuration block (R389), the page walk (R390) and
its cached outcomes (R391), the scratch and cluster windows (R274), homes and apertures (R285, R441), and the admission
of an access by page attributes (R170).
-/
namespace Sys2Proof.Machine

/-! ### Records by number -/

def State.dom (s : State) (d : Nat) : Domain := if d = 0 then s.dom0 else s.dom1
def State.setDom (s : State) (d : Nat) (x : Domain) : State := if d = 0 then { s with dom0 := x } else { s with dom1 := x }
def State.pol (s : State) (k : Nat) : PolicyCore :=
  match k with
  | 0 => s.pol0 | 1 => s.pol1 | 2 => s.pol2
  | _ => s.pol3
def State.setPol (s : State) (k : Nat) (p : PolicyCore) : State :=
  match k with
  | 0 => { s with pol0 := p } | 1 => { s with pol1 := p } | 2 => { s with pol2 := p }
  | _ => { s with pol3 := p }
def State.core (s : State) (c : Nat) : Core := SMap.get {} s.coreTab c
def State.setCore (s : State) (c : Nat) (x : Core) : State := { s with coreTab := SMap.set {} s.coreTab c x }
def State.team? (s : State) (t : Nat) : Option Team := s.teams.find? fun x => x.tid == t
def State.team (s : State) (t : Nat) : Team := (s.team? t).getD {}
def State.setTeam (s : State) (t : Team) : State :=
  { s with teams := s.teams.map fun x => if x.tid == t.tid then t else x }
def State.cluster (s : State) (c : Nat) : Cluster := (s.clusters.find? fun x => x.cid == c).getD {}
def State.setCluster (s : State) (c : Cluster) : State :=
  { s with clusters := s.clusters.map fun x => if x.cid == c.cid then c else x }
def State.launch? (s : State) (n : Nat) : Option Launch := s.launches.find? fun x => x.num == n
def State.launch (s : State) (n : Nat) : Launch := (s.launch? n).getD {}
def State.setLaunch (s : State) (l : Launch) : State :=
  { s with launches := s.launches.map fun x => if x.num == l.num then l else x }
def State.queue (s : State) (i : Nat) : LaunchQueue := SMap.get {} s.queues i
def State.setQueue (s : State) (i : Nat) (q : LaunchQueue) : State := { s with queues := SMap.set {} s.queues i q }

/-- The team, cluster and launch of the group in focus. -/
def State.gteam (s : State) : Team := s.team s.g.team
def State.gcluster (s : State) : Cluster := s.cluster s.gteam.cluster
def State.glaunch (s : State) : Launch := s.launch s.gteam.launch
/-- Its host domain and address space (R388). -/
def State.gdom (s : State) : Nat := s.glaunch.dom
def State.gasn (s : State) : Nat := s.glaunch.asn

/-- The port of a domain's device-initiated traffic: its own, or the other one while ALTPATH is set (R443). -/
def State.hostPort (s : State) (d : Nat) : Nat := if (s.dom d).altpath then 1 - d else d
/-- Send a message to a domain's host. -/
def State.toHost (s : State) (m : HostMsg) : State := { s with hostOut := m :: s.hostOut }

/-- Every resident group. -/
def State.groups (s : State) : List Group := if s.g.live then s.g :: s.others else s.others
/-- Apply a change to every group. -/
def State.mapGroups (s : State) (f : Group → Group) : State := { s with g := f s.g, others := s.others.map f }

/-! ### Apertures and poison -/

def hostBase : Nat := 0xE000000000000
def peerBase : Nat := 0xC000000000000
def home1Base : Nat := 0xFF00000000000
def home2Base : Nat := 0xFF10000000000

/-- A location in the host window; in the peer window (R441). -/
def isHost (a : Nat) : Bool := hostBase ≤ a && a < hostBase + 2 ^ 48
def isPeer (a : Nat) : Bool := peerBase ≤ a && a < peerBase + 512 * 2 ^ 40
def isRemote (a : Nat) : Bool := isHost a || isPeer a

/-- Bytes of the word that one poison mark covers (R456, R460): 8 in core SRAM, 16 in main memory and in a HOME 2 line. DEDUCED, unsafe: assumption 55. -/
def poisonUnit (key : Nat) : Nat := if (home1Base ≤ key ∧ key < home2Base) ∨ 2 ^ 60 ≤ key then 8 else 16
/-- The poison mark that covers a byte: where its word begins. DEDUCED, unsafe: assumption 55. -/
def poisonKey (key : Nat) : Nat := key / poisonUnit key * poisonUnit key

/-- Some byte of the range is poisoned. -/
def poisoned (s : State) (key n : Nat) : Bool := s.poison.any fun p => poisonKey key ≤ p && p ≤ poisonKey (key + n - 1)

/-! ### Home nodes (R285, R393, R414, R415) and error records (R461) -/

/-- The home node and the LINE of a location; the host and peer windows have none here (R414, R415). -/
def homeNode (s : State) (key home : Nat) : Option (Nat × Nat) :=
  if 2 ^ 60 ≤ key then
    let t := s.team ((key - 2 ^ 60) / 2 ^ 21)
    some (256 + t.core, t.teamlin % 2 ^ 15 * 4096 + key % 2 ^ 21 / 512)
  else if home2Base ≤ key then
    let off := (key - home2Base) % 2 ^ 32
    some ((key - home2Base) / 2 ^ 32 * 32 + off / 512 % 32, off / 512)
  else if home1Base ≤ key then
    some (256 + (key - home1Base) / 2 ^ 21, 2 ^ 27 + (key - home1Base) % 2 ^ 21 / 512)
  else if isRemote key then none
  else
    let (p, w) := sliceOf s key
    some (if home = 3 then 128 + p else p, w / 512 % 2 ^ 28)
/-- STRUCT and UNIT of a home node: the Stiles of HOME 3 pages stand at the memory slices (R461). DEDUCED, unsafe: assumption 64. -/
def nodeUnit (n : Nat) : Nat × Nat := if 256 ≤ n then (1, n - 256) else if 128 ≤ n then (5, (n - 128) / 8) else (3, n)
/-- The structure and the unit of a location for an error record. DEDUCED, unsafe: assumption 64. -/
def unitOf (s : State) (key home : Nat) : Nat × Nat :=
  match homeNode s key home with
  | some (n, _) => nodeUnit n
  | none => (7, 0)

/-- Write `n` bytes; a write that covers a poisoned word clears its poison, and one that covers part of it merges
nothing (R460). DESIGN CHOICE, unsafe: assumption 20. -/
def State.write (s : State) (key n v : Nat) : State :=
  if s.poison.isEmpty then { s with mem := Memory.write s.mem key n v }
  else
    let bad := s.poison.filter fun p => !(key ≤ p && p + poisonUnit p ≤ key + n)
    { s with
      poison := bad
      mem := (List.range n).foldl
        (fun m i => if bad.contains (poisonKey (key + i)) then m else Memory.setByte m (key + i) (BitVec.ofNat 8 (v / 256 ^ i)))
        s.mem }
/-- Write a list of bytes that one engine write carries. -/
def State.writeBytes (s : State) (key : Nat) (b : List Byte) : State := s.write key b.length (ofBytes b)

/-- A bit of a word set or cleared. -/
def putBit {n : Nat} (x : BitVec n) (k : Nat) (b : Bool) : BitVec n :=
  if b then x ||| BitVec.ofNat n (2 ^ k) else x &&& ~~~(BitVec.ofNat n (2 ^ k))
/-- Set bits of IRQPEND (R467). -/
def State.irq (s : State) (bit : Nat) : State := { s with priv := { s.priv with irqpend := putBit s.priv.irqpend bit true } }

/-- Append an error record (R461): a full queue drops it and counts ERRDROP; records consumed beyond those written count as none left (R424). The syndrome or retry count of classes 0 to 4 is free. DESIGN CHOICE, safe: assumption 3. -/
def State.errRecord (s : State) (cls struct unit info addr : Nat) : State :=
  let n := s.priv.errsize.toNat / 32
  if n ≤ s.priv.errwptr.toNat - s.priv.errrptr.toNat then { s with priv := { s.priv with errdrop := s.priv.errdrop + 1 } }
  else
    let info := if cls ≤ 4 then (Config.freeWord s.fresh).toNat else info
    let b := leBytes 8 s.clock ++ leBytes 1 cls ++ leBytes 1 struct ++ leBytes 2 unit ++ leBytes 4 info ++ leBytes 8 addr ++
      leBytes 8 0
    let s := { s with fresh := s.fresh + 1 }.writeBytes (s.priv.errbase.toNat + 32 * (s.priv.errwptr.toNat % n)) b
    { s with priv := { s.priv with errwptr := s.priv.errwptr + 1 } }.irq 2

/-! ### The domain configuration block (R388, R389) -/

/-- The device reads a domain's block: at each launch of the domain and at each delivery of a fault to it (R388). A block that holds an
uncorrectable error is reported, and the one read before stands. DEDUCED, unsafe: assumption 57. -/
def State.readBlock (s : State) (d : Nat) : State :=
  let a := (s.dom d).dcfg.toNat
  if poisoned s a 256 then s.errRecord 1 3 (unitOf s a 0).2 0 a
  else s.setDom d { s.dom d with block := Memory.read s.mem a 256 }
/-- A field of the block as the device has read it. DEDUCED, unsafe: assumption 57. -/
def dcb (s : State) (d off n : Nat) : Nat := bitsOf (s.dom d).block (8 * off) (8 * n)
def dcbAstBase (s : State) (d : Nat) : Nat := dcb s d 0 8
def dcbNasn (s : State) (d : Nat) : Nat := dcb s d 8 4
def dcbPfdt (s : State) (d : Nat) : Nat := dcb s d 16 8
def dcbGfqBase (s : State) (d : Nat) : Nat := dcb s d 24 8
def dcbGfqLog2 (s : State) (d : Nat) : Nat := dcb s d 32 1
def dcbScqLog2 (s : State) (d : Nat) : Nat := dcb s d 33 1
def dcbLfqLog2 (s : State) (d : Nat) : Nat := dcb s d 34 1
def dcbGfqVec (s : State) (d : Nat) : Nat := dcb s d 36 2
def dcbScqVec (s : State) (d : Nat) : Nat := dcb s d 38 2
def dcbLfqVec (s : State) (d : Nat) : Nat := dcb s d 40 2
def dcbScqBase (s : State) (d : Nat) : Nat := dcb s d 48 8
def dcbLfqBase (s : State) (d : Nat) : Nat := dcb s d 56 8
def dcbFroute (s : State) (d : Nat) : Nat := dcb s d 64 8

/-! ### Faults of an access -/

/-- A fault of step 1, 2 or 4 of R168 or of an entry: precise. -/
def preciseAt (c : TrapCode) (va : DWord) (sub : Nat := 0) : Trap := { code := c, addr := va, sub := sub }
/-- A fault of step 3 or 5 of R168: region-restart. -/
def restartAt (c : TrapCode) (va : DWord) (sub : Nat := 0) : Trap := { code := c, kind := .restart, addr := va, sub := sub }
/-- The access at `va` needs data at a place that holds an uncorrectable error (R458). -/
def flawed (va : DWord) (key home : Nat) : Trap := { restartAt .uncorrectableData va with errAt := some (key, home) }
/-- The error record of a consumed uncorrectable error (R461). -/
def State.note (s : State) (t : Trap) : State :=
  match t.errAt with
  | some (k, h) => s.errRecord 1 (unitOf s k h).1 (unitOf s k h).2 0 k
  | none => s

/-! ### Page tables (R390) -/

/-- The shift and the table size of a level. -/
def levelShift (l : Nat) : Nat :=
  match l with
  | 0 => 16 | 1 => 21 | 2 => 30 | 3 => 39
  | _ => 48
/-- Bytes of a page of a leaf's level. -/
def pageBytes (l : Nat) : Nat := 2 ^ levelShift l

/-- A present entry breaks its layout at this level (R390). -/
def entryBad (l e : Nat) : Bool :=
  if bitsOf e 7 1 = 1 then
    l > 2 || bitsOf e 52 1 != 0 || bitsOf e 8 8 != 0 || bitsOf e 5 2 != 0 || (l == 1 && bitsOf e 16 5 != 0) ||
      (l == 2 && bitsOf e 16 14 != 0)
  else l == 0 || bitsOf e 52 12 != 0 || bitsOf e 1 6 != 0 || (l != 1 && bitsOf e 8 4 != 0)

/-- The walk from a table down the levels: the leaf's level and entry. An entry that holds an uncorrectable error is consumed (R458, R460). -/
def walkFrom (s : State) (va : DWord) : List Nat → Nat → Except Trap (Nat × Nat)
  | [], _ => .error (restartAt .pageNotPresent va)
  | l :: ls, table =>
    let at_ := table + 8 * ((va.toNat >>> levelShift l) % (if l = 0 then 32 else 512))
    let e := Memory.read s.mem at_ 8
    if poisoned s at_ 8 then .error (flawed va at_ 0)
    else if bitsOf e 0 1 = 0 then .error (restartAt .pageNotPresent va)
    else if entryBad l e then .error (restartAt .protection va 1)
    else if bitsOf e 7 1 = 1 then .ok (l, e)
    else walkFrom s va ls (bitsOf e 8 44 * 256)

/-- The walk of a virtual address, from the root table of its address space (R389). -/
def walk (s : State) (d asn : Nat) (va : DWord) : Except Trap (Nat × Nat) :=
  let at_ := dcbAstBase s d + 16 * asn
  let e := Memory.read s.mem at_ 8
  if dcbNasn s d ≤ asn then .error (restartAt .pageNotPresent va)
  else if poisoned s at_ 8 then .error (flawed va at_ 0)
  else if bitsOf e 0 1 = 0 then .error (restartAt .pageNotPresent va)
  else walkFrom s va [4, 3, 2, 1, 0] (bitsOf e 12 40 * 4096)

/-- A cached translation of the page that holds an address (R391). DESIGN CHOICE, unsafe: assumption 50. -/
def tlbFind (s : State) (d asn : Nat) (va : DWord) : Option (Nat × Nat) :=
  (s.tlb.find? fun e => e.dom == d && e.asn == asn && e.base == va.toNat / pageBytes e.level * pageBytes e.level).map
    fun e => (e.level, e.leaf.toNat)

/-! ### Locations -/

/-- The kinds of access a page permits (R284). -/
inductive Access where
  | load | store | atomic | fetch
deriving DecidableEq, Repr

/-- The key of a byte of a team's scratch. DESIGN CHOICE, safe: assumption 45. -/
def scratchKey (team off : Nat) : Nat := 2 ^ 60 + team * 2 ^ 21 + off

/-- The fitted capacity: 128 slices, or 120 with a stack retired (R393). -/
def capacity (s : State) : Nat := (match s.start.retired with
  | none => Config.slices
  | some _ => Config.slices - 8) * Config.sliceBytes

/-- The physical address lies where HOME admits it (R285, R441, R475): `none`, or the SUB of the refusal. -/
def homeRefusal (s : State) (home pa : Nat) : Option Nat :=
  if s.priv.memtop.toNat ≤ pa ∧ pa < peerBase then some 2
  else if home = 1 then
    let c := (pa - home1Base) / 0x200000
    if home1Base ≤ pa ∧ c < Config.cores ∧ pa - home1Base - c * 0x200000 < (s.core c).pin then none else some 3
  else if home = 2 then
    let dd := (pa - home2Base) / 2 ^ 32
    if home2Base ≤ pa ∧ dd < 4 ∧ pa - home2Base - dd * 2 ^ 32 < SMap.get 0 s.priv.l2pq dd * 0x200000 then none else some 3
  else if pa < s.priv.memtop.toNat ∨ (home = 3 ∧ isRemote pa) then none else some 3

/-- Attribute combinations that refuse every access (R284). -/
def comboBad (e : Nat) : Bool :=
  let pfd := bitsOf e 58 6
  let g := bitsOf e 57 1 == 1
  let h := bitsOf e 55 1 == 1
  let home := bitsOf e 53 2
  (bitsOf e 3 1 == 1 && (pfd != 0 || g || h)) || (g && (home == 1 || pfd != 0 || h)) || (h && (home == 1 || home == 3))

/-- U, R, W and X against the access (R284); policy cores pass U. -/
def permits (e : Nat) (user : Bool) (k : Access) : Bool :=
  (!user || bitsOf e 4 1 == 1) &&
  match k with
  | .load => bitsOf e 1 1 == 1
  | .store => bitsOf e 2 1 == 1
  | .atomic => bitsOf e 1 1 == 1 && bitsOf e 2 1 == 1
  | .fetch => bitsOf e 3 1 == 1

/-- Bits 63:57 copy bit 56 (R168 step 1). -/
def canonical (va : DWord) : Bool := va.toNat < 2 ^ 56 || 2 ^ 64 - 2 ^ 56 ≤ va.toNat

/-- The checks of a leaf: the rest of step 3, and step 4, of R168 in the order of R390. A formatted page needs its descriptor's entry, which
may hold an uncorrectable error (R24, R458). -/
def leafLoc (s : State) (d : Nat) (user : Bool) (va : DWord) (k : Access) (l e : Nat) : Except Trap Loc :=
  let pa := bitsOf e 16 36 * 2 ^ 16 + va.toNat % pageBytes l
  if !permits e user k then .error (restartAt .protection va 0)
  else match homeRefusal s (bitsOf e 53 2) pa with
    | some sub => .error (restartAt .protection va sub)
    | none =>
      let entry := dcbPfdt s d + 32 * bitsOf e 58 6
      if comboBad e then .error (preciseAt .format va)
      else if bitsOf e 58 6 != 0 && poisoned s entry 32 then .error (flawed va entry 0)
      else .ok { key := pa, home := bitsOf e 53 2, pfd := bitsOf e 58 6, g := bitsOf e 57 1 == 1,
                 d := bitsOf e 56 1 == 1, h := bitsOf e 55 1 == 1 }

/-- A walk and the checks of its leaf. DESIGN CHOICE, unsafe: assumption 50. -/
def walkLoc (s : State) (d asn : Nat) (user : Bool) (va : DWord) (k : Access) : Except Trap Loc :=
  match walk s d asn va with
  | .error t => .error t
  | .ok (l, e) => leafLoc s d user va k l e

/-- Translation through page tables: a cached leaf that admits the access, else a walk, because a refused access is never cached
(R391). -/
def translatePt (s : State) (d asn : Nat) (user : Bool) (va : DWord) (k : Access) : Except Trap Loc :=
  match tlbFind s d asn va with
  | none => walkLoc s d asn user va k
  | some (l, e) => match leafLoc s d user va k l e with
    | .ok x => .ok x
    | .error _ => walkLoc s d asn user va k

/-- The team or cluster window (R274): `none` when the address lies in neither. -/
def windowLoc (s : State) (va : DWord) : Option (Except Trap Loc) :=
  let a := va.toNat
  let t := s.gteam
  if a / 2 ^ 48 = 0x00F0 then
    let off := a % 2 ^ 48
    some (if off < t.scrsz then .ok { key := scratchKey t.tid off } else .error (restartAt .protection va 3))
  else if a / 2 ^ 48 = 0x00F1 then
    let k := a % 2 ^ 48 / 0x200000
    let off := a % 0x200000
    let c := s.gcluster
    some (if k < c.w * c.h && off < t.scrsz then
        match s.teams.find? fun x => x.cluster == c.cid && x.k == k && x.launch == t.launch && x.resident with
        | some x => .ok { key := scratchKey x.tid off }
        | none => .error (restartAt .protection va 3)
      else .error (restartAt .protection va 3))
  else none

/-- The location of an address for the group in focus, or for a policy core, whose data addresses are physical
(DESIGN CHOICE, unsafe: assumption 6). -/
def translate (s : State) (va : DWord) (k : Access) : Except Trap Loc :=
  if !canonical va then .error (preciseAt .protection va 4)
  else match s.party with
    | .policy _ =>
      if va.toNat < s.priv.memtop.toNat then .ok { key := va.toNat, home := 0 }
      else .error (restartAt .protection va 2)
    | .group => match windowLoc s va with
      | some r => r
      | none => translatePt s s.gdom s.gasn true va k

/-- Cache the translation of an address that an access has used (R391). DESIGN CHOICE, unsafe: assumption 50. -/
def State.touchTlb (s : State) (va : DWord) : State :=
  match tlbFind s s.gdom s.gasn va, walk s s.gdom s.gasn va with
  | none, .ok (l, e) =>
    { s with tlb := { dom := s.gdom, asn := s.gasn, base := va.toNat / pageBytes l * pageBytes l, level := l,
                      leaf := BitVec.ofNat 64 e } :: s.tlb }
  | _, _ => s

/-- What an access of a group leaves behind beside its effect: its translation (R391), the line in L2 and the Granary, in the launch's
traffic class or the one given (R364, R447), and the core's L1 without the sector (R288). DESIGN CHOICE, unsafe: assumption 60. DESIGN CHOICE, unsafe: assumption 50. -/
def State.touch (s : State) (va : DWord) (store : Bool := false) (cls : Option Nat := none) : State :=
  match s.party, windowLoc s va with
  | .group, none =>
    let t := s.touchTlb va
    match translate s va .load with
    | .ok l =>
      let t := if l.inL1 then t.dropSector s.gteam.core l.key else t
      if l.home == 0 then t.useCaches l.key (cls.getD (trafficClass s.glaunch.cls)) store else t
    | .error _ => t
  | _, _ => s

/-! ### Admission by attributes (R170) -/

/-- The rows of R170 decided at an access; GLD, GST and the matrix sources are decided by their own entries. -/
inductive Admit where
  /-- SLD, SLD.ACQ -/
  | scalarLoad
  /-- SST, SST.REL, store-stream push -/
  | plainStore
  | laneLoad (raw : Bool)
  | laneStore (raw : Bool)
  | elem
  /-- SATOM, VATOM -/
  | atomic
  | gradAdd
  /-- stream load with ESZ = 0 -/
  | streamLoad
deriving DecidableEq, Repr

def Admit.ok (k : Admit) (l : Loc) : Bool :=
  if l.h then false
  else match k with
    | .scalarLoad => true
    | .plainStore | .streamLoad => l.pfd == 0
    | .laneLoad raw | .laneStore raw => l.pfd == 0 || raw
    | .elem => l.pfd != 0 && !l.g
    | .atomic => l.pfd == 0 && !l.g
    | .gradAdd => l.pfd == 0 && l.g && l.home != 1

end Sys2Proof.Machine
end

