-- ==== Sys2Proof/Machine/Element.lean ====
section
/-!
DEFINITION. Formatted elements: the page format descriptors (R24, R25), element positions and scales (R26, R29), their decoding
into f32 (R27, R30) and the encoding of f32 values into the kinds (R17, R19, R23, R31).
-/
namespace Sys2Proof.Machine

/-- A valid page format descriptor (R24). -/
structure Pfd where
  dbase : Nat
  spbase : Nat
  blk : Nat
  kind : Nat
deriving DecidableEq, Repr

/-- A 64-bit address sign-extended from bit 56. -/
def ext57 (x : Nat) : Nat := if bitsOf x 56 1 = 1 then 2 ^ 64 - 2 ^ 57 + x % 2 ^ 57 else x % 2 ^ 57

/-- A 32-byte entry, unless it breaks a rule of R25. -/
def pfdParse (e : Nat) : Option Pfd :=
  let kind := bitsOf e 0 4
  let blk := bitsOf e 8 4
  let dbase := bitsOf e 128 64
  let spbase := bitsOf e 64 64
  if bitsOf e 192 64 ≠ 0 ∨ bitsOf e 12 52 ≠ 0 ∨ bitsOf e 4 4 ≠ 0 ∨ kind = 0 ∨ 10 < kind ∨ 4 < blk ∨ (kind = 7 ∧ blk ≠ 2) ∨
      (9 ≤ kind ∧ blk ≠ 0) ∨ dbase % 512 ≠ 0 ∨ spbase % 512 ≠ 0 then none
  else some ⟨ext57 dbase, ext57 spbase, blk, kind⟩
/-- The descriptor with an index. -/
def pfdOf (s : State) (d idx : Nat) : Option Pfd := pfdParse (Memory.read s.mem (dcbPfdt s d + 32 * idx) 32)

/-- An access at `va` through a page with a PFD index breaks no rule of R25. -/
def formatOk (s : State) (d idx : Nat) (va : DWord) : Bool := idx == 0 || (pfdOf s d idx).any fun p => decide (p.dbase ≤ va.toNat)

/-- Element width in bits (R26). -/
def kindWidth : Nat → Nat
  | 1 | 2 | 10 => 16 | 3 | 4 | 8 => 8 | 5 => 6 | 6 | 7 => 4 | 9 => 32
  | _ => 0
/-- The float format of a kind. -/
def kindFmt : Nat → Option Fmt
  | 1 => some f16 | 2 => some bf16 | 3 => some e8 | 4 => some w8 | 5 => some f6 | 6 => some f4
  | _ => none
/-- The exact value of an element of a float kind or s8. -/
def elemVal (kind raw : Nat) : XVal :=
  match kindFmt kind with
  | some f => f.decode false raw
  | none => ofInteger (toSigned 8 raw)
/-- Elements that share a scale (R24); 0: no scales. -/
def Pfd.block (p : Pfd) : Nat := if p.blk = 0 then 0 else 32 * 2 ^ (p.blk - 1)

/-- The q4 codebook (R28). -/
def q4T (m : Nat) : Nat := [0x2964, 0x3012, 0x32E8, 0x34FA, 0x36AB, 0x3856, 0x39A9, 0x3C00].getD m 0
/-- T[m] × (q + 1) × 2^−8. -/
def q4Mag (m q : Nat) : XVal := (XVal.mul (f16.decode false (q4T m)) (.fin (q + 1 : Nat) (-8))).1
/-- The decode of R30. -/
def q4Dec (c q sc : Nat) : Nat :=
  match f32.decode false sc with
  | .nan => f32.nan
  | x =>
    let v := rne32 (XVal.mul (q4Mag (c % 8) q) x).1
    if c / 8 % 2 = 1 then v ^^^ 0x80000000 else v
/-- The distance between two magnitudes. -/
def xdist (x y : XVal) : XVal := (XVal.add false x y.neg).1.abs
/-- The code of R31 for an f32 value under a scale code and a positive finite super-scale, and its flags. DEDUCED, unsafe: assumption 43. -/
def q4Enc (x q sc : Nat) : Nat × Nat :=
  match f32.decode false x with
  | .nan => (0, fNV)
  | v =>
    let a := v.abs
    let dec (m : Nat) : XVal := f32.decode false (q4Dec m q sc)
    let sign := if v.isNeg then 8 else 0
    if XVal.cmp a (dec 7) == .gt then (sign + 7, fSAT)
    else
      let best := (List.range 8).foldl (fun b m =>
        match XVal.cmp (xdist a (dec m)) (xdist a (dec b)) with
        | .lt => m
        | .eq => if m % 2 = 0 && b % 2 = 1 then m else b
        | .gt => b) 0
      (sign + best, 0)

/-- An element with its scale as an f32 pattern (R27). -/
def elemF32 (kind raw : Nat) (scale : Option Nat) : Nat :=
  match scale with
  | none => rne32 (elemVal kind raw)
  | some sc => rne32 (XVal.mul (elemVal kind raw) (bf16.decode false sc)).1

/-- One value encoded into a kind: f16 and bf16 by R17 and R18, the narrow kinds by R23, s8 by R19 under RNE. -/
def encElem (kind : Nat) (r : Rnd) (sat ftz : Bool) (x : Nat) : Nat × Nat :=
  match kind with
  | 1 => fpUn' f16 r sat ftz x
  | 2 => fpUn' bf16 r sat ftz x
  | 8 => toIntSat 8 true .rne (f32.decode false x)
  | k => match kindFmt k with
    | some f => f.narrow (f32.isSnan x) (f32.decode false x)
    | none => (x, 0)
where
  /-- An f32 value rounded into another format (R155, R156). -/
  fpUn' (f : Fmt) (r : Rnd) (sat ftz : Bool) (x : Nat) : Nat × Nat :=
    let v := f32.decode ftz x
    let (b, fl) := f.settle r sat ftz v
    (b, fl ||| (if f32.isSnan x then fNV else 0))

end Sys2Proof.Machine
end

