-- ==== Sys2Proof/Machine/Forms.lean ====
section
/-!
DEFINITION. The static forms of the lane instructions: for each instruction, how it uses its operand fields (R47,
R111, R238), which types, rounding, `.sat`, `.ftz` and pd it accepts (R64 and each entry), and its latency class (R71).
`LView` is what the shared lane operations read of an instruction; `LView.ok` and the `acc` checks are the
RESERVED_FIELD checks of step 2 of R67.
-/
namespace Sys2Proof

/-- A 64-bit type, whose operands are even/odd pairs (R10). -/
def LType.wide : LType → Bool
  | .s64 | .n64 | .f64 => true
  | _ => false

/-- A packed type (R10). -/
def LType.packed : LType → Bool
  | .s16x2 | .n16x2 | .s8x4 | .n8x4 | .f16x2 | .bf16x2 | .l16x2 => true
  | _ => false

/-- A signed integer type. -/
def LType.signed : LType → Bool
  | .s32 | .s64 | .s16x2 | .s8x4 => true
  | _ => false

namespace Forms

/-- The type classes of R110. -/
def clsS : List LType := [.s32, .s64, .s16x2, .s8x4]
def clsN : List LType := [.n32, .n64, .n16x2, .n8x4]
def clsI : List LType := clsS ++ clsN
def clsB : List LType := [.b32, .n64]
def clsF : List LType := [.f32, .f64, .f16x2, .bf16x2]
def clsAny : List LType := clsI ++ clsF ++ [.l32, .l16x2, .b32]
/-- The types of VFEXP2, VFLOG2, VFSIN, VFCOS and VFTANH (R150). -/
def clsT : List LType := [.f32, .f16x2, .bf16x2]
/-- The level-index types (R160). -/
def clsL : List LType := [.l32, .l16x2]

/-- How an instruction uses an operand field. -/
inductive Use where
  /-- unused: 0x000 -/
  | no
  /-- an element of the instruction's type: a pair for a 64-bit type -/
  | el
  /-- a 32-bit operand, a 64-bit operand -/
  | w32 | w64
  /-- a predicate number in bits 6:0 (R111) -/
  | pred
  /-- `s0`..`s63` -/
  | sreg
  /-- `s0`..`s63` or a vector register or port (VBALLOT) -/
  | wOrS
  /-- `s0`..`s63` or a group-uniform constant (R138, R140) -/
  | uni
  /-- `s0`..`s63` or `zero` (R182, R224) -/
  | base
  /-- `s0`..`s63` or 0x000 (R220) -/
  | sOrNone
  /-- `zero` alone (R224) -/
  | zero
  /-- a block of n consecutive vector registers at a multiple of the alignment (R238) -/
  | blk (n align : Nat)
  /-- a field whose bits the instruction reads otherwise (R65) -/
  | raw
deriving DecidableEq, Repr

/-- The latency class of R71: no result, a fixed maximum latency, or variable. -/
inductive Lat where
  | none
  | fixed (n : Nat)
  | var
deriving DecidableEq, Repr

/-- What the shared lane operations read of an instruction. -/
structure LView where
  h : LHdr
  vd : Opd := .v 0
  va : Opd := .v 0
  vb : Opd := .v 0
  vc : Opd := .v 0
  ud : Use := .no
  ua : Use := .no
  ub : Use := .no
  uc : Use := .no
  wide : Bool := false
  /-- predicates the instruction reads besides its guard -/
  preds : List PReg := []
  /-- destination predicate; 0: none -/
  pd : PReg := 0
  lat : Lat := .fixed 4
  /-- the vd field is a source (GST) -/
  vdSrc : Bool := false
  /-- vd is read as well as written (VATOM.cas, accumulators) -/
  vdRead : Bool := false
  /-- a matrix instruction, whose accumulator accesses R70 exempts -/
  mx : Bool := false
  /-- it reads or writes memory, or orders those that do: it follows the pushes of the lane stream before it (R312) -/
  mem : Bool := false
  /-- va is read in every lane, active or not (R131) -/
  every : Bool := false
  /-- its results are those that a save does not wait for (R379) -/
  late : Bool := false
deriving DecidableEq, Repr

/-- An even register where the operand is a pair (R10). -/
def pairOk (w : Bool) (n : BitVec 11) : Bool := !w || n.toNat % 2 == 0

/-- The field may stand as a source in this use (R47, R111). -/
def Use.srcOk (u : Use) (wide : Bool) (o : Opd) : Bool :=
  match u, o with
  | .no, .v n => n == 0
  | .el, .v n => pairOk wide n
  | .el, _ => true
  | .w32, _ => true
  | .w64, .v n => pairOk true n
  | .w64, _ => true
  | .pred, .v n => n.toNat < 128
  | .sreg, .s _ => true
  | .wOrS, _ => true
  | .uni, .s _ | .uni, .zero | .uni, .width | .uni, .group | .uni, .team => true
  | .base, .s _ | .base, .zero => true
  | .sOrNone, .s _ => true
  | .sOrNone, .v n => n == 0
  | .zero, .zero => true
  | .blk _ a, .v n => n.toNat % a == 0
  | .raw, .v _ => true
  | _, _ => false

/-- The field may stand as a destination in this use (R47). -/
def Use.dstOk (u : Use) (wide : Bool) (o : Opd) : Bool :=
  match u, o with
  | .no, .v n => n == 0
  | .el, .v n => pairOk wide n
  | .w32, .v _ => true
  | .w64, .v n => pairOk true n
  | .el, .q _ | .w32, .q _ | .w64, .q _ => true
  | .sreg, .s _ => true
  | .wOrS, .v _ | .wOrS, .s _ | .wOrS, .q _ => true
  | .blk _ a, .v n => n.toNat % a == 0
  | .raw, .v _ => true
  | _, _ => false

/-- The vector registers a field names: first register and count. -/
def Use.span (u : Use) (wide : Bool) (o : Opd) : List (Nat × Nat) :=
  match u, o with
  | .el, .v n => [(n.toNat, if wide then 2 else 1)]
  | .w32, .v n | .wOrS, .v n => [(n.toNat, 1)]
  | .w64, .v n => [(n.toNat, 2)]
  | .blk k _, .v n => [(n.toNat, k)]
  | _, _ => []

/-- The operand fields obey their uses. -/
def LView.ok (v : LView) : Bool :=
  (if v.vdSrc then v.ud.srcOk v.wide v.vd else v.ud.dstOk v.wide v.vd) &&
  v.ua.srcOk v.wide v.va && v.ub.srcOk v.wide v.vb && v.uc.srcOk v.wide v.vc

/-- The view of a general-form instruction: all four fields, no use yet. -/
def ofOp (o : LOp) : LView := { h := o.h, vd := o.vd, va := o.va, vb := o.vb, vc := o.vc, wide := o.ty.wide, pd := o.pd }
/-- `vd, va` -/
def alu1 (o : LOp) : LView := { ofOp o with ud := .el, ua := .el }
/-- `vd, va, vb` -/
def alu2 (o : LOp) : LView := { ofOp o with ud := .el, ua := .el, ub := .el }
/-- `vd, va, vb, vc` -/
def alu3 (o : LOp) : LView := { ofOp o with ud := .el, ua := .el, ub := .el, uc := .el }
/-- The same with another latency (R71). -/
def LView.withLat (v : LView) (l : Nat) : LView := { v with lat := .fixed l }

/-- The general mod fields an entry accepts: types, rounding, `.sat`, pd, bit 13 as `.ftz`, op-specific bits. -/
def acc (o : LOp) (tys : List LType) (rnd sat pd ftz : Bool) (xm : BitVec 13) : Bool :=
  tys.contains o.ty && (rnd || o.rnd == .rne) && (sat || !o.sat) && (pd || o.pd == 0) && (ftz || !o.ftz) &&
  (o.x &&& ~~~xm) == 0

/-- No guard and no marker (R140); no guard (R144, R225). -/
def LHdr.plain (h : LHdr) : Bool := !h.sw && h.guard == 0 && !h.gneg
def LHdr.noGuard (h : LHdr) : Bool := h.guard == 0 && !h.gneg

/-- Fields of x = mod[12:0]. -/
def xf (o : LOp) (lo len : Nat) : Nat := (o.x.toNat >>> lo) % 2 ^ len

/-! ### Integer, predicate and cross-lane forms (R112 to R139) -/

def vnop (o : LOp) : LView := { ofOp o with lat := .none }
/-- VADDC, VSUBB: the carry-in predicate is mod[6:0] (R113). -/
def carry (o : LOp) : LView := { alu2 o with preds := [BitVec.ofNat 7 (xf o 0 7)] }
def vmadw (o : LOp) : LView := { ofOp o with ud := .w64, ua := .w32, ub := .w32, uc := .w64 }
def divLat (o : LOp) : Nat := if o.ty.wide then 24 else 12
def vdiv (o : LOp) : LView := (alu2 o).withLat (divLat o)
/-- VSAD, VDOT4. -/
def sum4 (o : LOp) : LView := { ofOp o with ud := .w32, ua := .w32, ub := .w32, uc := .w32 }
def ofImm (i : LImm) : LView := { h := i.h, vd := i.vd, va := i.va, wide := i.ty.wide }
def vmovi (i : LImm) : LView := { ofImm i with ud := .el }
def immAlu (i : LImm) : LView := { ofImm i with ud := .el, ua := .el }
/-- The predicate and the condition VCMPI holds in vd (R65). -/
def vcmpiField (i : LImm) : Nat := match i.vd with
  | .v n => n.toNat
  | _ => 0
def vcmpiPd (i : LImm) : PReg := BitVec.ofNat 7 (vcmpiField i)
def vcmpi (i : LImm) : LView := { ofImm i with ud := .raw, ua := .el, pd := vcmpiPd i }
/-- VCMP, VFCMP, LCMP. -/
def cmp (o : LOp) : LView := { ofOp o with ua := .el, ub := .el }
def vsel (o : LOp) : LView := { alu2 o with preds := [BitVec.ofNat 7 (xf o 0 7)] }
/-- DEDUCED, unsafe: assumption 42. -/
def vclass (o : LOp) : LView := { ofOp o with ua := .el }
/-- The predicate number in an operand field (R111). -/
def predOf : Opd → PReg
  | .v n => BitVec.ofNat 7 n.toNat
  | _ => 0
def plog (o : LOp) : LView :=
  { ofOp o with ua := .pred, ub := .pred, uc := .pred, preds := [predOf o.va, predOf o.vb, predOf o.vc] }
def psetRange (o : LOp) : LView := { ofOp o with ua := .w32, ub := .w32 }
def psetMask (o : LOp) : LView := { ofOp o with ua := .w32 }
def p2v (o : LOp) : LView := { ofOp o with ud := .w32, preds := [BitVec.ofNat 7 (xf o 0 7)] }
def v2p (o : LOp) : LView := { ofOp o with ua := .w32 }
def vshfl (o : LOp) : LView := { ofOp o with every := true, ud := .el, ua := .el, ub := .w32, lat := .fixed 8 }
def vlogstep (o : LOp) : LView := (alu1 o).withLat 8
def vreduce (o : LOp) : LView := { ofOp o with ud := .sreg, ua := .el, lat := .fixed 8 }
def vballot (o : LOp) : LView := { ofOp o with ud := .wOrS, preds := [BitVec.ofNat 7 (xf o 0 7)], lat := .fixed 8 }
/-- DEDUCED, unsafe: assumption 42. -/
def vtopk (o : LOp) : LView := { ofOp o with ud := .blk 3 1, ua := .w32, ub := .w64, uc := .uni, lat := .fixed 16 }
def emset (o : LOp) : LView := { ofOp o with preds := [BitVec.ofNat 7 (xf o 0 7)] }
def emsetSet (o : LOp) : LView := { ofOp o with ua := .sreg }

/-- The operations of R133 and the types, `.sat` and rounding each accepts. -/
def combineOk (o : LOp) (xm : BitVec 13) : Bool :=
  let op := xf o 0 4
  acc o (if op < 3 then clsI ++ [.f32] else clsN ++ [.b32]) (op == 0 && o.ty == .f32) (op == 0 && clsI.contains o.ty)
    false false xm && op < 6

/-! ### Float and level-index forms (R147 to R167) -/

def fma1 (o : LOp) : LView := (alu1 o).withLat 6
def fma2 (o : LOp) : LView := (alu2 o).withLat 6
def fma3 (o : LOp) : LView := (alu3 o).withLat 6
def sfu1 (o : LOp) : LView := (alu1 o).withLat (divLat o)
def sfu2 (o : LOp) : LView := (alu2 o).withLat (divLat o)
def vfscale (o : LOp) : LView := { ofOp o with ud := .el, ua := .el, ub := .w32, lat := .fixed 6 }
def vfdot2 (o : LOp) : LView := (sum4 o).withLat 6

/-- The type with a code of R65. -/
def tyOf : Nat → Option LType
  | 0 => some .s32 | 1 => some .n32 | 2 => some .s64 | 3 => some .n64 | 4 => some .s16x2 | 5 => some .n16x2
  | 6 => some .s8x4 | 7 => some .n8x4 | 8 => some .f32 | 9 => some .f64 | 10 => some .f16x2 | 11 => some .bf16x2
  | 12 => some .l32 | 13 => some .l16x2 | 14 => some .b32
  | _ => none

/-- The source format of VCVT and LCVT, mod[12:9] (R155, R163). -/
def srcTy (o : LOp) : LType := (tyOf (xf o 9 4)).getD .b32

def width64 (t : LType) : Use := if t.wide then .w64 else .w32
def vcvt (o : LOp) : LView := { ofOp o with ud := .el, ua := width64 (srcTy o), lat := .fixed 6 }

/-- The pairs and the fields VCVT accepts (R155). -/
def vcvtOk (o : LOp) : Bool :=
  let s := srcTy o
  let single : List LType := [.s32, .n32, .s64, .n64, .f32, .f64]
  let packed : List LType := [.s16x2, .n16x2, .f16x2, .bf16x2]
  let fd := clsF.contains o.ty
  let fs := clsF.contains s
  ((single.contains s && single.contains o.ty) || (packed.contains s && packed.contains o.ty)) && s != o.ty &&
  acc o clsAny (fd || fs) (fd || !fs) false fd 0x1E00

/-- Elements of a kind of VPACK (R156); 0: not accepted. -/
def packCount (k : Nat) : Nat :=
  if k == 1 || k == 2 then 2 else if k == 3 || k == 4 || k == 8 || k == 5 then 4 else if k == 6 then 8 else 0
def vpackSrc (o : LOp) : Use :=
  match packCount (xf o 9 4) with
  | 4 => .blk 2 2
  | 8 => .blk 4 4
  | _ => .w32
def vpack (o : LOp) : LView := { ofOp o with ud := .w32, ua := vpackSrc o, ub := vpackSrc o, lat := .fixed 6 }
def vpackOk (o : LOp) : Bool :=
  let n := packCount (xf o 9 4)
  n != 0 && acc o [.f32] (n == 2) (n == 2) false (n == 2) 0x1E00
/-- DEDUCED, unsafe: assumption 42. -/
def vunpack (o : LOp) : LView :=
  { ofOp o with ud := .blk (packCount (xf o 9 4)) (packCount (xf o 9 4)), ua := .w32, lat := .fixed 6 }
def vunpackOk (o : LOp) : Bool := packCount (xf o 9 4) != 0 && acc o [.f32] false false false false 0x1E00
/-- DEDUCED, unsafe: assumption 42. -/
def q4super (o : LOp) : LView := { ofOp o with ud := .w32, ua := .w32, lat := .fixed 12 }
/-- DEDUCED, unsafe: assumption 42. -/
def q4scale (o : LOp) : LView := { ofOp o with ud := .w32, ua := .w32, uc := .w32, lat := .fixed 12 }
/-- DEDUCED, unsafe: assumption 42. -/
def q4code (o : LOp) : LView := { ofOp o with ud := .w32, ua := .w32, ub := .w32, uc := .w32, lat := .fixed 12 }
def sli2 (o : LOp) : LView := (alu2 o).withLat 21

/-- LCVT: va by its source format; vb only for l32 to l16x2 (R163). -/
def lcvt (o : LOp) : LView :=
  { ofOp o with ud := .el, ua := width64 (srcTy o), ub := if srcTy o == .l32 && o.ty == .l16x2 then .w32 else .no,
                lat := .fixed 21 }
def lcvtOk (o : LOp) : Bool :=
  let s := srcTy o
  let toL := clsL.contains o.ty
  let pair := match s, o.ty with
    | .f32, .l32 | .f64, .l32 | .l32, .f32 | .l32, .f64 | .f16x2, .l16x2 | .bf16x2, .l16x2 | .l16x2, .f16x2
    | .l16x2, .bf16x2 | .l32, .l16x2 | .l16x2, .l32 => true
    | _, _ => false
  pair && acc o clsAny (!toL) (!toL) false (!toL) (if s == .l16x2 && o.ty == .l32 then 0x1E01 else 0x1E00)

def vstatGet (o : LOp) : LView := { ofOp o with ud := .w32 }
def vstatPut (o : LOp) : LView := { ofOp o with ua := .w32 }
/-- VSOW; `.x2` writes a pair of registers (R166). DEDUCED, unsafe: assumption 42. -/
def vsow (o : LOp) : LView :=
  { ofOp o with ud := if xf o 0 1 == 1 then .blk 2 2 else .w32, ua := .w32, ub := .w32 }

/-! ### Lane memory forms (R181 to R193) -/

/-- The address operands of R182. -/
def addrUse (form1 : Bool) : Use × Use := if form1 then (.w32, .base) else (.w64, .no)
def ofMem (m : LMem) : LView :=
  { h := m.h, vd := m.vd, va := m.va, vb := m.vb, vc := m.vc, ua := (addrUse m.form1).1, ub := (addrUse m.form1).2,
    wide := m.ty.wide, mem := true }
def vld (m : LMem) : LView := { ofMem m with ud := .el, lat := .var }
def vst (m : LMem) : LView := { ofMem m with uc := .el, lat := .none }

/-- The type and size combinations of R183 without the `.elem` row. -/
def memTy (m : LMem) : Bool :=
  match m.ty, m.size with
  | .s32, .byte | .s32, .half | .n32, .byte | .n32, .half | .b32, .word | .n64, .dword => true
  | _, _ => false
def vldOk (m : LMem) : Bool :=
  if m.elem then m.ty == .f32 && m.size == .byte && m.form1 && !m.raw else memTy m
def vstOk (m : LMem) : Bool := memTy m && !m.fresh && !m.elem
def gradAddOk (m : LMem) : Bool := m.ty == .f32 && m.size == .byte && !m.fresh && !m.raw && !m.elem

def vatom (m : LAtom) : LView :=
  { h := m.h, vd := m.vd, va := m.va, vb := m.vb, vc := m.vc, ud := .el, ua := (addrUse m.form1).1,
    ub := (addrUse m.form1).2, uc := .el, wide := m.ty.wide, lat := .var, vdRead := m.op == .cas
    mem := true }
def vatomOk (m : LAtom) : Bool :=
  let arith := match m.op with
    | .and | .or | .xor => false
    | _ => true
  let port := match m.vd with
    | .q _ => true
    | _ => false
  ([LType.s32, .n32, .s64, .n64].contains m.ty || (m.ty == .f32 && arith)) && !(m.op == .cas && port)

def ofGrid (m : LGrid) : LView :=
  { h := m.h, vd := m.vd, va := m.va, vb := m.vb, vc := m.vc, ud := .w32, ua := .w32, ub := .w32, uc := .w32
    mem := true }
def gld (m : LGrid) : LView := { ofGrid m with lat := .var, late := true }
def gst (m : LGrid) : LView := { ofGrid m with vdSrc := true, lat := .none }
def gridOk (m : LGrid) : Bool := m.ty == .f32 || m.ty == .b32

/-! ### Matrix forms (R215, R218, R223, R224) -/

/-- Registers of an accumulator: 64·128/W (R223). -/
def accRegs : Nat := 64 * 128 / Config.W

/-- The designator is valid for the B format (R215); format 0 is decided at execution. -/
def desigOk (bf d : Nat) : Bool :=
  if bf == 1 || bf == 2 then d % 2 == 0 && d < 8 else if bf == 3 || bf == 4 || bf == 5 || bf == 8 then d < 8 else true

/-- The latency of a product by its A format (R71); format 0 is settled at execution from the page's KIND. -/
def mxLat (af : Nat) : Nat :=
  if af == 6 || af == 7 then 22 else if af == 5 then 30 else if af == 3 || af == 4 || af == 8 then 38 else 70

def ofMx (m : LMx) : LView := { h := m.h, vd := m.vd, va := m.va, vb := m.vb, vc := m.vc, mx := true, mem := true }
def mxLdb (m : LMx) : LView := { ofMx m with ua := .sreg, ub := .base, uc := .sOrNone, lat := .none }
def mxMma (m : LMx) : LView :=
  { ofMx m with ud := .blk accRegs 4, ua := .sreg, ub := .base, uc := .sOrNone, vdRead := true,
                lat := .fixed (mxLat m.af.toNat) }
def mxPairE (m : LMx) : LView :=
  { ofMx m with mem := false, ud := .blk accRegs 4, ua := .zero, ub := .zero, vdRead := true, lat := .var }
def mxPairW (m : LMx) : LView := { mxMma m with lat := .var }
def mxZero (m : LMx) : LView := { ofMx m with mem := false, ud := .blk accRegs 4, lat := .fixed 8 }

/-- The encoding checks on the formats, `.sat`, D and the guard (R215, R218, R224, R225). -/
def mxOk (m : LMx) : Bool :=
  let af := m.af.toNat
  let bf := m.bf.toNat
  LHdr.noGuard m.h && af ≤ 8 && bf ≤ 8 && !(af != 0 && bf != 0 && (af == 8) != (bf == 8)) && desigOk bf m.d.toNat &&
  (!m.sat || ((af == 0 || af == 8) && (bf == 0 || bf == 8)))
def mxLdbOk (m : LMx) : Bool := mxOk m && m.af == 0 && !m.sat && m.tag == 0 && m.pw == 0
def mxMmaOk (m : LMx) : Bool := mxOk m && m.tag == 0 && m.pw == 0
def mxPairEOk (m : LMx) : Bool := mxOk m && m.af == 0
def mxZeroOk (m : LMx) : Bool := mxLdbOk m && m.bf == 0 && m.d == 0

/-! ### Rendering, adjoint and tape forms (R238) -/

def ofRen (r : LRen) : LView := { h := r.h, vd := r.vd, va := r.va, vb := r.vb, vc := r.vc, lat := .var, mem := true }
def trace (r : LRen) : LView := { ofRen r with ud := .blk 8 8, ua := .blk 8 8, ub := .sreg }
def hitAdj (r : LRen) : LView := { ofRen r with ud := .blk 15 1, ua := .blk 8 8, ub := .blk 8 8, uc := .blk 3 1 }
def tex (r : LRen) : LView := { ofRen r with ud := .blk 4 4, ua := .blk 3 1, ub := .sreg }
def texAdj (r : LRen) : LView := { ofRen r with ud := .blk 3 1, ua := .blk 3 1, ub := .sreg, uc := .blk 4 4 }
def vbRd (r : LRen) : LView := { ofRen r with ud := .blk 3 2, ua := .w32, ub := .w32, uc := .w32 }
def bary (r : LRen) : LView := { ofRen r with mem := false, ud := .blk 2 1, ua := .blk 9 1, ub := .blk 2 1 }
def baryAdj (r : LRen) : LView := { ofRen r with mem := false, ud := .blk 9 1, ua := .blk 9 1, ub := .blk 2 1, uc := .blk 2 1 }
def edgeSamp (r : LRen) : LView := { ofRen r with ud := .blk 10 2, ua := .blk 4 1, ub := .w32, uc := .w32 }
/-- DISCARD, PARK, REJOIN: no operands. -/
def bare (r : LRen) : LView := { ofRen r with mem := false, lat := .none }
def vdepth (r : LRen) (pd : PReg) : LView := { ofRen r with mem := false, ua := .w32, pd := pd }
def tapePush (r : LRen) (n1 : Nat) : LView := { ofRen r with mem := false, ua := .blk (n1 + 1) 1, lat := .none }
def tapePop (r : LRen) (n1 : Nat) : LView := { ofRen r with mem := false, late := true, ud := .blk (n1 + 1) 1 }

/-! ### The static checks of every instruction -/

/-- VSHFI: imm32[31:8] zero; types and `.sat` of the shift that imm32[7:6] selects (R118). -/
def vshfiOk (i : LImm) : Bool :=
  i.imm.toNat < 256 &&
  match i.imm.toNat / 64 with
  | 0 => (clsI ++ [LType.b32]).contains i.ty && (!i.sat || clsI.contains i.ty)
  | 2 => clsS.contains i.ty && !i.sat
  | _ => (clsN ++ [LType.b32]).contains i.ty && !i.sat
/-- VCMPI: condition at most 5 in vd[11:8], vd[7] zero (R65, R124). -/
def vcmpiOk (i : LImm) : Bool := vcmpiField i / 256 ≤ 5 && (vcmpiField i / 128) % 2 == 0
/-- The condition code, and `.any` only for a packed type (R124, R125, R162). -/
def condOk (o : LOp) (top : Nat) : Bool := xf o 0 4 ≤ top && (o.ty.packed || xf o 4 1 == 0)
/-- VBALLOT: the 32 or 64 lanes that j or h names begin below W (R137). -/
def vballotOk (o : LOp) : Bool :=
  match o.vd with
  | .s _ => xf o 8 1 == 0 && 64 * xf o 7 1 < Config.W
  | _ => 32 * xf o 7 2 < Config.W

/-- The static checks of step 3 of R62 and step 2 of R67 on a parsed instruction, and which of two constructors with one
word the word stands for: a number of R97 is a condition view, and a word of TAPE.MARK parses as `tapeMark`. -/
def staticOk : Instr → Bool
  | .sadd .. | .ssub .. | .smul .. | .smulh .. | .smulhn .. | .sdiv .. | .sdivn .. | .srem .. | .sremn ..
  | .sand .. | .sor .. | .sxor .. | .sandn .. | .sshl .. | .sshr .. | .ssra .. | .smin .. | .smax ..
  | .sminn .. | .smaxn .. | .sclz .. | .spopc .. | .sbrev .. | .ssow .. | .saddi .. | .sandi .. | .sori ..
  | .sxori .. | .sshli .. | .sshri .. | .ssrai .. | .slui .. | .slhi .. | .scmpEq .. | .scmpNe ..
  | .scmpLt .. | .scmpLe .. | .scmpLtn .. | .scmpLen .. | .scmpiEq .. | .scmpiNe .. | .scmpiLt ..
  | .scmpiLe .. | .scmpiLtn .. | .scmpiLen .. | .ssel .. => true
  | .sld _ _ size n _ => !(n && size == .dword)
  | .sst .. | .sldAcq .. | .sstRel .. => true
  | .satomAdd _ _ _ _ size => size == .word || size == .dword
  | .satomExch _ _ _ _ size => size == .word || size == .dword
  | .satomCas _ _ _ _ size => size == .word || size == .dword
  | .satomMin _ _ _ _ size => size == .word || size == .dword
  | .satomMax _ _ _ _ size => size == .word || size == .dword
  | .sfenceAcq .. | .sfenceRel .. | .sfenceAr .. | .sbr .. | .scall .. | .sjr .. | .run .. | .runr .. => true
  | .sget _ num => !(0x020 ≤ num && num ≤ 0x024)
  | .sgetView _ num => 0x020 ≤ num && num ≤ 0x024
  | .sset .. | .strmDef .. | .strmBind .. | .strmPos .. | .strmSeek .. | .strmClose .. | .cpTensTile ..
  | .cpTensConv .. | .cpTensGather .. | .cpTry .. | .cluArrive .. | .cluWait .. | .arrSet .. | .arrWait ..
  | .send .. | .recv .. | .sendTry .. | .recvTry .. | .launchQ .. | .launchTry .. | .syscall .. | .brk ..
  | .xfer .. | .gridBind .. | .gridPub .. | .gridStat .. | .tapeOpen .. | .tapeMark .. | .tapeStat ..
  | .gradSeal .. | .collAr .. | .collAg .. | .collRs .. | .collBc .. | .replayRec .. | .replayPlay ..
  | .replayChk .. | .tlbinvPage .. | .tlbinvSpace .. | .tlbinvDom .. | .ctxSave .. | .ctxLoad ..
  | .domSet .. | .wdt .. => true
  | .vnop o => (vnop o).ok && acc o [.s32] false false false false 0
  | .vmov o => (alu1 o).ok && acc o clsAny false false false false 0
  | .vmovi i => (vmovi i).ok && !i.sat
  | .vadd o => (alu2 o).ok && acc o clsI false true false false 0
  | .vsub o => (alu2 o).ok && acc o clsI false true false false 0
  | .vaddc o => (carry o).ok && acc o [.n32] false false true false 0x7F
  | .vsubb o => (carry o).ok && acc o [.n32] false false true false 0x7F
  | .vmul o => (alu2 o).ok && acc o clsI false true false false 0
  | .vmulh o => (alu2 o).ok && acc o clsI false false false false 0
  | .vmad o => (alu3 o).ok && acc o clsI false true false false 0
  | .vmadw o => (vmadw o).ok && acc o [.s32, .n32] false true false false 0
  | .vdiv o => (vdiv o).ok && acc o clsI false true false false 0
  | .vrem o => (vdiv o).ok && acc o clsI false false false false 0
  | .vmin o => (alu2 o).ok && acc o clsI false false false false 0
  | .vmax o => (alu2 o).ok && acc o clsI false false false false 0
  | .vabs o => (alu1 o).ok && acc o (clsS ++ clsF ++ [.b32]) false (clsS.contains o.ty) false false 0
  | .vneg o => (alu1 o).ok && acc o (clsS ++ clsF ++ [.b32]) false (clsS.contains o.ty) false false 0
  | .vand o => (alu2 o).ok && acc o clsB false false false false 0
  | .vor o => (alu2 o).ok && acc o clsB false false false false 0
  | .vxor o => (alu2 o).ok && acc o clsB false false false false 0
  | .vandn o => (alu2 o).ok && acc o clsB false false false false 0
  | .vnot o => (alu1 o).ok && acc o clsB false false false false 0
  | .vlop3 o => (alu3 o).ok && acc o clsB false false false false 0xFF
  | .vshl o => (alu2 o).ok && acc o (clsI ++ [.b32]) false (clsI.contains o.ty) false false 0
  | .vshr o => (alu2 o).ok && acc o (clsN ++ [.b32]) false false false false 0
  | .vsar o => (alu2 o).ok && acc o clsS false false false false 0
  | .vrot o => (alu2 o).ok && acc o (clsN ++ [.b32]) false false false false 0
  | .vfshl o => (alu3 o).ok && acc o [.b32] false false false false 0
  | .vclz o => (alu1 o).ok && acc o clsN false false false false 0
  | .vpopc o => (alu1 o).ok && acc o clsN false false false false 0
  | .vbrev o => (alu1 o).ok && acc o clsN false false false false 0
  | .vbfx o => (alu2 o).ok && acc o [.s32, .n32] false false false false 0
  | .vbfi o => (alu3 o).ok && acc o [.b32] false false false false 0
  | .vpermb o => (alu3 o).ok && acc o [.b32] false false false false 0
  | .vaddi i => (immAlu i).ok && clsI.contains i.ty
  | .vmuli i => (immAlu i).ok && clsI.contains i.ty
  | .vandi i => (immAlu i).ok && i.ty == .b32 && !i.sat
  | .vori i => (immAlu i).ok && i.ty == .b32 && !i.sat
  | .vxori i => (immAlu i).ok && i.ty == .b32 && !i.sat
  | .vshfi i => (immAlu i).ok && vshfiOk i
  | .vsad o => (sum4 o).ok && acc o [.n8x4, .n16x2] false true false false 0
  | .vdot4 o => (sum4 o).ok && acc o [.s8x4, .n8x4] false true false false 0
  | .vcmp o => (cmp o).ok && acc o (clsI ++ [.b32]) false false true false 0x1F && condOk o 5
  | .vcmpi i => (vcmpi i).ok && (clsI ++ [LType.b32]).contains i.ty && !i.sat && vcmpiOk i
  | .vfcmp o => (cmp o).ok && acc o clsF false false true true 0x1F && condOk o 7
  | .vsel o => (vsel o).ok && acc o clsAny false false false false 0x7F
  | .vclass o => (vclass o).ok && acc o clsF false false true false 0x7FF && (o.ty.packed || xf o 10 1 == 0)
  | .plog o => (plog o).ok && acc o [.s32] false false true false 0xFF
  | .psetRange o => (psetRange o).ok && acc o [.s32] false false true false 0
  | .psetMask o => (psetMask o).ok && acc o [.s32] false false true false 1 && xf o 0 1 == 1
  | .p2v o => (p2v o).ok && acc o [.b32] false false false false 0xFF
  | .v2p o => (v2p o).ok && acc o [.b32] false false true false 0
  | .vshfl o => (vshfl o).ok && acc o [.b32, .n64] false false true false 7 && !(xf o 0 3 == 4)
  | .vlogstep o => (vlogstep o).ok && combineOk o 0xFF && xf o 4 3 ≤ 6
  | .vreduce o => (vreduce o).ok && combineOk o 0xF
  | .vscan o => (vlogstep o).ok && combineOk o 0x1F
  | .vballot o => (vballot o).ok && acc o [.b32] false false false false 0x1FF && vballotOk o
  | .vtopk o => (vtopk o).ok && acc o [.f32, .s32, .n32] false false false false 0xFF && 1 ≤ xf o 0 7 && xf o 0 7 ≤ Config.W
  | .loopImm .. => true
  | .loopReg va _ => Use.uni.srcOk false va
  | .loopw .. => true
  | .emsetAnd o => (emset o).ok && acc o [.s32] false false false false 0x37F && LHdr.noGuard o.h && xf o 8 2 == 0
  | .emsetAndn o => (emset o).ok && acc o [.s32] false false false false 0x37F && LHdr.noGuard o.h && xf o 8 2 == 1
  | .emsetOr o => (emset o).ok && acc o [.s32] false false false false 0x37F && LHdr.noGuard o.h && xf o 8 2 == 2
  | .emsetSet o => (emsetSet o).ok && acc o [.s32] false false false false 0x300 && LHdr.noGuard o.h && xf o 8 2 == 3
  | .emsetSetHi o => (emsetSet o).ok && acc o [.s32] false false false false 0x700 && LHdr.noGuard o.h && xf o 8 3 == 7
  | .vfadd o => (fma2 o).ok && acc o clsF true true false true 0
  | .vfsub o => (fma2 o).ok && acc o clsF true true false true 0
  | .vfmul o => (fma2 o).ok && acc o clsF true true false true 0
  | .vfma o => (fma3 o).ok && acc o clsF true true false true 0
  | .vfmin o => (fma2 o).ok && acc o clsF false false false true 1
  | .vfmax o => (fma2 o).ok && acc o clsF false false false true 1
  | .vfdiv o => (sfu2 o).ok && acc o clsF true true false true 0
  | .vfsqrt o => (sfu1 o).ok && acc o clsF true true false true 0
  | .vfrcp o => (sfu1 o).ok && acc o clsF true true false true 0
  | .vfrsq o => (sfu1 o).ok && acc o clsF true true false true 0
  | .vfexp2 o => (sfu1 o).ok && acc o clsT true true false true 0
  | .vflog2 o => (sfu1 o).ok && acc o clsT true true false true 0
  | .vfsin o => (sfu1 o).ok && acc o clsT true true false true 0
  | .vfcos o => (sfu1 o).ok && acc o clsT true true false true 0
  | .vftanh o => (sfu1 o).ok && acc o clsT true true false true 0
  | .vffrc o => (fma1 o).ok && acc o clsF true false false true 0
  | .vfrnd o => (fma1 o).ok && acc o clsF true false false true 0
  | .vfscale o => (vfscale o).ok && acc o clsF true true false true 0
  | .vfdot2 o => (vfdot2 o).ok && acc o [.f16x2, .bf16x2] true true false true 0
  | .vcvt o => (vcvt o).ok && vcvtOk o
  | .vpack o => (vpack o).ok && vpackOk o
  | .vunpack o => (vunpack o).ok && vunpackOk o
  | .vq4encSuper o => (q4super o).ok && acc o [.f32] false false false false 3 && xf o 0 2 == 2
  | .vq4encScale o => (q4scale o).ok && acc o [.f32] false false false false 3 && xf o 0 2 == 1
  | .vq4encCode o => (q4code o).ok && acc o [.f32] false false false false 0
  | .vq4dec o => (q4code o).ok && acc o [.f32] false false false false 7
  | .ladd o => (sli2 o).ok && acc o clsL false false false false 0
  | .lsub o => (sli2 o).ok && acc o clsL false false false false 0
  | .lmul o => (sli2 o).ok && acc o clsL false false false false 0
  | .ldiv o => (sli2 o).ok && acc o clsL false false false false 0
  | .lcmp o => (cmp o).ok && acc o clsL false false true false 0x1F && condOk o 7
  | .lcvt o => (lcvt o).ok && lcvtOk o
  | .lrcp o => (alu1 o).ok && acc o clsL false false false false 0
  | .lneg o => (alu1 o).ok && acc o clsL false false false false 0
  | .vstatGet o => (vstatGet o).ok && acc o [.b32] false false false false 0
  | .vstatSet o => (vstatPut o).ok && acc o [.b32] false false false false 3 && xf o 0 2 == 1
  | .vstatClr o => (vstatPut o).ok && acc o [.b32] false false false false 3 && xf o 0 2 == 2
  | .vsow o => (vsow o).ok && acc o [.b32] false false false false 1
  | .vunit o => (alu1 o).ok && acc o [.f32] false false false false 0
  | .vld m => (vld m).ok && vldOk m
  | .vst m => (vst m).ok && vstOk m
  | .vatom m => (vatom m).ok && vatomOk m
  | .gradAdd m => (vst m).ok && gradAddOk m
  | .gld m => (gld m).ok && gridOk m
  | .gst m => (gst m).ok && gridOk m
  | .vfence .. => true
  | .mxLdb m => (mxLdb m).ok && mxLdbOk m
  | .mxMma m => (mxMma m).ok && mxMmaOk m
  | .mxMma16 m => (mxMma m).ok && mxMmaOk m
  | .mxPairW m => (mxPairW m).ok && mxOk m
  | .mxPairE m => (mxPairE m).ok && mxPairEOk m
  | .mxZero m => (mxZero m).ok && mxZeroOk m
  | .trace r _ _ => (trace r).ok
  | .hitAdj r => (hitAdj r).ok
  | .tex r => (tex r).ok
  | .texAdj r => (texAdj r).ok
  | .vbRd r _ _ => (vbRd r).ok
  | .bary r _ => (bary r).ok
  | .baryAdj r _ => (baryAdj r).ok
  | .edgeSamp r _ _ => (edgeSamp r).ok
  | .discard r => (bare r).ok
  | .park r _ => (bare r).ok
  | .rejoin r => (bare r).ok
  | .vdepth r pd => (vdepth r pd).ok
  | .tapePush r n1 => (tapePush r n1.toNat).ok
  | .tapePop r n1 => (tapePop r n1.toNat).ok
  | .illegalOpcode .. | .illegalLaneOpcode .. | .syncL | .region | .barTeam | .trigger | .exit | .yield
  | .icinvTeam | .icinvClu | .icinvDev | .icinvFab | .icinvSys | .tapeClose | .replayOff | .eret
  | .tlbinvAll | .endl | .vret | .perfctlClear .. | .cpTryTimeout .. | .tapeMarkRet ..
  | .thresherContribution .. | .pairTimeout .. | .recompute .. | .streamPrefetch .. | .storeEngineWrite ..
  | .copyComplete .. | .xferComplete .. | .collComplete .. | .headlandDelivery .. | .staleHaloTimeout ..
  | .syscallReply .. | .laneResume .. | .faultDisposition .. | .fpTrapCollect .. | .launchPush ..
  | .launchTake .. | .gangPlace .. | .gangCommit .. | .teamReady .. | .launchComplete .. | .yieldRequest ..
  | .deadlineExpiry .. | .forcedPreemption .. | .saveComplete .. | .contextRestore .. | .ticketPass ..
  | .stileTimeout .. | .gleanerSample | .visibilityPass .. | .passComplete .. | .passFault ..
  | .peerTimeout .. | .fabricRead .. | .fabricWrite .. | .fabricAtomic .. | .fabricVectorRead ..
  | .fabricVectorWrite .. | .fabricXferData .. | .fabricCollSegment .. | .fabricHeadlandPacket ..
  | .fabricResponse .. | .fabricBadPacket .. | .rateRecovery .. | .fabricPlaneDown .. | .meshNarrow ..
  | .meshWiden .. | .pcieLinkDown .. | .hostBar2Access .. | .hostRegisterWrite .. | .attestCmd ..
  | .attestDone .. | .privRegisterWrite .. | .qfcfgWrite .. | .qfbaseWrite .. | .pinsizeWrite ..
  | .l2pqWrite .. | .quotaWrite .. | .dcfgWrite .. | .ssctlWrite .. | .fabctlWrite .. | .svnfloorWrite ..
  | .warmrst .. | .ready | .policyInterrupt | .watchdogExpiry .. | .coldStart .. | .perst .. | .scrubPass ..
  | .rowSpare .. | .wayDisable .. | .powerCapThrottle | .thermalThrottle | .thermalTrip
  | .gradSealComplete .. | .powerLoss | .pcieLinkUp .. | .pcieCompletion .. | .issuePromotion ..
  | .throttleRelease => true

end Forms
end Sys2Proof
end

