-- ==== Sys2Proof/WellFormed.lean ====
section
/-!
DEFINITION. Well-formed instructions: those that meet every static RESERVED_FIELD check of R62 step 3 and R67 step 2.
The checks themselves are `Forms.staticOk`.
-/
namespace Sys2Proof

/-- The instruction passes every static check of the encoding chapter. -/
abbrev Instr.WellFormed (i : Instr) : Prop := Forms.staticOk i = true

end Sys2Proof
end

