-- ==== Sys2Proof/Decode.lean ====
section
/-!
DEFINITION. Decoding (R57 to R66): a scalar word and a lane word to an instruction or a named error, and after it the
encoder, written from the same tables. `decodeTableWord` lays a word out as the opcode table numbers it.
-/
namespace Sys2Proof

/-- Why a word is no instruction (R62 steps 1 and 3, R67 steps 1 and 2). -/
inductive DecErr where
  | illegalOpcode
  | reservedField
deriving DecidableEq, Repr

namespace Decode

/-! ### Fields -/

/-- The scope of a 3-bit field; 5..7 are reserved (R169). -/
def scopeOf (b : BitVec 3) : Option Scope :=
  match b.toNat with
  | 0 => some .team | 1 => some .clu | 2 => some .dev | 3 => some .fab | 4 => some .sys
  | _ => none

/-- The size of a 2-bit field (R61). -/
def sizeOf (b : BitVec 2) : MSize :=
  match b.toNat with
  | 0 => .byte | 1 => .half | 2 => .word
  | _ => .dword

/-- The rounding mode of a 3-bit field; 5..7 are reserved (R16). -/
def rndOf (b : BitVec 3) : Option Rnd :=
  match b.toNat with
  | 0 => some .rne | 1 => some .rtz | 2 => some .rdn | 3 => some .rup | 4 => some .rna
  | _ => none

/-- The type of a 4-bit code; 15 is reserved (R65). -/
def typeOf (b : BitVec 4) : Option LType := Forms.tyOf b.toNat

/-- A lane operand field (R47). -/
def opdOf (b : BitVec 12) : Option Opd :=
  if b.toNat < 0x800 then some (.v (b.extractLsb' 0 11))
  else if b.toNat < 0x840 then some (.s (b.extractLsb' 0 6))
  else if b.toNat < 0x850 then some (.q (b.extractLsb' 0 4))
  else match b.toNat with
    | 0x850 => some .zero | 0x851 => some .lane | 0x852 => some .width | 0x853 => some .group | 0x854 => some .team
    | _ => none

/-- The operation of VATOM; 8..15 are reserved (R185). -/
def atomOf (b : BitVec 4) : Option AtomOp :=
  match b.toNat with
  | 0 => some .add | 1 => some .exch | 2 => some .cas | 3 => some .min | 4 => some .max | 5 => some .and
  | 6 => some .or | 7 => some .xor
  | _ => none

/-- The order of VATOM (R185). -/
def orderOf (b : BitVec 2) : MOrder :=
  match b.toNat with
  | 0 => .rlx | 1 => .acq | 2 => .rel
  | _ => .ar

/-- The kind of VFENCE; 0 is reserved (R186). -/
def kindOf (b : BitVec 2) : Option FenceKind :=
  match b.toNat with
  | 1 => some .acq | 2 => some .rel | 3 => some .ar
  | _ => none

/-! ### Scalar words -/

/-- Step 3 of R62: the unused fields are zero and the parsed instruction is well formed. -/
def need (zero : Bool) (i : Instr) : Except DecErr Instr :=
  if zero && Forms.staticOk i then .ok i else .error .reservedField

/-- As `need`, for an instruction with a scope field. -/
def needScope (zero : Bool) (sc : Option Scope) (k : Scope → Instr) : Except DecErr Instr :=
  match sc with
  | some s => need zero (k s)
  | none => .error .reservedField

/-- The members of major 0x01 (R60, R81). -/
def decArith (d a b : SReg) (fn : Nat) : Except DecErr Instr :=
  match fn with
  | 0x00 => need true (.sadd d a b) | 0x01 => need true (.ssub d a b) | 0x02 => need true (.smul d a b)
  | 0x03 => need true (.smulh d a b) | 0x04 => need true (.smulhn d a b) | 0x05 => need true (.sdiv d a b)
  | 0x06 => need true (.sdivn d a b) | 0x07 => need true (.srem d a b) | 0x08 => need true (.sremn d a b)
  | 0x10 => need true (.sand d a b) | 0x11 => need true (.sor d a b) | 0x12 => need true (.sxor d a b)
  | 0x13 => need true (.sandn d a b) | 0x14 => need true (.sshl d a b) | 0x15 => need true (.sshr d a b)
  | 0x16 => need true (.ssra d a b) | 0x18 => need true (.smin d a b) | 0x19 => need true (.smax d a b)
  | 0x1A => need true (.sminn d a b) | 0x1B => need true (.smaxn d a b)
  | 0x20 => need (b == 0) (.sclz d a) | 0x21 => need (b == 0) (.spopc d a) | 0x22 => need (b == 0) (.sbrev d a)
  | 0x23 => need true (.ssow d a b)
  | _ => .error .illegalOpcode

/-- Major 0x07 (R86). -/
def decCmp (k : CReg) (z : Bool) (a b : SReg) (fn : Nat) : Except DecErr Instr :=
  match fn with
  | 0 => need z (.scmpEq k a b) | 1 => need z (.scmpNe k a b) | 2 => need z (.scmpLt k a b)
  | 3 => need z (.scmpLe k a b) | 4 => need z (.scmpLtn k a b) | 5 => need z (.scmpLen k a b)
  | _ => .error .illegalOpcode

/-- Major 0x08 (R86). -/
def decCmpi (k : CReg) (a : SReg) (imm : BitVec 14) (cond : Nat) : Except DecErr Instr :=
  match cond with
  | 0 => need true (.scmpiEq k a imm) | 1 => need true (.scmpiNe k a imm) | 2 => need true (.scmpiLt k a imm)
  | 3 => need true (.scmpiLe k a imm) | 4 => need true (.scmpiLtn k a imm) | 5 => need true (.scmpiLen k a imm)
  | _ => .error .illegalOpcode

/-- Major 0x0C (R61, R173, R174). -/
def decAcq (d a b : SReg) (fn : BitVec 8) : Except DecErr Instr :=
  let sc := scopeOf (fn.extractLsb' 2 3)
  let sz := sizeOf (fn.extractLsb' 0 2)
  match (fn.extractLsb' 5 3).toNat with
  | 0 => needScope (b == 0) sc fun s => .sldAcq d a s sz
  | 1 => needScope (d == 0) sc fun s => .sstRel a b s sz
  | 2 => needScope true sc fun s => .satomAdd d a b s sz
  | 3 => needScope true sc fun s => .satomExch d a b s sz
  | 4 => needScope true sc fun s => .satomCas d a b s sz
  | 5 => needScope true sc fun s => .satomMin d a b s sz
  | 6 => needScope true sc fun s => .satomMax d a b s sz
  | _ => .error .illegalOpcode

/-- Major 0x0D (R61, R175). -/
def decFence (z : Bool) (fn : BitVec 8) : Except DecErr Instr :=
  let sc := scopeOf (fn.extractLsb' 2 3)
  let z := z && fn.extractLsb' 0 2 == 0
  match (fn.extractLsb' 5 3).toNat with
  | 0 => needScope z sc .sfenceAcq
  | 1 => needScope z sc .sfenceRel
  | 2 => needScope z sc .sfenceAr
  | _ => .error .illegalOpcode

/-- Major 0x17: SGET, its condition views, SSET (R61, R96, R97). -/
def decSys (d a : SReg) (fn : BitVec 14) : Except DecErr Instr :=
  let num := fn.extractLsb' 0 12
  let z := fn.extractLsb' 12 1 == 0
  if fn.extractLsb' 13 1 == 0 then
    if 0x020 ≤ num ∧ num ≤ 0x024 then need (z && a == 0 && d.extractLsb' 3 3 == 0) (.sgetView (d.extractLsb' 0 3) num)
    else need (z && a == 0) (.sget d num)
  else need (z && d == 0) (.sset num a)

/-- Major 0x18 (R178). -/
def decStrm (d a : SReg) (fn : BitVec 14) : Except DecErr Instr :=
  let k := fn.extractLsb' 0 4
  let j := fn.extractLsb' 4 4
  let z := fn.extractLsb' 4 7 == 0
  match (fn.extractLsb' 11 3).toNat with
  | 0 => need (d == 0 && z) (.strmDef k a)
  | 1 => need (d == 0 && a == 0 && fn.extractLsb' 8 3 == 0) (.strmBind j k)
  | 2 => need (a == 0 && z) (.strmPos d k)
  | 3 => need (d == 0 && z) (.strmSeek k a)
  | 4 => need (d == 0 && a == 0 && z) (.strmClose k)
  | _ => .error .illegalOpcode

/-- Majors 0x1B, 0x1C and 0x1D (R202, R205, R209 to R212). -/
def decSync (d a b : SReg) (fn : Nat) : Except DecErr Instr :=
  let c := b.extractLsb' 0 4
  let zc := b.extractLsb' 4 2 == 0
  match fn with
  | 0 => need (d == 0 && a == 0 && b == 0) .barTeam
  | 1 => need (a == 0 && zc) (.cluArrive d c)
  | 2 => need (d == 0 && zc) (.cluWait a c)
  | 3 => need (d == 0) (.arrSet a b)
  | 4 => need (d == 0 && b == 0) (.arrWait a)
  | _ => .error .illegalOpcode
def decChan (d a b : SReg) (fn : Nat) : Except DecErr Instr :=
  let ch := b.extractLsb' 0 5
  let z := b.extractLsb' 5 1 == 0
  match fn with
  | 0 => need (d == 0 && z) (.send a ch)
  | 1 => need (a == 0 && z) (.recv d ch)
  | 2 => need (d.extractLsb' 3 3 == 0 && z) (.sendTry (d.extractLsb' 0 3) a ch)
  | 3 => need (a.extractLsb' 3 3 == 0 && z) (.recvTry d (a.extractLsb' 0 3) ch)
  | _ => .error .illegalOpcode
def decLaunch (d a b : SReg) (fn : Nat) : Except DecErr Instr :=
  let z := d == 0 && a == 0 && b == 0
  match fn with
  | 0 => need (d == 0) (.launchQ a b)
  | 1 => need (d.extractLsb' 3 3 == 0) (.launchTry (d.extractLsb' 0 3) a b)
  | 2 => need z .trigger
  | 3 => need z .exit
  | 4 => need z .yield
  | _ => .error .illegalOpcode

/-- Major 0x1E (R98, R101, R213). -/
def decCall (d a b : SReg) (fn : Nat) : Except DecErr Instr :=
  let z := d == 0 && a == 0 && b == 0
  match fn with
  | 0 => need true (.syscall d a b)
  | 1 => need (d == 0 && b == 0) (.brk a)
  | 2 => need z .icinvTeam | 3 => need z .icinvClu | 4 => need z .icinvDev | 5 => need z .icinvFab
  | 6 => need z .icinvSys
  | _ => .error .illegalOpcode

/-- Majors 0x20, 0x21, 0x23 and 0x24 (R190, R264 to R270, R208, R214). -/
def decGrid (d a b : SReg) (fn : Nat) : Except DecErr Instr :=
  let g := b.extractLsb' 0 4
  let z := b.extractLsb' 4 2 == 0
  match fn with
  | 0 => need (d == 0 && z) (.gridBind g a)
  | 1 => need (d == 0 && z) (.gridPub g a)
  | 2 => need (a == 0 && z) (.gridStat d g)
  | _ => .error .illegalOpcode
def decTape (d a b : SReg) (fn : Nat) : Except DecErr Instr :=
  match fn with
  | 0 => need (d == 0 && b == 0) (.tapeOpen a)
  | 1 => need (d == 0 && b == 0) (.tapeMark a)
  | 2 => need (a == 0 && b == 0) (.tapeStat d)
  | 3 => need (d == 0 && a == 0 && b == 0) .tapeClose
  | _ => .error .illegalOpcode
def decColl (d a b : SReg) (fn : Nat) : Except DecErr Instr :=
  match fn with
  | 0 => need (b == 0) (.collAr d a) | 1 => need (b == 0) (.collAg d a) | 2 => need (b == 0) (.collRs d a)
  | 3 => need (b == 0) (.collBc d a)
  | _ => .error .illegalOpcode
def decReplay (d a b : SReg) (fn : Nat) : Except DecErr Instr :=
  match fn with
  | 0 => need (d == 0) (.replayRec a b)
  | 1 => need (d == 0) (.replayPlay a b)
  | 2 => need (a == 0 && b == 0) (.replayChk d)
  | 3 => need (d == 0 && a == 0 && b == 0) .replayOff
  | _ => .error .illegalOpcode

/-- The privileged majors (R104). -/
def decPriv (major : Nat) (d a b : SReg) (fn : Nat) : Except DecErr Instr :=
  let z := d == 0 && a == 0 && b == 0
  match major, fn with
  | 0x30, 0 => need z .eret
  | 0x31, 0 => need (d == 0) (.tlbinvPage a b)
  | 0x31, 1 => need (d == 0 && a == 0) (.tlbinvSpace b)
  | 0x31, 2 => need (d == 0 && a == 0) (.tlbinvDom b)
  | 0x31, 3 => need z .tlbinvAll
  | 0x32, 0 => need true (.ctxSave d a b)
  | 0x33, 0 => need true (.ctxLoad d a b)
  | 0x34, 0 => need true (.domSet d a b)
  | 0x35, 0 => need (d == 0 && b == 0) (.wdt a)
  | _, _ => .error .illegalOpcode

/-- A scalar word (R58 to R62, steps 1 and 3). -/
def scalar (w : Word) : Except DecErr Instr :=
  let d := w.extractLsb' 20 6
  let a := w.extractLsb' 14 6
  let b := w.extractLsb' 8 6
  let fn8 := w.extractLsb' 0 8
  let imm := w.extractLsb' 0 14
  let off := w.extractLsb' 0 20
  match (w.extractLsb' 26 6).toNat with
  | 0x01 => decArith d a b fn8.toNat
  | 0x02 => need true (.saddi d a imm)
  | 0x03 => match (imm.extractLsb' 12 2).toNat with
    | 0 => need true (.sandi d a (imm.extractLsb' 0 12))
    | 1 => need true (.sori d a (imm.extractLsb' 0 12))
    | 2 => need true (.sxori d a (imm.extractLsb' 0 12))
    | _ => .error .illegalOpcode
  | 0x04 => match (imm.extractLsb' 12 2).toNat with
    | 0 => need (imm.extractLsb' 6 6 == 0) (.sshli d a (imm.extractLsb' 0 6))
    | 1 => need (imm.extractLsb' 6 6 == 0) (.sshri d a (imm.extractLsb' 0 6))
    | 2 => need (imm.extractLsb' 6 6 == 0) (.ssrai d a (imm.extractLsb' 0 6))
    | _ => .error .illegalOpcode
  | 0x05 => need true (.slui d off)
  | 0x06 => need true (.slhi d off)
  | 0x07 => decCmp (d.extractLsb' 0 3) (d.extractLsb' 3 3 == 0) a b fn8.toNat
  | 0x08 => decCmpi (d.extractLsb' 0 3) a imm (d.extractLsb' 3 3).toNat
  | 0x09 => need (fn8.extractLsb' 3 5 == 0) (.ssel d a b (fn8.extractLsb' 0 3))
  | 0x0A => need (imm.extractLsb' 10 1 == 0)
      (.sld d a (sizeOf (imm.extractLsb' 12 2)) (imm.extractLsb' 11 1 == 1) (imm.extractLsb' 0 10))
  | 0x0B => need (imm.extractLsb' 10 2 == 0) (.sst d a (sizeOf (imm.extractLsb' 12 2)) (imm.extractLsb' 0 10))
  | 0x0C => decAcq d a b fn8
  | 0x0D => decFence (d == 0 && a == 0 && b == 0) fn8
  | 0x10 => need true (.sbr (w.extractLsb' 25 1 == 1) (w.extractLsb' 22 3) (w.extractLsb' 0 22))
  | 0x11 => need true (.scall d off)
  | 0x12 => need (b == 0 && fn8 == 0) (.sjr d a)
  | 0x14 => if d.extractLsb' 5 1 == 0 then need (d == 0) (.run off)
    else need (d.extractLsb' 0 5 == 0 && imm == 0) (.runr a)
  | 0x15 => need (w.extractLsb' 0 26 == 0) .syncL
  | 0x16 => need (w.extractLsb' 0 26 == 0) .region
  | 0x17 => decSys d a imm
  | 0x18 => decStrm d a imm
  | 0x19 => match (imm.extractLsb' 12 2).toNat with
    | 0 => need true (.cpTensTile d a (imm.extractLsb' 6 6) (imm.extractLsb' 0 6))
    | 1 => need true (.cpTensConv d a (imm.extractLsb' 6 6) (imm.extractLsb' 0 6))
    | 2 => need true (.cpTensGather d a (imm.extractLsb' 6 6) (imm.extractLsb' 0 6))
    | _ => .error .illegalOpcode
  | 0x1A => need (d.extractLsb' 3 3 == 0) (.cpTry (d.extractLsb' 0 3) a imm)
  | 0x1B => decSync d a b fn8.toNat
  | 0x1C => decChan d a b fn8.toNat
  | 0x1D => decLaunch d a b fn8.toNat
  | 0x1E => decCall d a b fn8.toNat
  | 0x1F => if fn8.extractLsb' 6 2 == 0 then need (b == 0 && fn8 == 0) (.xfer d a) else .error .illegalOpcode
  | 0x20 => decGrid d a b fn8.toNat
  | 0x21 => decTape d a b fn8.toNat
  | 0x22 => if fn8 == 0 then need true (.gradSeal d a b) else .error .illegalOpcode
  | 0x23 => decColl d a b fn8.toNat
  | 0x24 => decReplay d a b fn8.toNat
  | m => decPriv m d a b fn8.toNat

/-! ### Lane words -/

/-- The marker and the guard (R63). -/
def header (w : LaneWord) : LHdr :=
  { sw := w.extractLsb' 85 1 == 1, guard := w.extractLsb' 78 7, gneg := w.extractLsb' 77 1 == 1 }

/-- Step 2 of R67 on a parsed instruction. -/
def chk (i : Option Instr) : Except DecErr Instr :=
  match i with
  | some i => need true i
  | none => .error .reservedField

/-- The operand fields vd, va, vb, vc (R63). -/
def opds (w : LaneWord) : Option (Opd × Opd × Opd × Opd) := do
  let d ← opdOf (w.extractLsb' 65 12)
  let a ← opdOf (w.extractLsb' 53 12)
  let b ← opdOf (w.extractLsb' 41 12)
  let c ← opdOf (w.extractLsb' 29 12)
  return (d, a, b, c)

/-- The general form (R64). -/
def lop (w : LaneWord) : Option LOp := do
  let (d, a, b, c) ← opds w
  let ty ← typeOf (w.extractLsb' 25 4)
  let rnd ← rndOf (w.extractLsb' 22 3)
  return { h := header w, vd := d, va := a, vb := b, vc := c, ty := ty, rnd := rnd, sat := w.extractLsb' 21 1 == 1,
           pd := w.extractLsb' 14 7, ftz := w.extractLsb' 13 1 == 1, x := w.extractLsb' 0 13 }
def parseOp (w : LaneWord) (k : LOp → Instr) : Except DecErr Instr := chk ((lop w).map k)

/-- The immediate form (R65). -/
def limm (w : LaneWord) : Option LImm := do
  let d ← opdOf (w.extractLsb' 65 12)
  let a ← opdOf (w.extractLsb' 53 12)
  let ty ← typeOf (w.extractLsb' 5 4)
  if w.extractLsb' 41 12 == 0 && w.extractLsb' 0 4 == 0 then
    return { h := header w, vd := d, va := a, imm := w.extractLsb' 9 32, ty := ty, sat := w.extractLsb' 4 1 == 1 }
  else none
/-- VMOVI names no va (R112). -/
def parseImm (w : LaneWord) (k : LImm → Instr) : Except DecErr Instr := chk ((limm w).map k)

/-- VLD, VST, GRAD.ADD (R181). -/
def parseMem (w : LaneWord) (k : LMem → Instr) : Except DecErr Instr := chk do
  let (d, a, b, c) ← opds w
  let ty ← typeOf (w.extractLsb' 25 4)
  if w.extractLsb' 14 11 == 0 && w.extractLsb' 0 8 == 0 then
    return k { h := header w, vd := d, va := a, vb := b, vc := c, ty := ty, fresh := w.extractLsb' 13 1 == 1,
               raw := w.extractLsb' 12 1 == 1, elem := w.extractLsb' 11 1 == 1, size := sizeOf (w.extractLsb' 9 2),
               form1 := w.extractLsb' 8 1 == 1 }
  else none

/-- VATOM (R185). -/
def parseAtom (w : LaneWord) : Except DecErr Instr := chk do
  let (d, a, b, c) ← opds w
  let ty ← typeOf (w.extractLsb' 25 4)
  let op ← atomOf (w.extractLsb' 9 4)
  let sc ← scopeOf (w.extractLsb' 4 3)
  if w.extractLsb' 14 11 == 0 && w.extractLsb' 0 4 == 0 then
    return .vatom { h := header w, vd := d, va := a, vb := b, vc := c, ty := ty, form1 := w.extractLsb' 13 1 == 1,
                    op := op, order := orderOf (w.extractLsb' 7 2), scope := sc }
  else none

/-- GLD, GST (R193). -/
def parseGrid (w : LaneWord) (k : LGrid → Instr) : Except DecErr Instr := chk do
  let (d, a, b, c) ← opds w
  let ty ← typeOf (w.extractLsb' 25 4)
  if w.extractLsb' 13 12 == 0 && w.extractLsb' 0 3 == 0 then
    return k { h := header w, vd := d, va := a, vb := b, vc := c, ty := ty, slot := w.extractLsb' 9 4,
               k := w.extractLsb' 3 6 }
  else none

/-- VFENCE: every other field zero (R186). -/
def parseFence (w : LaneWord) : Except DecErr Instr := chk do
  let kind ← kindOf (w.extractLsb' 0 2)
  let sc ← scopeOf (w.extractLsb' 2 3)
  if w.extractLsb' 5 72 == 0 then return .vfence (header w) kind sc else none

/-- The matrix instructions (R224); bit 15 is the side of MX.PAIR. -/
def parseMx (w : LaneWord) (side : Bool) (k : LMx → Instr) : Except DecErr Instr := chk do
  let (d, a, b, c) ← opds w
  if w.extractLsb' 0 3 == 0 && (w.extractLsb' 15 1 == 1) == side then
    return k { h := header w, vd := d, va := a, vb := b, vc := c, af := w.extractLsb' 25 4, bf := w.extractLsb' 21 4,
               sat := w.extractLsb' 20 1 == 1, d := w.extractLsb' 16 4, tag := w.extractLsb' 11 4,
               pw := w.extractLsb' 3 8 }
  else none

/-- The rendering and tape instructions: `zero` says that the mod bits the form leaves unnamed are zero (R238). -/
def parseRen (w : LaneWord) (zero : Bool) (k : LRen → Instr) : Except DecErr Instr := chk do
  let (d, a, b, c) ← opds w
  if zero then return k { h := header w, vd := d, va := a, vb := b, vc := c } else none

/-- LOOP, LOOPW, ENDL, VRET: guard, marker and unused fields zero (R140, R143). -/
def parseLoop (w : LaneWord) : Except DecErr Instr :=
  if w.extractLsb' 8 1 == 0 then need (w.extractLsb' 29 57 == 0) (.loopImm (w.extractLsb' 9 20) (w.extractLsb' 0 8))
  else chk do
    let a ← opdOf (w.extractLsb' 53 12)
    if w.extractLsb' 65 21 == 0 && w.extractLsb' 29 24 == 0 && w.extractLsb' 9 20 == 0 then
      return .loopReg a (w.extractLsb' 0 8)
    else none

/-- Opcodes of the general form whose member a mod field selects (R129, R144, R159, R165). -/
def parsePset (w : LaneWord) : Except DecErr Instr :=
  if w.extractLsb' 0 1 == 0 then parseOp w .psetRange else parseOp w .psetMask
def parseQ4 (w : LaneWord) : Except DecErr Instr :=
  match (w.extractLsb' 0 2).toNat with
  | 0 => parseOp w .vq4encCode | 1 => parseOp w .vq4encScale | 2 => parseOp w .vq4encSuper
  | _ => .error .reservedField
def parseStat (w : LaneWord) : Except DecErr Instr :=
  match (w.extractLsb' 0 2).toNat with
  | 0 => parseOp w .vstatGet | 1 => parseOp w .vstatSet | 2 => parseOp w .vstatClr
  | _ => .error .reservedField
def parseEmset (w : LaneWord) : Except DecErr Instr :=
  match (w.extractLsb' 8 2).toNat with
  | 0 => parseOp w .emsetAnd | 1 => parseOp w .emsetAndn | 2 => parseOp w .emsetOr
  | _ => if w.extractLsb' 10 1 == 0 then parseOp w .emsetSet else parseOp w .emsetSetHi

/-- A lane word (R63 to R67, steps 1 and 2). -/
def lane (w : LaneWord) : Except DecErr Instr :=
  match (w.extractLsb' 86 10).toNat with
  | 0x001 => parseOp w .vnop
  | 0x002 => parseOp w .vmov
  | 0x003 => parseImm w .vmovi
  | 0x008 => parseOp w .vadd
  | 0x009 => parseOp w .vsub
  | 0x00A => parseOp w .vaddc
  | 0x00B => parseOp w .vsubb
  | 0x00C => parseOp w .vmul
  | 0x00D => parseOp w .vmulh
  | 0x00E => parseOp w .vmad
  | 0x00F => parseOp w .vmadw
  | 0x010 => parseOp w .vdiv
  | 0x011 => parseOp w .vrem
  | 0x012 => parseOp w .vmin
  | 0x013 => parseOp w .vmax
  | 0x014 => parseOp w .vabs
  | 0x015 => parseOp w .vneg
  | 0x018 => parseOp w .vand
  | 0x019 => parseOp w .vor
  | 0x01A => parseOp w .vxor
  | 0x01B => parseOp w .vandn
  | 0x01C => parseOp w .vnot
  | 0x01D => parseOp w .vlop3
  | 0x020 => parseOp w .vshl
  | 0x021 => parseOp w .vshr
  | 0x022 => parseOp w .vsar
  | 0x023 => parseOp w .vrot
  | 0x024 => parseOp w .vfshl
  | 0x028 => parseOp w .vclz
  | 0x029 => parseOp w .vpopc
  | 0x02A => parseOp w .vbrev
  | 0x02B => parseOp w .vbfx
  | 0x02C => parseOp w .vbfi
  | 0x02D => parseOp w .vpermb
  | 0x030 => parseImm w .vaddi
  | 0x031 => parseImm w .vmuli
  | 0x032 => parseImm w .vandi
  | 0x033 => parseImm w .vori
  | 0x034 => parseImm w .vxori
  | 0x035 => parseImm w .vshfi
  | 0x038 => parseOp w .vsad
  | 0x039 => parseOp w .vdot4
  | 0x040 => parseOp w .vcmp
  | 0x041 => parseImm w .vcmpi
  | 0x042 => parseOp w .vfcmp
  | 0x044 => parseOp w .vsel
  | 0x045 => parseOp w .vclass
  | 0x048 => parseOp w .plog
  | 0x04A => parseOp w .p2v
  | 0x04B => parseOp w .v2p
  | 0x060 => parseOp w .vshfl
  | 0x061 => parseOp w .vlogstep
  | 0x062 => parseOp w .vreduce
  | 0x063 => parseOp w .vscan
  | 0x064 => parseOp w .vballot
  | 0x068 => parseOp w .vtopk
  | 0x080 => parseOp w .vfadd
  | 0x081 => parseOp w .vfsub
  | 0x082 => parseOp w .vfmul
  | 0x083 => parseOp w .vfma
  | 0x084 => parseOp w .vfmin
  | 0x085 => parseOp w .vfmax
  | 0x086 => parseOp w .vfdiv
  | 0x087 => parseOp w .vfsqrt
  | 0x088 => parseOp w .vfrcp
  | 0x089 => parseOp w .vfrsq
  | 0x08A => parseOp w .vfexp2
  | 0x08B => parseOp w .vflog2
  | 0x08C => parseOp w .vfsin
  | 0x08D => parseOp w .vfcos
  | 0x08E => parseOp w .vftanh
  | 0x08F => parseOp w .vffrc
  | 0x090 => parseOp w .vfrnd
  | 0x091 => parseOp w .vfscale
  | 0x093 => parseOp w .vfdot2
  | 0x0C0 => parseOp w .vcvt
  | 0x0C1 => parseOp w .vpack
  | 0x0C2 => parseOp w .vunpack
  | 0x0C4 => parseOp w .vq4dec
  | 0x0E0 => parseOp w .ladd
  | 0x0E1 => parseOp w .lsub
  | 0x0E2 => parseOp w .lmul
  | 0x0E3 => parseOp w .ldiv
  | 0x0E4 => parseOp w .lcmp
  | 0x0E5 => parseOp w .lcvt
  | 0x0E6 => parseOp w .lrcp
  | 0x0E7 => parseOp w .lneg
  | 0x0F0 => parseOp w .vsow
  | 0x0F1 => parseOp w .vunit
  | 0x049 => parsePset w
  | 0x070 => parseLoop w
  | 0x071 => need (w.extractLsb' 29 57 == 0) (.loopw (w.extractLsb' 8 7) (w.extractLsb' 15 14) (w.extractLsb' 0 8))
  | 0x072 => need (w.extractLsb' 0 86 == 0) .endl
  | 0x074 => need (w.extractLsb' 0 86 == 0) .vret
  | 0x075 => parseEmset w
  | 0x0C3 => parseQ4 w
  | 0x0EA => parseStat w
  | 0x100 => parseMem w .vld
  | 0x101 => parseMem w .vst
  | 0x104 => parseAtom w
  | 0x106 => parseMem w .gradAdd
  | 0x108 => parseGrid w .gld
  | 0x109 => parseGrid w .gst
  | 0x10C => parseFence w
  | 0x140 => parseMx w false .mxLdb
  | 0x141 => parseMx w false .mxMma
  | 0x142 => parseMx w false .mxMma16
  | 0x143 => if w.extractLsb' 15 1 == 0 then parseMx w false .mxPairW else parseMx w true .mxPairE
  | 0x144 => parseMx w false .mxZero
  | 0x160 => parseRen w (w.extractLsb' 2 27 == 0) fun r => .trace r (w.extractLsb' 0 1 == 1) (w.extractLsb' 1 1 == 1)
  | 0x161 => parseRen w (w.extractLsb' 0 29 == 0) .hitAdj
  | 0x162 => parseRen w (w.extractLsb' 0 29 == 0) .tex
  | 0x163 => parseRen w (w.extractLsb' 0 29 == 0) .texAdj
  | 0x164 => parseRen w (w.extractLsb' 14 15 == 0 && w.extractLsb' 9 4 == 0 && w.extractLsb' 0 3 == 0) fun r =>
      .vbRd r (w.extractLsb' 13 1 == 1) (w.extractLsb' 3 6)
  | 0x165 => parseRen w (w.extractLsb' 1 28 == 0) fun r => .bary r (w.extractLsb' 0 1 == 1)
  | 0x166 => parseRen w (w.extractLsb' 1 28 == 0) fun r => .baryAdj r (w.extractLsb' 0 1 == 1)
  | 0x167 => parseRen w (w.extractLsb' 14 15 == 0) fun r => .edgeSamp r (w.extractLsb' 8 6) (w.extractLsb' 0 8)
  | 0x168 => parseRen w (w.extractLsb' 0 29 == 0) .discard
  | 0x169 => parseRen w (w.extractLsb' 8 21 == 0) fun r => .park r (w.extractLsb' 0 8)
  | 0x16A => parseRen w (w.extractLsb' 0 29 == 0) .rejoin
  | 0x16B => parseRen w (w.extractLsb' 21 8 == 0 && w.extractLsb' 0 14 == 0) fun r => .vdepth r (w.extractLsb' 14 7)
  | 0x180 => parseRen w (w.extractLsb' 3 26 == 0) fun r => .tapePush r (w.extractLsb' 0 3)
  | 0x181 => parseRen w (w.extractLsb' 3 26 == 0) fun r => .tapePop r (w.extractLsb' 0 3)
  | _ => .error .illegalOpcode

/-- The instruction with the word `w`, numbered as the opcode table numbers its bits; a row without bits has no word. -/
def tableWord (nbits w : Nat) : Option Instr :=
  match (if nbits == 32 then scalar (BitVec.ofNat 32 w) else if nbits == 96 then lane (BitVec.ofNat 96 w)
         else .error .illegalOpcode) with
  | .ok i => some i
  | .error _ => none

end Decode

/-- The host's reading of a table word. -/
def decodeTableWord (nbits w : Nat) : Option Instr := Decode.tableWord nbits w

namespace Encode

/-! ### The encoder -/

def scope : Scope → BitVec 3
  | .team => 0 | .clu => 1 | .dev => 2 | .fab => 3 | .sys => 4
def size : MSize → BitVec 2
  | .byte => 0 | .half => 1 | .word => 2 | .dword => 3
def rnd : Rnd → BitVec 3
  | .rne => 0 | .rtz => 1 | .rdn => 2 | .rup => 3 | .rna => 4
def type : LType → BitVec 4
  | .s32 => 0 | .n32 => 1 | .s64 => 2 | .n64 => 3 | .s16x2 => 4 | .n16x2 => 5 | .s8x4 => 6 | .n8x4 => 7 | .f32 => 8
  | .f64 => 9 | .f16x2 => 10 | .bf16x2 => 11 | .l32 => 12 | .l16x2 => 13 | .b32 => 14
def opd : Opd → BitVec 12
  | .v n => 0#1 ++ n
  | .s n => 0x20#6 ++ n
  | .q n => 0x84#8 ++ n
  | .zero => 0x850 | .lane => 0x851 | .width => 0x852 | .group => 0x853 | .team => 0x854
def atom : AtomOp → BitVec 4
  | .add => 0 | .exch => 1 | .cas => 2 | .min => 3 | .max => 4 | .and => 5 | .or => 6 | .xor => 7
def order : MOrder → BitVec 2
  | .rlx => 0 | .acq => 1 | .rel => 2 | .ar => 3
def kind : FenceKind → BitVec 2
  | .acq => 1 | .rel => 2 | .ar => 3

/-- Format S3 (R58). -/
def s3 (major : BitVec 6) (d a b : BitVec 6) (fn : BitVec 8) : Word := major ++ d ++ a ++ b ++ fn
/-- Formats SI and SX (R58). -/
def si (major d a : BitVec 6) (imm : BitVec 14) : Word := major ++ d ++ a ++ imm
/-- Format SJ (R58). -/
def sj (major d : BitVec 6) (off : BitVec 20) : Word := major ++ d ++ off
/-- A condition bit in a register field. -/
def creg (k : CReg) : BitVec 6 := 0#3 ++ k
/-- The fn field of majors 0x0C and 0x0D (R61). -/
def afn (sel : BitVec 3) (sc : Scope) (sz : BitVec 2) : BitVec 8 := sel ++ scope sc ++ sz

/-- The word of a scalar instruction (R58 to R61); none for the other constructors. -/
def scalar : Instr → Option Word
  | .sadd d a b => some (s3 1 d a b 0x00) | .ssub d a b => some (s3 1 d a b 0x01)
  | .smul d a b => some (s3 1 d a b 0x02) | .smulh d a b => some (s3 1 d a b 0x03)
  | .smulhn d a b => some (s3 1 d a b 0x04) | .sdiv d a b => some (s3 1 d a b 0x05)
  | .sdivn d a b => some (s3 1 d a b 0x06) | .srem d a b => some (s3 1 d a b 0x07)
  | .sremn d a b => some (s3 1 d a b 0x08) | .sand d a b => some (s3 1 d a b 0x10)
  | .sor d a b => some (s3 1 d a b 0x11) | .sxor d a b => some (s3 1 d a b 0x12)
  | .sandn d a b => some (s3 1 d a b 0x13) | .sshl d a b => some (s3 1 d a b 0x14)
  | .sshr d a b => some (s3 1 d a b 0x15) | .ssra d a b => some (s3 1 d a b 0x16)
  | .smin d a b => some (s3 1 d a b 0x18) | .smax d a b => some (s3 1 d a b 0x19)
  | .sminn d a b => some (s3 1 d a b 0x1A) | .smaxn d a b => some (s3 1 d a b 0x1B)
  | .sclz d a => some (s3 1 d a 0 0x20) | .spopc d a => some (s3 1 d a 0 0x21) | .sbrev d a => some (s3 1 d a 0 0x22)
  | .ssow d a b => some (s3 1 d a b 0x23)
  | .saddi d a imm => some (si 2 d a imm)
  | .sandi d a imm => some (si 3 d a (0#2 ++ imm)) | .sori d a imm => some (si 3 d a (1#2 ++ imm))
  | .sxori d a imm => some (si 3 d a (2#2 ++ imm))
  | .sshli d a n => some (si 4 d a (0x00#8 ++ n)) | .sshri d a n => some (si 4 d a (0x40#8 ++ n))
  | .ssrai d a n => some (si 4 d a (0x80#8 ++ n))
  | .slui d imm => some (sj 5 d imm) | .slhi d imm => some (sj 6 d imm)
  | .scmpEq k a b => some (s3 7 (creg k) a b 0) | .scmpNe k a b => some (s3 7 (creg k) a b 1)
  | .scmpLt k a b => some (s3 7 (creg k) a b 2) | .scmpLe k a b => some (s3 7 (creg k) a b 3)
  | .scmpLtn k a b => some (s3 7 (creg k) a b 4) | .scmpLen k a b => some (s3 7 (creg k) a b 5)
  | .scmpiEq k a imm => some (si 8 (0#3 ++ k) a imm) | .scmpiNe k a imm => some (si 8 (1#3 ++ k) a imm)
  | .scmpiLt k a imm => some (si 8 (2#3 ++ k) a imm) | .scmpiLe k a imm => some (si 8 (3#3 ++ k) a imm)
  | .scmpiLtn k a imm => some (si 8 (4#3 ++ k) a imm) | .scmpiLen k a imm => some (si 8 (5#3 ++ k) a imm)
  | .ssel d a b k => some (s3 9 d a b (0#5 ++ k))
  | .sld d a sz n off => some (si 0x0A d a (size sz ++ BitVec.ofBool n ++ 0#1 ++ off))
  | .sst d a sz off => some (si 0x0B d a (size sz ++ 0#2 ++ off))
  | .sldAcq d a sc sz => some (s3 0x0C d a 0 (afn 0 sc (size sz)))
  | .sstRel a b sc sz => some (s3 0x0C 0 a b (afn 1 sc (size sz)))
  | .satomAdd d a b sc sz => some (s3 0x0C d a b (afn 2 sc (size sz)))
  | .satomExch d a b sc sz => some (s3 0x0C d a b (afn 3 sc (size sz)))
  | .satomCas d a b sc sz => some (s3 0x0C d a b (afn 4 sc (size sz)))
  | .satomMin d a b sc sz => some (s3 0x0C d a b (afn 5 sc (size sz)))
  | .satomMax d a b sc sz => some (s3 0x0C d a b (afn 6 sc (size sz)))
  | .sfenceAcq sc => some (s3 0x0D 0 0 0 (afn 0 sc 0)) | .sfenceRel sc => some (s3 0x0D 0 0 0 (afn 1 sc 0))
  | .sfenceAr sc => some (s3 0x0D 0 0 0 (afn 2 sc 0))
  | .sbr neg k off => some (0x10#6 ++ BitVec.ofBool neg ++ k ++ off)
  | .scall d off => some (sj 0x11 d off)
  | .sjr d a => some (s3 0x12 d a 0 0)
  | .run idx => some (sj 0x14 0 idx)
  | .runr k => some (si 0x14 0x20 k 0)
  | .syncL => some (sj 0x15 0 0)
  | .region => some (sj 0x16 0 0)
  | .sget d num => some (si 0x17 d 0 (0#2 ++ num))
  | .sgetView k num => some (si 0x17 (creg k) 0 (0#2 ++ num))
  | .sset num a => some (si 0x17 0 a (2#2 ++ num))
  | .strmDef k a => some (si 0x18 0 a (0#10 ++ k))
  | .strmBind j k => some (si 0x18 0 0 (0x08#6 ++ j ++ k))
  | .strmPos d k => some (si 0x18 d 0 (0x100#10 ++ k))
  | .strmSeek k a => some (si 0x18 0 a (0x180#10 ++ k))
  | .strmClose k => some (si 0x18 0 0 (0x200#10 ++ k))
  | .cpTensTile t l c p => some (si 0x19 t l (0#2 ++ c ++ p)) | .cpTensConv t l c p => some (si 0x19 t l (1#2 ++ c ++ p))
  | .cpTensGather t l c p => some (si 0x19 t l (2#2 ++ c ++ p))
  | .cpTry k t imm => some (si 0x1A (creg k) t imm)
  | .barTeam => some (s3 0x1B 0 0 0 0)
  | .cluArrive d b => some (s3 0x1B d 0 (0#2 ++ b) 1) | .cluWait a b => some (s3 0x1B 0 a (0#2 ++ b) 2)
  | .arrSet a b => some (s3 0x1B 0 a b 3) | .arrWait a => some (s3 0x1B 0 a 0 4)
  | .send a ch => some (s3 0x1C 0 a (0#1 ++ ch) 0) | .recv d ch => some (s3 0x1C d 0 (0#1 ++ ch) 1)
  | .sendTry k a ch => some (s3 0x1C (creg k) a (0#1 ++ ch) 2) | .recvTry d k ch => some (s3 0x1C d (creg k) (0#1 ++ ch) 3)
  | .launchQ a b => some (s3 0x1D 0 a b 0) | .launchTry k a b => some (s3 0x1D (creg k) a b 1)
  | .trigger => some (s3 0x1D 0 0 0 2) | .exit => some (s3 0x1D 0 0 0 3) | .yield => some (s3 0x1D 0 0 0 4)
  | .syscall d a b => some (s3 0x1E d a b 0) | .brk code => some (s3 0x1E 0 code 0 1)
  | .icinvTeam => some (s3 0x1E 0 0 0 2) | .icinvClu => some (s3 0x1E 0 0 0 3) | .icinvDev => some (s3 0x1E 0 0 0 4)
  | .icinvFab => some (s3 0x1E 0 0 0 5) | .icinvSys => some (s3 0x1E 0 0 0 6)
  | .xfer d a => some (s3 0x1F d a 0 0)
  | .gridBind g a => some (s3 0x20 0 a (0#2 ++ g) 0) | .gridPub g a => some (s3 0x20 0 a (0#2 ++ g) 1)
  | .gridStat d g => some (s3 0x20 d 0 (0#2 ++ g) 2)
  | .tapeOpen a => some (s3 0x21 0 a 0 0) | .tapeMark a => some (s3 0x21 0 a 0 1)
  | .tapeStat d => some (s3 0x21 d 0 0 2) | .tapeClose => some (s3 0x21 0 0 0 3)
  | .gradSeal d a b => some (s3 0x22 d a b 0)
  | .collAr d a => some (s3 0x23 d a 0 0) | .collAg d a => some (s3 0x23 d a 0 1) | .collRs d a => some (s3 0x23 d a 0 2)
  | .collBc d a => some (s3 0x23 d a 0 3)
  | .replayRec a b => some (s3 0x24 0 a b 0) | .replayPlay a b => some (s3 0x24 0 a b 1)
  | .replayChk d => some (s3 0x24 d 0 0 2) | .replayOff => some (s3 0x24 0 0 0 3)
  | .eret => some (s3 0x30 0 0 0 0)
  | .tlbinvPage a b => some (s3 0x31 0 a b 0) | .tlbinvSpace b => some (s3 0x31 0 0 b 1)
  | .tlbinvDom b => some (s3 0x31 0 0 b 2) | .tlbinvAll => some (s3 0x31 0 0 0 3)
  | .ctxSave d a b => some (s3 0x32 d a b 0) | .ctxLoad d a b => some (s3 0x33 d a b 0)
  | .domSet d a b => some (s3 0x34 d a b 0) | .wdt a => some (s3 0x35 0 a 0 0)
  | _ => none

/-- Bits 85..77: the marker and the guard (R63). -/
def hdr (h : LHdr) : BitVec 9 := BitVec.ofBool h.sw ++ h.guard ++ BitVec.ofBool h.gneg
/-- A lane word from its opcode, header, operand fields and mod (R63). -/
def lw (op : BitVec 10) (h : BitVec 9) (d a b c : BitVec 12) (m : BitVec 29) : LaneWord := op ++ h ++ d ++ a ++ b ++ c ++ m
def encOp (op : BitVec 10) (o : LOp) : LaneWord :=
  lw op (hdr o.h) (opd o.vd) (opd o.va) (opd o.vb) (opd o.vc)
    (type o.ty ++ rnd o.rnd ++ BitVec.ofBool o.sat ++ o.pd ++ BitVec.ofBool o.ftz ++ o.x)
def encImm (op : BitVec 10) (i : LImm) : LaneWord :=
  op ++ hdr i.h ++ opd i.vd ++ opd i.va ++ 0#12 ++ i.imm ++ type i.ty ++ BitVec.ofBool i.sat ++ 0#4
def encMem (op : BitVec 10) (m : LMem) : LaneWord :=
  lw op (hdr m.h) (opd m.vd) (opd m.va) (opd m.vb) (opd m.vc)
    (type m.ty ++ 0#11 ++ BitVec.ofBool m.fresh ++ BitVec.ofBool m.raw ++ BitVec.ofBool m.elem ++ size m.size ++
      BitVec.ofBool m.form1 ++ 0#8)
def encAtom (op : BitVec 10) (m : LAtom) : LaneWord :=
  lw op (hdr m.h) (opd m.vd) (opd m.va) (opd m.vb) (opd m.vc)
    (type m.ty ++ 0#11 ++ BitVec.ofBool m.form1 ++ atom m.op ++ order m.order ++ scope m.scope ++ 0#4)
def encGrid (op : BitVec 10) (m : LGrid) : LaneWord :=
  lw op (hdr m.h) (opd m.vd) (opd m.va) (opd m.vb) (opd m.vc) (type m.ty ++ 0#12 ++ m.slot ++ m.k ++ 0#3)
def encMx (op : BitVec 10) (side : Bool) (m : LMx) : LaneWord :=
  lw op (hdr m.h) (opd m.vd) (opd m.va) (opd m.vb) (opd m.vc)
    (m.af ++ m.bf ++ BitVec.ofBool m.sat ++ m.d ++ BitVec.ofBool side ++ m.tag ++ m.pw ++ 0#3)
def encRen (op : BitVec 10) (r : LRen) (m : BitVec 29) : LaneWord :=
  lw op (hdr r.h) (opd r.vd) (opd r.va) (opd r.vb) (opd r.vc) m

/-- The word of a lane instruction (R63 to R66); none for the other constructors. -/
def lane : Instr → Option LaneWord
  | .vnop o => some (encOp 0x001 o)
  | .vmov o => some (encOp 0x002 o)
  | .vmovi i => some (encImm 0x003 i)
  | .vadd o => some (encOp 0x008 o)
  | .vsub o => some (encOp 0x009 o)
  | .vaddc o => some (encOp 0x00A o)
  | .vsubb o => some (encOp 0x00B o)
  | .vmul o => some (encOp 0x00C o)
  | .vmulh o => some (encOp 0x00D o)
  | .vmad o => some (encOp 0x00E o)
  | .vmadw o => some (encOp 0x00F o)
  | .vdiv o => some (encOp 0x010 o)
  | .vrem o => some (encOp 0x011 o)
  | .vmin o => some (encOp 0x012 o)
  | .vmax o => some (encOp 0x013 o)
  | .vabs o => some (encOp 0x014 o)
  | .vneg o => some (encOp 0x015 o)
  | .vand o => some (encOp 0x018 o)
  | .vor o => some (encOp 0x019 o)
  | .vxor o => some (encOp 0x01A o)
  | .vandn o => some (encOp 0x01B o)
  | .vnot o => some (encOp 0x01C o)
  | .vlop3 o => some (encOp 0x01D o)
  | .vshl o => some (encOp 0x020 o)
  | .vshr o => some (encOp 0x021 o)
  | .vsar o => some (encOp 0x022 o)
  | .vrot o => some (encOp 0x023 o)
  | .vfshl o => some (encOp 0x024 o)
  | .vclz o => some (encOp 0x028 o)
  | .vpopc o => some (encOp 0x029 o)
  | .vbrev o => some (encOp 0x02A o)
  | .vbfx o => some (encOp 0x02B o)
  | .vbfi o => some (encOp 0x02C o)
  | .vpermb o => some (encOp 0x02D o)
  | .vaddi i => some (encImm 0x030 i)
  | .vmuli i => some (encImm 0x031 i)
  | .vandi i => some (encImm 0x032 i)
  | .vori i => some (encImm 0x033 i)
  | .vxori i => some (encImm 0x034 i)
  | .vshfi i => some (encImm 0x035 i)
  | .vsad o => some (encOp 0x038 o)
  | .vdot4 o => some (encOp 0x039 o)
  | .vcmp o => some (encOp 0x040 o)
  | .vcmpi i => some (encImm 0x041 i)
  | .vfcmp o => some (encOp 0x042 o)
  | .vsel o => some (encOp 0x044 o)
  | .vclass o => some (encOp 0x045 o)
  | .plog o => some (encOp 0x048 o)
  | .p2v o => some (encOp 0x04A o)
  | .v2p o => some (encOp 0x04B o)
  | .vshfl o => some (encOp 0x060 o)
  | .vlogstep o => some (encOp 0x061 o)
  | .vreduce o => some (encOp 0x062 o)
  | .vscan o => some (encOp 0x063 o)
  | .vballot o => some (encOp 0x064 o)
  | .vtopk o => some (encOp 0x068 o)
  | .vfadd o => some (encOp 0x080 o)
  | .vfsub o => some (encOp 0x081 o)
  | .vfmul o => some (encOp 0x082 o)
  | .vfma o => some (encOp 0x083 o)
  | .vfmin o => some (encOp 0x084 o)
  | .vfmax o => some (encOp 0x085 o)
  | .vfdiv o => some (encOp 0x086 o)
  | .vfsqrt o => some (encOp 0x087 o)
  | .vfrcp o => some (encOp 0x088 o)
  | .vfrsq o => some (encOp 0x089 o)
  | .vfexp2 o => some (encOp 0x08A o)
  | .vflog2 o => some (encOp 0x08B o)
  | .vfsin o => some (encOp 0x08C o)
  | .vfcos o => some (encOp 0x08D o)
  | .vftanh o => some (encOp 0x08E o)
  | .vffrc o => some (encOp 0x08F o)
  | .vfrnd o => some (encOp 0x090 o)
  | .vfscale o => some (encOp 0x091 o)
  | .vfdot2 o => some (encOp 0x093 o)
  | .vcvt o => some (encOp 0x0C0 o)
  | .vpack o => some (encOp 0x0C1 o)
  | .vunpack o => some (encOp 0x0C2 o)
  | .vq4dec o => some (encOp 0x0C4 o)
  | .ladd o => some (encOp 0x0E0 o)
  | .lsub o => some (encOp 0x0E1 o)
  | .lmul o => some (encOp 0x0E2 o)
  | .ldiv o => some (encOp 0x0E3 o)
  | .lcmp o => some (encOp 0x0E4 o)
  | .lcvt o => some (encOp 0x0E5 o)
  | .lrcp o => some (encOp 0x0E6 o)
  | .lneg o => some (encOp 0x0E7 o)
  | .vsow o => some (encOp 0x0F0 o)
  | .vunit o => some (encOp 0x0F1 o)
  | .psetRange o => some (encOp 0x049 o) | .psetMask o => some (encOp 0x049 o)
  | .loopImm cnt n => some (lw 0x070 0 0 0 0 0 (cnt ++ 0#1 ++ n))
  | .loopReg va n => some (lw 0x070 0 0 (opd va) 0 0 (1#21 ++ n))
  | .loopw pa cap n => some (lw 0x071 0 0 0 0 0 (cap ++ pa ++ n))
  | .endl => some (lw 0x072 0 0 0 0 0 0)
  | .vret => some (lw 0x074 0 0 0 0 0 0)
  | .emsetAnd o => some (encOp 0x075 o) | .emsetAndn o => some (encOp 0x075 o) | .emsetOr o => some (encOp 0x075 o)
  | .emsetSet o => some (encOp 0x075 o) | .emsetSetHi o => some (encOp 0x075 o)
  | .vq4encCode o => some (encOp 0x0C3 o) | .vq4encScale o => some (encOp 0x0C3 o) | .vq4encSuper o => some (encOp 0x0C3 o)
  | .vstatGet o => some (encOp 0x0EA o) | .vstatSet o => some (encOp 0x0EA o) | .vstatClr o => some (encOp 0x0EA o)
  | .vld m => some (encMem 0x100 m) | .vst m => some (encMem 0x101 m) | .gradAdd m => some (encMem 0x106 m)
  | .vatom m => some (encAtom 0x104 m)
  | .gld m => some (encGrid 0x108 m) | .gst m => some (encGrid 0x109 m)
  | .vfence h k sc => some (lw 0x10C (hdr h) 0 0 0 0 (0#24 ++ scope sc ++ kind k))
  | .mxLdb m => some (encMx 0x140 false m) | .mxMma m => some (encMx 0x141 false m)
  | .mxMma16 m => some (encMx 0x142 false m) | .mxPairW m => some (encMx 0x143 false m)
  | .mxPairE m => some (encMx 0x143 true m) | .mxZero m => some (encMx 0x144 false m)
  | .trace r any cullb => some (encRen 0x160 r (0#27 ++ BitVec.ofBool cullb ++ BitVec.ofBool any))
  | .hitAdj r => some (encRen 0x161 r 0) | .tex r => some (encRen 0x162 r 0) | .texAdj r => some (encRen 0x163 r 0)
  | .vbRd r fresh k => some (encRen 0x164 r (0#15 ++ BitVec.ofBool fresh ++ 0#4 ++ k ++ 0#3))
  | .bary r lin => some (encRen 0x165 r (0#28 ++ BitVec.ofBool lin))
  | .baryAdj r lin => some (encRen 0x166 r (0#28 ++ BitVec.ofBool lin))
  | .edgeSamp r k n1 => some (encRen 0x167 r (0#15 ++ k ++ n1))
  | .discard r => some (encRen 0x168 r 0)
  | .park r code => some (encRen 0x169 r (0#21 ++ code))
  | .rejoin r => some (encRen 0x16A r 0)
  | .vdepth r pd => some (encRen 0x16B r (0#8 ++ pd ++ 0#14))
  | .tapePush r n1 => some (encRen 0x180 r (0#26 ++ n1))
  | .tapePop r n1 => some (encRen 0x181 r (0#26 ++ n1))
  | _ => none

/-- The words of an instruction, the first at the lowest address (R57); none for an event, and for `tapeMarkRet`, whose
words are those of `tapeMark`. -/
def words (i : Instr) : Option (List Word) :=
  match scalar i with
  | some w => some [w]
  | none => (lane i).map fun w => [w.extractLsb' 0 32, w.extractLsb' 32 32, w.extractLsb' 64 32]

end Encode
end Sys2Proof
end

