-- ==== Sys2Proof/Machine/Ops.lean ====
section
/-!
DEFINITION. The named operations every meaning is written over: registers, memory at a location, error and interrupt
reports, region entries (R94, R396), taking a trap on a group (R395, R400) or a policy core (R102) and the return from it
(R105), and the end of an instruction as an outcome.
-/
namespace Sys2Proof.Machine

/-! ### How an instruction ends -/

/-- Why an instruction does not simply complete: a trap with no change, a trap after a change of the state, a wait, a
wait after a change of the state. -/
inductive Stop where
  | trap (t : Trap)
  | trapIn (s : State) (t : Trap)
  | stall (w : Stall)
  | stallIn (s : State) (w : Stall)
deriving DecidableEq, Repr

abbrev Res := Except Stop
abbrev Out := Host.Outcome State Fault Refusal

/-- A precise trap of the whole instruction. -/
def trapP (c : TrapCode) (sub : Nat := 0) (addr : DWord := 0) : Stop := .trap { code := c, sub := sub, addr := addr }

/-- Raise `e` unless `b`. -/
def require (b : Bool) (e : Stop) : Res Unit := if b then .ok () else .error e

/-- A translation's fault as the instruction's. -/
def lift {α : Type} (r : Except Trap α) : Res α :=
  match r with
  | .ok x => .ok x
  | .error t => .error (.trap t)

/-! ### Registers -/

/-- The scalar context the scalar instructions act on. -/
def State.sc (s : State) : SCtx :=
  match s.party with
  | .group => s.g.sc
  | .policy k => (s.pol k).sc
def State.setSc (s : State) (c : SCtx) : State :=
  match s.party with
  | .group => { s with g := { s.g with sc := c } }
  | .policy k => s.setPol k { s.pol k with sc := c }

/-- `s0` reads zero (R41). -/
def State.rdS (s : State) (r : SReg) : DWord := if r = 0 then 0 else SMap.get 0 s.sc.sreg r.toNat
/-- A write of `s0` is discarded (R41); a written register no longer holds an error (R458). -/
def State.wrS (s : State) (r : SReg) (v : DWord) : State :=
  if r = 0 then s else s.setSc { s.sc with sreg := SMap.set 0 s.sc.sreg r.toNat v, bad := putBit s.sc.bad r.toNat false }
/-- `c0` reads 1 (R41). -/
def State.rdC (s : State) (k : CReg) : Bool := if k = 0 then true else s.sc.cond.getLsbD k.toNat
/-- A write of `c0` is discarded (R41). -/
def State.wrC (s : State) (k : CReg) (b : Bool) : State :=
  if k = 0 then s else s.setSc { s.sc with cond := putBit s.sc.cond k.toNat b }
def State.pc (s : State) : DWord := s.sc.pc
def State.setPc (s : State) (a : DWord) : State := s.setSc { s.sc with pc := a }
/-- The PC moves to the next word. -/
def State.next (s : State) : State := s.setPc (s.sc.pc + 4)

/-- A register awaits a pending write; `s0` never does (R41). -/
def State.pending (s : State) (r : SReg) : Bool := r != 0 && s.sc.tok.getLsbD r.toNat
/-- A policy core has no lane stream, so what only a lane stream executes is ILLEGAL_OPCODE there, as RUN is (R102). DEDUCED, unsafe: assumption 47. -/
def needLanes (s : State) : Res Unit :=
  match s.party with
  | .group => .ok ()
  | .policy _ => .error (trapP .illegalOpcode)
/-- A privileged instruction issued on a core raises PRIVILEGE (R62, R104). -/
def needPolicy (s : State) : Res Unit :=
  match s.party with
  | .group => .error (trapP .privilege)
  | .policy _ => .ok ()

/-- The register a token or a reply awaits (R41, R199). -/
def State.setTok (s : State) (r : SReg) : State := if r = 0 then s else s.setSc { s.sc with tok := putBit s.sc.tok r.toNat true }
/-- A pending write delivers its value to the register that awaits it. -/
def SCtx.deliver (c : SCtx) (r : SReg) (v : DWord) : SCtx :=
  if r = 0 then c
  else { c with sreg := SMap.set 0 c.sreg r.toNat v, tok := putBit c.tok r.toNat false, bad := putBit c.bad r.toNat false }
/-- A run that awaits a register's pending write takes its value (R92). -/
def Run.deliver (x : Run) (r : SReg) (v : DWord) : Run :=
  if x.wait.getLsbD r.toNat then
    { x with snap := SMap.set 0 x.snap r.toNat v, wait := putBit x.wait r.toNat false, bad := putBit x.bad r.toNat false }
  else x
def LaneCtx.deliver (l : LaneCtx) (r : SReg) (v : DWord) : LaneCtx :=
  { l with active := l.active.map fun x => x.deliver r v, queue := l.queue.map fun x => x.deliver r v }
/-- The active run, or the state a run enqueued now would start with. -/
def Group.run (g : Group) : Run := g.lane.active.getD { lpc := 0, snap := g.sc.sreg, wait := g.sc.tok, num := g.lane.count, bad := g.sc.bad }
/-- The run waits for a pending write of a uniform register (R92). -/
def Group.waits (g : Group) (r : SReg) : Bool := r != 0 && g.run.wait.getLsbD r.toNat
/-- A pending write delivers its value, to the register and to every run enqueued while it was pending, those of the region entry and
those held at a pop among them (R92). -/
def Group.deliver (g : Group) (r : SReg) (v : DWord) : Group :=
  if r = 0 then g
  else
    { g with
      sc := g.sc.deliver r v
      lane := g.lane.deliver r v
      tape := { g.tape with heldLane := g.tape.heldLane.deliver r v }
      region := { g.region with
        lane := g.region.lane.deliver r v
        tape := { g.region.tape with heldLane := g.region.tape.heldLane.deliver r v } } }

/-- GSLOT: the core and the slot (R49). -/
def gslotOf (t : Team) (g : Group) : Nat := t.core * 256 + g.slot

/-! ### Memory at a location -/

/-- DESIGN CHOICE, unsafe: assumption 20. -/
def State.read (s : State) (key n : Nat) : Nat := Memory.read s.mem key n

/-- A queue's record for a domain is written: sent to the host where the queue lies in the host window, after every earlier write (R443). -/
def State.putRecord (s : State) (d key : Nat) (b : List Byte) : State :=
  if isHost key then s.toHost (.write (s.hostPort d) (key - hostBase) b false) else s.writeBytes key b

/-- Lines that a collective at this rank owns from its issue until its results stand in them: an access waits by directory recall
(R201, R208, R289, R313). -/
def State.owned (s : State) (key n : Nat) : Bool :=
  s.jobs.any fun j => match j.kind with
    | .coll c => c.keys.any fun k => key / 512 ≤ k / 512 && k / 512 ≤ (key + n - 1) / 512
    | _ => false

/-! ### Reports -/

/-- A register word that is read holds an uncorrectable error, in the given lanes of a vector register: its record, and
UNCORRECTABLE_DATA (R56, R458, R461). -/
def registerError (s : State) (lanes : List Nat) : Stop :=
  .trapIn (s.errRecord 1 0 s.gteam.core 0 0)
    { restartAt .uncorrectableData 0 with lane := lanes.head?, mask := lanes.foldl (fun m l => putBit m l true) 0 }
/-- A word of the core's SRAM that programs do not address, a message's or a tape share's, is read and holds an uncorrectable error: its record,
and UNCORRECTABLE_DATA (R456, R458). -/
def sramError (s : State) : Stop := .trapIn (s.errRecord 1 1 s.gteam.core 0 0) (restartAt .uncorrectableData 0)
/-- The instruction waits for pending writes of the registers it names (R80), and reads its sources (R458). -/
def ready (s : State) (dst src : List SReg) : Res Unit :=
  if (dst ++ src).any s.pending then .error (.stall .scoreboard)
  else if src.any fun r => r != 0 && s.sc.bad.getLsbD r.toNat then .error (registerError s [])
  else .ok ()

/-- Post an engine's event, once. DESIGN CHOICE, unsafe: assumption 38. -/
def State.post (s : State) (e : Ev) : State := if s.engineQ.contains e then s else { s with engineQ := s.engineQ ++ [e] }

/-- The code of a trap (R394). -/
def TrapCode.num : TrapCode → Nat
  | .illegalOpcode => 0x01 | .reservedField => 0x02 | .hazard => 0x03 | .illegalConvergence => 0x04 | .privilege => 0x05
  | .misaligned => 0x06 | .pageNotPresent => 0x08 | .protection => 0x09 | .format => 0x0A | .bounds => 0x0B
  | .staleHalo => 0x10 | .copyBounds => 0x11 | .queueUnbound => 0x12 | .pairTimeout => 0x13 | .tapeExhausted => 0x14
  | .tapeCrc => 0x15 | .channelUndeclared => 0x16 | .recompute => 0x17 | .fpTrap => 0x18 | .syscall => 0x20 | .brk => 0x21
  | .replayDiverge => 0x22 | .uncorrectableData => 0x30
def TrapKind.num : TrapKind → Nat
  | .precise => 0 | .restart => 1 | .collected => 2

/-- One MSI-X message of a domain on a vector of its table (R399, R439): a masked vector's is pending, and a vector beyond the table has
none. PRESUMED, unsafe: assumption 23. -/
def State.message (s : State) (d vec : Nat) : State :=
  let x := s.dom d
  let w := SMap.get (2 ^ 32) x.msixData vec
  if 16 ≤ vec then s
  else if w.getLsbD 32 then s.setDom d { x with msixPend := putBit x.msixPend vec true }
  else s.toHost (.msix (s.hostPort d) d vec (SMap.get 0 x.msixAddr vec) (w &&& 0xFFFFFFFF))
/-- Notify a record of a queue: firmware when the code's FROUTE bit is set, else one MSI-X message (R399). PRESUMED, unsafe: assumption 23. -/
def State.notify (s : State) (d code vec : Nat) : State :=
  if bitsOf (dcbFroute s d) code 1 = 1 then s.irq 0 else s.message d vec

/-! ### Regions (R94, R396) -/

/-- The entry that the group's present state makes: the scalar resume point, the lane stream, the streams, the tape and
the hash. -/
def Group.entryAt (g : Group) (pc : DWord) : RegionEntry :=
  { pc := pc, regcnt := g.regcnt, lane := g.lane, streams := g.streams, tape := g.tape, replay := g.replay }

/-- A region ends: REGCNT counts and the entry is made (R94, R171). -/
def Group.endRegion (g : Group) (pc : DWord) : Group :=
  let g := { g with regcnt := g.regcnt + 1, parkNew := 0 }
  { g with region := g.entryAt pc }

/-- Membership of a session after a restart: G and the pending words are the entry's, and the session the entry's (R95, R417); the check
index goes on. DEDUCED, unsafe: assumption 55. -/
def Replay.back (e now : Option Replay) : Option Replay :=
  match e, now with
  | some r, some q => some (if q.sess = r.sess ∧ q.play = r.play ∧ q.pid = r.pid then { q with g := r.g, pend := r.pend } else r)
  | e, _ => e

/-- The return to the region entry (R261, R397). -/
def Group.restart (g : Group) : Group :=
  let e := g.region
  let park := g.parkMask &&& ~~~g.parkNew
  { g with
    sc := { g.sc with pc := e.pc }
    lane := e.lane
    streams := e.streams.map fun x => (x.1, { x.2 with loadQ := [] })
    tape := { e.tape with crcErr := g.tape.crcErr, exh := g.tape.exh }
    replay := Replay.back e.replay g.replay
    haz := {}
    parkMask := park
    killMask := g.killMask &&& park
    parkNew := 0
    parked := g.parked.filter fun p => !g.parkNew.getLsbD p.lane }

/-- The events by which a group's bound load ports refill (R180, R278). -/
def Group.refills (g : Group) : List Ev := g.streams.filterMap fun y => match y.2.port with
  | some j => if y.2.store then none else some (.streamPrefetch g.gid j)
  | none => none

/-- The end of a region by a scalar instruction: the entry stands at PC + 4 (R94, R171). -/
def State.endRegion (s : State) : State :=
  match s.party with
  | .group => { s with g := s.g.endRegion (s.g.sc.pc + 4) }
  | .policy _ => s

/-- No lane run is outstanding. -/
def Group.runsDone (g : Group) : Bool := g.lane.active.isNone && g.lane.queue.isEmpty
/-- No lane run is outstanding and every push has been handed to the store engine (R93), which has written it: a drain orders pushes as
it orders any lane store (R312). DESIGN CHOICE, unsafe: assumption 38. -/
def Group.drained (g : Group) : Bool := g.runsDone && g.pushes.isEmpty

/-- Wait as SYNC.L does (R93); a policy core has no lane stream (R102). -/
def drain (s : State) : Res Unit :=
  match s.party with
  | .group => if s.g.drained then .ok () else .error (.stall .drain)
  | .policy _ => .ok ()

/-! ### Taking a trap -/

/-- The word at a virtual fetch address, for a report. -/
def codeWord (s : State) (a : DWord) : Word :=
  match translate s a .fetch with
  | .ok l => BitVec.ofNat 32 (s.read l.key 4)
  | .error _ => 0

/-- The address of a word of lane instruction `n` (R57). -/
def laneAddr (g : Group) (n w : Nat) : DWord := g.lcb + BitVec.ofNat 64 (12 * n + 4 * w)

/-- INSN of a fault record: the scalar word, or W0, W1, W2 (R400). -/
def insnBytes (s : State) (lane : Bool) (at_ : Nat) : List Byte :=
  if lane then
    match s.g.lane.loopBuf.lookup at_ with
    | some w => leBytes 12 w.toNat
    | none => ([0, 1, 2].map fun i => leBytes 4 (codeWord s (laneAddr s.g at_ i)).toNat).flatten
  else leBytes 4 (codeWord s s.g.sc.pc).toNat ++ leBytes 8 0

/-- Bytes 0..87 of a group fault record (R400). -/
def faultRecord (s : State) (lane : Bool) (t : Trap) (seq : Nat) : List Byte :=
  let tm := s.gteam
  let lpc := t.pcAt.getD ((s.g.lane.active.map (·.lpc)).getD 0)
  leBytes 8 seq ++ leBytes 2 (gslotOf tm s.g) ++ leBytes 1 t.code.num ++ leBytes 1 t.kind.num ++
  leBytes 1 ((if lane then 1 else 0) + (if t.fetch then 2 else 0)) ++ leBytes 1 (t.lane.getD 0xFF) ++ leBytes 1 t.sub ++
  leBytes 1 0 ++ leBytes 8 (if lane then lpc else s.g.sc.pc.toNat) ++ leBytes 8 t.addr.toNat ++
  leBytes 8 s.g.regcnt.toNat ++ leBytes 4 tm.teamlin ++ leBytes 4 tm.launch ++ leBytes 2 s.gasn ++
  leBytes 2 t.flags.toNat ++ leBytes 4 t.others ++ leBytes 16 t.mask.toNat ++
  (if t.fetch then leBytes 12 0 else insnBytes s lane lpc) ++ leBytes 4 0

/-- The slot of a record with a sequence number in a ring of 2^log2 slots (R399). -/
def slotOf (seq log2 : Nat) : Nat := (seq - 1) % 2 ^ log2

/-- A stream's wait, its ready age, and what its next instruction waits for beside it. -/
def Group.stallOf (g : Group) (lane : Bool) : Option Stall := if lane then g.lStall else g.sStall
def Group.ageOf (g : Group) (lane : Bool) : Nat := if lane then g.ageL else g.ageS
def Group.restOf (g : Group) (lane : Bool) : Option (Nat × Nat) := if lane then g.restL else g.restS
def Group.clearStall (g : Group) (lane : Bool) : Group := if lane then { g with lStall := none } else { g with sStall := none }
def Group.setRest (g : Group) (lane : Bool) (r : Option (Nat × Nat)) : Group := if lane then { g with restL := r } else { g with restS := r }

/-- What a stream's instruction has asked of the host or of a package is still to come: the instruction has performed, and it completes
before the group stops (R375). -/
def inFlight (s : State) (g : Group) (lane : Bool) : Bool :=
  (match g.stallOf lane with
    | some .pcie | some .peer | some .fabricRate => true
    | _ => false) && s.remote.any fun r => r.gid == g.gid && r.ch == if lane then 1 else 0

/-- A wait that has performed nothing is given up: the group's place at a barrier that is not complete and in a channel, its timeouts, and
a YIELD's drain (R202, R375). -/
def State.abandon (s : State) : State :=
  let g := s.g
  let tm := s.gteam
  let c := s.gcluster
  let waits := g.barJoined == some tm.barGen
  let s := s.setTeam { tm with barArrived := tm.barArrived.filter fun i => i != g.gidx || !waits }
  let s := s.setCluster { c with chans := c.chans.map fun x => { x with waits := x.waits.filter fun i => i != g.gid } }
  { s with
    g := { g with barJoined := if waits then none else g.barJoined, tryWait := false, tryOver := false, haloOver := false, stileOver := false,
                  leave := if g.leave == .yielding then .stay else g.leave, sStall := none, lStall := none, promoS := false, promoL := false, ageS := 0, ageL := 0,
                  restS := none, restL := none }
    remote := s.remote.filter fun r => r.gid != g.gid || decide (2 ≤ r.ch)
    pairs := s.pairs.filter fun r => r.gid != g.gid }

/-- A stopped group goes on: in the system call whose reply it still awaits, or at its next instruction. -/
def Group.goOn (g : Group) : Group := { g with phase := g.call.getD .running, call := none }

/-- The address of record `seq` of a domain's group fault queue (R399). -/
def gfSlot (s : State) (d seq : Nat) : Nat := dcbGfqBase s d + 128 * slotOf seq (dcbGfqLog2 s d)
/-- The next record's slot holds a record whose DONE has not been applied (R399). -/
def gfFull (s : State) (d : Nat) : Bool :=
  (s.dom d).gfLive.any fun r => slotOf r.seq (dcbGfqLog2 s d) == slotOf ((s.dom d).gfSeq + 1) (dcbGfqLog2 s d)
/-- A record goes to the group fault queue, its completion word zero; then its notification (R399, R400). -/
def gfAppend (s : State) (d code : Nat) (rcd : List Byte) (gid pass : Option Nat) : State :=
  let dm := s.dom d
  let seq := dm.gfSeq + 1
  let s1 := (s.putRecord d (gfSlot s d seq) rcd).putRecord d (gfSlot s d seq + 96) (leBytes 8 0)
  let s2 := s1.setDom d { dm with gfSeq := seq, gfLive := dm.gfLive ++ [⟨seq, gid, pass, false⟩] }
  (s2.notify d code (dcbGfqVec s d)).post (.faultDisposition d seq)

/-- The group stops and its record is written, unless the queue is full: then it stays stopped without a record until a
slot frees (R395, R399, R400). The device reads the configuration block first (R388). -/
def stopGroup (s0 : State) (lane : Bool) (t : Trap) : State :=
  let s := s0.abandon.readBlock s0.gdom
  let d := s.gdom
  let seq := (s.dom d).gfSeq + 1
  let g := { s.g with lastTrap := BitVec.ofNat 8 t.code.num }
  if gfFull s d then { s with g := { g with phase := .stopped none t lane, sStall := some .faultQueueFull } }
  else { gfAppend s d t.code.num (faultRecord s lane t seq) (some s.g.gid) none with g := { g with phase := .stopped (some seq) t lane } }

/-- A trap on a policy core (R102): EPC, ECAUSE, PIE and IE, and the PC goes to EVEC. For BREAK, EPC is PC + 4. -/
def policyTrap (s : State) (k : Nat) (t : Trap) : State :=
  let p := s.pol k
  s.setPol k { p with
    epc := if t.code = .brk then p.sc.pc + 4 else p.sc.pc
    ecause := BitVec.ofNat 64 ((if t.code = .brk then t.sub * 256 else 0) + t.code.num)
    pie := p.ie
    ie := false
    sc := { p.sc with pc := p.evec } }

/-- The order in which one of several faults of a group is reported: UNCORRECTABLE_DATA, another region-restart fault, a precise one,
FP_TRAP; a lane fault before a scalar one (R395). -/
def Trap.rank (t : Trap) (lane : Bool) : Nat :=
  2 * (match t.kind with
    | .restart => if t.code = .uncorrectableData then 0 else 1
    | .precise => 2
    | .collected => 3) + (if lane then 0 else 1)

/-- A group's fault: it stops, or, while an instruction of it is in flight, is stopping; of two faults that are found before it has stopped
one is reported (R395). -/
def groupTrap (s : State) (lane : Bool) (t : Trap) : State :=
  let s := s.note t
  let t := { t with errAt := none }
  let (u, l) := match s.g.phase with
    | .stopping u l => if u.rank l < t.rank lane then (u, l) else (t, lane)
    | _ => (t, lane)
  if inFlight s s.g true || inFlight s s.g false then { s with g := { s.g with phase := .stopping u l } } else stopGroup s l u

/-- Taking a trap: the one operation every trap goes through. -/
def takeTrap (s : State) (lane : Bool) (t : Trap) : State :=
  match s.party with
  | .group => groupTrap s lane t
  | .policy k => policyTrap (s.note t) k t

/-- The return from a policy core's trap (R105). -/
def policyReturn (s : State) (k : Nat) : State :=
  let p := s.pol k
  s.setPol k { p with ie := p.pie, pie := true, sc := { p.sc with pc := p.epc } }

/-! ### The end of an instruction -/

/-- A wait of a stream: nothing is performed and the PC stays. -/
def State.wait (s : State) (lane : Bool) (w : Stall) : State :=
  match s.party with
  | .policy _ => s
  | .group => if lane then { s with g := { s.g with lStall := some w } } else { s with g := { s.g with sStall := some w } }

/-- A lane instruction that waits or faults in a state of its own has not issued: the hazard state and the streams are as they were
(R48, R397). -/
def State.unissue (s : State) (lane : Bool) (t : State) : State :=
  if lane then { t with g := { t.g with haz := s.g.haz, streams := s.g.streams } } else t

/-- The outcome of an instruction of a stream. -/
def finish (s : State) (lane : Bool) (r : Res State) : Out :=
  match r with
  | .ok t => .next t
  | .error (.trap t) => .next (takeTrap s lane t)
  | .error (.trapIn s' t) => .next (takeTrap (s.unissue lane s') lane t)
  | .error (.stall w) => .next (s.wait lane w)
  | .error (.stallIn s' w) => .next ((s.unissue lane s').wait lane w)

/-- The outcome of a scalar instruction. -/
abbrev finishS (s : State) (r : Res State) : Out := finish s false r
/-- The outcome of a lane instruction. -/
abbrev finishL (s : State) (r : Res State) : Out := finish s true r

/-! ### The group in focus -/

/-- Bring a resident group into focus. -/
def State.focus (s : State) (gid : Nat) : Option State :=
  if s.g.live && s.g.gid == gid then some { s with party := .group }
  else (s.others.find? fun h => h.gid == gid).map fun h =>
    let rest := s.others.filter fun x => x.gid != gid
    { s with party := .group, g := h, others := if s.g.live then s.g :: rest else rest }

/-- The id of a policy core's context, of its team of one and of its cluster of one team. DEDUCED, unsafe: assumption 47. -/
def polId (k : Nat) : Nat := 2 ^ 40 + k
/-- A policy core executes with its context in focus and in a team of one; every resident group stands aside. DEDUCED, unsafe: assumption 47. -/
def State.enterPolicy (s : State) (k : Nat) : State :=
  let known := (s.team? (polId k)).isSome
  { s with
    party := .policy k
    g := { (s.pol k).ctx with gid := polId k, team := polId k, live := false }
    others := s.groups
    teams := if known then s.teams else { tid := polId k, cluster := polId k, resident := false } :: s.teams
    clusters := if known then s.clusters else { cid := polId k } :: s.clusters }
/-- Its context is put back. DEDUCED, unsafe: assumption 47. -/
def State.leavePolicy (s : State) (k : Nat) : State :=
  if s.g.gid == polId k then { s.setPol k { s.pol k with ctx := s.g } with g := {} } else s

/-- An event of a group: performed with the group in focus; without the group nothing happens. -/
def onGroup (s : State) (gid : Nat) (f : State → State) : State :=
  match s.focus gid with
  | some t => f t
  | none => s

/-- The groups that have stopped without a record write theirs while the domain's group fault queue has a slot (R399). -/
def writeWaiting (s : State) (d : Nat) : State :=
  let waits := s.groups.filter fun g => match g.phase with
    | .stopped none _ _ => (s.launch (s.team g.team).launch).dom == d
    | _ => false
  waits.foldl (fun s g => onGroup s g.gid fun s => match s.g.phase with
    | .stopped none t lane => stopGroup s lane t
    | _ => s) s

end Sys2Proof.Machine
end

