-- ==== Sys2Proof/Machine/Replay.lean ====
section
/-!
DEFINITION. What stands between a store and memory: home nodes and the grants a recording logs and a replay enforces
(R414 to R416), the store hash in hash order (R417), staging in deterministic mode (R403 to R406), and the requests of the
host and peer windows (R441 to R443, R449).
-/
namespace Sys2Proof.Machine

/-! ### Reading and writing at a virtual address of a space -/

/-- The location of an aligned word of an address space, when it can be reached. -/
def vaKey (s : State) (d asn va : Nat) (k : Access) : Option Nat :=
  match translatePt s d asn true (BitVec.ofNat 64 va) k with
  | .ok l => if l.h || isRemote l.key then none else some l.key
  | .error _ => none
def peek (s : State) (d asn va n : Nat) : Option Nat :=
  (vaKey s d asn va .load).bind fun k => if poisoned s k n then none else some (s.read k n)
def poke (s : State) (d asn va n v : Nat) : Option State := (vaKey s d asn va .store).map fun k => s.write k n v

/-! ### Requests to the host and peer windows -/

/-- The domain of a partition key: key 0 and a key of neither domain belong to none (R448). -/
def keyDom (s : State) (key : BitVec 16) : Option Nat :=
  if key = 0 then none else if key = s.dom0.pkey then some 0 else if key = s.dom1.pkey then some 1 else none

/-- Bytes of requests outstanding to a package, and its cap (R453). -/
def outstanding (s : State) (d : Nat) : Nat := (s.fabric.reqs.filter fun r => r.dst == d).foldl (fun n r => n + r.bytes) 0
def capOf (s : State) (d : Nat) : Nat :=
  if s.priv.fabctl.getLsbD 0 then SMap.get 4096 s.fabric.wcap d else 2 ^ 20

/-- The package and the address a peer-window address names. -/
def peerOf (pa : Nat) : Nat × Nat := ((pa - peerBase) / 2 ^ 40, (pa - peerBase) % 2 ^ 40)

/-- A tag that no request of this package has. -/
def State.freeTag (s : State) : Nat :=
  let used (t : Nat) : Bool := s.fabric.reqs.any (·.tag == t) || s.fabric.waiting.any (·.req.tag == t)
  (((List.range (s.fabric.reqs.length + s.fabric.waiting.length + 1)).map fun i => (s.fabric.nextTag + i) % 2 ^ 16).find? fun t => !used t).getD
    (s.fabric.nextTag % 2 ^ 16)

/-- A request packet of a domain (R449). -/
def reqPacket (s : State) (d : Nat) (type dst addr len : Nat) (data : List Byte) : Packet :=
  { type := BitVec.ofNat 8 type, flags := 0, src := BitVec.ofNat 16 s.fabric.pkg, dst := BitVec.ofNat 16 dst,
    tag := BitVec.ofNat 16 s.freeTag, len := BitVec.ofNat 32 len, pkey := (s.dom d).pkey, op := 0, status := 0,
    addr := BitVec.ofNat 64 addr, aux := 0, aux2 := 0, tailZero := true, data := data }

/-- The k-th plane that is up, in ascending order modulo 72 from a plane on; with none up, the plane itself. -/
def upPlane (s : State) (start k : Nat) : Nat :=
  let up := ((List.range 72).map fun i => (start + i) % 72).filter fun p => !s.fabric.planesDown.contains p
  up.getD (if up.isEmpty then 0 else k % up.length) (start % 72)
/-- The plane that a region's requests take while every plane is up (R451). -/
def firstPlane (pa dst : Nat) : Nat := (sow32 (BitVec.ofNat 32 (pa / 65536)) (BitVec.ofNat 32 dst)).toNat % 72
/-- The plane of a request (R451). -/
def planeOf (s : State) (pa dst : Nat) : Nat := upPlane s (firstPlane pa dst) 0

/-- The ck after which a request of some bytes lets the next one to its target go, in the service mode (R453). DESIGN CHOICE, safe: assumption 62. -/
def rateNext (s : State) (d bytes : Nat) : Nat :=
  let rl := SMap.get 1440 s.fabric.rl d
  max s.clock (SMap.get 0 s.fabric.rlNext d) + (bytes + rl - 1) / max 1 rl
/-- The rate limit holds back requests to a package. DESIGN CHOICE, safe: assumption 62. -/
def rateHeld (s : State) (d : Nat) : Bool := !s.priv.fabctl.getLsbD 0 && decide (s.clock < SMap.get 0 s.fabric.rlNext d)
/-- The cap holds back a request; one that alone exceeds it goes when nothing else is outstanding. DESIGN CHOICE, safe: assumption 62. -/
def capHeld (s : State) (d bytes : Nat) : Bool := outstanding s d != 0 && decide (capOf s d < outstanding s d + bytes)
/-- A plane that the region's requests took before it went down still has requests outstanding (R451). -/
def planeHeld (s : State) (pa dst : Nat) : Bool :=
  let start := firstPlane pa dst
  let old := ((List.range 72).map fun i => (start + i) % 72).takeWhile fun p => s.fabric.planesDown.contains p
  s.fabric.reqs.any fun r => old.contains r.plane
/-- What holds a request back at its source (R451, R453); a transfer's packets have planes of their own. -/
def heldBack (s : State) (p : Packet) (r : FabReq) : Bool :=
  rateHeld s p.dst.toNat || capHeld s p.dst.toNat r.bytes || (r.hop.isNone && planeHeld s p.addr.toNat p.dst.toNat)

/-- A request leaves, on its plane (R451), and is outstanding. -/
def State.depart (s : State) (h : HeldReq) : State :=
  let d := h.pkt.dst.toNat
  let pl := match h.req.hop with
    | some (a, k) => upPlane s (planeOf s a d) k
    | none => planeOf s h.pkt.addr.toNat d
  { s with fabric := { s.fabric with
    reqs := s.fabric.reqs ++ [{ h.req with sent := s.clock, plane := pl }]
    rlNext := SMap.set 0 s.fabric.rlNext d (rateNext s d h.req.bytes)
    out := (pl, h.pkt) :: s.fabric.out } }
/-- A request leaves, unless something holds it back or an earlier one to its target waits. -/
def State.offer (s : State) (h : HeldReq) : State :=
  if s.fabric.waiting.any (fun x => x.pkt.dst == h.pkt.dst) || heldBack s h.pkt h.req then
    { s with fabric := { s.fabric with waiting := s.fabric.waiting ++ [h] } }
  else s.depart h
/-- The requests that wait go, in their order, as far as they may. -/
def State.pump (s : State) : State :=
  s.fabric.waiting.foldl State.offer { s with fabric := { s.fabric with waiting := [] } }
/-- Send a request: its packet has a free tag; it is outstanding at once, or waits at the source. -/
def State.send (s : State) (p : Packet) (r : FabReq) : State :=
  let tag := s.freeTag
  ({ s with fabric := { s.fabric with nextTag := (tag + 1) % 2 ^ 16 } } : State).offer
    ⟨{ r with tag := tag, dst := p.dst.toNat }, { p with tag := BitVec.ofNat 16 tag }⟩
/-- Send a request of the party that moves: of the group in focus, or of an engine of the device. -/
def State.sendOwn (s : State) (p : Packet) (r : FabReq) : State :=
  if 2 ^ 16 ≤ s.ch then s.send p { r with ch := s.ch } else s.send p { r with gid := some s.g.gid, ch := s.ch, launch := some s.gteam.launch }
/-- A stream of the group has a request that waits at its source. -/
def State.sourceWaits (s : State) (gid ch : Nat) : Bool := s.fabric.waiting.any fun h => h.req.gid == some gid && h.req.ch == ch
/-- Requests that match, outstanding or waiting at the source. -/
def State.anyReq (s : State) (p : FabReq → Bool) : Bool := s.fabric.reqs.any p || s.fabric.waiting.any fun h => p h.req

/-- A store to the host or peer window (R441, R443); a release's is ordered after every earlier write to the host. -/
def State.putRemote (s : State) (pa n v : Nat) (ordered : Bool := false) (sync : Bool := false) : State :=
  if isHost pa then s.toHost (.write (s.hostPort s.gdom) (pa - hostBase) (leBytes n v) (!ordered))
  else
    let (d, a) := peerOf pa
    s.sendOwn (reqPacket s s.gdom 2 d a n (leBytes n v)) { bytes := n, cells := [(pa, n)], write := true, sync := sync }

/-- Every earlier fabric write and atomic of the group, its engines' included, has been acknowledged, and no collective of the group has
results still to send to a peer (R313, R452). -/
def State.fabDone (s : State) : Bool :=
  !s.anyReq (fun r => r.write && r.gid == some s.g.gid) && !s.jobs.any fun j => j.gid == s.g.gid && match j.kind with
    | .coll c => c.keys.any isPeer
    | _ => false
/-- Every earlier release store of the group to a peer has been acknowledged: the synchronising accesses of every scope have one total
order (R306). -/
def State.syncDone (s : State) : Bool := !s.anyReq fun r => r.sync && r.gid == some s.g.gid

/-- The order of a release: at `.fab` and `.sys` it waits for the fabric's acknowledgements (R452). -/
def State.release (s : State) (sc : Scope) : Res Unit :=
  match s.party, sc with
  | .group, .fab | .group, .sys => require s.fabDone (.stall .peer)
  | _, _ => .ok ()
/-- The place of a synchronising access in the one order of R306: behind the group's earlier ones that another package performs. -/
def State.inOrder (s : State) (sc : Scope) : Res Unit := do
  s.release sc
  match s.party with
  | .group => require s.syncDone (.stall .peer)
  | .policy _ => .ok ()

/-- After a fence release at `.sys` every later store of the stream to the host is sent after the earlier ones (R305, R443). -/
def State.fenced (s : State) (lane : Bool) (sc : Scope) : State :=
  if s.party == .group && sc == .sys then
    { s with g := if lane then { s.g with relL := true } else { s.g with relS := true } }
  else s

/-- The effect of an acquire on L1: at `.clu` and wider every sector of the core leaves (R288); the order itself needs nothing, since every
access is performed in its step. -/
def State.acquire (s : State) (sc : Scope) : State :=
  match s.party, sc with
  | .group, .team => s
  | .group, _ => s.dropSectors s.gteam.core
  | _, _ => s

/-- The window requests of the party that moves: of its group's stream, or of an engine of the device. -/
def State.mine (s : State) (r : RemReq) : Bool := r.ch == s.ch && (r.gid == s.g.gid || decide (2 ^ 16 ≤ s.ch))
/-- Its record of an atomic that awaits its completion or has it. -/
def State.remAtom? (s : State) (pa n : Nat) (lane : Option Nat := none) : Option RemReq :=
  s.remote.find? fun r => s.mine r && r.atomic.isSome && r.lane == lane && r.pa == pa && r.size == n
/-- Its record of a read that covers some bytes. -/
def State.rem? (s : State) (pa n : Nat) : Option RemReq :=
  s.remote.find? fun r => s.mine r && r.atomic.isNone && decide (r.pa ≤ pa ∧ pa + n ≤ r.pa + r.size)
/-- What the completion of its read has brought: no other access sees these bytes, and none of another's changes them (R307, R308). -/
def State.fetched (s : State) (pa n : Nat) : Nat := ((s.rem? pa n).map fun r => r.val / 256 ^ (pa - r.pa) % 256 ^ n).getD 0
/-- What a read of the party finds at a location. -/
def State.seen (s : State) (key n : Nat) : Nat := if isRemote key then s.fetched key n else s.read key n

/-- The completions the party has used are forgotten. -/
def State.remClear (s : State) : State :=
  if s.remote.isEmpty then s else { s with remote := s.remote.filter fun r => !s.mine r }

/-- A record of a request; one to the host has a tag of its own. -/
def State.ask (s : State) (r : RemReq) : State :=
  let r := { r with gid := s.g.gid, ch := s.ch }
  if isHost r.pa then
    { s with remote := s.remote ++ [{ r with tag := s.fabric.hostTag }], fabric := { s.fabric with hostTag := s.fabric.hostTag + 1 } }
  else { s with remote := s.remote ++ [{ r with tag := s.freeTag }] }

/-- Parts of a list, of n each. -/
def chunksOf {α : Type} (n : Nat) : Nat → List α → List (List α)
  | 0, _ => []
  | k + 1, l => if l.isEmpty then [] else l.take n :: chunksOf n k (l.drop n)

/-- The unit in which a window read asks for its bytes: an aligned word or doubleword, or whole bytes. -/
def askUnit (c : Nat × Nat) : Nat × Nat := if c.2 < 4 then (c.1 / 4 * 4, 4) else c
/-- The elements of a vector packet that carry a read: words, doublewords, and 64-byte units as doublewords (R450). DESIGN CHOICE, unsafe: assumption 24. -/
def vecElems (c : Nat × Nat) : List (Nat × Nat) := if c.2 ≤ 8 then [c] else (List.range (c.2 / 8)).map fun i => (c.1 + 8 * i, 8)

/-- The offset beat of a vector packet (R450). -/
def offsetBeat (cs : List Nat) : List Byte :=
  ((List.range 32).map fun i => match cs[i]? with
    | some a => leBytes 2 (a % 65536)
    | none => leBytes 2 0xFFFF).flatten
/-- The groups of lane accesses by region, in ascending lane order, each cut into packets of up to 32 elements of one size; a unit is not cut
(R450). -/
def vecGroups (per : Nat) (cs : List (Nat × Nat)) : List (List (Nat × Nat)) :=
  ((cs.map fun c => c.1 / 65536).eraseDups.map fun r => chunksOf per cs.length (cs.filter fun c => c.1 / 65536 == r)).flatten

/-- Ask the host or a package for one read (R449). -/
def State.askOne (s : State) (c : Nat × Nat) (dom : Option Nat := none) : State :=
  let (pa, n) := askUnit c
  let t := s.ask { gid := 0, pa := pa, size := n }
  if isHost pa then t
  else
    let (d, a) := peerOf pa
    t.sendOwn (reqPacket t (dom.getD t.gdom) 1 d a n []) { bytes := n, cells := [(pa, n)] }
/-- Ask a package for the reads of one vector packet (R450). -/
def State.askVec (s : State) (cs : List (Nat × Nat)) : State :=
  match cs with
  | [] => s
  | c :: _ =>
    let es := (cs.map vecElems).flatten
    let t := cs.eraseDups.foldl (fun t c => t.ask { gid := 0, pa := c.1, size := c.2 }) s
    let (d, a) := peerOf (c.1 / 65536 * 65536)
    let w := (es.map (·.2)).foldl max 4
    t.sendOwn { reqPacket t t.gdom 4 d a es.length (offsetBeat (es.map (·.1))) with flags := if w = 8 then 4 else 0 }
      { bytes := w * es.length, cells := es }
/-- Ask for reads that have no record yet: `vec` says that they are the lane accesses of one load or rendering read, whose peer reads go in
vector packets (R450). -/
def State.askReads (s : State) (vec : Bool) (cells : List (Nat × Nat)) : State :=
  let new := (cells.filter fun c => (s.rem? c.1 c.2).isNone).map askUnit
  let alone := (new.filter fun c => !vec || isHost c.1).eraseDups
  let t := alone.foldl (fun t c => t.askOne c) s
  let size : Nat := ((new.head?).map fun (c : Nat × Nat) => c.2).getD 4
  (vecGroups (if size ≤ 8 then 32 else 4) (new.filter fun c => vec && !isHost c.1)).foldl State.askVec t

/-- The window reads of an instruction: complete, or asked for and awaited. The list of the reads that failed, with their
status, comes back. -/
def State.remReads (s : State) (cells : List (Nat × Nat)) (vec : Bool := false) : Res (List (Nat × Nat)) :=
  let r := cells.filter fun c => isRemote c.1
  if r.isEmpty then .ok []
  else if r.all fun c => (s.rem? c.1 c.2).any (·.isDone) then
    .ok (r.filterMap fun c => (s.rem? c.1 c.2).bind fun q => if q.status = 0 then none else some (c.1, q.status))
  else .error (.stallIn (s.askReads vec r) (if r.any fun c => isHost c.1 then .pcie else .peer))

/-- What the device itself finds at places in memory: those in the host or peer window are asked for, on a channel of its own, and it looks
again once the completions have come (R441); `none` where one was refused or lost. -/
def State.look (s : State) (ch : Nat) (cells : List (Nat × Nat)) : Except State (State × Option (Nat → Nat → Nat)) :=
  let t := { s with ch := ch }
  match t.remReads cells with
  | .ok [] => .ok ({ t.remClear with ch := s.ch }, some t.seen)
  | .ok _ => .ok ({ t.remClear with ch := s.ch }, none)
  | .error (.stallIn u _) => .error { u with ch := s.ch }
  | .error _ => .error s

/-- Place bytes at a location for the device itself: sent to the host, ordered after its earlier writes or not, or to a package, or written
here. -/
def State.placeAt (s : State) (dom key n v : Nat) (ordered : Bool := false) (launch : Option Nat := none) : State :=
  if isHost key then s.toHost (.write (s.hostPort dom) (key - hostBase) (leBytes n v) (!ordered))
  else if isPeer key then
    let (d, a) := peerOf key
    s.send (reqPacket s dom 2 d a n (leBytes n v)) { bytes := n, cells := [(key, n)], write := true, launch := launch }
  else s.write key n v

/-! ### Sessions (R412, R413) -/

/-- A participant: its address space, the session's descriptor, whether it replays, and its PID. -/
structure Member where
  dom : Nat
  asn : Nat
  phys : Bool
  desc : DWord
  play : Bool
  pid : Nat
deriving DecidableEq, Repr

/-- The group in focus, or the policy core, as a participant. -/
def State.member? (s : State) : Option Member :=
  s.g.replay.map fun r => ⟨s.gdom, s.gasn, s.party != .group, r.sess, r.play, r.pid⟩

def Session.isOf (x : Session) (m : Member) : Bool := x.dom == m.dom && x.asn == m.asn && x.phys == m.phys && x.desc == m.desc
def session? (s : State) (m : Member) : Option Session := s.sessions.find? fun x => x.isOf m
/-- A field of the session's descriptor, as it was read when its first participant joined (R413). -/
def sessField (s : State) (m : Member) (off n : Nat) : Nat := fieldOf (((session? s m).map (·.rcd)).getD []) off n

/-- A place that the device reaches for itself in a participant's address space (R413); a policy core's addresses are physical. -/
def devLoc (s : State) (m : Member) (va : Nat) (k : Access) : Option Loc :=
  if m.phys then (if va < s.priv.memtop.toNat then some { key := va } else none)
  else match translatePt s m.dom m.asn true (BitVec.ofNat 64 va) k with
    | .ok l => if l.h then none else some l
    | .error _ => none
/-- A read there: `none` where it is refused or uncorrectable; in the host or peer window it is asked for and awaited. -/
def devRead (s : State) (m : Member) (va n : Nat) : Res (Option Nat) :=
  match devLoc s m va .load with
  | none => .ok none
  | some l =>
    if isRemote l.key then
      match s.remReads [(l.key, n)] with
      | .ok [] => .ok (some (s.fetched l.key n))
      | .ok _ => .ok none
      | .error e => .error e
    else .ok (if poisoned s l.key n then none else some (s.read l.key n))
/-- A write there: `none` where it is refused or uncorrectable (R415). -/
def devWrite (s : State) (m : Member) (va n v : Nat) : Option State :=
  (devLoc s m va .store).bind fun l => if !isRemote l.key && poisoned s l.key n then none else some (s.placeAt m.dom l.key n v)

/-- Keep a session's STATUS. -/
def setSession (s : State) (m : Member) (x : Session) : State :=
  { s with sessions := s.sessions.map fun y => if y.isOf m then x else y }

def SessNode.isOf (x : SessNode) (m : Member) (node : Nat) : Bool :=
  x.dom == m.dom && x.asn == m.asn && x.desc == m.desc && x.node == node
def sessNode (s : State) (m : Member) (node : Nat) : SessNode :=
  (s.sessNodes.find? fun x => x.isOf m node).getD { dom := m.dom, asn := m.asn, desc := m.desc, node := node }
def setSessNode (s : State) (m : Member) (x : SessNode) : State :=
  { s with sessNodes := x :: s.sessNodes.filter fun y => !y.isOf m x.node }

/-- A write for a session that is refused: an error record of CLASS 8, and logging at the node stops (R415). -/
def writeRefused (s : State) (m : Member) (node : Nat) : State :=
  (setSessNode s m { sessNode s m node with stopped := true }).errRecord 8 (nodeUnit node).1 (nodeUnit node).2 0 0

/-- Set a bit of STATUS (R413); `none` where it cannot be written. -/
def putStatus (s : State) (m : Member) (bit : Nat) : Option State :=
  match session? s m with
  | none => none
  | some x =>
    let v := x.status ||| 2 ^ bit
    (devWrite s m (m.desc.toNat + 40) 8 v).map fun t => setSession t m { x with status := v }
/-- The same for a check (R418). -/
def setStatus (s : State) (m : Member) (bit : Nat) : State := (putStatus s m bit).getD s
/-- The same for a home node (R415). -/
def nodeStatus (s : State) (m : Member) (node bit : Nat) : State :=
  if (sessNode s m node).stopped then setStatus s m bit else (putStatus s m bit).getD (writeRefused s m node)

/-! ### Grants (R414 to R416) -/

/-- The log area of a home node. -/
def logArea (s : State) (m : Member) (node : Nat) : Nat := sessField s m 0 8 + node * sessField s m 8 4
/-- A chunk (R415). -/
def chunkOf (pid run line : Nat) : Nat := pid * 2 ^ 40 + run * 2 ^ 28 + line

/-- The node with the number of its chunks and the last one, as its area holds them; `none` where they cannot be read. -/
def loadNode (s : State) (m : Member) (node : Nat) : Res (Option SessNode) := do
  let x := sessNode s m node
  let a := logArea s m node
  if x.loaded then .ok (some x)
  else match ← devRead s m a 8 with
    | none => .ok none
    | some 0 => .ok (some { x with loaded := true })
    | some n => match ← devRead s m (a + 64 + 8 * (n - 1)) 8 with
      | none => .ok none
      | some c => .ok (some { x with loaded := true, count := n, last := c })

/-- Log one grant (R415). -/
def logGrant (s : State) (m : Member) (node line : Nat) : Res State := do
  let a := logArea s m node
  if (sessNode s m node).stopped then .ok (nodeStatus s m node 0)
  else match ← loadNode s m node with
    | none => .ok (writeRefused s m node)
    | some x =>
      if x.count ≠ 0 ∧ bitsOf x.last 40 24 = m.pid ∧ bitsOf x.last 0 28 = line ∧ bitsOf x.last 28 12 < 4095 then
        let c := x.last + 2 ^ 28
        .ok (((devWrite s m (a + 64 + 8 * (x.count - 1)) 8 c).map fun t => setSessNode t m { x with last := c }).getD (writeRefused s m node))
      else if sessField s m 8 4 < 64 + 8 * x.count + 8 then .ok (nodeStatus (setSessNode s m x) m node 0)
      else
        let c := chunkOf m.pid 1 line
        .ok ((((devWrite s m (a + 64 + 8 * x.count) 8 c).bind fun t => devWrite t m a 8 (x.count + 1)).map fun t =>
          setSessNode t m { x with count := x.count + 1, last := c }).getD (writeRefused s m node))

/-- The next unconsumed grant of a log: its PID and LINE, and its place. -/
def nextGrant (s : State) (m : Member) (a : Nat) : Nat → Nat → Nat → Res (Option (Nat × Nat × Nat × Nat))
  | 0, _, _ => .ok none
  | n + 1, j, k => do
    match ← devRead s m (a + 64 + 8 * j) 8 with
    | none => .ok none
    | some c =>
      if k < bitsOf c 28 12 then .ok (some (bitsOf c 40 24, bitsOf c 0 28, j, k)) else nextGrant s m a n (j + 1) 0

/-- One grant at a location: logged while recording; while replaying performed only when it matches the log (R416). -/
def grantAt (s : State) (m : Member) (key home : Nat) (addr : DWord) (passed : Bool) : Res State :=
  match homeNode s key home with
  | none => .ok s
  | some (node, line) =>
    if !m.play then logGrant s m node line
    else do
      let a := logArea s m node
      let x := sessNode s m node
      let n := (← devRead s m a 8).getD 0
      match ← nextGrant s m a (n - x.chunk) x.chunk x.taken with
      | none => .ok s
      | some (p, l, j, k) =>
        if p = m.pid ∧ l = line then .ok (setSessNode s m { x with chunk := j, taken := k + 1 })
        else if passed then .error (.trapIn (nodeStatus s m node 1) { code := .replayDiverge, addr := addr })
        else .error (.stall .stile)

/-- The grant of an access of the group in focus; the passed Stile limit is spent on it. -/
def State.grant (s : State) (l : Loc) (va : DWord) : Res State :=
  match s.member? with
  | none => .ok s
  | some m => grantAt { s with g := { s.g with stileOver := false } } m l.key l.home va s.g.stileOver

/-- The place of a stream: the PC, or the lane index. -/
def State.place (s : State) (lane : Bool) : Nat := if lane then (s.g.lane.active.map (·.lpc)).getD 0 else s.sc.pc.toNat
/-- The lines whose grants the instruction at the stream's place already has. -/
def State.granted (s : State) (lane : Bool) : List Nat :=
  match if lane then s.g.grantL else s.g.grantS with
  | some (p, ls) => if p = s.place lane then ls else []
  | none => []
/-- Keep them while the instruction is held. -/
def State.keep (s : State) (lane : Bool) (ls : List Nat) : State :=
  let x := if ls.isEmpty then none else some (s.place lane, ls)
  if lane then { s with g := { s.g with grantL := x } } else { s with g := { s.g with grantS := x } }

/-- Grants one after another, one per line; what a held instruction has been granted stays granted (R416). -/
def grantAll (s : State) (lane : Bool) (seen : List Nat) : List (Loc × DWord) → Res State
  | [] => .ok (s.keep lane (if lane then seen else []))
  | (l, va) :: t =>
    if seen.contains (l.key / 512) then grantAll s lane seen t
    else match s.grant l va with
      | .ok u => grantAll u lane (l.key / 512 :: seen) t
      | .error (.stall w) => .error (.stallIn (s.keep lane seen) w)
      | .error (.stallIn u w) => .error (.stallIn (u.keep lane seen) w)
      | .error (.trapIn u x) => .error (.trapIn (u.keep lane seen) x)
      | .error e => .error e

/-- The grants of one instruction: one per line, in ascending order of the lowest active lane that reaches it. Those of a lane
instruction stand until it has issued. -/
def State.grants (s : State) (lane : Bool) (ls : List (Loc × DWord)) : Res State :=
  match s.member? with
  | none => .ok s
  | some _ => grantAll s lane (s.granted lane) ls

/-- The state of an instruction that is held after it has begun: `s` with the session's progress, the requests and the grants of `u`. -/
def State.heldAs (s u : State) : State :=
  { s with sessions := u.sessions, sessNodes := u.sessNodes, remote := u.remote, fabric := u.fabric,
           g := { s.g with grantL := u.g.grantL, stileOver := u.g.stileOver } }

/-! ### The store hash (R417) -/

/-- G after one word. -/
def foldWord (g : Word) (x : Word × Word) : Word := sow32 (g ^^^ x.1) x.2

/-- The words of a store of `n` bytes: data and address; a byte or half in place in its aligned word. -/
def storeWords (va : DWord) (n v : Nat) : List (Word × Word) :=
  if n < 4 then [(BitVec.ofNat 32 (v % 2 ^ (8 * n) * 2 ^ (8 * (va.toNat % 4))), BitVec.ofNat 32 (va.toNat / 4 * 4))]
  else (List.range (n / 4)).map fun i => (BitVec.ofNat 32 (v / 2 ^ (32 * i)), BitVec.ofNat 32 (va.toNat + 4 * i))

/-- Runs outstanding in the lane stream. -/
def LaneCtx.runs (l : LaneCtx) : Nat := (if l.active.isSome then 1 else 0) + l.queue.length
/-- Their numbers. -/
def LaneCtx.nums (l : LaneCtx) : List Nat := (l.active.toList ++ l.queue).map (·.num)

/-- Fold every pending word that has no word of an unfinished run before it: runs held at a pop are unfinished. -/
def Group.foldReady (g : Group) : Group :=
  match g.replay with
  | none => g
  | some r =>
    let first := (g.lane.nums ++ g.tape.heldLane.nums).min?
    let free (x : Nat × Word × Word) : Bool := match first with
      | none => true
      | some n => x.1 ≤ 2 * n + 1
    let now := (r.pend.takeWhile free).map (·.2)
    { g with replay := some { r with g := now.foldl foldWord r.g, pend := r.pend.dropWhile free } }

/-- Put a word among the pending ones at its place in hash order, behind the words of the same place. -/
def insertWord (x : Nat × Word × Word) : List (Nat × Word × Word) → List (Nat × Word × Word)
  | [] => [x]
  | y :: t => if x.1 < y.1 then x :: y :: t else y :: insertWord x t

/-- The place of a stream's stores in hash order. -/
def Group.hashPlace (g : Group) (lane : Bool) : Nat := if lane then 2 * g.run.num + 1 else 2 * g.lane.count
/-- Words of scalar stores that are pending. -/
def Replay.scalarPend (r : Replay) : Nat := (r.pend.filter fun x => x.1 % 2 == 0).length

/-- A scalar store whose words would be pending beyond 64 waits (R417). -/
def State.foldRoom (s : State) (ws : List (Word × Word)) : Res Unit :=
  match s.g.replay with
  | none => .ok ()
  | some r =>
    let later := !(s.g.lane.nums ++ s.g.tape.heldLane.nums).isEmpty
    require (!later || r.scalarPend + ws.length ≤ 64) (.stall .replayFold)

/-- Fold the words of one store, those of an earlier run's stores first. -/
def State.fold (s : State) (lane : Bool) (ws : List (Word × Word)) : State :=
  match s.g.replay with
  | none => s
  | some r =>
    let p := s.g.hashPlace lane
    let pend := ws.foldl (fun l w => insertWord (p, w) l) r.pend
    { s with g := ({ s.g with replay := some { r with pend := pend } } : Group).foldReady }

/-- The fault of a failed remote access (R441, R442). -/
def remFault (status : Nat) (va : DWord) : Trap :=
  if status = 1 then restartAt .protection va 3 else restartAt .uncorrectableData va

/-! ### Staging (R403 to R406) -/

/-- The team of the group in focus holds its launch's ticket, and its staged entries have been performed (R405). -/
def State.holder (s : State) : Bool := s.glaunch.ticket == s.gteam.teamlin && s.gteam.staged.isEmpty

/-- A store to this location is staged. -/
def State.stages (s : State) (l : Loc) : Bool := s.party == .group && s.g.det && l.d && !s.holder

/-- The newest staged byte at an address. -/
def stagedByte (st : List Staged) (a : Nat) : Option Byte :=
  (st.reverse.find? fun e => e.pa ≤ a && a < e.pa + e.size).map fun e => BitVec.ofNat 8 (e.data.toNat / 256 ^ (a - e.pa))

/-- What a load of the group reads: memory under the team's own staged stores (R406). -/
def State.readOwn (s : State) (l : Loc) (n : Nat) : Nat :=
  if s.party == .group && l.d && !s.gteam.staged.isEmpty then
    ofBytes ((List.range n).map fun i => (stagedByte s.gteam.staged (l.key + i)).getD (BitVec.ofNat 8 (s.seen l.key n / 256 ^ i)))
  else s.seen l.key n

/-- Place a store: staged, sent to a window, or performed. Its grant has been made where it is not staged. -/
def State.put (s : State) (l : Loc) (va : DWord) (n v : Nat) (ordered : Bool := false) (sync : Bool := false) : Res State :=
  if s.stages l then
    let t := s.gteam
    if 2048 ≤ t.staged.length then .error (.stall .staging)
    else .ok (s.setTeam { t with staged := t.staged ++
      [{ pa := l.key, home := l.home, size := n, data := BitVec.ofNat 64 v, va := va, gid := s.g.gid
         sess := s.g.replay.map fun r => (r.sess, r.play, r.pid) }] })
  else if s.owned l.key n then .error (.stall .recall)
  else if isRemote l.key then .ok (s.putRemote l.key n v ordered sync)
  else .ok (s.write l.key n v)

/-- The grant of a staged entry, for which the device itself reads the log (R407, R414). -/
def stagedGrant (s : State) (dom asn tid : Nat) (e : Staged) : Res State :=
  match e.sess with
  | none => .ok s
  | some (d, play, pid) =>
    let back (u : State) : State := { u with ch := s.ch }
    match grantAt { s with ch := 2 ^ 16 + 2 * tid + 1 } ⟨dom, asn, false, d, play, pid⟩ e.pa e.home e.va e.released with
    | .ok u => .ok (back u.remClear)
    | .error (.stallIn u w) => .error (.stallIn (back u) w)
    | .error (.trapIn u x) => .error (.trapIn (back u.remClear) x)
    | .error x => .error x

/-- A group owes a fault, which it takes at its next issue slot. -/
def State.owe (s : State) (gid : Nat) (t : Trap) : State :=
  let put (g : Group) : Group := if g.gid == gid && g.owed.isNone then { g with owed := some t } else g
  { s with g := if s.g.live then put s.g else s.g, others := s.others.map put
           saved := s.saved.map fun (x : SavedTeam) => { x with groups := x.groups.map put } }

/-- Perform a team's staged entries in staging order, each with its grant (R405, R407): how far that comes, and whether all have been
performed. An entry that the Stile's limit has released is performed, and its group takes REPLAY_DIVERGE (R416). DESIGN CHOICE, unsafe: assumption 59. -/
def performStaged (s : State) (dom asn tid : Nat) : List Staged → State × Bool
  | [] => (s.setTeam { s.team tid with staged := [] }, true)
  | e :: t =>
    let stop (u : State) : State × Bool := (u.setTeam { u.team tid with staged := e :: t }, false)
    let place (u : State) : State := (u.placeAt dom e.pa e.size e.data.toNat).dropL1
    if s.owned e.pa e.size then stop s
    else match stagedGrant s dom asn tid e with
      | .ok u => performStaged (place u) dom asn tid t
      | .error (.trapIn u x) => performStaged ((place u).owe e.gid x) dom asn tid t
      | .error (.stallIn u _) => stop u
      | .error _ => stop s

end Sys2Proof.Machine
end

