-- ==== Sys2Proof/Machine/Access.lean ====
section
/-!
DEFINITION. One access at a virtual address: the checks of R168 in their order, a load, a store and an indivisible
read-modify-write of the scalar stream, and the new value of an atomic (R174, R185).
-/
namespace Sys2Proof.Machine

/-- Bytes of an access size. -/
def sizeBytes : MSize → Nat
  | .byte => 1 | .half => 2 | .word => 4 | .dword => 8

/-- Step 4 of R168: R170, and on a formatted page R25. An element access has its own place relative to DBASE. -/
def admitted (s : State) (ad : Admit) (l : Loc) (va : DWord) : Bool :=
  ad.ok l && (if ad == .elem then l.pfd == 0 || (pfdOf s s.gdom l.pfd).isSome else formatOk s s.gdom l.pfd va)

/-- Steps 1 to 4 of R168. DESIGN CHOICE, unsafe: assumption 6. DESIGN CHOICE, unsafe: assumption 20. -/
def access (s : State) (va : DWord) (n : Nat) (k : Access) (ad : Admit) : Except Trap Loc :=
  if !canonical va then .error (preciseAt .protection va 4)
  else if va.toNat % n ≠ 0 then .error (preciseAt .misaligned va)
  else match translate s va k with
    | .error t => .error t
    | .ok l => if admitted s ad l va then .ok l else .error (preciseAt .format va)

/-- Step 5 of R168, and the wait for an engine's line or a remote read. -/
def arrive (s : State) (l : Loc) (va : DWord) (n : Nat) : Res Unit :=
  if s.owned l.key n then .error (.stall .recall)
  else if isRemote l.key then
    match s.remReads [(l.key, n)] with
    | .error e => .error e
    | .ok [] => .ok ()
    | .ok ((_, st) :: _) => .error (.trapIn s.remClear (remFault st va))
  else if poisoned s l.key n then .error (.trap (flawed va l.key l.home))
  else .ok ()

/-- A load of the scalar stream or of an instruction's record: its value, and the state after the translation is cached. -/
def loadRaw (s : State) (va : DWord) (n : Nat) (acq : Bool) : Res (Nat × State) := do
  let l ← lift (access s va n .load .scalarLoad)
  arrive s l va n
  let t ← if acq then s.grants false [(l, va)] else .ok s
  .ok (s.readOwn l n, t.touch va)

/-- A scalar load. -/
def loadS (s : State) (va : DWord) (n : Nat) (acq : Bool) : Res (Nat × State) := do
  let (v, t) ← loadRaw s va n acq
  .ok (v, t.remClear)

/-- A scalar store: granted unless staged, folded, and placed. -/
def storeS (s : State) (va : DWord) (n v : Nat) (ordered : Bool := false) (sync : Bool := false) : Res State := do
  let l ← lift (access s va n .store .plainStore)
  s.foldRoom (storeWords va n v)
  let t ← if s.stages l then .ok s else s.grants false [(l, va)]
  ((t.fold false (storeWords va n v)).touch va true).put l va n v (ordered || s.g.relS) sync

/-- The value an integer atomic leaves: bits, signedness, operation, old value, operand, expected value (R174, R185). -/
def atomNew (bits : Nat) (signed : Bool) (op : AtomOp) (old x e : Nat) : Nat :=
  let lt := if signed then decide (toSigned bits old < toSigned bits x) else decide (old % 2 ^ bits < x % 2 ^ bits)
  match op with
  | .add => (old + x) % 2 ^ bits
  | .exch => x % 2 ^ bits
  | .cas => if old % 2 ^ bits = e % 2 ^ bits then x % 2 ^ bits else old % 2 ^ bits
  | .min => if lt then old % 2 ^ bits else x % 2 ^ bits
  | .max => if lt then x % 2 ^ bits else old % 2 ^ bits
  | .and => old &&& (x % 2 ^ bits)
  | .or => old ||| (x % 2 ^ bits)
  | .xor => old ^^^ (x % 2 ^ bits)

/-- Element width of a type. -/
def LType.ew : LType → Nat
  | .s64 | .n64 | .f64 => 64
  | .s16x2 | .n16x2 | .f16x2 | .bf16x2 | .l16x2 => 16
  | .s8x4 | .n8x4 => 8
  | _ => 32
/-- The value a lane atomic leaves; .f32 adds under RNE and compares by R149. -/
def laneAtom (t : LType) (op : AtomOp) (old x e : Nat) : Nat :=
  if t = .f32 then
    match op with
    | .add => (fpAdd f32 .rne false false old x).1
    | .exch => x
    | .cas => if old = e then x else old
    | .min => (fpMinMax f32 false false false old x).1
    | .max => (fpMinMax f32 true false false old x).1
    | _ => old
  else atomNew (LType.ew t) (Sys2Proof.LType.signed t) op old x e

/-! ### The operations of fabric atomics (R174, R185, R187, R449) -/

/-- The operations that a packet of type 3 may ask for: the five of R174 first, in the order of their codes, then those of R185 that
have none. A gradient contribution is the one after them. -/
def fabOps : List (LType × AtomOp) :=
  [(.s64, .add), (.s64, .exch), (.s64, .cas), (.s64, .min), (.s64, .max), (.s64, .and), (.s64, .or), (.s64, .xor),
   (.n64, .min), (.n64, .max), (.f32, .add), (.f32, .min), (.f32, .max)]
/-- The place of an operation among them; add, exchange and compare are the same whatever the signedness. -/
def fabIndex (t : LType) (op : AtomOp) : Nat :=
  let f := decide (t = .f32)
  let sg := Sys2Proof.LType.signed t
  match op with
  | .add => if f then 10 else 0
  | .exch => 1
  | .cas => 2
  | .min => if f then 11 else if sg then 3 else 8
  | .max => if f then 12 else if sg then 4 else 9
  | .and => 5
  | .or => 6
  | .xor => 7
/-- The OP byte: R174's code for the first five, and for the others distinct bytes that R174 does not use, from a free one on. DESIGN CHOICE,
safe: assumption 27. -/
def fabCode (i : Nat) : BitVec 8 := if i < 5 then BitVec.ofNat 8 (i + 2) else BitVec.ofNat 8 (7 + (Config.opBase + i) % 249)
/-- The place of a gradient contribution. DESIGN CHOICE, safe: assumption 27. -/
def gradIndex : Nat := 13
/-- The operation that an OP byte names. DESIGN CHOICE, safe: assumption 27. -/
def fabOpOf (c : BitVec 8) : Option Nat := (List.range 14).find? fun i => fabCode i == c
/-- The value that an operation leaves in a word of n bytes. -/
def fabNew (i n old x e : Nat) : Nat := match fabOps[i]? with
  | some (.f32, op) => laneAtom .f32 op old (x % 2 ^ 32) (e % 2 ^ 32)
  | some (t, op) => atomNew (8 * n) (Sys2Proof.LType.signed t) op old x e
  | none => old

/-- Ask for an atomic: a PCIe AtomicOp, or a packet of type 3 (R442, R449). -/
def State.askAtom (s : State) (pa n : Nat) (code : BitVec 8) (x e : DWord) (lane : Option Nat := none) : State :=
  let t := s.ask { gid := 0, pa := pa, size := n, atomic := some (code.toNat, x, e), lane := lane }
  if isHost pa then t
  else
    let (d, a) := peerOf pa
    t.sendOwn { reqPacket t t.gdom 3 d a n [] with op := code, aux := x, aux2 := e, flags := if n = 8 then 4 else 0 }
      { bytes := n, cells := [(pa, n)], write := true }

/-- A scalar atomic in the host or peer window: asked for, awaited, and its own old value returned (R441, R442). -/
def atomRemote (s : State) (va : DWord) (pa n : Nat) (op : AtomOp) (x e : Nat) : Res (Nat × State) := do
  let hostOk := match op with
    | .add | .exch | .cas => true
    | _ => false
  require (!isHost pa || hostOk) (.trap (restartAt .protection va 3))
  s.foldRoom (storeWords va n 0)
  match s.remAtom? pa n with
  | some q =>
    if !q.isDone then .error (.stall (if isHost pa then .pcie else .peer))
    else if q.status = 0 then .ok (q.val, s.remClear.fold false (storeWords va n (atomNew (8 * n) true op q.val x e)))
    else .error (.trapIn s.remClear (remFault q.status va))
  | none => .error (.stallIn (s.askAtom pa n (fabCode (fabIndex .s64 op)) (BitVec.ofNat 64 x) (BitVec.ofNat 64 e))
      (if isHost pa then .pcie else .peer))

/-- A scalar atomic (R174): the old value and the state with the new one. -/
def atomS (s : State) (va : DWord) (n : Nat) (op : AtomOp) (x e : Nat) : Res (Nat × State) := do
  let l ← lift (access s va n .atomic .atomic)
  if isRemote l.key then do
    require (!s.owned l.key n) (.stall .recall)
    require (!s.stages l) (.stall .staging)
    atomRemote (s.touch va true) va l.key n op x e
  else do
    arrive s l va n
    if s.stages l then .error (.stall .staging)
    else do
      let old := s.read l.key n
      let new := atomNew (8 * n) true op old x e
      s.foldRoom (storeWords va n new)
      let t ← s.grants false [(l, va)]
      .ok (old, ((t.fold false (storeWords va n new)).touch va true).write l.key n new)

/-- Steps 1 and 2 of R168 for a record operand of an alignment. DEDUCED, unsafe: assumption 55. -/
def recordCheck (va : DWord) (n : Nat) : Res Unit := do
  require (canonical va) (.trap (preciseAt .protection va 4))
  require (va.toNat % n = 0) (trapP .misaligned 0 va)

/-- Bytes that the device reads for itself at an aligned address of the group's space (records, descriptors): the checks of a
scalar load, 8 bytes at a time. -/
def recordAt (s : State) (va : DWord) : Nat → Res (List Byte × State)
  | 0 => .ok ([], s)
  | n + 1 => do
    let (v, t) ← loadRaw s va 8 false
    let (b, u) ← recordAt t (va + 8) n
    .ok (leBytes 8 v ++ b, u)

end Sys2Proof.Machine
end

