-- ==== Sys2Proof/Machine/LaneAccess.lean ====
section
/-!
DEFINITION. The accesses of one lane instruction: R168 over its lanes, with the report of the lowest lane that fails, the arrival of
data, and the stores of its lanes with their grants (R184, R414, R417).
-/
namespace Sys2Proof.Machine

/-- The fault of the lowest failing lane, with the mask of the lanes that failed alike. DEDUCED, unsafe: assumption 44. -/
def laneFault (fails : List (Nat × Trap)) : Option Trap :=
  match fails with
  | [] => none
  | (l, t) :: _ => some { t with lane := some l, mask := maskOf fun k => fails.any fun x => x.1 == k && x.2.code == t.code }
/-- DEDUCED, unsafe: assumption 44. -/
def failLanes (fails : List (Nat × Trap)) : Res Unit :=
  match laneFault fails with
  | none => .ok ()
  | some t => .error (.trap t)

/-- One access of a lane. -/
structure LaneLoc where
  lane : Nat
  va : DWord
  loc : Loc
deriving DecidableEq, Repr

def errorOf {α : Type} : Except Trap α → Option Trap
  | .ok _ => none
  | .error t => some t

/-- Steps 1 to 4 of R168 over lanes in ascending order: 1 and 2 in every lane first, then 3, then 4. -/
def laneLocs (s : State) (as : List (Nat × DWord)) (n : Nat) (k : Access) (ad : Admit) : Res (List LaneLoc) := do
  failLanes (as.filterMap fun x =>
    if !canonical x.2 then some (x.1, preciseAt .protection x.2 4)
    else if x.2.toNat % n ≠ 0 then some (x.1, preciseAt .misaligned x.2)
    else none)
  let tr := as.map fun x => (x, translate s x.2 k)
  failLanes (tr.filterMap fun x => (errorOf x.2).bind fun t => if t.code = .format then none else some (x.1.1, t))
  failLanes (tr.filterMap fun x => match x.2 with
    | .error t => some (x.1.1, t)
    | .ok l => if admitted s ad l x.1.2 then none else some (x.1.1, preciseAt .format x.1.2))
  .ok (tr.filterMap fun x => match x.2 with
    | .ok l => some ⟨x.1.1, x.1.2, l⟩
    | .error _ => none)

/-- Step 5 over lanes: an engine's lines and remote reads are awaited, poison is consumed (R458); `vec`: they are the lane accesses of one load. -/
def laneArrive (s : State) (ls : List LaneLoc) (n : Nat) (vec : Bool := true) : Res Unit := do
  require (!ls.any fun x => s.owned x.loc.key n) (.stall .recall)
  let bad ← s.remReads (ls.map fun x => (x.loc.key, n)) vec
  match laneFault (ls.filterMap fun x => (bad.find? fun b => b.1 == x.loc.key).map fun b => (x.lane, remFault b.2 x.va)) with
  | some t => .error (.trapIn s.remClear t)
  | none =>
    let ps := ls.filter fun x => !isRemote x.loc.key && poisoned s x.loc.key n
    failLanes (ps.map fun x => (x.lane, flawed x.va x.loc.key x.loc.home))

/-- What the accesses of lanes leave behind. -/
def State.touchAll (s : State) (vs : List DWord) (store : Bool := false) : State := vs.foldl (fun t va => t.touch va store) s

/-- Send the stores of one vector write (R450). -/
def State.putVec (s : State) (n : Nat) (ws : List (Nat × Nat)) : State :=
  match ws with
  | [] => s
  | w :: _ =>
    let (d, a) := peerOf (w.1 / 65536 * 65536)
    s.sendOwn { reqPacket s s.gdom 5 d a ws.length (offsetBeat (ws.map (·.1)) ++ (ws.map fun c => leBytes n c.2).flatten) with
                flags := if n = 8 then 4 else 0 }
      { bytes := n * ws.length, cells := ws.map fun c => (c.1, n), write := true }
/-- Send stores of lanes to the peer window: words and doublewords in vector writes (R450), bytes and halves, which no element of a vector
packet can carry, one by one. DESIGN CHOICE, unsafe: assumption 24. -/
def State.putPeers (s : State) (ws : List (Nat × Nat)) (n : Nat) : State :=
  if n < 4 then ws.foldl (fun t w => t.putRemote w.1 n w.2) s else (vecGroups 32 ws).foldl (State.putVec · n) s

/-- Perform the stores of one lane instruction in ascending lane order: granted by lines, folded, placed. -/
def laneStores (s : State) (ls : List LaneLoc) (n : Nat) (v : Nat → Nat) : Res State := do
  let t ← s.grants true ((ls.filter fun x => !s.stages x.loc).map fun x => (x.loc, x.va))
  let t := (t.fold true ((ls.map fun x => storeWords x.va n (v x.lane)).flatten)).touchAll (ls.map (·.va)) true
  let away (x : LaneLoc) : Bool := isPeer x.loc.key && !s.stages x.loc
  require (!ls.any fun x => !s.stages x.loc && s.owned x.loc.key n) (.stall .recall)
  let t := t.putPeers ((ls.filter away).map fun x => (x.loc.key, v x.lane)) n
  (ls.filter fun x => !away x).foldlM (fun t x => t.put x.loc x.va n (v x.lane) s.g.relL) t

end Sys2Proof.Machine
end

