-- ==== Sys2Proof/Machine/Operands.lean ====
section
/-!
DEFINITION. Lane operands (R44 to R48, R131): reading every form of source field, popping queue ports and pushing to them (R177 to
R179), and writing vector registers and predicates in the lanes of a mask.
-/
namespace Sys2Proof.Machine
open Forms (Use LView)

/-! ### Vector registers and predicates -/

/-- Element of register `k` in lane `l`; the pair at `k` (R10). -/
def Group.vr (g : Group) (k l : Nat) : Word := SMap.get 0 g.vreg (32 * k + l)
def Group.vr2 (g : Group) (k l : Nat) : DWord := g.vr (k + 1) l ++ g.vr k l
/-- Predicate `k` as a mask; `p0` reads true (R45). -/
def Group.pr (g : Group) (k : PReg) : Word := if k = 0 then BitVec.allOnes 32 else SMap.get 0 g.preds k.toNat
/-- Write a register in the lanes of a mask; a written word no longer holds an error (R458). -/
def Group.putVec (g : Group) (k : Nat) (m : Word) (f : Nat → Word) : Group :=
  { g with
    vreg := (lanesOf m).foldl (fun v l => SMap.set 0 v (32 * k + l) (f l)) g.vreg
    badV := g.badV.filter fun n => !(n / 32 == k && m.getLsbD (n % 32)) }
/-- Write a predicate in the lanes of a mask; a write of `p0` is discarded. -/
def Group.putPred (g : Group) (k : PReg) (m v : Word) : Group :=
  if k = 0 then g else { g with preds := SMap.set 0 g.preds k.toNat ((g.pr k &&& ~~~m) ||| (v &&& m)) }

/-- The active lanes of an instruction (R8, R63, R257). DEDUCED, unsafe: assumption 39. -/
def Group.active (g : Group) (h : LHdr) : Word :=
  g.em &&& (if h.gneg then ~~~(g.pr h.guard) else g.pr h.guard) &&& ~~~g.parkMask


/-! ### Queue ports -/

/-- The descriptor bound to a port. -/
def Group.portOf (g : Group) (j : Nat) : Option (Nat × Stream) := g.streams.find? fun x => x.2.port == some j
/-- A port is bound in the direction an access needs (R48). -/
def Group.bound (g : Group) (j : Nat) (store : Bool) : Bool := (g.portOf j).any fun x => x.2.store == store
/-- Elements of a stream; the offset of element n in mixed radix (R177). -/
def Stream.total (x : Stream) : Nat := (x.counts.take x.ndim).foldl (· * ·) 1
def strideSum : List Nat → List Int → Nat → Int
  | c :: cs, k :: ks, n => (n % c : Nat) * k + strideSum cs ks (n / c)
  | _, _, _ => 0
def Stream.offset (x : Stream) (n : Nat) : Int := strideSum (x.counts.take x.ndim) x.strides n
def Group.setStream (g : Group) (k : Nat) (x : Stream) : Group := { g with streams := SMap.set {} g.streams k x }

/-- The fault a vector holds, if an element of it does (R179). -/
def heldFault (v : List QElem) : Option Trap :=
  laneFault (v.zipIdx.filterMap fun x => match x.1 with
    | .held t => some (x.2, t)
    | .val _ => none)

/-- Pop one vector: the inactive lanes' elements are discarded. `s0` is the state a wait leaves. -/
def popOne (s0 s : State) (j : Nat) (act : Word) : Res ((Nat → Word) × State) :=
  match s.g.portOf j with
  | none => .error (trapP .queueUnbound)
  | some (k, x) =>
    if x.total ≤ x.pos then .error (trapP .bounds)
    else match x.loadQ with
      | [] => .error (.stallIn (s0.post (.streamPrefetch s0.g.gid j)) .queueEmpty)
      | v :: q => match heldFault v with
        | some t => .error (.trap t)
        | none =>
          let s := { s with g := s.g.setStream k { x with pos := x.pos + 32, loadQ := q } }
          .ok (fun l => match v[l]? with
            | some (.val w) => if act.getLsbD l then w else 0
            | _ => 0, s.post (.streamPrefetch s.g.gid j))

/-- Push one vector (R179): every active element within the count is translated, and the store engine has it to write. In a
replay session the engine writes it at once, so that its grants stand at the instruction. -/
def pushOne (s0 s : State) (j : Nat) (act : Word) (f : Nat → Word) : Res State := do
  match s.g.portOf j with
  | none => .error (trapP .queueUnbound)
  | some (k, x) =>
    require (x.pos < x.total) (trapP .bounds)
    require ((s.g.pushes.filter fun v => v.port == j).length < 8 && (s.g.replay.isNone || s.g.pushes.isEmpty))
      (.stallIn (s0.post (.storeEngineWrite s0.g.gid j)) .queueFull)
    let as := ((lanesOf act).filter fun l => x.pos + l < x.total).map fun l =>
      (l, x.base + BitVec.ofInt 64 (x.offset (x.pos + l)))
    let ls ← laneLocs s as 4 .store .plainStore
    if s.g.replay.isSome then
      match laneStores s ls 4 fun l => (f l).toNat with
      | .ok s => .ok { s with g := s.g.setStream k { x with pos := x.pos + 32 } }
      | .error (.stallIn u w) => .error (.stallIn (s0.heldAs u) w)
      | .error (.trapIn u t) => .error (.trapIn (match s0.member? with
        | some m => setStatus (s0.heldAs u) m 1
        | none => u) t)
      | .error e => .error e
    else
      let v : List QStore := ls.map fun y => ⟨y.loc, f y.lane, y.va⟩
      let s := s.touchAll (ls.map (·.va)) true
      .ok ({ s with g := { s.g.setStream k { x with pos := x.pos + 32 } with pushes := s.g.pushes ++ [(⟨j, v⟩ : PushVec)] } }.post
        (.storeEngineWrite s.g.gid j))

/-! ### Source fields -/

/-- A use reads 64 bits. -/
def use64 (u : Use) (wide : Bool) : Bool :=
  match u with
  | .el => wide
  | .w64 | .sreg | .uni | .base | .sOrNone => true
  | _ => false

/-- A 32-bit value as 64 bits. -/
def lo32 (w : Word) : DWord := w.setWidth 64
/-- A uniform register as the run sees it (R42). -/
def snapS (r : Run) (n : SReg) : DWord := if n = 0 then 0 else SMap.get 0 r.snap n.toNat

/-- A source field that is no queue port, in each lane (R47). -/
def Group.rdOpd (g : Group) (teamlin : Nat) (wide : Bool) (o : Opd) (l : Nat) : DWord :=
  match o with
  | .v n => if wide then g.vr2 n.toNat l else lo32 (g.vr n.toNat l)
  | .s n => if wide then snapS g.run n else lo32 ((snapS g.run n).setWidth 32)
  | .q _ | .zero => 0
  | .lane => BitVec.ofNat 64 l
  | .width => BitVec.ofNat 64 Config.W
  | .group => BitVec.ofNat 64 g.gidx
  | .team => BitVec.ofNat 64 (teamlin % 2 ^ 32)

/-- The field names a register: it is neither absent nor a field of another kind. -/
def namesReg (u : Use) : Bool := u != .no && u != .raw
/-- The vector registers that a source field of this use reads when it names one. -/
def Use.vregs (u : Use) (wide : Bool) : Nat :=
  match u with
  | .el => if wide then 2 else 1
  | .w32 | .wOrS => 1
  | .w64 => 2
  | .blk n _ => n
  | .no | .pred | .sreg | .uni | .base | .sOrNone | .zero | .raw => 0
/-- The lanes of a mask whose word of a source register, of the pair or of the block, holds an uncorrectable error (R458). -/
def Group.badLanes (g : Group) (act : Word) (u : Use) (wide : Bool) (o : Opd) : List Nat :=
  match o with
  | .v n => (lanesOf act).filter fun l => g.badV.any fun k => k % 32 == l && n.toNat ≤ k / 32 && k / 32 < n.toNat + Use.vregs u wide
  | _ => []

/-- Read a source field, popping a port (R48): one vector, or two for a 64-bit operand, low half first. `every` says that a register is read
in every lane (R131). -/
def readField (s0 s : State) (act : Word) (u : Use) (wide : Bool) (o : Opd) (every : Bool := false) : Res ((Nat → DWord) × State) :=
  match o with
  | .q j =>
    if use64 u wide then do
      let (lo, s) ← popOne s0 s j.toNat act
      let (hi, s) ← popOne s0 s j.toNat act
      .ok (fun l => hi l ++ lo l, s)
    else do
      let (lo, s) ← popOne s0 s j.toNat act
      .ok (fun l => lo32 (lo l), s)
  | o =>
    let g := s0.g
    let tl := s0.gteam.teamlin
    match g.badLanes (if every then BitVec.allOnes 32 else act) u wide o with
    | [] => .ok (g.rdOpd tl (use64 u wide) o, s)
    | ls => .error (registerError s0 ls)

/-- Write a result to a vector register or pair, or push it (R47, R48). -/
def writeField (s0 s : State) (act : Word) (u : Use) (wide : Bool) (o : Opd) (f : Nat → DWord) : Res State :=
  if !namesReg u then .ok s else
  match o with
  | .v n =>
    let g := s.g.putVec n.toNat act fun l => (f l).setWidth 32
    .ok { s with g := if use64 u wide then g.putVec (n.toNat + 1) act fun l => (f l).extractLsb' 32 32 else g }
  | .q j => do
    let s ← pushOne s0 s j.toNat act fun l => (f l).setWidth 32
    if use64 u wide then pushOne s0 s j.toNat act fun l => (f l).extractLsb' 32 32 else .ok s
  | _ => .ok s

end Sys2Proof.Machine
end

