-- ==== Sys2Proof/Machine/Jobs.lean ====
section
/-!
DEFINITION. Engine work that ends in a token (R199, R379): its start, and its end for a resident or a saved group.
-/
namespace Sys2Proof.Machine

/-- A status word (R199). -/
def statusWord (code bytes : Nat) : DWord := BitVec.ofNat 64 (2 ^ 63 + code * 2 ^ 56 + bytes % 2 ^ 32)

/-- The event that a kind of work ends with. -/
def JobKind.ev (k : JobKind) (id : Nat) : Ev :=
  match k with
  | .copy => .copyComplete id
  | .xfer .. => .xferComplete id
  | .coll .. => .collComplete id
  | .seal _ => .gradSealComplete id

/-- Work begins: the register awaits its token. -/
def State.startJob (s : State) (r : SReg) (k : JobKind) (status : DWord) : State :=
  let j : Job :=
    { id := s.nextId, gid := s.g.gid, dom := s.gdom, asn := s.gasn, launch := s.gteam.launch, reg := r, kind := k
      status := status, area := none }
  ({ s with jobs := s.jobs ++ [j], nextId := s.nextId + 1 }.setTok r).post (k.ev j.id)

/-- A result for a saved group goes to its SREG slot, and its TOKMASK bit clears (R379). DESIGN CHOICE, safe: assumption 63. -/
def State.savedToken (s : State) (area gidx : Nat) (r : SReg) (v : DWord) : State :=
  if r = 0 then s
  else
    let h := area + 4096 * gidx
    let s := s.write (h + 192 + 8 * r.toNat) 8 v.toNat
    s.write (h + 184) 8 (putBit (BitVec.ofNat 64 (s.read (h + 184) 8)) r.toNat false).toNat

/-- A pending result reaches its group, wherever it is. -/
def State.deliverTo (s : State) (gid : Nat) (area : Option (Nat × Nat)) (r : SReg) (v : DWord) : State :=
  match area with
  | some (a, i) =>
    let s := { s with saved := s.saved.map fun (x : SavedTeam) =>
      if x.area == a then { x with groups := x.groups.map fun (g : Group) => if g.gidx == i then g.deliver r v else g } else x }
    (s.savedToken a i r v).post (.saveComplete a)
  | none =>
    if polId 0 ≤ gid then
      let p := s.pol (gid - polId 0)
      s.setPol (gid - polId 0) { p with sc := p.sc.deliver r v }
    else s.mapGroups fun g => if g.live && g.gid == gid then g.deliver r v else g

/-- The work ends and writes its token. -/
def State.finishJob (s : State) (j : Job) (v : DWord) : State :=
  { s with jobs := s.jobs.filter fun x => x.id != j.id }.deliverTo j.gid j.area j.reg v

def State.job? (s : State) (id : Nat) : Option Job := s.jobs.find? fun j => j.id == id
def State.setJob (s : State) (j : Job) : State := { s with jobs := s.jobs.map fun x => if x.id == j.id then j else x }

/-- Requests of a piece of work that the fabric has not answered. -/
def State.jobWaits (s : State) (id : Nat) : Bool := s.anyReq fun r => r.job == some id

end Sys2Proof.Machine
end

