-- ==== Sys2Proof/Machine/Flags.lean ====
section
/-!
DEFINITION. Status flags: LSTAT by lanes (R20, R21) and the trap enables with their collection window (R51, R398).
-/
namespace Sys2Proof.Machine

/-- LSTAT of a lane. -/
def Group.lst (g : Group) (l : Nat) : Word := SMap.get 0 g.lstat l

/-- OR flags into LSTAT of the lanes of a mask (R21). -/
def Group.orFlags (g : Group) (act : Word) (fl : Nat → Nat) : Group :=
  { g with lstat := (lanesOf act).foldl (fun m l => SMap.set 0 m l (SMap.get 0 m l ||| BitVec.ofNat 32 (fl l))) g.lstat }

/-- The lanes that raise an enabled flag, and the flags they raise. -/
def Group.enabled (g : Group) (act : Word) (fl : Nat → Nat) : List (Nat × Nat) :=
  (lanesOf act).filterMap fun l =>
    let e := fl l &&& g.fpte.toNat
    if e = 0 then none else some (l, e)

/-- Raise flags in the active lanes: LSTAT takes them, and enabled ones open or join the core's window (R398). -/
def State.raise (s : State) (act : Word) (fl : Nat → Nat) (lpc : Nat := s.g.run.lpc) : State :=
  let g := s.g.orFlags act fl
  let s' := { s with g := g }
  match s.g.enabled act fl with
  | [] => s'
  | (l, e) :: rest =>
    let es := (l, e) :: rest
    let c := s.gteam.core
    let x := s.core c
    let cand : FpCand :=
      { gid := g.gid, slot := g.slot, lane := l, mask := maskOf fun k => es.any fun y => y.1 == k,
        flags := BitVec.ofNat 32 (es.foldl (fun m y => m ||| y.2) 0), lpc := lpc, ck := s.clock }
    s'.setCore c { x with fpWin := x.fpWin ++ [cand] }

end Sys2Proof.Machine
end

