-- ==== Sys2Proof/Machine/Lane.lean ====
section
/-!
DEFINITION. Issue and completion of a lane instruction: the checks of R67 in their order, the hazard rule (R69, R70, R72), operands
at issue (R68), and the results in the active lanes.
-/
namespace Sys2Proof.Machine
open Forms (Use LView Lat)

/-! ### Hazards -/

/-- An instruction takes its issue position: fixed-latency results come one position nearer. -/
def Hazard.tick (h : Hazard) : Hazard :=
  { h with fixed := (h.fixed.map fun p => { p with dist := p.dist - 1 }).filter fun p => p.dist != 0 }

/-- A marker: every earlier result has been written, and the hazard state is empty after it (R69, R70, R142). -/
def Hazard.cover (_h : Hazard) : Hazard := {}
/-- A marked instruction takes its issue position (R69, R70). -/
def Hazard.mark (h : Hazard) : Hazard := Hazard.cover (Hazard.tick h)

/-- A pending result covers one of the registers or predicates. -/
def Pending.hits (p : Pending) (spans : List (Nat × Nat)) (preds : List Nat) : Bool :=
  spans.any (fun x => x.1 < p.first + p.count && p.first < x.1 + x.2) || (p.pred != 0 && preds.contains p.pred)

/-- The registers an instruction reads or writes, and those it writes. -/
def LView.dst (v : LView) : List (Nat × Nat) := if v.vdSrc then [] else v.ud.span v.wide v.vd
def LView.spans (v : LView) : List (Nat × Nat) :=
  v.ud.span v.wide v.vd ++ v.ua.span v.wide v.va ++ v.ub.span v.wide v.vb ++ v.uc.span v.wide v.vc
/-- Its predicates, guard and destination included. -/
def LView.predNums (v : LView) : List Nat := v.h.guard.toNat :: v.pd.toNat :: v.preds.map BitVec.toNat

/-- An access by a matrix instruction to a matrix result is never a hazard (R70). -/
def Hazard.conflict (h : Hazard) (v : LView) : Bool :=
  (h.fixed ++ h.var).any fun p => !(p.mx && v.mx) && p.hits (LView.spans v) (LView.predNums v)

/-- The pending results an instruction leaves: one entry holds its vector registers and its predicate (R377, R386). -/
def Hazard.add (h : Hazard) (v : LView) : Hazard :=
  let new (d : Nat) : List Pending :=
    match LView.dst v with
    | [] => if v.pd = 0 then [] else [{ first := 0, count := 0, pred := v.pd.toNat, dist := d }]
    | x :: _ => [{ first := x.1, count := x.2, pred := v.pd.toNat, dist := d, mx := v.mx, late := v.late }]
  match v.lat with
  | .none => { h with fixed := h.fixed ++ new 4 }
  | .fixed n => { h with fixed := h.fixed ++ new n }
  | .var => { h with var := h.var ++ new 0 }

/-! ### Issue -/

/-- What an instruction has read at issue: the active lanes, and its fields in each lane. -/
structure LIn where
  act : Word
  d : Nat → DWord
  a : Nat → DWord
  b : Nat → DWord
  c : Nat → DWord

/-- The uniform registers an instruction names. -/
def uniforms (v : LView) : List SReg :=
  [v.va, v.vb, v.vc].filterMap fun o => match o with
    | .s n => some n
    | _ => none

/-- The ports an instruction pops, in order. -/
def sourcePorts (v : LView) : List Nat :=
  ([v.va, v.vb, v.vc] ++ (if v.vdSrc then [v.vd] else [])).filterMap fun o => match o with
    | .q j => some j.toNat
    | _ => none
def storePorts (v : LView) : List Nat := match v.vd with
  | .q j => if v.vdSrc then [] else [j.toNat]
  | _ => []

/-- Steps 3 to 5 of R67 and the position taken. `sw` is the marker. DEDUCED, unsafe: assumption 39. -/
def laneChecks (v : LView) (sw : Bool) (s : State) : Res Hazard := do
  let g := s.g
  require ((LView.spans v).all (fun x => x.1 + x.2 ≤ g.winsz) && (LView.predNums v).all fun p => p < g.predsz) (trapP .bounds)
  require ((sourcePorts v).all (fun j => g.bound j false) && (storePorts v).all fun j => g.bound j true) (trapP .queueUnbound)
  let h := if sw then Hazard.mark g.haz else Hazard.tick g.haz
  require (!h.conflict v) (trapP .hazard)
  .ok h

/-- Issue (R67 to R70): the checks, the wait for pending uniform registers (R92), the sources read or popped. DEDUCED, unsafe: assumption 39. -/
def laneIssueWith (v : LView) (sw : Bool) (s : State) : Res (LIn × State) := do
  needLanes s
  let h ← laneChecks v sw s
  require (!(uniforms v).any s.g.waits) (.stall .scoreboard)
  require (!(uniforms v).any fun r => r != 0 && s.g.run.bad.getLsbD r.toNat) (registerError s [])
  require (!v.mem || s.g.pushes.isEmpty) (.stall .pushWait)
  let act := s.g.active v.h
  let t := { s with g := { s.g with haz := h } }
  let (a, t) ← readField s t act v.ua v.wide v.va v.every
  let (b, t) ← readField s t act v.ub v.wide v.vb
  let (c, t) ← readField s t act v.uc v.wide v.vc
  let (d, t) ← if v.vdSrc || v.vdRead then readField s t act v.ud v.wide v.vd else .ok (fun _ => 0, t)
  .ok (⟨act, d, a, b, c⟩, t)
def laneIssue (v : LView) (s : State) : Res (LIn × State) := laneIssueWith v v.h.sw s

/-! ### Completion -/

/-- The next lane index. -/
def Group.laneStep (g : Group) (i : Nat) : Group := { g with lane := { g.lane with active := g.lane.active.map fun r => { r with lpc := i } } }

/-- The instruction has issued: its results are pending, and the run goes on. -/
def laneDone (v : LView) (s : State) : State :=
  { s with g := { s.g with haz := s.g.haz.add v, grantL := none }.laneStep (s.g.run.lpc + 1) }

/-- The results of an element-wise instruction: vd, pd and the flags, by lane. -/
structure LRes where
  v : Nat → DWord := fun _ => 0
  p : Nat → Bool := fun _ => false
  fl : Nat → Nat := fun _ => 0

/-- Write vd, pd and flags in the active lanes. -/
def laneWrite (v : LView) (s0 : State) (x : LIn) (r : LRes) (s : State) : Res State := do
  let s ← writeField s0 s x.act v.ud v.wide v.vd r.v
  let s := { s with g := s.g.putPred v.pd x.act (maskOf r.p) }
  .ok (s.raise x.act r.fl)

/-- An instruction that computes each lane's results from its operands. -/
def laneOp (v : LView) (f : LIn → LRes) (s : State) : Out :=
  finishL s (do
    let (x, t) ← laneIssue v s
    let t ← laneWrite v s x (f x) t
    .ok (laneDone v t))

/-- An instruction with an effect of its own between issue and completion. -/
def laneDo (v : LView) (f : LIn → State → Res State) (s : State) : Out :=
  finishL s (do
    let (x, t) ← laneIssue v s
    let t ← f x t
    .ok (laneDone v t))

end Sys2Proof.Machine
end

