-- ==== Sys2Proof/Machine/LaneInt.lean ====
section
/-!
DEFINITION. Lane integer instructions: moves, arithmetic, logic, shifts, bit fields, packed sums (R112 to R123).
-/
namespace Sys2Proof.Machine
open Forms (alu1 alu2 alu3 xf immAlu)

/-! ### Elements (R9, R10) -/

/-- The number of elements of a type. -/
def LType.count : LType → Nat
  | .s16x2 | .n16x2 | .f16x2 | .bf16x2 | .l16x2 => 2
  | .s8x4 | .n8x4 => 4
  | _ => 1

/-- Element `i` of a value. -/
def elemOf (w : Nat) (x : DWord) (i : Nat) : Nat := x.toNat / 2 ^ (w * i) % 2 ^ w
/-- A value and its flags from those of its elements. -/
def joinElems (w : Nat) : List (Nat × Nat) → Nat × Nat
  | [] => (0, 0)
  | (v, f) :: t => let (x, g) := joinElems w t; (v % 2 ^ w + x * 2 ^ w, f ||| g)
/-- Element-wise computation over a list of operands. -/
def onElems (t : LType) (f : List Nat → Nat × Nat) (xs : List DWord) : DWord × Nat :=
  let w := LType.ew t
  let (v, fl) := joinElems w ((List.range (LType.count t)).map fun i => f (xs.map fun x => elemOf w x i))
  (BitVec.ofNat 64 v, fl)

/-- Results by lane from a value with flags. -/
def resOf (f : Nat → DWord × Nat) : LRes := { v := fun l => (f l).1, fl := fun l => (f l).2 }
def elems1 (t : LType) (f : Nat → Nat × Nat) (x : LIn) : LRes :=
  resOf fun l => onElems t (fun | [a] => f a | _ => (0, 0)) [x.a l]
def elems2 (t : LType) (f : Nat → Nat → Nat × Nat) (x : LIn) : LRes :=
  resOf fun l => onElems t (fun | [a, b] => f a b | _ => (0, 0)) [x.a l, x.b l]
def elems3 (t : LType) (f : Nat → Nat → Nat → Nat × Nat) (x : LIn) : LRes :=
  resOf fun l => onElems t (fun | [a, b, c] => f a b c | _ => (0, 0)) [x.a l, x.b l, x.c l]
/-- A result without flags. -/
def plain (x : Nat) : Nat × Nat := (x, 0)

/-- An element read with its type's signedness. -/
def LType.val (t : LType) (x : Nat) : Int := if Sys2Proof.LType.signed t then toSigned (LType.ew t) x else (x : Int)
/-- An exact integer in a w-bit type: wrapped, or clamped with SAT (R11). -/
def intoInt (w : Nat) (signed sat : Bool) (x : Int) : Nat × Nat :=
  if sat && decide (intMax w signed < x) then (ofInt w (intMax w signed), fSAT)
  else if sat && decide (x < intMin w signed) then (ofInt w (intMin w signed), fSAT)
  else (ofInt w x, 0)
def intRes (t : LType) (sat : Bool) (x : Int) : Nat × Nat := intoInt (LType.ew t) (Sys2Proof.LType.signed t) sat x

/-! ### Moves and arithmetic (R112 to R115) -/

/-- An immediate extended or packed by R65. -/
def immOf (t : LType) (imm : Word) : DWord :=
  match t with
  | .s64 => imm.signExtend 64
  | .f64 => imm ++ (0 : Word)
  | _ => imm.setWidth 64

def execVnop (o : LOp) (s : State) : Out := laneOp (Forms.vnop o) (fun _ => {}) s
def execVmov (o : LOp) (s : State) : Out := laneOp (alu1 o) (fun x => { v := x.a }) s
def execVmovi (i : LImm) (s : State) : Out := laneOp (Forms.vmovi i) (fun _ => { v := fun _ => immOf i.ty i.imm }) s

/-- An exact integer function of two elements. -/
def arith2 (t : LType) (sat : Bool) (f : Int → Int → Int) (a b : Nat) : Nat × Nat := intRes t sat (f (LType.val t a) (LType.val t b))

def execVadd (o : LOp) (s : State) : Out := laneOp (alu2 o) (elems2 o.ty (arith2 o.ty o.sat (· + ·))) s
def execVsub (o : LOp) (s : State) : Out := laneOp (alu2 o) (elems2 o.ty (arith2 o.ty o.sat (· - ·))) s
def execVmul (o : LOp) (s : State) : Out := laneOp (alu2 o) (elems2 o.ty (arith2 o.ty o.sat (· * ·))) s
def execVmulh (o : LOp) (s : State) : Out :=
  laneOp (alu2 o) (elems2 o.ty (arith2 o.ty false fun a b => a * b / (2 ^ LType.ew o.ty : Nat))) s
def execVmad (o : LOp) (s : State) : Out :=
  laneOp (alu3 o) (elems3 o.ty fun a b c => intRes o.ty o.sat (LType.val o.ty a * LType.val o.ty b + LType.val o.ty c)) s

/-- VADDC and VSUBB (R113): the carry-in by lane. -/
def carryIn (o : LOp) (s : State) (l : Nat) : Int := if (s.g.pr (BitVec.ofNat 7 (xf o 0 7))).getLsbD l then 1 else 0
def execVaddc (o : LOp) (s : State) : Out :=
  laneOp (Forms.carry o) (fun x =>
    let t (l : Nat) : Int := (x.a l).toNat + (x.b l).toNat + carryIn o s l
    { v := fun l => BitVec.ofNat 64 (ofInt 32 (t l)), p := fun l => decide (2 ^ 32 ≤ t l) }) s
def execVsubb (o : LOp) (s : State) : Out :=
  laneOp (Forms.carry o) (fun x =>
    let t (l : Nat) : Int := (x.a l).toNat - (x.b l).toNat - carryIn o s l
    { v := fun l => BitVec.ofNat 64 (ofInt 32 (t l)), p := fun l => decide (t l < 0) }) s

/-- VMADW (R114): 32-bit factors, a 64-bit addend and result. -/
def execVmadw (o : LOp) (s : State) : Out :=
  let sg := Sys2Proof.LType.signed o.ty
  laneOp (Forms.vmadw o) (fun x => resOf fun l =>
    let c : Int := if sg then toSigned 64 (x.c l).toNat else (x.c l).toNat
    let (v, fl) := intoInt 64 sg o.sat (LType.val o.ty (x.a l).toNat * LType.val o.ty (x.b l).toNat + c)
    (BitVec.ofNat 64 v, fl)) s

/-- VDIV and VREM (R12). -/
def divElem (t : LType) (sat : Bool) (a b : Nat) : Nat × Nat :=
  let w := LType.ew t
  let sg := Sys2Proof.LType.signed t
  if b = 0 then (2 ^ w - 1, fDZ)
  else if sg && sat && a == 2 ^ (w - 1) && b == 2 ^ w - 1 then (2 ^ (w - 1) - 1, fSAT)
  else ((divRem w sg a b).1, 0)
def remElem (t : LType) (a b : Nat) : Nat × Nat :=
  ((divRem (LType.ew t) (Sys2Proof.LType.signed t) a b).2, if b = 0 then fDZ else 0)
def execVdiv (o : LOp) (s : State) : Out := laneOp (Forms.vdiv o) (elems2 o.ty (divElem o.ty o.sat)) s
def execVrem (o : LOp) (s : State) : Out := laneOp (Forms.vdiv o) (elems2 o.ty (remElem o.ty)) s
def minElem (t : LType) (a b : Nat) : Nat := if LType.val t b < LType.val t a then b else a
def maxElem (t : LType) (a b : Nat) : Nat := if LType.val t a < LType.val t b then b else a
def execVmin (o : LOp) (s : State) : Out := laneOp (alu2 o) (elems2 o.ty fun a b => plain (minElem o.ty a b)) s
def execVmax (o : LOp) (s : State) : Out := laneOp (alu2 o) (elems2 o.ty fun a b => plain (maxElem o.ty a b)) s

/-- VABS and VNEG (R115): on a float type or `.b32` the sign bit alone. -/
def execVabs (o : LOp) (s : State) : Out :=
  laneOp (alu1 o) (elems1 o.ty fun a =>
    if Sys2Proof.LType.signed o.ty then intRes o.ty o.sat (LType.val o.ty a).natAbs else plain (a % 2 ^ (LType.ew o.ty - 1))) s
def execVneg (o : LOp) (s : State) : Out :=
  laneOp (alu1 o) (elems1 o.ty fun a =>
    if Sys2Proof.LType.signed o.ty then intRes o.ty o.sat (-LType.val o.ty a) else plain (a ^^^ 2 ^ (LType.ew o.ty - 1))) s

/-- Immediate arithmetic: the immediate's element beside the operand's. -/
def immElems (i : LImm) (f : Nat → Nat → Nat × Nat) (x : LIn) : LRes := elems2 i.ty f { x with b := fun _ => immOf i.ty i.imm }
def execVaddi (i : LImm) (s : State) : Out := laneOp (immAlu i) (immElems i (arith2 i.ty i.sat (· + ·))) s
def execVmuli (i : LImm) (s : State) : Out := laneOp (immAlu i) (immElems i (arith2 i.ty i.sat (· * ·))) s

/-! ### Logic and shifts (R116 to R119) -/

def bitwise (f : DWord → DWord → DWord) (x : LIn) : LRes := { v := fun l => f (x.a l) (x.b l) }
def execVand (o : LOp) (s : State) : Out := laneOp (alu2 o) (bitwise (· &&& ·)) s
def execVor (o : LOp) (s : State) : Out := laneOp (alu2 o) (bitwise (· ||| ·)) s
def execVxor (o : LOp) (s : State) : Out := laneOp (alu2 o) (bitwise (· ^^^ ·)) s
def execVandn (o : LOp) (s : State) : Out := laneOp (alu2 o) (bitwise fun a b => a &&& ~~~b) s
def execVnot (o : LOp) (s : State) : Out := laneOp (alu1 o) (fun x => { v := fun l => ~~~(x.a l) }) s
/-- A three-input function of bits, by its table. -/
def lop3 (lut : Nat) (a b c : DWord) : DWord :=
  let term (k : Nat) : DWord :=
    if lut / 2 ^ k % 2 = 1 then
      (if k / 4 % 2 = 1 then a else ~~~a) &&& (if k / 2 % 2 = 1 then b else ~~~b) &&& (if k % 2 = 1 then c else ~~~c)
    else 0
  term 0 ||| term 1 ||| term 2 ||| term 3 ||| term 4 ||| term 5 ||| term 6 ||| term 7
def execVlop3 (o : LOp) (s : State) : Out :=
  laneOp (alu3 o) (fun x => { v := fun l => lop3 (xf o 0 8) (x.a l) (x.b l) (x.c l) }) s
def execVandi (i : LImm) (s : State) : Out := laneOp (immAlu i) (fun x => { v := fun l => x.a l &&& immOf i.ty i.imm }) s
def execVori (i : LImm) (s : State) : Out := laneOp (immAlu i) (fun x => { v := fun l => x.a l ||| immOf i.ty i.imm }) s
def execVxori (i : LImm) (s : State) : Out := laneOp (immAlu i) (fun x => { v := fun l => x.a l ^^^ immOf i.ty i.imm }) s

/-- The four shifts of an element by a count (R117). -/
def shlElem (t : LType) (sat : Bool) (a n : Nat) : Nat × Nat := intRes t sat (LType.val t a * (2 ^ n : Nat))
def shrElem (a n : Nat) : Nat × Nat := plain (a / 2 ^ n)
def sarElem (t : LType) (a n : Nat) : Nat × Nat := intRes t false (LType.val t a / (2 ^ n : Nat))
def rotElem (t : LType) (a n : Nat) : Nat × Nat :=
  let w := LType.ew t
  let k := n % w
  plain ((a * 2 ^ k + a / 2 ^ (w - k)) % 2 ^ w)
def execVshl (o : LOp) (s : State) : Out := laneOp (alu2 o) (elems2 o.ty fun a b => shlElem o.ty o.sat a (b % 256)) s
def execVshr (o : LOp) (s : State) : Out := laneOp (alu2 o) (elems2 o.ty fun a b => shrElem a (b % 256)) s
def execVsar (o : LOp) (s : State) : Out := laneOp (alu2 o) (elems2 o.ty fun a b => sarElem o.ty a (b % 256)) s
def execVrot (o : LOp) (s : State) : Out := laneOp (alu2 o) (elems2 o.ty fun a b => rotElem o.ty a (b % 256)) s
/-- VSHFI (R118). -/
def execVshfi (i : LImm) (s : State) : Out :=
  let n := i.imm.toNat % 64
  laneOp (immAlu i) (elems1 i.ty fun a => match i.imm.toNat / 64 % 4 with
    | 0 => shlElem i.ty i.sat a n
    | 1 => shrElem a n
    | 2 => sarElem i.ty a n
    | _ => rotElem i.ty a n) s
/-- VFSHL (R119). -/
def execVfshl (o : LOp) (s : State) : Out :=
  laneOp (alu3 o) (elems3 o.ty fun a b c => plain ((a * 2 ^ 32 + b) * 2 ^ (c % 32) / 2 ^ 32)) s

/-! ### Bit fields and packed sums (R120 to R123) -/

def execVclz (o : LOp) (s : State) : Out := laneOp (alu1 o) (elems1 o.ty fun a => plain (clzNat (LType.ew o.ty) a)) s
def execVpopc (o : LOp) (s : State) : Out := laneOp (alu1 o) (elems1 o.ty fun a => plain (popNat (LType.ew o.ty) a)) s
def execVbrev (o : LOp) (s : State) : Out := laneOp (alu1 o) (elems1 o.ty fun a => plain (revNat (LType.ew o.ty) a)) s
/-- Position and length of a control word (R121). -/
def bfPos (ctl : Nat) : Nat := ctl % 32
def bfLen (ctl : Nat) : Nat := min (ctl / 256 % 64) (32 - bfPos ctl)
def execVbfx (o : LOp) (s : State) : Out :=
  laneOp (alu2 o) (elems2 o.ty fun a c =>
    let n := bfLen c
    let f := a / 2 ^ bfPos c % 2 ^ n
    plain (if n = 0 then 0 else if Sys2Proof.LType.signed o.ty then ofInt 32 (toSigned n f) else f)) s
def execVbfi (o : LOp) (s : State) : Out :=
  laneOp (alu3 o) (elems3 o.ty fun a b c =>
    let p := bfPos c
    let n := bfLen c
    plain (a - a / 2 ^ p % 2 ^ n * 2 ^ p + b % 2 ^ n * 2 ^ p)) s
/-- VPERMB (R122). -/
def permByte (a b sel : Nat) : Nat :=
  let x := (a + b * 2 ^ 32) / 256 ^ (sel % 8) % 256
  if sel / 8 % 2 = 1 then (if 128 ≤ x then 0xFF else 0) else x
def execVpermb (o : LOp) (s : State) : Out :=
  laneOp (alu3 o) (elems3 o.ty fun a b c =>
    let byte (i : Nat) : Nat := permByte a b (c / 16 ^ i % 16)
    plain (byte 0 + 256 * byte 1 + 65536 * byte 2 + 16777216 * byte 3)) s

/-- Σ over the elements of a type. -/
def sumElems (t : LType) (f : Int → Int → Int) (a b : DWord) : Int :=
  (List.range (LType.count t)).foldl (fun z i => z + f (LType.val t (elemOf (LType.ew t) a i)) (LType.val t (elemOf (LType.ew t) b i))) 0
/-- VSAD and VDOT4 (R123): the addend is a 32-bit value of the type's signedness. -/
def sumInto (o : LOp) (f : Int → Int → Int) (x : LIn) : LRes :=
  let sg := Sys2Proof.LType.signed o.ty
  resOf fun l =>
    let c : Int := if sg then toSigned 32 (x.c l).toNat else ((x.c l).toNat : Int)
    let (v, fl) := intoInt 32 sg o.sat (c + sumElems o.ty f (x.a l) (x.b l))
    (BitVec.ofNat 64 v, fl)
def execVsad (o : LOp) (s : State) : Out := laneOp (Forms.sum4 o) (sumInto o fun a b => ((a - b).natAbs : Int)) s
def execVdot4 (o : LOp) (s : State) : Out := laneOp (Forms.sum4 o) (sumInto o (· * ·)) s

end Sys2Proof.Machine
end

