-- ==== Sys2Proof/Machine/LanePred.lean ====
section
/-!
DEFINITION. Lane compares, selects and predicates (R124 to R130).
-/
namespace Sys2Proof.Machine
open Forms (xf)

/-- The integer conditions of R124. -/
def cmpInt (code : Nat) (a b : Int) : Bool :=
  match code with
  | 0 => a == b | 1 => a != b | 2 => decide (a < b) | 3 => decide (a ≤ b) | 4 => decide (b < a)
  | _ => decide (b ≤ a)

/-- Every element, or with `.any` one of them. -/
def combineElems (any : Bool) (xs : List Bool) : Bool := if any then xs.any id else xs.all id
/-- The elements of two operands tested. -/
def testElems (t : LType) (any : Bool) (f : Nat → Nat → Bool) (a b : DWord) : Bool :=
  combineElems any ((List.range (LType.count t)).map fun i => f (elemOf (LType.ew t) a i) (elemOf (LType.ew t) b i))

def execVcmp (o : LOp) (s : State) : Out :=
  laneOp (Forms.cmp o) (fun x =>
    { p := fun l => testElems o.ty (xf o 4 1 == 1) (fun a b => cmpInt (xf o 0 4) (LType.val o.ty a) (LType.val o.ty b)) (x.a l) (x.b l) }) s
def execVcmpi (i : LImm) (s : State) : Out :=
  laneOp (Forms.vcmpi i) (fun x =>
    { p := fun l => testElems i.ty false
        (fun a b => cmpInt (Forms.vcmpiField i / 256) (LType.val i.ty a) (LType.val i.ty b)) (x.a l) (immOf i.ty i.imm) }) s

/-- The format of a float type's elements. -/
def LType.fmt : LType → Fmt
  | .f64 => f64 | .f16x2 => f16 | .bf16x2 => bf16
  | _ => f32

/-- VFCMP (R125): a signalling NaN sets NV under every condition, a quiet one under the ordered comparisons. -/
def fcmpFlags (f : Fmt) (code a b : Nat) : Nat :=
  let isNan (x : Nat) : Bool := f.decode false x == .nan
  if f.isSnan a || f.isSnan b then fNV
  else if (isNan a || isNan b) && 2 ≤ code && code ≤ 5 then fNV
  else 0
def execVfcmp (o : LOp) (s : State) : Out :=
  let f := LType.fmt o.ty
  let w := LType.ew o.ty
  let code := xf o 0 4
  laneOp (Forms.cmp o) (fun x =>
    { p := fun l => testElems o.ty (xf o 4 1 == 1) (fun a b => cmpFloat code (f.decode o.ftz a) (f.decode o.ftz b)) (x.a l) (x.b l)
      fl := fun l => (List.range (LType.count o.ty)).foldl
        (fun m i => m ||| fcmpFlags f code (elemOf w (x.a l) i) (elemOf w (x.b l) i)) 0 }) s

/-- A predicate named in mod[6:0]. -/
def modPred (o : LOp) (s : State) (l : Nat) : Bool := (s.g.pr (BitVec.ofNat 7 (xf o 0 7))).getLsbD l

def execVsel (o : LOp) (s : State) : Out :=
  laneOp (Forms.vsel o) (fun x => { v := fun l => if modPred o s l then x.a l else x.b l }) s
def execVclass (o : LOp) (s : State) : Out :=
  laneOp (Forms.vclass o) (fun x =>
    { p := fun l => testElems o.ty (xf o 10 1 == 1) (fun a _ => o.x.getLsbD (classBit (LType.fmt o.ty) a)) (x.a l) 0 }) s
def execPlog (o : LOp) (s : State) : Out :=
  let bit (f : Opd) (l : Nat) : Nat := if (s.g.pr (Forms.predOf f)).getLsbD l then 1 else 0
  laneOp (Forms.plog o) (fun _ => { p := fun l => o.x.getLsbD (4 * bit o.va l + 2 * bit o.vb l + bit o.vc l) }) s
def execPsetRange (o : LOp) (s : State) : Out :=
  laneOp (Forms.psetRange o) (fun x => { p := fun l => decide ((x.a l).toNat ≤ l ∧ l < (x.b l).toNat) }) s
def execPsetMask (o : LOp) (s : State) : Out :=
  laneOp (Forms.psetMask o) (fun x => { p := fun l => (x.a l).getLsbD (l % 32) }) s
def execP2v (o : LOp) (s : State) : Out :=
  laneOp (Forms.p2v o) (fun _ =>
    { v := fun l => if modPred o s l then (if xf o 7 1 = 1 then 0xFFFFFFFF else 1) else 0 }) s
def execV2p (o : LOp) (s : State) : Out := laneOp (Forms.v2p o) (fun x => { p := fun l => x.a l != 0 }) s

end Sys2Proof.Machine
end

