-- ==== Sys2Proof/Machine/Thresher.lean ====
section
/-!
DEFINITION. The Threshers (R187, R293): exact sums of gradient contributions, one entry a word, and the fold of an entry into its
word (R188). The 64-byte records of the spill areas stand in State beside the memory that programs address.
-/
namespace Sys2Proof.Machine

/-- The slice whose Thresher receives a word: the home L2 slice of its line (R285, R393), slice j of die d as 32 d + j. -/
def thrSlice (s : State) (pa : Nat) : Nat :=
  if home2Base ≤ pa then (pa - home2Base) / 2 ^ 32 * 32 + (pa - home2Base) % 2 ^ 32 / 512 % 32 else (sliceOf s pa).1

/-- An f32 pattern in units of 2^-149. -/
def unitsOf (w : Nat) : Int := match f32.decode false w with
  | .fin m e => m * 2 ^ (e + 149).toNat
  | _ => 0

/-- One contribution to an entry: the one that would make the count 2^42 sets NANF instead. -/
def ThrEntry.take (e : ThrEntry) (w stamp : Nat) : ThrEntry :=
  if 2 ^ 42 - 1 ≤ e.count then { e with nan := true, stamp := stamp }
  else
    let e := { e with count := e.count + 1, stamp := stamp }
    match f32.decode false w with
    | .nan => { e with nan := true }
    | .inf false => { e with pinf := true }
    | .inf true => { e with ninf := true }
    | _ => { e with sum := e.sum + unitsOf w }

/-- Two parts of one word's sum. -/
def ThrEntry.merge (e f : ThrEntry) : ThrEntry :=
  { e with sum := e.sum + f.sum, nan := e.nan || f.nan || decide (2 ^ 42 ≤ e.count + f.count), pinf := e.pinf || f.pinf,
           ninf := e.ninf || f.ninf, count := min (e.count + f.count) (2 ^ 42 - 1) }

/-! ### The spill areas -/

/-- The 64 bytes of a spill record (R293): address, sum in two's complement, flags, count, and the CRC-32C of bytes 0 to 55. DESIGN CHOICE,
unsafe: assumption 58. -/
def ThrEntry.spillBytes (e : ThrEntry) : List Byte :=
  let b := leBytes 8 e.pa ++ leBytes 40 (ofInt 320 e.sum) ++
    leBytes 1 ((if e.nan then 4 else 0) + (if e.pinf then 2 else 0) + (if e.ninf then 1 else 0)) ++ leBytes 6 e.count ++ leBytes 1 0
  b ++ leBytes 8 (crc32c b)
/-- The part of a word's sum that a record holds. -/
def Spill.entry (x : Spill) : ThrEntry :=
  let f := fieldOf x.bytes 48 1
  { pa := x.pa, dom := x.dom, stamp := 0, sum := toSigned 320 (fieldOf x.bytes 8 40), nan := bitsOf f 2 1 == 1,
    pinf := bitsOf f 1 1 == 1, ninf := bitsOf f 0 1 == 1, count := fieldOf x.bytes 49 6 }
/-- A record fails its CRC, or stands in memory with an uncorrectable error. DESIGN CHOICE, unsafe: assumption 58. -/
def Spill.bad (s : State) (x : Spill) : Bool :=
  fieldOf x.bytes 56 8 != crc32c (x.bytes.take 56) || poisoned s (Config.spillAt x.slice x.index) 64

/-- The first free place of a slice's spill area. -/
def freeSpill (s : State) (slice : Nat) : Nat :=
  let used := (s.spills.filter fun x => x.slice == slice).map (·.index)
  ((List.range (used.length + 1)).find? fun i => !used.contains i).getD 0
/-- An evicted entry joins its word's spill record, exactly, or takes a new one; a record that fails its CRC stays as it is. DESIGN CHOICE,
unsafe: assumption 58. -/
def spill (s : State) (slice : Nat) (v : ThrEntry) : State :=
  let isIt (x : Spill) : Bool := x.pa == v.pa && x.dom == v.dom
  match s.spills.find? isIt with
  | some o =>
    if o.bad s then s
    else { s with spills := s.spills.map fun x => if isIt x then { x with bytes := (o.entry.merge v).spillBytes } else x }
  | none => { s with spills := s.spills ++ [{ dom := v.dom, pa := v.pa, slice := slice, index := freeSpill s slice, bytes := v.spillBytes }] }

/-- Evict the entry of a slice least recently contributed to (R293). DESIGN CHOICE, unsafe: assumption 58. -/
def evictThr (s : State) (slice : Nat) : State :=
  match s.threshers.filter fun e => thrSlice s e.pa == slice with
  | [] => s
  | x :: rest =>
    let v := rest.foldl (fun a b => if b.stamp < a.stamp then b else a) x
    spill { s with threshers := s.threshers.filter fun e => !(e.pa == v.pa && e.dom == v.dom) } slice v

/-- One contribution arrives at its Thresher (R293). -/
def contribute (s : State) (dom pa w : Nat) : State :=
  let stamp := s.threshers.foldl (fun n e => max n (e.stamp + 1)) 0
  let isIt (e : ThrEntry) : Bool := e.pa == pa && e.dom == dom
  if s.threshers.any isIt then
    { s with threshers := s.threshers.map fun e => if isIt e then e.take w stamp else e }
  else
    let slice := thrSlice s pa
    let s := if 4096 ≤ (s.threshers.filter fun e => thrSlice s e.pa == slice).length then evictThr s slice else s
    let e : ThrEntry := { pa := pa, sum := 0, nan := false, pinf := false, ninf := false, count := 0, stamp := stamp, dom := dom }
    { s with threshers := e.take w stamp :: s.threshers }

/-- The word a fold leaves (R188). -/
def foldedWord (e : ThrEntry) (w : Nat) : Nat :=
  let x := f32.decode false w
  if e.nan || (e.pinf && e.ninf) || x == .nan || (x == .inf false && e.ninf) || (x == .inf true && e.pinf) then f32.nan
  else if e.pinf || x == .inf false then 0x7F800000
  else if e.ninf || x == .inf true then 0xFF800000
  else if e.sum = 0 then w
  else rne32 (XVal.add false x (.fin e.sum (-149))).1

/-- A word's entry and its spill record together; a record that fails its CRC makes the sum a NaN and is reported, with the structure's
code of a Thresher (R293, R461). -/
def joined (s : State) (k : Nat × Nat) : State × Option ThrEntry :=
  let e := s.threshers.find? fun e => e.pa == k.1 && e.dom == k.2
  match s.spills.find? fun x => x.pa == k.1 && x.dom == k.2 with
  | none => (s, e)
  | some x =>
    let old := x.entry
    let all := match e with
      | some f => old.merge f
      | none => old
    if x.bad s then (s.errRecord 6 10 x.slice 0 (Config.spillAt x.slice x.index), some { all with nan := true }) else (s, some all)

/-- Fold the words (address, domain) that `sel` chooses, spilled parts included, and clear them (R188, R293, R460): the state, and the
number of words folded. DESIGN CHOICE, unsafe: assumption 58. -/
def foldThr (s : State) (sel : Nat × Nat → Bool) : State × Nat :=
  let keys := (((s.threshers.map fun e => (e.pa, e.dom)) ++ (s.spills.map fun x => (x.pa, x.dom))).filter sel).eraseDups
  let one (s : State) (k : Nat × Nat) : State := match joined s k with
    | (t, none) => t
    | (t, some e) =>
      -- the four words that share a poisoned 128-bit word are all of them poisoned G words (R460)
      if poisoned t e.pa 4 then t.write (poisonKey e.pa) 16 (f32.nan * (1 + 2 ^ 32 + 2 ^ 64 + 2 ^ 96))
      else t.write e.pa 4 (foldedWord e (t.read e.pa 4))
  let s' := keys.foldl one s
  ({ s' with threshers := s.threshers.filter (fun e => !sel (e.pa, e.dom)), spills := s.spills.filter fun x => !sel (x.pa, x.dom) },
    keys.length)

end Sys2Proof.Machine
end

