-- ==== Sys2Proof/Machine/LaneMem.lean ====
section
/-!
DEFINITION. Lane loads, stores, atomics, fences and gradient contributions (R181 to R187), and the fetch of formatted elements
(R26, R27, R29, R292) that streams and loads share.
-/
namespace Sys2Proof.Machine
open Forms (LView)

/-! ### Loads that L1 may serve (R287, R288) -/

/-- A location that a plain load may find in its core's L1 (R287); a deterministic launch's D pages are read at the home (DESIGN CHOICE,
unsafe: assumption 20). -/
def mayL1 (s : State) (l : Loc) : Bool := s.party == .group && l.inL1 && !(l.d && s.g.det)
/-- The sector that holds a location, and what becomes of it at this load. DESIGN CHOICE, unsafe: assumption 20. -/
def l1Fate (s : State) (l : Loc) : Option (L1Sector × Nat) :=
  if mayL1 s l then (s.sector? s.gteam.core l.key).map fun x => (x, Config.freeSector s.fresh x.sector) else none
/-- The value of a plain or `.fresh` load (R287, R288): a sector in L1 may serve the plain one. DESIGN CHOICE, unsafe: assumption 20. -/
def State.serve (s : State) (fresh : Bool) (l : Loc) (n : Nat) : Nat :=
  match if fresh then none else l1Fate s l with
  | some (x, 0) => fieldOf x.bytes (l.key % 128) n
  | _ => s.readOwn l n
/-- A sector of the core at a load that has found it: it stays, it has left, or it holds an error, which invalidates it and is a corrected error
(R459). DESIGN CHOICE, unsafe: assumption 20. -/
def State.metSector (t : State) (c : Nat) (x : L1Sector × Nat) : State :=
  if x.2 = 0 then t
  else if x.2 = 1 then t.dropSector c (128 * x.1.sector)
  else (t.errRecord 0 2 c 0 (128 * x.1.sector)).dropSector c (128 * x.1.sector)
/-- L1 once loads other than plain lane loads have found sectors in it. DESIGN CHOICE, unsafe: assumption 20. -/
def State.metSectors (t : State) (c : Nat) (xs : List (L1Sector × Nat)) : State :=
  if xs.isEmpty then t else xs.eraseDups.foldl (fun t x => t.metSector c x) { t with fresh := t.fresh + 1 }
/-- The same for loads at given locations. DESIGN CHOICE, unsafe: assumption 20. -/
def State.usedL1 (t s : State) (ls : List Loc) : State := t.metSectors s.gteam.core (ls.filterMap (l1Fate s))
/-- L1 after a plain lane load: a sector that served it stays; otherwise it is filled with what memory holds, unless a word there holds an error
or an engine owns it. An L1 error is a corrected error and is reported (R459). DESIGN CHOICE, unsafe: assumption 20. -/
def State.fillL1 (t s : State) (fresh : Bool) (l : Loc) : State :=
  let c := s.gteam.core
  let base := l.key / 128 * 128
  let refill (t : State) : State := if poisoned t base 128 || t.owned base 128 then t else t.addSector c base (Memory.bytes t.mem base 128)
  if !mayL1 s l then t
  else match l1Fate s l with
    | none => refill t
    | some (x, k) =>
      if fresh then refill t
      else if k = 0 then t.addSector c base x.bytes
      else refill (t.metSector c (x, k))

/-! ### Formatted elements in memory -/

/-- The bytes that hold element `i`, and its bit offset in the first. -/
def Pfd.bytesOf (p : Pfd) (width i : Nat) : List DWord × Nat :=
  let bit := width * i
  ((List.range ((bit % 8 + width + 7) / 8)).map fun k => BitVec.ofNat 64 (p.dbase + bit / 8 + k), bit % 8)
/-- Side-plane reads of an element: address and size (R26, R29). -/
def Pfd.sideOf (p : Pfd) (i : Nat) : List (DWord × Nat) :=
  if p.kind = 7 then
    let r := p.spbase + 512 * (i / 16384)
    [(BitVec.ofNat 64 (r + i / 64 % 256), 1), (BitVec.ofNat 64 (r + 256), 4)]
  else if p.block = 0 then []
  else [(BitVec.ofNat 64 (p.spbase + 2 * (i / p.block)), 2)]
/-- The word a load delivers for an element, from its raw bits and its side-plane values (R27). -/
def Pfd.deliver (p : Pfd) (raw : Nat) (side : List Nat) : Nat :=
  if p.kind = 7 then q4Dec raw (side.getD 0 0) (side.getD 1 0)
  else if 9 ≤ p.kind then raw
  else elemF32 p.kind raw side.head?

/-- The accesses that read an element's bytes: one where they form an aligned unit of 2 or 4 bytes (R308), otherwise byte by byte. -/
def byteUnits (as : List DWord) : List (DWord × Nat) := match as with
  | [] => []
  | a :: _ =>
    let n := as.length
    if (n = 2 ∨ n = 4) ∧ a.toNat % n = 0 then [(a, n)] else as.map fun a => (a, 1)

/-- What lanes read of formatted elements: (lane, index) pairs. The steps of R168 pass over all bytes and scales. For l16 an index
counts pairs (R183). What L1 holds may serve them unless they are fresh (R287). DEDUCED, unsafe: assumption 44. -/
def elemWords (s : State) (base : DWord) (es : List (Nat × Nat)) (fresh : Bool := false) (vec : Bool := true) : Res (List (Nat × Nat) × State) := do
  let bs ← laneLocs s (es.map fun e => (e.1, base)) 1 .load .elem
  match bs with
  | [] => .ok ([], s)
  | b :: _ =>
    match pfdOf s s.gdom b.loc.pfd with
    | none => .error (.trap (preciseAt .format base))
    | some p =>
      let w := if p.kind = 10 then 32 else kindWidth p.kind
      let ls ← laneLocs s ((es.map fun e => (byteUnits (p.bytesOf w e.2).1).map fun a => (e.1, a.1)).flatten) 1 .load .elem
      let lenOf (va : DWord) : Nat :=
        (((es.map fun e => byteUnits (p.bytesOf w e.2).1).flatten.find? fun a => a.1 == va).map (·.2)).getD 1
      failLanes (ls.filterMap fun x => if x.loc.pfd = b.loc.pfd then none else some (x.lane, preciseAt .format x.va))
      let side ← laneLocs s ((es.map fun e => (p.sideOf e.2).map fun a => (e.1, a.1)).flatten) 1 .load (.laneLoad false)
      let sizeOf (va : DWord) : Nat := (((es.map fun e => p.sideOf e.2).flatten.find? fun a => a.1 == va).map (·.2)).getD 1
      [1, 2, 4].foldlM (fun _ n => laneArrive s (ls.filter fun x => lenOf x.va == n) n vec) ()
      [1, 2, 4].foldlM (fun _ n => laneArrive s (side.filter fun x => sizeOf x.va == n) n vec) ()
      -- a side value is read whole; its bytes lie in one page, its address being a multiple of its size
      let readSide (a : DWord × Nat) (l : Nat) : Nat := match side.find? fun x => x.lane == l && x.va == a.1 with
        | some x => s.serve fresh x.loc a.2
        | none => 0
      let word (e : Nat × Nat) : Nat :=
        let (as, off) := p.bytesOf w e.2
        let raw := ofBytes ((byteUnits as).map fun a => match ls.find? fun x => x.lane == e.1 && x.va == a.1 with
          | some x => leBytes a.2 (s.serve fresh x.loc a.2)
          | none => leBytes a.2 0).flatten
        p.deliver (raw / 2 ^ off % 2 ^ w) ((p.sideOf e.2).map fun a => readSide a e.1)
      .ok (es.map fun e => (e.1, word e), (if fresh then s else s.usedL1 s ((ls ++ side).map (·.loc))).touchAll (base :: (ls ++ side).map (·.va)))

/-! ### Addresses (R182) -/

def laneAddrOf (form1 : Bool) (x : LIn) (l : Nat) : DWord :=
  if form1 then x.b l + BitVec.ofInt 64 (toSigned 32 (x.a l).toNat) else x.a l
/-- The active lanes with their addresses. -/
def laneAddrs (form1 : Bool) (x : LIn) : List (Nat × DWord) := (lanesOf x.act).map fun l => (l, laneAddrOf form1 x l)

/-- A value for each lane from a list. -/
def byLane (ws : List (Nat × Nat)) (l : Nat) : DWord := match ws.find? fun x => x.1 == l with
  | some (_, v) => BitVec.ofNat 64 v
  | none => 0

/-! ### Loads and stores -/

/-- A loaded value as the type gives it (R183). -/
def loadVal (t : LType) (n v : Nat) : DWord :=
  if Sys2Proof.LType.signed t then BitVec.ofNat 64 (ofInt 32 (toSigned (8 * n) v)) else BitVec.ofNat 64 v

/-- Plain lane loads: the values by lane. -/
def laneLoads (s : State) (as : List (Nat × DWord)) (n : Nat) (raw fresh : Bool) : Res (List (Nat × Nat) × State) := do
  let ls ← laneLocs s as n .load (.laneLoad raw)
  laneArrive s ls n
  let t := (s.touchAll (ls.map (·.va))).remClear
  let secs := (ls.map fun x => x.loc.key / 128).eraseDups
  let t := (secs.filterMap fun k => ls.find? fun x => x.loc.key / 128 == k).foldl (fun t x => t.fillL1 s fresh x.loc) t
  let t := if !fresh && ls.any (fun x => (l1Fate s x.loc).isSome) then { t with fresh := t.fresh + 1 } else t
  .ok (ls.map fun x => (x.lane, s.serve fresh x.loc n), t)

/-- VLD (R183). -/
def execVld (m : LMem) (s : State) : Out :=
  laneDo (Forms.vld m) (fun x t => do
    if m.elem then
      let (ws, t) ← elemWords t (x.b 0) ((lanesOf x.act).map fun l => (l, (x.a l).toNat % 2 ^ 32)) m.fresh
      writeField s t.remClear x.act .el false m.vd (byLane ws)
    else
      let n := sizeBytes m.size
      let (ws, t) ← laneLoads t (laneAddrs m.form1 x) n m.raw m.fresh
      writeField s t x.act .el m.ty.wide m.vd fun l => loadVal m.ty n (byLane ws l).toNat) s

/-- VST (R184). -/
def execVst (m : LMem) (s : State) : Out :=
  laneDo (Forms.vst m) (fun x t => do
    let n := sizeBytes m.size
    let ls ← laneLocs t (laneAddrs m.form1 x) n .store (.laneStore m.raw)
    laneStores t ls n fun l => (x.c l).toNat % 256 ^ n) s

/-! ### Atomics (R185) -/

/-- Lane atomics of the peer window: one packet a lane in ascending order, all awaited (R441, R442); a host location refuses. DESIGN CHOICE, safe: assumption 27. -/
def peerAtoms (s : State) (ls : List LaneLoc) (n : Nat) (ty : LType) (op : AtomOp) (x e : Nat → DWord) : Res (List (Nat × Nat)) := do
  failLanes (ls.filterMap fun y => if isHost y.loc.key then some (y.lane, restartAt .protection y.va 3) else none)
  let ps := ls.filter fun y => isPeer y.loc.key
  let rec_ (y : LaneLoc) : Option RemReq := s.remAtom? y.loc.key n (some y.lane)
  if ps.isEmpty then .ok []
  else if ps.all fun y => (rec_ y).any (·.isDone) then
    match laneFault (ps.filterMap fun y => (rec_ y).bind fun r =>
        if r.status = 0 then none else some (y.lane, remFault r.status y.va)) with
    | some t => .error (.trapIn s.remClear t)
    | none => .ok (ps.filterMap fun y => (rec_ y).map fun r => (y.lane, r.val))
  else
    .error (.stallIn ((ps.filter fun y => (rec_ y).isNone).foldl
      (fun t y => t.askAtom y.loc.key n (fabCode (fabIndex ty op)) (x y.lane) (e y.lane) (some y.lane)) s) .peer)

/-- The value that a lane's atomic leaves. -/
def atomLeft (t : LType) (op : AtomOp) (n : Nat) (x e : Nat → DWord) (l old : Nat) : Nat :=
  laneAtom t op old ((x l).toNat % 256 ^ n) ((e l).toNat % 256 ^ n)

/-- Each lane's read-modify-write in memory, in ascending lane order: the state and the old values. -/
def localAtoms (s : State) (t : LType) (op : AtomOp) (n : Nat) (x e : Nat → DWord) : List LaneLoc → State × List (Nat × Nat)
  | [] => (s, [])
  | y :: ys =>
    let old := s.read y.loc.key n
    let (s', os) := localAtoms (s.write y.loc.key n (atomLeft t op n x e y.lane old)) t op n x e ys
    (s', (y.lane, old) :: os)

/-- A lane instruction that ends a region when it performs (R171, R396): the entry holds the lane stream's next position. -/
def laneDoRegion (v : LView) (f : LIn → State → Res State) (s : State) : Out :=
  finishL s (do
    let (x, t) ← laneIssue v s
    let t ← f x t
    let t := laneDone v t
    .ok { t with g := t.g.endRegion t.g.sc.pc })

/-- The acquire effect of an order field (R185, R288). -/
def State.orderAcq (s : State) (o : MOrder) (sc : Scope) : State :=
  match o with
  | .acq | .ar => s.acquire sc
  | _ => s
/-- The release effect of an order field (R185), and the place in the one order of R306. -/
def State.orderRel (s : State) (o : MOrder) (sc : Scope) : Res Unit :=
  match o with
  | .rel | .ar => s.inOrder sc
  | .acq => s.inOrder .team
  | .rlx => .ok ()

/-- VATOM. -/
def execVatom (m : LAtom) (s : State) : Out :=
  laneDoRegion (Forms.vatom m) (fun x t => do
    let n := LType.ew m.ty / 8
    t.orderRel m.order m.scope
    let ls ← laneLocs t (laneAddrs m.form1 x) n .atomic .atomic
    let here := ls.filter fun y => !isRemote y.loc.key
    laneArrive t here n
    require (!ls.any fun y => t.stages y.loc) (.stall .staging)
    let far ← peerAtoms t ls n m.ty m.op x.c x.d
    let t ← t.grants true (here.map fun y => (y.loc, y.va))
    let (t, olds) := localAtoms t m.ty m.op n x.c x.d here
    let old := byLane (olds ++ far)
    let t := t.fold true ((ls.map fun y => storeWords y.va n (atomLeft m.ty m.op n x.c x.d y.lane (old y.lane).toNat)).flatten)
    let t := ((t.touchAll (ls.map (·.va)) true).remClear).orderAcq m.order m.scope
    writeField s t x.act .el m.ty.wide m.vd old) s

/-- A gradient contribution (R187): to its Thresher, or in a packet through the peer window. DESIGN CHOICE, safe: assumption 27. -/
def State.gradAddTo (s : State) (l : Loc) (w : Word) : State :=
  if isPeer l.key then
    let (d, a) := peerOf l.key
    s.sendOwn { reqPacket s s.gdom 3 d a 4 [] with op := fabCode gradIndex, aux := w.setWidth 64 }
      { bytes := 4, cells := [(l.key, 4)], write := true }
  else contribute s s.gdom l.key w.toNat

/-- GRAD.ADD (R187): every active lane contributes. -/
def execGradAdd (m : LMem) (s : State) : Out :=
  laneDoRegion (Forms.vst m) (fun x t => do
    let ls ← laneLocs t (laneAddrs m.form1 x) 4 .store .gradAdd
    failLanes (ls.filterMap fun y => if isHost y.loc.key then some (y.lane, restartAt .protection y.va 3) else none)
    let t := ls.foldl (fun t y => t.gradAddTo y.loc ((x.c y.lane).setWidth 32)) t
    .ok (t.touchAll (ls.map (·.va)))) s

/-- A contribution that reaches its Thresher by itself (R293). -/
def execThresherContribution (pa : Nat) (val : Word) (s : State) : Out := .next (contribute s s.gdom pa val.toNat)

/-- VFENCE (R186): as SFENCE, for the lane stream. -/
def execVfence (h : LHdr) (kind : FenceKind) (scope : Scope) (s : State) : Out :=
  laneDo { h := h, lat := .none, mem := true } (fun _ t => do
    match kind with
    | .acq => .ok (t.acquire scope)
    | .rel => do t.release scope; .ok (t.fenced true scope)
    | .ar => do t.release scope; .ok ((t.acquire scope).fenced true scope)) s

end Sys2Proof.Machine
end

