-- ==== Sys2Proof/Machine/Copy.lean ====
section
/-!
DEFINITION. The copy engines (R194 to R201): tensor layout records, the elements of a copy in destination order, CP.TENS and CP.TRY.
The data moves when the instruction issues, which is one of the times R201 allows (DESIGN CHOICE, unsafe: assumption 9); the token follows.
-/
namespace Sys2Proof.Machine

/-- The modes of CP.TENS (R195). -/
inductive CpMode where
  | tile | conv | gather
deriving DecidableEq, Repr

/-- A tensor layout record (R194). -/
structure Tlr where
  gbase : DWord
  rank : Nat
  toGlobal : Bool
  esz : Nat
  cvt : Nat
  pad : Nat
  gdim : List Nat
  gstr : List Nat
  box : List Nat
  kw : Nat
  kh : Nat
  st : Nat
  dil : Nat
deriving DecidableEq, Repr

/-- The record's fields, if they obey R194 and the mode's constraints (R197, R198). -/
def tlrOf (b : List Byte) (m : CpMode) : Option Tlr :=
  let rank := fieldOf b 8 1
  let mode := fieldOf b 9 1
  let esz := 2 ^ bitsOf mode 1 2
  let cvt := bitsOf mode 3 2
  let dir := bitsOf mode 0 1 == 1
  let gbase := fieldOf b 0 8
  let gdim := (List.range 5).map fun i => fieldOf b (16 + 4 * i) 4
  let box := (List.range 5).map fun i => fieldOf b (52 + i) 1
  let ksz := fieldOf b 57 1
  let kstep := fieldOf b 58 1
  let modeOk := match m with
    | .tile => ksz == 0 && kstep == 0
    | .conv => rank == 4 && !dir
    | .gather => ksz == 0 && kstep == 0 && rank == 2
  if rank = 0 ∨ 5 < rank ∨ 32 ≤ mode ∨ cvt = 3 ∨ fieldOf b 10 2 ≠ 0 ∨ fieldOf b 59 5 ≠ 0 ∨ !(gdim.drop rank).all (· == 1) ∨
      !(box.drop rank).all (· == 0) ∨ (cvt = 0 ∧ gbase % esz ≠ 0) ∨ (cvt = 1 ∧ (dir ∨ esz ≠ 4)) ∨
      (cvt = 2 ∧ (!dir ∨ esz ≠ 4)) ∨ !modeOk then none
  else some
    { gbase := BitVec.ofNat 64 gbase, rank := rank, toGlobal := dir, esz := esz, cvt := cvt, pad := fieldOf b 12 4 % 2 ^ (8 * esz)
      gdim := gdim.take rank, gstr := 1 :: (List.range 4).map fun i => fieldOf b (36 + 4 * i) 4
      box := box.map (· + 1), kw := ksz % 16 + 1, kh := ksz / 16 + 1, st := kstep % 16 + 1, dil := kstep / 16 + 1 }

/-- One element of a copy: its place in scratch, in elements; its global element, if it has one; and whether it lies past the
batch (R197). -/
structure CpItem where
  off : Nat
  lin : Option Nat
  past : Bool := false
deriving DecidableEq, Repr

/-- The linear element of a global index inside the extents. -/
def Tlr.linear (t : Tlr) (xs : List Int) : Option Nat :=
  if ((xs.zip t.gdim).all fun x => 0 ≤ x.1 && x.1 < x.2) then
    some (((xs.zip t.gstr).map fun x => x.1.toNat * x.2).sum)
  else none

/-- Mixed-radix digits. -/
def digits : List Nat → Nat → List Nat
  | [], _ => []
  | b :: bs, n => n % b :: digits bs (n / b)

/-- `.tile`: the box (R196). -/
def tileItems (t : Tlr) (cs : List Int) : List CpItem :=
  let box := t.box.take t.rank
  (List.range (box.foldl (· * ·) 1)).map fun i =>
    { off := i, lin := t.linear ((cs.zip (digits box i)).map fun x => x.1 + (x.2 : Int)) }

/-- `.conv`: rows of pixels in linear order (R197). -/
def convItems (t : Tlr) (cs : List Int) : List CpItem :=
  let c (i : Nat) : Int := cs.getD i 0
  let ch := t.box.getD 0 1
  let row := ch * t.kh * t.kw
  let ow : Int := ((t.gdim.getD 1 1 + t.st - 1) / t.st : Nat)
  let oh : Int := ((t.gdim.getD 2 1 + t.st - 1) / t.st : Nat)
  let ox : Int := ((t.kw - 1) * t.dil / 2 : Nat)
  let oy : Int := ((t.kh - 1) * t.dil / 2 : Nat)
  (List.range (t.box.getD 1 1 * row)).map fun i =>
    let j := i % row
    let p := (c 3 * oh + c 2) * ow + c 1 + (i / row : Nat)
    let xo := p % ow
    let yo := p / ow % oh
    let im := p / ow / oh
    let kx : Int := (j / ch % t.kw : Nat)
    let ky : Int := (j / ch / t.kw : Nat)
    let past := decide ((t.gdim.getD 3 1 : Int) ≤ im)
    { off := i, past := past
      lin := if past then none else
        t.linear [c 0 + (j % ch : Nat), xo * t.st + kx * t.dil - ox, yo * t.st + ky * t.dil - oy, im] }

/-- `.gather`: rows by index (R198). -/
def gatherItems (t : Tlr) (c0 : Int) (rows : List Nat) : List CpItem :=
  let n := t.box.getD 0 1
  (List.range (n * rows.length)).map fun i => { off := i, lin := t.linear [c0 + (i % n : Nat), (rows.getD (i / n) 0 : Int)] }

/-! ### Moving one element -/

/-- How a copy stops: a code of R199, or a wait for a remote source. -/
inductive CpStop where
  | code (n : Nat) (s : State)
  | wait (s : State) (w : Stall)

/-- A fault of the global side as a code: translation, data error, or no response. -/
def cpCode (s : State) (c : TrapCode) : Nat :=
  if c = .uncorrectableData then (if s.remote.any fun r => s.mine r && r.status == 5 then 5 else 4) else 2
def cpStop (s : State) : Stop → CpStop
  | .trap t => .code (cpCode s t.code) (s.note t)
  | .trapIn u t => .code (cpCode s t.code) (u.note t)
  | .stall w => .wait s w
  | .stallIn u w => .wait u w

/-- The value of a global element as it goes to scratch. DEDUCED, unsafe: assumption 55. -/
def cpLoad (s : State) (t : Tlr) (lin : Nat) : Except Stop (Nat × State) :=
  if t.cvt = 1 then
    match elemWords s t.gbase [(0, lin)] true false with
    | .ok (ws, u) => .ok ((byLane ws 0).toNat, u)
    | .error e => .error e
  else do
    let va := t.gbase + BitVec.ofNat 64 (t.esz * lin)
    let l ← lift (access s va t.esz .load (.laneLoad true))
    arrive s l va t.esz
    .ok (s.readOwn l t.esz, s.touch va)

/-- Write `n` bytes of a global destination; a write to the peer window waits at its source by itself (R453). -/
def cpPut (s : State) (l : Loc) (n v : Nat) (job : Nat) : State :=
  if isHost l.key then s.toHost (.write (s.hostPort s.gdom) (l.key - hostBase) (leBytes n v) (!s.g.relS))
  else if isPeer l.key then
    let (d, a) := peerOf l.key
    s.sendOwn (reqPacket s s.gdom 2 d a n (leBytes n v)) { bytes := n, job := some job, cells := [(l.key, n)], write := true }
  else s.write l.key n v

/-- The page of the formatted region, and its descriptor, for an encoding copy. -/
def cpPfd (s : State) (t : Tlr) : Option (Nat × Pfd) :=
  match translate s t.gbase .store with
  | .ok l => if l.pfd = 0 then none else (pfdOf s s.gdom l.pfd).map fun p => (l.pfd, p)
  | .error _ => none

/-- Where a scratch value goes globally: address, bytes, and the value as stored. DEDUCED, unsafe: assumption 55. -/
def cpDest (s : State) (t : Tlr) (lin v : Nat) : Option (DWord × Nat × Nat) :=
  if t.cvt = 2 then
    match cpPfd s t with
    | none => none
    | some (_, p) =>
      if [1, 2, 3, 4, 8].contains p.kind then
        let n := kindWidth p.kind / 8
        some (BitVec.ofNat 64 (p.dbase + n * lin), n, (encElem p.kind .rne false false v).1)
      else none
  else some (t.gbase + BitVec.ofNat 64 (t.esz * lin), t.esz, v)

/-- The location of a global destination. -/
def cpDestLoc (s : State) (t : Tlr) (va : DWord) (n : Nat) : Except Stop Loc := do
  let l ← lift (access s va n .store (if t.cvt = 2 then .elem else .laneStore true))
  if t.cvt = 2 && (cpPfd s t).map (·.1) != some l.pfd then .error (trapP .format) else .ok l

/-- Move one element: the state and the destination bytes written. -/
def cpMove (t : Tlr) (base : Nat) (job : Nat) (s : State) (x : CpItem) : Except CpStop (State × Nat) :=
  let sk := base + t.esz * x.off
  if t.toGlobal then
    match x.lin with
    | none => .ok (s, 0)
    | some i =>
      if poisoned s sk t.esz then .error (cpStop s (.trap (flawed 0 sk 1)))
      else match cpDest s t i (s.read sk t.esz) with
        | none => .error (.code 2 s)
        | some (va, n, v) => match cpDestLoc s t va n with
          | .error e => .error (cpStop s e)
          | .ok l => .ok (cpPut (s.touch va true) l n v job, n)
  else
    match x.lin with
    | none => .ok (s.write sk t.esz t.pad, t.esz)
    | some i => match cpLoad s t i with
      | .error e => .error (cpStop s e)
      | .ok (v, u) => .ok (u.write sk t.esz v, t.esz)

/-- Move the elements in destination order: the state, the bytes written and the code. DESIGN CHOICE, unsafe: assumption 9. -/
def cpRun (t : Tlr) (base job : Nat) : List CpItem → State → Nat → Nat → Except CpStop (State × Nat × Nat)
  | [], s, bytes, code => .ok (s, bytes, code)
  | x :: xs, s, bytes, code =>
    match cpMove t base job s x with
    | .ok (u, n) => cpRun t base job xs u (bytes + n) (if x.past then 3 else code)
    | .error (.code c u) => .ok (u, bytes, c)
    | .error (.wait u w) => .error (.wait u w)

/-- The elements of the destination: their lines are waited for, and granted, when the copy issues (R201, R313, R414). -/
def cpLines (s : State) (t : Tlr) (base : Nat) (va : DWord) (xs : List CpItem) : List (Loc × DWord) :=
  if t.toGlobal then
    xs.filterMap fun x => (x.lin.bind fun i => cpDest s t i 0).bind fun d => match cpDestLoc s t d.1 d.2.1 with
      | .ok l => some (l, d.1)
      | .error _ => none
  else xs.map fun x => ({ key := base + t.esz * x.off }, va + BitVec.ofNat 64 (t.esz * x.off))

/-! ### CP.TENS -/

/-- A window address: its key, and the bytes of its allocation from there. -/
def windowRoom (s : State) (va : DWord) : Option (Nat × Nat) :=
  match windowLoc s va with
  | some (.ok l) => some (l.key, s.gteam.scrsz - (l.key - 2 ^ 60) % 2 ^ 21)
  | _ => none

/-- The items of a copy; none where a gather's index list runs past its allocation, which ends the copy with code 1. DESIGN CHOICE,
unsafe: assumption 61. -/
def cpItems (s : State) (t : Tlr) (m : CpMode) (c : Nat) : Res (Option (List CpItem)) :=
  let cs := (List.range t.rank).map fun i => (s.rdS (BitVec.ofNat 6 (c + i))).toInt
  match m with
  | .tile => .ok (some (tileItems t cs))
  | .conv => .ok (some (convItems t cs))
  | .gather =>
    let ia := s.rdS (BitVec.ofNat 6 (c + 1))
    let rows := t.box.getD 1 1
    match windowRoom s ia with
    | none => .error (trapP .reservedField)
    | some (key, room) =>
      if (key - 2 ^ 60) / 2 ^ 21 ≠ s.gteam.tid then .error (trapP .reservedField)
      else if ia.toNat % 4 ≠ 0 then .error (trapP .misaligned 0 ia)
      else if room < 4 * rows then .ok none
      else if s.owned key (4 * rows) then .error (.stall .recall)
      else .ok (some (gatherItems t (cs.getD 0 0) ((List.range rows).map fun i => s.read (key + 4 * i) 4)))

/-- The first row of a gather whose index is uncorrectable, and the index's place: the rows before it are copied, and the copy ends
there with code 4 (R199). -/
def badIndex (s : State) (t : Tlr) (m : CpMode) (c : Nat) : Option (Nat × Nat) :=
  match m, windowRoom s (s.rdS (BitVec.ofNat 6 (c + 1))) with
  | .gather, some (key, _) => ((List.range (t.box.getD 1 1)).map fun i => (i, key + 4 * i)).find? fun k => poisoned s k.2 4
  | _, _ => none
/-- The record and the code of an uncorrectable index, when nothing has ended the copy before it. -/
def indexEnd (s : State) (bad : Option (Nat × Nat)) (code : Nat) : State × Nat :=
  match bad with
  | none => (s, code)
  | some (_, k) =>
    let (st, n) := unitOf s k 1
    (s.errRecord 1 st n 0 k, 4)

/-- CP.TENS (R195): the checks in order, the copy, the end of the region, and the token. DESIGN CHOICE, unsafe: assumption 9. DEDUCED, unsafe: assumption 55. -/
def cpTens (m : CpMode) (d l c p : SReg) (s : State) : Out :=
  finishS s (do
    ready s [d] [l, p]
    drain s
    let ta := s.rdS l
    recordCheck ta 64
    let (b, u) ← recordAt s ta 8
    match tlrOf b m with
    | none => .error (trapP .reservedField)
    | some t => do
      require (c.toNat + t.rank ≤ 64) (trapP .reservedField)
      ready s [] ((List.range t.rank).map fun i => BitVec.ofNat 6 (c.toNat + i))
      let items ← cpItems s t m c.toNat
      let va := s.rdS p
      match windowRoom s va with
      | none => .error (.trap (preciseAt .protection va (if canonical va then 3 else 4)))
      | some (key, room) => do
        require (va.toNat % t.esz = 0) (trapP .misaligned 0 va)
        let xs := items.getD []
        if items.isNone || room < t.esz * xs.length then
          let done := (u.remClear.endRegion.wrS d (statusWord 1 0)).next
          if s.g.copyTrap then .error (.trapIn (u.remClear.wrS d (statusWord 1 0)) { code := .copyBounds, addr := va }) else .ok done
        else do
          let bad := badIndex s t m c.toNat
          let xs := (bad.map fun k => xs.take (t.box.getD 0 1 * k.1)).getD xs
          let ls := cpLines u t key va xs
          require (!ls.any fun l => s.owned l.1.key t.esz) (.stall .recall)
          let u ← u.grants false ls
          match cpRun t key u.nextId xs u 0 0 with
          | .error (.wait w st) => .error (.stallIn { s with remote := w.remote, fabric := w.fabric } st)
          | .error (.code c w) => .ok ((w.remClear.endRegion.startJob d .copy (statusWord c 0)).next)
          | .ok (w, bytes, code) =>
            let (w, code) := if code = 0 ∨ code = 3 then indexEnd w bad code else (w, code)
            .ok ((w.remClear.endRegion.startJob d .copy (statusWord code bytes)).next))

def execCpTensTile (t l c p : SReg) (s : State) : Out := cpTens .tile t l c p s
def execCpTensConv (t l c p : SReg) (s : State) : Out := cpTens .conv t l c p s
def execCpTensGather (t l c p : SReg) (s : State) : Out := cpTens .gather t l c p s

/-- COPY_COMPLETE (R199): the token is written once the fabric has answered the copy's own writes. -/
def execCopyComplete (job : Nat) (s : State) : Out :=
  .next (match s.job? job with
    | none => s
    | some j => match j.kind with
      | .copy => if s.jobWaits job then s.post (.copyComplete job) else s.finishJob j j.status
      | _ => s)

/-- CP.TRY (R200): the test, the wait, and the timeout. -/
def execCpTry (k : CReg) (t : SReg) (imm : BitVec 14) (s : State) : Out :=
  finishS s (do
    let rest (s : State) : State := { s with g := { s.g with tryWait := false, tryOver := false } }
    if !s.pending t then .ok ((rest s).wrC k true).next
    else if imm = 0 ∨ s.g.tryOver then .ok ((rest s).wrC k false).next
    else .error (.stallIn { s with g := { s.g with tryWait := true } } .cpTry))

/-- CP_TRY_TIMEOUT: imm ck have passed in the wait of a group's CP.TRY. DESIGN CHOICE, safe: assumption 1. -/
def execCpTryTimeout (gid : Nat) (s : State) : Out :=
  let limit (s : State) : State := if s.g.tryWait then { s with g := { s.g with tryOver := true, sStall := none } } else s
  .next (if polId 0 ≤ gid then (limit (s.enterPolicy (gid - polId 0))).leavePolicy (gid - polId 0) else onGroup s gid limit)

end Sys2Proof.Machine
end

