-- ==== Sys2Proof/Machine/CrossLane.lean ====
section
/-!
DEFINITION. Cross-lane instructions (R131 to R139): shuffles, butterfly steps, reductions, scans, ballots and top-k selection.
-/
namespace Sys2Proof.Machine
open Forms (xf)

/-! ### Shuffle (R132) -/

/-- The source lane of a shuffle, if there is one. -/
def shflSrc (mode : Nat) (wr : Bool) (b l : Nat) : Option Nat :=
  let d := if wr then Config.W / 2 ^ (b % 8) else b
  let s : Int := match mode with
    | 0 => b
    | 1 => l - d
    | 2 => l + d
    | _ => (l ^^^ d : Nat)
  if 0 ≤ s ∧ s < Config.W then some s.toNat else none
def execVshfl (o : LOp) (s : State) : Out :=
  laneOp (Forms.vshfl o) (fun x =>
    let src (l : Nat) := shflSrc (xf o 0 2) (xf o 2 1 == 1) (x.b l).toNat l
    { v := fun l => x.a ((src l).getD l), p := fun l => (src l).isSome }) s

/-! ### Combining (R133) -/

/-- combine(x, y) of two values of the type, with its flags. -/
def combine (o : LOp) (x y : DWord) : DWord × Nat :=
  let f (a b : Nat) : Nat × Nat :=
    match xf o 0 4 with
    | 0 => if o.ty = .f32 then fpAdd f32 o.rnd false false a b else intRes o.ty o.sat (LType.val o.ty a + LType.val o.ty b)
    | 1 => if o.ty = .f32 then fpMinMax f32 false false false a b else plain (minElem o.ty a b)
    | 2 => if o.ty = .f32 then fpMinMax f32 true false false a b else plain (maxElem o.ty a b)
    | 3 => plain (a &&& b)
    | 4 => plain (a ||| b)
    | _ => plain (a ^^^ b)
  onElems o.ty (fun | [a, b] => f a b | _ => (0, 0)) [x, y]

/-- The identity of an operation (R133). -/
def identityOf (o : LOp) : DWord :=
  let w := LType.ew o.ty
  let sg := Sys2Proof.LType.signed o.ty
  let e : Nat := match xf o 0 4 with
    | 1 => if o.ty = .f32 then 0x7F800000 else (intMax w sg).toNat
    | 2 => if o.ty = .f32 then 0xFF800000 else ofInt w (intMin w sg)
    | 3 => 2 ^ w - 1
    | _ => 0
  (onElems o.ty (fun _ => (e, 0)) [0]).1

/-- A lane that takes part holds a value and the flags of the combines that made it. -/
abbrev Part := Option (DWord × Nat)
def join (o : LOp) : Part → Part → Part
  | none, y => y
  | x, none => x
  | some (x, f), some (y, g) =>
    let (z, h) := combine o x y
    some (z, f ||| g ||| h)

/-- The lanes that take part, in order. -/
def parts (x : LIn) : List Part := (List.range Config.W).map fun l => if x.act.getLsbD l then some (x.a l, 0) else none

/-- VLOGSTEP (R134). -/
def execVlogstep (o : LOp) (s : State) : Out :=
  laneOp (Forms.vlogstep o) (fun x =>
    let k := xf o 4 3
    let d := if xf o 7 1 = 1 then Config.W / 2 ^ (k + 1) else 2 ^ k
    resOf fun l =>
      let m := l ^^^ d
      if d ≠ 0 ∧ m < Config.W ∧ x.act.getLsbD m then combine o (x.a (min l m)) (x.a (max l m)) else (x.a l, 0)) s

/-- One level of the tree. -/
def pairUp (o : LOp) : List Part → List Part
  | x :: y :: t => join o x y :: pairUp o t
  | t => t
/-- The tree of R135 over W positions. -/
def reduce (o : LOp) (xs : List Part) : Part :=
  ((List.range 5).foldl (fun xs _ => pairUp o xs) xs).headD none

/-- A 64-bit scalar from a reduction (R135). -/
def extendRes (t : LType) (x : DWord) : DWord := if t = .s32 then BitVec.ofInt 64 (toSigned 32 x.toNat) else x
/-- Write a scalar target (R43); `s0` discards. A written register no longer holds an error (R458). -/
def State.putScalar (s : State) (r : SReg) (v : DWord) : State :=
  if r = 0 then s
  else { s with g := { s.g with sc := { s.g.sc with sreg := SMap.set 0 s.g.sc.sreg r.toNat v, bad := putBit s.g.sc.bad r.toNat false } } }
def targetReg : Opd → SReg
  | .s n => n
  | _ => 0

/-- VREDUCE (R135): the flags go to the lowest active lane. -/
def execVreduce (o : LOp) (s : State) : Out :=
  laneDo (Forms.vreduce o) (fun x t =>
    match reduce o (parts x) with
    | none => .ok t
    | some (v, fl) =>
      let low := (lanesOf x.act).headD 0
      .ok ((t.putScalar (targetReg o.vd) (extendRes o.ty v)).raise x.act fun l => if l = low then fl else 0)) s

/-- One doubling step of R136. -/
def scanStep (o : LOp) (d : Nat) (xs : List Part) : List Part :=
  xs.zipIdx.map fun x => if d ≤ x.2 then join o (xs.getD (x.2 - d) none) x.1 else x.1
/-- VSCAN (R136). -/
def execVscan (o : LOp) (s : State) : Out :=
  laneOp (Forms.vlogstep o) (fun x =>
    let ys := [1, 2, 4, 8, 16].foldl (fun xs d => scanStep o d xs) (parts x)
    resOf fun l =>
      let r := if xf o 4 1 = 1 then
          match ((List.range l).filter fun h => x.act.getLsbD h).getLast? with
          | some h => ys.getD h none
          | none => some (identityOf o, 0)
        else ys.getD l none
      r.getD (0, 0)) s

/-- VBALLOT (R137). -/
def execVballot (o : LOp) (s : State) : Out :=
  laneDo (Forms.vballot o) (fun x t =>
    let m := x.act &&& s.g.pr (BitVec.ofNat 7 (xf o 0 7))
    match o.vd with
    | .s r => .ok (if x.act = 0 then t else t.putScalar r (lo32 m))
    | _ => writeField s t x.act (Forms.vballot o).ud false o.vd fun _ => lo32 m) s

/-! ### Top-k (R138, R139) -/

/-- A candidate: its value, index and lane. -/
structure Cand where
  val : Nat
  idx : DWord
  lane : Nat
deriving DecidableEq, Repr

/-- The order of two values: `lt` ranks first. -/
def valOrder (t : LType) (isMin : Bool) (a b : Nat) : Ordering :=
  let dir (o : Ordering) : Ordering := if isMin then o else o.swap
  if t = .f32 then
    match f32.decode false a, f32.decode false b with
    | .nan, .nan => .eq
    | .nan, _ => .gt
    | _, .nan => .lt
    | x, y =>
      match XVal.cmp x y with
      | .eq => dir (compare (if x.isNeg then 0 else 1 : Nat) (if y.isNeg then 0 else 1))
      | c => dir c
  else dir (compare (LType.val t a) (LType.val t b))
def tieHash (seed : Word) (i : DWord) : Word := sow32 (i.setWidth 32) (sow32 (i.extractLsb' 32 32) seed)
/-- The ranking of R138. -/
def candBefore (t : LType) (isMin : Bool) (seed : Word) (x y : Cand) : Bool :=
  let o := (valOrder t isMin x.val y.val).then ((compare (tieHash seed x.idx).toNat (tieHash seed y.idx).toNat).then
    ((compare x.idx.toNat y.idx.toNat).then (compare x.lane y.lane)))
  o == .lt
def insertCand (before : Cand → Cand → Bool) (x : Cand) : List Cand → List Cand
  | [] => [x]
  | y :: t => if before x y then x :: y :: t else y :: insertCand before x t
def sortCands (before : Cand → Cand → Bool) : List Cand → List Cand
  | [] => []
  | x :: t => insertCand before x (sortCands before t)

/-- VTOPK. -/
def execVtopk (o : LOp) (s : State) : Out :=
  laneDo (Forms.vtopk o) (fun x t =>
    let lanes := lanesOf x.act
    let seed := (x.c 0).setWidth 32
    let cands := lanes.map fun l => (⟨(x.a l).toNat, x.b l, l⟩ : Cand)
    let best := (sortCands (candBefore o.ty (xf o 7 1 == 1) seed) cands).take (xf o 0 7)
    let m := maskOf fun l => (lanes.take best.length).contains l
    let at_ (l : Nat) : Cand := best.getD (lanes.idxOf l) ⟨0, 0, 0⟩
    let vd := match o.vd with
      | .v n => n.toNat
      | _ => 0
    let g := ((t.g.putVec vd m fun l => BitVec.ofNat 32 (at_ l).val).putVec (vd + 1) m fun l => (at_ l).idx.setWidth 32).putVec
      (vd + 2) m fun l => (at_ l).idx.extractLsb' 32 32
    .ok { t with g := g }) s

end Sys2Proof.Machine
end

