-- ==== Sys2Proof/Machine/Sync.lean ====
section
/-!
DEFINITION. Barriers, arrival watches and channels (R202 to R205, R281, R282).
-/
namespace Sys2Proof.Machine

/-! ### The team barrier -/

/-- The barrier's instance ends when every group that has not exited has arrived (R202). -/
def Team.barStep (t : Team) : Team :=
  if !t.barArrived.isEmpty && (List.range t.ngroups).all fun i => t.exited.contains i || t.barArrived.contains i then
    { t with barGen := t.barGen + 1, barArrived := [] }
  else t

/-- BAR.TEAM (R202). -/
def execBarTeam (s : State) : Out :=
  finishS s (do
    drain s
    let t := s.gteam
    match s.g.barJoined with
    | none =>
      let u := ({ t with barArrived := s.g.gidx :: t.barArrived } : Team).barStep
      if u.barGen ≠ t.barGen then .ok (s.setTeam u).next
      else .error (.stallIn { s.setTeam u with g := { s.g with barJoined := some t.barGen } } .barrier)
    | some n =>
      if t.barGen ≠ n then .ok { s with g := { s.g with barJoined := none } }.next else .error (.stall .barrier))

/-! ### Cluster barriers (R203) -/

/-- A group of a cluster by its team's index and its own. -/
def cluKey (k gidx : Nat) : Nat := k * 16 + gidx

/-- The groups of a cluster that have not exited. -/
def clusterLive (s : State) (c : Cluster) : List Nat :=
  ((s.teams.filter fun t => t.cluster == c.cid && t.launch == c.launch).map fun t =>
    ((List.range t.ngroups).filter fun i => !t.exited.contains i).map (cluKey t.k)).flatten

/-- Phase counter and arrivals of a barrier after the phase completes, when every live group has arrived. -/
def Cluster.phaseStep (c : Cluster) (live : List Nat) (b : Nat) : Cluster :=
  let a := SMap.get [] c.arrived b
  if !a.isEmpty && live.all a.contains then
    { c with phase := SMap.set 0 c.phase b (SMap.get 0 c.phase b + 1), arrived := SMap.set [] c.arrived b [] }
  else c

/-- CLU.ARRIVE (R202, R203). -/
def execCluArrive (d : SReg) (b : BitVec 4) (s : State) : Out :=
  finishS s (do
    ready s [d] []
    drain s
    s.release .clu
    let c := s.gcluster
    let key := cluKey s.gteam.k s.g.gidx
    let a := SMap.get [] c.arrived b.toNat
    require (!a.contains key) (.stall .cluWait)
    let u := ({ c with arrived := SMap.set [] c.arrived b.toNat (key :: a) } : Cluster).phaseStep (clusterLive s c) b.toNat
    .ok ((s.setCluster u).wrS d ((SMap.get 0 c.phase b.toNat).setWidth 64)).next)

/-- Phase n is complete when the counter minus n, modulo 2^32, lies in 1..2^31 (R203). -/
def phaseDone (counter n : Word) : Bool := 1 ≤ (counter - n).toNat && (counter - n).toNat ≤ 2 ^ 31

/-- CLU.WAIT (R202, R203). -/
def execCluWait (a : SReg) (b : BitVec 4) (s : State) : Out :=
  finishS s (do
    ready s [] [a]
    require (phaseDone (SMap.get 0 s.gcluster.phase b.toNat) ((s.rdS a).setWidth 32)) (.stall .cluWait)
    .ok (s.acquire .clu).next)

/-! ### Arrival watches (R204) -/

/-- The place of an arrival counter: the team's own scratch, or a page of HOME 1 through page tables, whose format entry must be valid
(R25). DEDUCED, unsafe: assumption 55. -/
def counterLoc (s : State) (va : DWord) : Res Loc :=
  let no : Stop := .trap (preciseAt .protection va 3)
  match windowLoc s va with
  | some (.ok l) => if (l.key - 2 ^ 60) / 2 ^ 21 = s.gteam.tid then .ok l else .error no
  | some (.error _) => .error no
  | none => do
    let l ← lift (translate s va .load)
    if l.home ≠ 1 then .error no
    else if formatOk s s.gdom l.pfd va then .ok l else .error (.trap (preciseAt .format va))

/-- ARR.SET: neither reads nor writes the counter. -/
def execArrSet (a b : SReg) (s : State) : Out :=
  finishS s (do
    ready s [] [a, b]
    let va := s.rdS a
    require (va.toNat % 8 = 0) (trapP .misaligned 0 va)
    let _ ← counterLoc s va
    let t := s.gteam
    let rest := t.watches.filter fun w => w.1 != va
    require (rest.length < 8) (trapP .bounds 0 va)
    .ok ((s.touch va).setTeam { t with watches := rest ++ [(va, s.rdS b)] }).next)

/-- ARR.WAIT. -/
def execArrWait (a : SReg) (s : State) : Out :=
  finishS s (do
    ready s [] [a]
    let va := s.rdS a
    match s.gteam.watches.find? fun w => w.1 == va with
    | none => .error (trapP .reservedField)
    | some (_, target) => do
      let l ← counterLoc s va
      arrive s l va 8
      require (target.toNat ≤ s.read l.key 8) (.stall .arrWait)
      .ok (s.acquire .fab).next)

/-! ### Channels (R205, R281, R282) -/

/-- The channel as the group's team uses it: its producer for a send, its consumer for a receive. -/
def channel (s : State) (ch : BitVec 5) (send : Bool) : Res Chan :=
  match s.gcluster.chans.find? fun x => x.ch == ch.toNat && (if send then x.prod else x.cons) == s.gteam.k with
  | some x => .ok x
  | none => .error (trapP .channelUndeclared)

/-- Every group of team k of the cluster has exited. -/
def teamGone (s : State) (k : Nat) : Bool :=
  let c := s.gteam.cluster
  (s.teams.filter fun t => t.cluster == c && t.k == k).all fun t => (List.range t.ngroups).all t.exited.contains

/-- Put a channel back. -/
def setChan (s : State) (x : Chan) : State :=
  let c := s.gcluster
  s.setCluster { c with chans := c.chans.map fun y => if y.ch == x.ch then x else y }

/-- The group's place among the waiting receivers, and the messages before it are theirs. -/
def recvPlace (s : State) (x : Chan) : Nat := x.waits.idxOf s.g.gid

/-- The group takes its message: state and value. -/
def takeMsg (s : State) (x : Chan) : Option (DWord × State) :=
  let i := recvPlace s x
  x.msgs[i]?.map fun v => (v, setChan s { x with
    msgs := x.msgs.eraseIdx i, bad := (x.bad.filter (· != i)).map fun j => if i < j then j - 1 else j
    waits := x.waits.filter fun w => w != s.g.gid })
/-- Its message holds no uncorrectable error (R456, R458). -/
def soundMsg (s : State) (x : Chan) : Res Unit :=
  require (!(x.bad.contains (recvPlace s x) && decide (recvPlace s x < x.msgs.length))) (sramError s)

/-- SEND. -/
def execSend (a : SReg) (ch : BitVec 5) (s : State) : Out :=
  finishS s (do
    ready s [] [a]
    drain s
    let x ← channel s ch true
    require (!teamGone s x.cons) (trapP .channelUndeclared)
    s.release .clu
    require (x.msgs.length < x.depth) (.stall .chanFull)
    .ok (setChan s { x with msgs := x.msgs ++ [s.rdS a] }).endRegion.next)

/-- SEND.TRY. -/
def execSendTry (k : CReg) (a : SReg) (ch : BitVec 5) (s : State) : Out :=
  finishS s (do
    ready s [] [a]
    let x ← channel s ch true
    if teamGone s x.cons || x.depth ≤ x.msgs.length then .ok (s.wrC k false).next
    else do
      drain s
      s.release .clu
      .ok ((setChan s { x with msgs := x.msgs ++ [s.rdS a] }).endRegion.wrC k true).next)

/-- RECV. -/
def execRecv (d : SReg) (ch : BitVec 5) (s : State) : Out :=
  finishS s (do
    ready s [d] []
    drain s
    let x ← channel s ch false
    soundMsg s x
    match takeMsg s x with
    | some (v, t) => .ok ((t.acquire .clu).endRegion.wrS d v).next
    | none => do
      require (!(x.msgs.isEmpty && teamGone s x.prod)) (trapP .channelUndeclared)
      let x := if x.waits.contains s.g.gid then x else { x with waits := x.waits ++ [s.g.gid] }
      .error (.stallIn (setChan s x) .chanEmpty))

/-- RECV.TRY. -/
def execRecvTry (d : SReg) (k : CReg) (ch : BitVec 5) (s : State) : Out :=
  finishS s (do
    ready s [d] []
    let x ← channel s ch false
    match takeMsg s x with
    | some (v, t) => do
      drain s
      soundMsg s x
      .ok (((t.acquire .clu).endRegion.wrS d v).wrC k true).next
    | none => .ok (s.wrC k false).next)

end Sys2Proof.Machine
end

