-- ==== Sys2Proof/Machine/Place.lean ====
section
/-!
DEFINITION. Where teams stand: mesh positions, the fit of a team (R271, R272), the start of a group (R40, R95, R363), and the end of
one (R203, R211, R275).
-/
namespace Sys2Proof.Machine

/-! ### The mesh -/

/-- Core number of a mesh position: 48·die + 8·y + x (DEDUCED, unsafe: assumption 10). -/
def coreAt (die x y : Nat) : Nat := 48 * die + Config.meshX * y + x
/-- DEDUCED, unsafe: assumption 10. -/
def dieOf (c : Nat) : Nat := c / 48
/-- DEDUCED, unsafe: assumption 10. -/
def meshXof (c : Nat) : Nat := c % 48 % Config.meshX
/-- DEDUCED, unsafe: assumption 10. -/
def meshYof (c : Nat) : Nat := c % 48 / Config.meshX
/-- The core of team k of a cluster (R273). -/
def Cluster.coreOf (c : Cluster) (k : Nat) : Nat := coreAt c.die (c.x0 + k % c.w) (c.y0 + k / c.w)
/-- The rectangle lies in its die. -/
def Cluster.inDie (c : Cluster) : Bool := c.die < 4 && c.x0 + c.w ≤ Config.meshX && c.y0 + c.h ≤ Config.meshY

/-- The half-slots a tile takes, by its width and designator (R215). -/
def halvesOf (width d : Nat) : List Nat :=
  if width = 4 then [d] else if width = 16 then [2 * d, 2 * d + 1, 2 * d + 2, 2 * d + 3] else [2 * d, 2 * d + 1]
/-- Two tiles share storage (R216). -/
def Tile.overlaps (x y : Tile) : Bool := (halvesOf x.width x.d).any fun h => (halvesOf y.width y.d).contains h

/-! ### The fit of a team (R272) -/

/-- The groups on a core, with their slots. -/
def onCore (s : State) (c : Nat) : List Group := s.groups.filter fun g => (s.team g.team).core == c
/-- The quadrant of group i. -/
def quadOf (q0 i : Nat) : Nat := (q0 + i) % 4
/-- The free slots of a quadrant, lowest first. -/
def freeSlots (s : State) (c q : Nat) : List Nat :=
  ((List.range Config.slotsPerQuadrant).map (q * Config.slotsPerQuadrant + ·)).filter fun x => !(onCore s c).any fun g => g.slot == x
/-- Vector registers in use on a quadrant. -/
def quadRegs (s : State) (c q : Nat) : Nat := (((onCore s c).filter fun g => g.slot / Config.slotsPerQuadrant == q).map (·.winsz)).sum

/-- What a team needs. -/
structure Need where
  /-- the groups that need a slot -/
  idx : List Nat
  regs : Nat
  q0 : Nat
  sram : Nat
deriving DecidableEq, Repr

/-- The groups of a team on a quadrant. -/
def Need.on (d : Need) (q : Nat) : Nat := (d.idx.filter fun i => quadOf d.q0 i == q).length

/-- Bytes of a core's SRAM in use beside its pinned area (R272, R379). -/
def coreUsed (s : State) (c : Nat) : Nat :=
  ((s.teams.filter fun t => t.core == c && t.resident).map fun t =>
    t.scrsz + t.tapesz * t.ngroups + (((s.cluster t.cluster).chans.filter fun x => x.cons == t.k).map fun x => 8 * x.depth).sum).sum +
    (s.core c).held

/-- The team fits the core. -/
def fits (s : State) (c : Nat) (d : Need) : Bool :=
  ((List.range 4).all fun q =>
    d.on q ≤ (freeSlots s c q).length && quadRegs s c q + d.on q * d.regs ≤ Config.quadrantRegs) &&
  coreUsed s c + (s.core c).pin + d.sram ≤ Config.sramBytes

/-- A team fits an empty core. -/
def fitsEmpty (d : Need) : Bool := (d.idx.length + 3) / 4 * d.regs ≤ Config.quadrantRegs && d.idx.length ≤ 64 && d.sram ≤ Config.sramBytes

/-- The slots of a team's groups, in order: the lowest free slot of each group's quadrant. -/
def takeSlots (s : State) (c q0 : Nat) : List Nat → List Nat → List Nat
  | [], _ => []
  | i :: is, taken =>
    let x := (((freeSlots s c (quadOf q0 i)).filter fun y => !taken.contains y).head?).getD 0
    x :: takeSlots s c q0 is (x :: taken)

/-! ### The start of a group -/

/-- Group `gidx` of a team of a launch as its creation leaves it (R40, R95, R363). DESIGN CHOICE, unsafe: assumption 18. DEDUCED, unsafe: assumption 55. -/
def freshGroup (l : Launch) (gid tid gidx slot : Nat) : Group :=
  let r := l.rcd
  let sregs := (r.args.zipIdx 1).foldl (fun m x => SMap.set 0 m x.2 x.1) ([] : SMap DWord)
  { gid := gid, team := tid, gidx := gidx, slot := slot, live := true, phase := .placed, sc := { pc := r.scb, sreg := sregs },
    region := { pc := r.scb }, det := r.det, winsz := r.regs, predsz := r.preds, scb := r.scb, lcb := r.lcb,
    prog := if l.cls = 0 then .resolve else .kernel }

/-- Groups of a grid. -/
def Launch.total (l : Launch) : Nat := l.rcd.gx * l.rcd.gy * l.rcd.gz * l.rcd.team

/-- The trigger point (R369): every group has triggered or exited; a pass's is its completion. -/
def Launch.triggerPoint (l : Launch) : Bool := !l.rcd.pass && l.total ≤ l.triggers

/-! ### The order of launches and reservations (R370, R372) -/

/-- The gangs of a grid, and the cluster of gang i as its lowest team's place (R273, R370). -/
def Launch.gangCount (l : Launch) : Nat := if l.rcd.pass then 0 else l.rcd.gx / l.rcd.cw * (l.rcd.gy / l.rcd.ch) * l.rcd.gz
def Launch.gangAt (l : Launch) (i : Nat) : Nat × Nat × Nat :=
  let nx := l.rcd.gx / l.rcd.cw
  let ny := l.rcd.gy / l.rcd.ch
  (i % nx * l.rcd.cw, i / nx % ny * l.rcd.ch, i / nx / ny)

/-- What team k of a launch needs from a starting quadrant. -/
def Launch.need (l : Launch) (k q0 : Nat) : Need :=
  { idx := List.range l.rcd.team, regs := l.rcd.regs, q0 := q0
    sram := l.rcd.scratch + l.rcd.tape * l.rcd.team + ((l.rcd.chans.filter fun x => x.cons == k).map fun x => 8 * x.depth).sum }

/-- The third criterion of R370: hardware queues by domain and number, then the graph-edge queues by domain. DEDUCED, unsafe: assumption 46. -/
def sourceOrder : LaunchSrc → Nat
  | .queue i => i
  | .edge dom _ _ => 128 + dom
/-- `a` is considered before `b` (R370): priority, the ck of eligibility, the source; then the order in which the records were taken. -/
def ranksBefore (a b : Launch) : Bool :=
  a.prio > b.prio || a.prio == b.prio && (a.since < b.since || a.since == b.since &&
    (sourceOrder a.src < sourceOrder b.src || sourceOrder a.src == sourceOrder b.src && a.num < b.num))

/-- The core is not kept for another launch, unless this one ranks before it (R372). -/
def openTo (s : State) (l : Launch) (core : Nat) : Bool :=
  s.resv.all fun r => r.1 == l.num || !r.2.contains core || (s.launch? r.1).all fun m => ranksBefore l m

/-- A team of a launch fits the core, for some starting quadrant. -/
def teamFits (s : State) (l : Launch) (core k : Nat) : Bool :=
  (s.core core).owner == l.dom && openTo s l core && (List.range 4).any fun q => fits s core (l.need k q)

/-- Some rectangle of a die takes a launch's gang when each of its cores passes the test. -/
def dieTakes (l : Launch) (die : Nat) (core : Nat → Nat → Bool) : Bool :=
  (List.range Config.meshY).any fun y => (List.range Config.meshX).any fun x =>
    let c : Cluster := { w := l.rcd.cw, h := l.rcd.ch, die := die, x0 := x, y0 := y }
    c.inDie && (List.range (c.w * c.h)).all fun k => core (c.coreOf k) k

/-- The launch's next gang fits somewhere. -/
def canPlace (s : State) (l : Launch) : Bool := (List.range 4).any fun die => dieTakes l die (teamFits s l)
/-- The gang could fit on the die: it would, with nothing placed there (R372). -/
def couldFit (s : State) (l : Launch) (die : Nat) : Bool :=
  dieTakes l die fun core k => (s.core core).owner == l.dom && (s.core core).pin + (l.need k 0).sram ≤ Config.sramBytes

/-- A launch with a gang still to place. -/
def Launch.waits (l : Launch) : Bool := !l.aborted && l.gangs < l.gangCount

/-- The first waiting launch of the order. -/
def firstWaiting (s : State) : Option Launch :=
  (s.launches.filter Launch.waits).foldl (fun b a => match b with
    | none => some a
    | some x => if ranksBefore a x then some a else b) none

/-- The team that holds a deterministic launch's ticket has not been placed yet: its gang goes before any other of the launch (R408). -/
def holderUnplaced (s : State) (l : Launch) : Bool :=
  l.rcd.det && l.waits && !s.teams.any fun t => t.launch == l.num && t.teamlin == l.ticket
/-- Firmware learns of a ticket holder's gang that no core fits, once for each gang (R408). -/
def tellHolder (s : State) (l : Launch) : State :=
  if holderUnplaced s l && !l.told && !canPlace s l then (s.setLaunch { l with told := true }).irq 1 else s

/-- The first waiting launch takes a reservation when its next gang fits nowhere, which firmware learns; it holds it until the gang is
placed, whatever becomes eligible meanwhile (R372). -/
def reserve (s : State) : State :=
  let s := s.launches.foldl tellHolder s
  match firstWaiting s with
  | none => s
  | some l => if s.resv.any (fun r => r.1 == l.num) || canPlace s l then s else { s with resv := s.resv ++ [(l.num, [])] }.irq 1

/-- A core is freed: it is kept for every reservation whose gang could fit on its die (R372). -/
def freeCore (s0 : State) (c : Nat) : State :=
  let s := reserve s0
  { s with resv := s.resv.map fun (r : Nat × List Nat) =>
      if (s.launch? r.1).any fun l => couldFit s l (dieOf c) then (r.1, (c :: r.2).eraseDups) else r }

/-! ### The end of a group -/

/-- A collective still writes into a team's scratch partition (R211, R379). -/
def scratchBusy (s : State) (tid : Nat) : Bool :=
  let lo := scratchKey tid 0
  s.jobs.any fun j => match j.kind with
    | .coll c => c.keys.any fun k => lo ≤ k && k < lo + 2 ^ 21
    | _ => false

/-- A team's tiles become empty when its last group exits (R216). -/
def dropTiles (s : State) (t : Team) : State :=
  let x := s.core t.core
  s.setCore t.core { x with tiles := x.tiles.filter fun y => y.owner != t.tid }
/-- A team's scratch and tape go; in deterministic mode its staging stays until its release (R211, R275, R405). -/
def releaseTeam (s : State) (t : Team) (det : Bool) : State :=
  let lo := scratchKey t.tid 0
  let s := freeCore s t.core
  { s with
    mem := Memory.clear s.mem lo (lo + 2 ^ 21)
    poison := s.poison.filter fun p => !(lo ≤ p && p < lo + 2 ^ 21)
    teams := if det then s.teams.map fun y => if y.tid == t.tid then { y with resident := false } else y
             else s.teams.filter fun y => y.tid != t.tid }

/-- The groups of the team have all exited. -/
def Team.gone (t : Team) : Bool := (List.range t.ngroups).all t.exited.contains

/-- The teams whose groups have all exited are released, each once nothing of an engine is still to be written to its scratch (R211). -/
def releaseGone (s : State) : State :=
  (s.teams.filter fun t => t.gone && t.resident && !scratchBusy s t.tid).foldl
    (fun s t =>
      let l := s.launch t.launch
      let s := releaseTeam s t (l.rcd.det && !l.rcd.pass)
      if l.rcd.det then s.post (.ticketPass l.num) else s) s

/-- The verdicts that the end of a coverage group gives (R327). -/
def coverageEnd (s : State) (g : Group) (killed : Bool) : State :=
  match g.prog with
  | .coverage n _ =>
    let l := s.launch n
    let keep (f : Frag) : Bool := !killed && g.em.getLsbD f.lane && !g.killMask.getLsbD f.lane && !f.dropped
    (s.setLaunch { l with pass := { l.pass with
      held := l.pass.held.map fun f => if f.gid == some g.gid then { f with verdict := some (keep f) } else f } }).post (.visibilityPass n)
  | _ => s

/-- The group in focus leaves (R211 steps 4 and 5; the kill of R401 has no more than these): a trigger and an arrival everywhere, its
slot and window freed, and with the last group the team's release. -/
def State.leave (s0 : State) (killed : Bool) : State :=
  let s := s0.abandon
  let g := s.g
  let t := s.gteam
  let c := s.gcluster
  let l := s.glaunch
  let t := ({ t with exited := g.gidx :: t.exited } : Team).barStep
  let s := s.setTeam t
  let live := clusterLive s c
  let c := (List.range 16).foldl (fun c b => c.phaseStep live b) (s.cluster c.cid)
  let gone := t.gone
  let c := if gone then { c with chans := c.chans.map fun x => if x.cons == t.k then { x with msgs := [], bad := [], waits := [] } else x } else c
  let s := s.setCluster c
  let cov := match g.prog with
    | .coverage .. => true
    | _ => false
  let l := if cov then l else { l with exits := l.exits + 1, triggers := if g.triggered then l.triggers else l.triggers + 1 }
  let s := { s.setLaunch l with g := {}, pairMarks := s.pairMarks.filter fun m => m.gid != g.gid }
  let s := if gone then dropTiles s t else s
  let s := if gone && !scratchBusy s t.tid then releaseTeam s t (l.rcd.det && !cov) else s
  let s := if gone && l.rcd.det then s.post (.ticketPass l.num) else s
  let s := if cov then coverageEnd s g killed else s
  if !cov && l.total ≤ l.exits then s.post (.launchComplete l.num) else s

end Sys2Proof.Machine
end

