-- ==== Sys2Proof/Machine/Start.lean ====
section
/-!
DEFINITION. Cold and warm start, READY, resets and the loss of power (R2, R109, R468 to R471), and the repairs a start
applies (R463 to R465). What a start meets outside the device is a StartEnv.
-/
namespace Sys2Proof.Machine

/-- The largest valid copy of the start counter (R471); no valid copy counts as 0 (DEDUCED, unsafe: assumption 7). -/
def counterOf (c : List (Option Nat)) : Nat := c.foldl (fun n x => max n (x.getD 0)) 0

/-- Stacks that a repair sector marks for retirement (R465). -/
def markedStacks (r : List DWord) : List Nat :=
  (r.filter fun x => bitsOf x.toNat 60 4 = 2).map fun x => bitsOf x.toNat 56 4
/-- Disabled ways of the fullest slice of a cache: 0 L2, 1 Granary (R463). -/
def disabledWays (r : List DWord) (cache : Nat) : Nat :=
  let ks := (r.filter fun x => bitsOf x.toNat 60 4 = 3 && bitsOf x.toNat 47 1 = cache).eraseDups
  (ks.map fun x => (ks.filter fun y => bitsOf y.toNat 48 12 = bitsOf x.toNat 48 12).length).foldl max 0
/-- REPAIRSTAT (R461). -/
def repairStat (r : List DWord) (retired : Option Nat) : DWord :=
  let rows := ((r.filter fun x => bitsOf x.toNat 60 4 = 1).eraseDups).length
  let ways := ((r.filter fun x => bitsOf x.toNat 60 4 = 3).eraseDups).length
  BitVec.ofNat 64 (rows * 2 ^ 32 + ways % 2 ^ 16 * 2 ^ 16 + (match retired with
    | some k => 16 + k
    | none => 0))

/-- The image that the ROM starts for a counter of c (R471); `none` where the flash cannot be read. -/
def startImage (env : StartEnv) (c : Nat) : Option FlashImage := if 3 ≤ c then env.fallback else env.primary
/-- What the ROM finds in it (R472): whether it is accepted but for its SVN, its SVN, and its ENTRY. -/
def startFindings (env : StartEnv) (c : Nat) : Bool × Nat × DWord :=
  ((startImage env c).map (imageFindings env.keyDigest)).getD (false, 0, 0)

/-- A policy core at the image's ENTRY with its reset values (R109, R468, R472). DESIGN CHOICE, unsafe: assumption 48. -/
def policyAt (entry : DWord) : PolicyCore := { sc := { pc := entry } }

/-- MEMTOP as a start leaves it: the fitted capacity (R388, R464). -/
def topOf (retired : Option Nat) : DWord :=
  BitVec.ofNat 64 ((match retired with
    | some _ => Config.slices - 8
    | none => Config.slices) * Config.sliceBytes)

/-- The bytes of lines that a warm start drops without write-back (R469): what HBM held of them is not known here, so they are free values. DESIGN CHOICE,
safe: assumption 65. -/
def lostLines (s : State) : State :=
  let lines := ((s.l2 ++ s.granary).filter (·.dirty)).map (·.line)
  lines.eraseDups.foldl (fun s l =>
    { s with mem := (List.range 512).foldl (fun m i => Memory.setByte m (512 * l + i) ((Config.freeWord (s.fresh + i)).setWidth 8)) s.mem
             fresh := s.fresh + 512, poison := s.poison.filter fun p => p / 512 != l }) s

/-- What a start meets where it keeps what it has (R469): a warm start keeps the fuse values, the package number and the planes that stayed up,
runs no BIST and zero-fills nothing at step 8. -/
def keptEnv (s : State) (env : StartEnv) : StartEnv :=
  { env with
    fusesOk := true, keyDigest := s.env.keyDigest, fused := s.env.fused, bistOk := true, zeroFillOk := true, pkg := s.fabric.pkg
    planesUp := (List.range 72).filter fun p => !s.fabric.planesDown.contains p || env.planesUp.contains p
    counterCopies := none, sector := none }

/-- A start begins (R468, R469): every register has its reset value, main memory is kept or lost, no policy core executes; the steps
follow one by one. DEDUCED, unsafe: assumption 54. -/
def started (s : State) (env : StartEnv) (warm : Bool) (cause : Nat) : State :=
  let s := if warm then lostLines s else s
  let env := if warm then keptEnv s env else env
  let copies := env.counterCopies.getD s.start.counter
  let sector := (env.sector.map fun c => c.map sectorOf).getD s.start.sector
  let idle : PolicyCore := { halted := true }
  { s with
    g := {}, others := [], party := .policy 0, teams := [], clusters := [], launches := [], nextLaunch := 1, nextId := 1
    placing := none, queues := [], edges := [], edgeLast := [], ripe := [], resv := [], coreTab := [], dom0 := {}, dom1 := {}, units := []
    pol0 := idle, pol1 := idle, pol2 := idle, pol3 := idle
    priv := { memtop := topOf none, svnfloor := s.priv.svnfloor }
    start :=
      { step := if warm then 1 else 0
        reason := if s.start.trip then 9 else 0
        attempts := counterOf copies
        cause := cause
        counter := copies
        sector := sector
        raised := false
        oldUnits := if warm then some (s.start.oldUnits.getD s.units) else none }
    env := env
    mem := if warm then s.mem.filter fun x => x.1 < peerBase else []
    pcode := []
    poison := if warm then s.poison.filter fun p => p < peerBase else []
    tlb := [], threshers := [], spills := [], l2 := [], granary := [], l1 := [], jobs := [], grids := [], deliveries := [], pairs := [], pairMarks := []
    fabric := { out := if warm then s.fabric.out else [] }
    remote := [], saved := [], sessions := [], sessNodes := [], waitIn := [], ch := 0, clock := 0, sampAt := 0, issueQ := [], plan := []
    engineQ := [.startStep] }

/-- A step fails: the start stops in the failed state (R468, R471). -/
def startFail (s : State) (reason : Nat) : State :=
  let idle (p : PolicyCore) : PolicyCore := { p with halted := true }
  { s with start := { s.start with reason := reason, failed := true }
           pol0 := idle s.pol0, pol1 := idle s.pol1, pol2 := idle s.pol2, pol3 := idle s.pol3 }
/-- A step has succeeded. -/
def startDone (s : State) : State := { s with start := { s.start with step := s.start.step + 1 } }
/-- Step 2 (R468, R471): the ROM raises the counter, its copies written one after the other, unless the safe state follows. -/
def startCount (s : State) : State :=
  let x := s.start
  match x.writes with
  | w :: ws => { s with start := { x.flash w with writes := ws } }
  | [] =>
    if x.raised || 6 ≤ x.attempts then startDone s
    else { s with start := { x with raised := true, writes := [.counter 0 (x.attempts + 1), .counter 1 (x.attempts + 1)] } }
/-- Step 4 (R468, R472): the image is fetched and checked, its body stands in the policy cores' memory, and they go to ENTRY. DESIGN CHOICE, unsafe: assumption 48. -/
def startImage4 (s : State) : State :=
  let x := s.start
  let (ok, svn, entry) := startFindings s.env x.attempts
  match startImage s.env x.attempts with
  | none => startFail s 5
  | some f =>
    if !ok then startFail s 3
    else if svn < s.priv.svnfloor.toNat then startFail s 4
    else
      let p := policyAt entry
      startDone { s with
        start := { x with svn := svn, entry := entry, digest := imageDigest f, image := 3 ≤ x.attempts }
        pcode := imageCode f, pol0 := p, pol1 := p, pol2 := p, pol3 := p }
/-- Step 6 (R463, R464): a stack that fails, or that the repair sector marks, is retired; a second one fails the start. -/
def startTrain (s : State) : State :=
  let bad := (markedStacks s.start.repairs ++ s.env.failedStacks).eraseDups
  if 2 ≤ bad.length then startFail s 7
  else
    startDone { s with
      start := { s.start with retired := bad.head? }
      priv := { s.priv with memtop := topOf bad.head?, repairstat := repairStat (s.start.repairs ++ s.env.fused) bad.head? } }
/-- Step 9 (R448, R468): the links are trained; a plane that fails stays down. Firmware assigns the package number, the keys and failover. DEDUCED, unsafe: assumption 54. DESIGN CHOICE, unsafe: assumption 24. -/
def startFabric (s : State) : State :=
  let e := s.env
  startDone { s with
    fabric := { s.fabric with pkg := e.pkg, planesDown := (List.range 72).filter fun p => !e.planesUp.contains p
                              keys := e.unitKeys.foldl (fun m k => SMap.set 0 m k.1 k.2) [] }
    dom0 := { s.dom0 with pkey := e.pkeys.1, failover := e.failover.contains 0 }
    dom1 := { s.dom1 with pkey := e.pkeys.2, failover := e.failover.contains 1 } }

/-- The next step of a start (R468): each only after the one before it has succeeded. In the safe state the ROM halts at step 3 (R471). DEDUCED, unsafe: assumption 54. -/
def startStep (s : State) : State :=
  let e := s.env
  let t := match s.start.step with
    | 0 => if e.fusesOk then startDone s else startFail s 1
    | 1 => if e.romOk then startCount s else startFail s 2
    | 2 => startDone s
    | 3 => if 6 ≤ s.start.attempts then { s with start := { s.start with safe := true } } else startImage4 s
    | 4 => if e.pllOk then startDone s else startFail s 6
    | 5 => startTrain s
    | 6 => if e.bistOk then startDone s else startFail s 8
    | 7 => if e.zeroFillOk then startDone s else startFail s 7
    | 8 => startFabric s
    | _ => s
  if t.start.failed || t.start.safe || 9 ≤ t.start.step then t else t.post .startStep

/-- A write to flash lands (R465, R471). -/
def flashLands (s : State) : State :=
  match s.start.writes with
  | [] => s
  | w :: ws =>
    let t : State := { s with start := { s.start.flash w with writes := ws } }
    if ws.isEmpty then t else t.post .flashWrite

/-- COLD_START (R468): power is applied. -/
def execColdStart (env : StartEnv) (s : State) : Out := .next (started s env false 0)

/-- A warm start is in progress: it has neither failed nor halted nor reached READY. DEDUCED, unsafe: assumption 54. -/
def warming (s : State) : Bool := s.start.oldUnits.isSome && !s.start.failed && !s.start.safe
/-- A warm start (R469): only a device that has power makes one, and one that is in progress is not begun again. -/
def warmStart (s : State) (env : StartEnv) (cause : Nat) : State :=
  if s.start.on && !warming s then started s env true cause else s

/-- WARMRST: CAUSE 3. -/
def execWarmrst (env : StartEnv) (s : State) : Out := .next (warmStart s env 3)

/-- PERST# (R469): on port 0 a warm start, on port 1 that link retrains alone. -/
def execPerst (port : Nat) (env : StartEnv) (s : State) : Out :=
  if port = 0 then .next (warmStart s env 1) else .next { s with dom1 := { s.dom1 with linkUp := true } }

/-- A policy core's watchdog expires (R109). DESIGN CHOICE, safe: assumption 22. -/
def execWatchdogExpiry (core : BitVec 2) (env : StartEnv) (s : State) : Out :=
  if (s.pol core.toNat).wdt.isNone then .next s
  else if core = 0 then .next (warmStart s env 2)
  else
    let t := (s.setPol core.toNat (policyAt s.start.entry)).irq 4
    .next { t with priv := { t.priv with wdstat := putBit t.priv.wdstat core.toNat true } }

/-- READY (R468 step 10, R469, R471): the counter's copies are cleared one after the other, CLOCK counts from here, and after a warm start
each memory unit whose domain changed is zero-filled. DEDUCED, unsafe: assumption 54. -/
def ready10 (s : State) : State :=
  let changed := match s.start.oldUnits with
    | none => []
    | some o => (List.range 1024).filter fun u => SMap.get 15 o u != SMap.get 15 s.units u
  ({ s with
    start := { s.start with step := 10, writes := s.start.writes ++ [.counter 0 0, .counter 1 0], oldUnits := none }
    mem := changed.foldl (fun m u => Memory.clear m (u * 2 ^ 30) ((u + 1) * 2 ^ 30)) s.mem
    poison := s.poison.filter fun p => !changed.contains (p / 2 ^ 30)
    clock := 0, sampAt := s.sampAt - s.clock } : State).post .flashWrite
def execReady (s : State) : Out := .next (if s.start.step = 9 then ready10 s else s)

/-- Everything volatile is lost (R2). What flash and fuses hold stays; a write to flash that is under way lands or is cut, a free choice, and
those behind it are not made (R465, R471). DESIGN CHOICE, safe: assumption 65. -/
def powerOff (s : State) (trip : Bool) : State :=
  let x := match s.start.writes with
    | [] => s.start
    | w :: _ => if (Config.freeWord s.fresh).getLsbD 0 then s.start.flash w else s.start.cut w
  { ({} : State) with
    start := { on := false, step := 0, counter := x.counter, sector := x.sector, trip := trip, raised := false }
    priv := { svnfloor := s.priv.svnfloor }
    pol0 := { halted := true }, pol1 := { halted := true }, pol2 := { halted := true }, pol3 := { halted := true }
    env := s.env, hostOut := s.hostOut, hostRd := s.hostRd, inbox := s.inbox, plan := s.plan
    turn := s.turn, fresh := s.fresh + 1 }
def execPowerLoss (s : State) : Out := .next (powerOff s false)
/-- THERMAL_TRIP (R474). -/
def execThermalTrip (s : State) : Out := .next (powerOff s true)

/-- The policy cores' throttle flags (R474): timing alone, so nothing but the flags changes. -/
def execPowerCapThrottle (s : State) : Out := .next { s with start := { s.start with throttlePower := true } }
/-- A junction above 105 °C (R474): IRQPEND[3]. -/
def execThermalThrottle (s : State) : Out := .next ({ s with start := { s.start with throttleHeat := true } }.irq 3)
def execThrottleRelease (s : State) : Out :=
  .next { s with start := { s.start with throttlePower := false, throttleHeat := false } }

/-- POLICY_INTERRUPT (R467): EPC receives the next PC and ECAUSE becomes 0. DESIGN CHOICE, safe: assumption 22. -/
def interrupt0 (s : State) : State :=
  let p := s.pol0
  if s.priv.irqpend != 0 && p.ie then
    { s with pol0 := { p with epc := p.sc.pc, ecause := 0, pie := p.ie, ie := false, sc := { p.sc with pc := p.evec } } }
  else s
/-- DESIGN CHOICE, safe: assumption 22. -/
def execPolicyInterrupt (s : State) : Out := .next (interrupt0 s)

end Sys2Proof.Machine
end

