-- ==== Sys2Proof/Machine/PrivReg.lean ====
section
/-!
DEFINITION. The privileged registers (R103, R366, R388, R420, R446, R453, R455, R461, R467, R475): what a read returns, and
each write's checks and effects.
-/
namespace Sys2Proof.Machine

/-- The field `[hi:lo]` of a value kept in place. -/
def keep (v : DWord) (lo len : Nat) : DWord := BitVec.ofNat 64 (bitsOf v.toNat lo len * 2 ^ lo)

/-- DSTART's fields (R470). -/
def dstart (x : Start) : DWord :=
  BitVec.ofNat 64 (x.reason * 2 ^ 24 + x.attempts * 2 ^ 16 + (if x.safe then 2 ^ 15 else 0) + (if x.image then 2 ^ 14 else 0) +
    x.cause * 2 ^ 8 + x.step)

/-- QFCFG of a queue (R366). -/
def qfcfg (q : LaunchQueue) : DWord :=
  BitVec.ofNat 64 (q.asn * 2 ^ 32 + (if q.en then 2 ^ 31 else 0) + (if q.stop then 2 ^ 30 else 0) + q.log2 * 2 ^ 16 +
    q.prio * 2 ^ 8 + q.cls)

/-- A privileged register's value; `none` for an unassigned number (R467). DEDUCED, unsafe: assumption 49. -/
def privRead (s : State) (k : Nat) (num : Nat) : Option DWord :=
  let p := s.pol k
  let v := s.priv
  match num with
  | 0x800 => some p.epc
  | 0x801 => some p.ecause
  | 0x802 => some (BitVec.ofNat 64 ((if p.pie then 2 else 0) + (if p.ie then 1 else 0)))
  | 0x803 => some p.evec
  | 0x810 => some s.dom0.dcfg
  | 0x811 => some s.dom1.dcfg
  | 0x812 => some v.memtop
  | 0x820 => some v.ssctl
  | 0x821 => some v.ssbase
  | 0x822 => some v.sssize
  | 0x823 => some v.sswptr
  | 0x824 => some v.ssrptr
  | 0x825 => some v.ssdrop
  | 0x840 => some v.fabctl
  | 0x841 => some v.meshctl
  | 0x850 => some v.errbase
  | 0x851 => some v.errsize
  | 0x852 => some v.errwptr
  | 0x853 => some v.errrptr
  | 0x854 => some v.errdrop
  | 0x855 => some v.scrubctl
  | 0x856 => some v.repairstat
  | 0x860 => some (dstart s.start)
  | 0x861 => if k = 0 then some v.irqpend else none
  | 0x862 => some 0
  | 0x863 => some v.pwrcap
  | 0x864 => some v.svnfloor
  | 0x865 => if k = 0 then some v.wdstat else none
  | 0x866 => some v.qsel
  | 0x867 => some (qfcfg (s.queue v.qsel.toNat))
  | 0x868 => some (BitVec.ofNat 64 (s.queue v.qsel.toNat).base)
  | 0x869 => some v.pinsel
  | 0x86A => some (BitVec.ofNat 64 (s.core v.pinsel.toNat).pin)
  | n =>
    if 0x830 ≤ n ∧ n < 0x834 then some (SMap.get 0x1800 v.l2q (n - 0x830))
    else if 0x834 ≤ n ∧ n < 0x838 then some (SMap.get 0x1000 v.grq (n - 0x834))
    else if 0x86B ≤ n ∧ n < 0x86F then some (BitVec.ofNat 64 (SMap.get 0 v.l2pq (n - 0x86B)))
    else none

/-- RESERVED_FIELD, precise. -/
def reserved : Stop := trapP .reservedField

/-! ### Writes with a behaviour of their own -/

/-- DCFG of a domain (R388, R399): its queues' sequence numbers start again. DESIGN CHOICE, unsafe: assumption 48. -/
def writeDcfg (s : State) (d : Nat) (v : DWord) : Res State :=
  let t := s.setDom d { s.dom d with dcfg := keep v 8 44, gfSeq := 0, gfLive := [], scSeq := 0, scLive := [] }
  .ok (writeWaiting { t with coreTab := t.coreTab.map fun c => if c.2.owner = d then (c.1, { c.2 with lfSeq := 0, lfLive := [] }) else c } d)

/-- SSCTL (R420, R421). -/
def writeSsctl (s : State) (v : DWord) : Res State := do
  let en := v.getLsbD 16
  require (!en || (bitsOf v.toNat 0 16 != 0 && s.priv.sssize != 0)) reserved
  let t := { s with priv := { s.priv with ssctl := keep v 18 2 ||| keep v 16 1 ||| keep v 0 16 } }
  .ok (if en && !s.priv.ssctl.getLsbD 16 then
    { t with coreTab := t.coreTab.map fun c => (c.1, { c.2 with sampSlot := 0 }), sampAt := s.clock + bitsOf v.toNat 0 16 } else t)

/-- Ways that the quotas' minima may share (R446, R463). -/
def waysLeft (s : State) (gran : Bool) (l2pq : SMap Nat) : Nat :=
  let all := s.start.repairs ++ s.env.fused
  if gran then 16 - disabledWays all 1
  else 24 - disabledWays all 0 - (((List.range 4).map fun d => (SMap.get 0 l2pq d * 2 + 3) / 4).foldl max 0)

/-- The sum of the four MINs of a cache. -/
def minSum (q : SMap DWord) (d : DWord) : Nat := ((List.range 4).map fun c => bitsOf (SMap.get d q c).toNat 0 5).sum

/-- A way quota (R446): number 0..3 is L2Q, 4..7 GRQ. -/
def writeQuota (s : State) (n : Nat) (v : DWord) : Res State := do
  let gran := 4 ≤ n
  let x := keep v 8 5 ||| keep v 0 5
  let mx := bitsOf x.toNat 8 5
  require (bitsOf x.toNat 0 5 ≤ mx && mx ≤ (if gran then 16 else 24)) reserved
  if gran then do
    let q := SMap.set 0x1000 s.priv.grq (n - 4) x
    require (minSum q 0x1000 ≤ waysLeft s true s.priv.l2pq) reserved
    .ok { s with priv := { s.priv with grq := q } }
  else do
    let q := SMap.set 0x1800 s.priv.l2q n x
    require (minSum q 0x1800 ≤ waysLeft s false s.priv.l2pq) reserved
    .ok { s with priv := { s.priv with l2q := q } }

/-- FABCTL (R453): a change of MODE clamps the limits; the start-up mode continues from the service cap. -/
def writeFabctl (s : State) (v : DWord) : Res State :=
  let t := { s with priv := { s.priv with fabctl := keep v 0 1 } }
  .ok (if v.getLsbD 0 && !s.priv.fabctl.getLsbD 0 then
    { t with fabric := { t.fabric with wcap := SMap.setAll 4096 t.fabric.wcap (List.range 512) fun _ => 2 ^ 20 } } else t)

/-- SVNFLOOR (R467). -/
def writeSvnfloor (s : State) (v : DWord) : Res State :=
  .ok (if s.priv.svnfloor.ult (keep v 0 16) then { s with priv := { s.priv with svnfloor := keep v 0 16 } } else s)

/-- QFCFG of the queue QSEL names (R366). -/
def writeQfcfg (s : State) (v : DWord) : Res State := do
  let i := s.priv.qsel.toNat
  let q := s.queue i
  let x := v.toNat
  require (bitsOf x 48 16 = 0 ∧ bitsOf x 20 10 = 0 ∧ bitsOf x 11 5 = 0 ∧ bitsOf x 2 6 = 0 ∧ bitsOf x 16 4 ≤ 12) reserved
  require (!q.en || (bitsOf x 16 4 = q.log2 ∧ bitsOf x 0 2 = q.cls ∧ bitsOf x 32 16 = q.asn)) reserved
  let en := bitsOf x 31 1 == 1
  let q1 := { q with en := en, stop := bitsOf x 30 1 == 1, log2 := bitsOf x 16 4, prio := bitsOf x 8 3, cls := bitsOf x 0 2,
                     asn := bitsOf x 32 16 }
  .ok (s.setQueue i (if en && !q.en then { q1 with free := 2 ^ q1.log2, head := 0, tail := 0 } else q1))

/-- QFBASE of the queue QSEL names (R366). -/
def writeQfbase (s : State) (v : DWord) : Res State := do
  let i := s.priv.qsel.toNat
  require (!(s.queue i).en) reserved
  require (v == keep v 12 40) reserved
  .ok (s.setQueue i { s.queue i with base := v.toNat })

/-- Bytes of a core's SRAM in use without its pinned area (R272, R379, R475). -/
def sramUsed (s : State) (c : Nat) : Nat :=
  ((s.teams.filter fun t => t.core == c && t.resident).map fun t =>
    t.scrsz + t.tapesz * t.ngroups +
      (((s.cluster t.cluster).chans.filter fun x => x.cons == t.k).map fun x => 8 * x.depth).sum).sum + (s.core c).held

/-- PINSIZE of the core PINSEL names (R475). -/
def writePinsize (s : State) (v : DWord) : Res State := do
  let c := s.priv.pinsel.toNat
  let n := v.toNat
  require (n % 65536 = 0 ∧ n ≤ 0x180000) reserved
  require (n + sramUsed s c ≤ Config.sramBytes) reserved
  let base := home1Base + c * 0x200000
  .ok { (s.setCore c { s.core c with pin := n }) with
    mem := Memory.clear s.mem (base + min n (s.core c).pin) (base + 0x200000)
    poison := s.poison.filter fun p => !(base + min n (s.core c).pin ≤ p && p < base + 0x200000) }

/-- L2PQ of a die (R446, R475): lines above a lowered quota go with their Threshers' entries. -/
def writeL2pq (s : State) (die : Nat) (v : DWord) : Res State := do
  let n := v.toNat
  require (n ≤ 24) reserved
  let q := SMap.set 0 s.priv.l2pq die n
  require (minSum s.priv.l2q 0x1800 ≤ waysLeft s false q) reserved
  let cut := home2Base + die * 2 ^ 32 + min n (SMap.get 0 s.priv.l2pq die) * 0x200000
  let top := home2Base + (die + 1) * 2 ^ 32
  .ok { s with
    priv := { s.priv with l2pq := q }
    l1 := []
    mem := Memory.clear s.mem cut top
    poison := s.poison.filter fun p => !(cut ≤ p && p < top)
    threshers := s.threshers.filter fun e => !(cut ≤ e.pa && e.pa < top)
    spills := s.spills.filter fun e => !(cut ≤ e.pa && e.pa < top) }

/-- DSTARTP (R467, R470): the fields DSTART shows; STEP 10 declares READY. -/
def writeDstartp (s : State) (v : DWord) : Res State :=
  let x := v.toNat
  let t := { s with start := { s.start with
    reason := bitsOf x 24 8, attempts := bitsOf x 16 4, safe := bitsOf x 15 1 == 1, image := bitsOf x 14 1 == 1,
    cause := bitsOf x 8 4, step := bitsOf x 0 4 } }
  .ok (if bitsOf x 0 4 = 10 ∧ s.start.step < 10 then ready10 t else t)

/-- A privileged write by a policy core. MEMTOP takes no value above the fitted capacity (R464). DESIGN CHOICE, unsafe: assumption 48. DEDUCED, unsafe: assumption 49. -/
def privWrite (s : State) (k : Nat) (num : Nat) (v : DWord) : Res State :=
  let p := s.pol k
  let pv (x : Priv) : Res State := .ok { s with priv := x }
  match num with
  | 0x800 => .ok (s.setPol k { p with epc := keep v 2 62 })
  | 0x801 => .ok s
  | 0x802 => .ok (s.setPol k { p with pie := v.getLsbD 1, ie := v.getLsbD 0 })
  | 0x803 => .ok (s.setPol k { p with evec := keep v 2 62 })
  | 0x810 => writeDcfg s 0 v
  | 0x811 => writeDcfg s 1 v
  | 0x812 => if s.start.step = 10 then .ok s else pv { s.priv with memtop := BitVec.ofNat 64 (min (keep v 12 40).toNat (capacity s)) }
  | 0x820 => writeSsctl s v
  | 0x821 => if s.priv.ssctl.getLsbD 16 then .error reserved else pv { s.priv with ssbase := keep v 12 40 }
  | 0x822 => if s.priv.ssctl.getLsbD 16 then .error reserved else pv { s.priv with sssize := keep v 12 20 }
  | 0x823 => .ok s
  | 0x824 => pv { s.priv with ssrptr := v }
  | 0x825 => pv { s.priv with ssdrop := v }
  | 0x840 => writeFabctl s v
  | 0x841 => pv { s.priv with meshctl := keep v 0 2 }
  | 0x850 => pv { s.priv with errbase := keep v 12 40 }
  | 0x851 => pv { s.priv with errsize := keep v 12 20 }
  | 0x852 => .ok s
  | 0x853 => pv { s.priv with errrptr := v }
  | 0x854 => pv { s.priv with errdrop := v }
  | 0x855 =>
    if bitsOf v.toNat 16 16 = 0 ∨ bitsOf v.toNat 0 16 = 0 then .error reserved
    else pv { s.priv with scrubctl := keep v 32 1 ||| keep v 0 32 }
  | 0x856 => .ok s
  | 0x860 => writeDstartp s v
  | 0x861 => if k = 0 then pv { s.priv with irqpend := s.priv.irqpend &&& ~~~v } else .error reserved
  | 0x862 => .ok (if v.getLsbD 0 then warmStart s s.env 3 else s)
  | 0x863 => pv { s.priv with pwrcap := keep v 0 16 }
  | 0x864 => writeSvnfloor s v
  | 0x865 => if k = 0 then pv { s.priv with wdstat := s.priv.wdstat &&& ~~~(keep v 1 3) } else .error reserved
  | 0x866 => if v.toNat < 128 then pv { s.priv with qsel := v } else .error reserved
  | 0x867 => writeQfcfg s v
  | 0x868 => writeQfbase s v
  | 0x869 => if v.toNat ≤ 191 then pv { s.priv with pinsel := v } else .error reserved
  | 0x86A => writePinsize s v
  | n =>
    if 0x830 ≤ n ∧ n < 0x838 then writeQuota s (n - 0x830) v
    else if 0x86B ≤ n ∧ n < 0x86F then writeL2pq s (n - 0x86B) v
    else .error reserved

/-! ### The writes as events of the policy core in turn -/

/-- A write that a policy core makes: performed, or its trap taken by policy core 0. -/
def privEvent (s : State) (r : Res State) : Out := finish { s with party := .policy 0 } false r

def execPrivRegisterWrite (num : BitVec 12) (v : DWord) (s : State) : Out :=
  privEvent s (privWrite { s with party := .policy 0 } 0 num.toNat v)
def execQfcfgWrite (v : DWord) (s : State) : Out := privEvent s (writeQfcfg { s with party := .policy 0 } v)
def execQfbaseWrite (v : DWord) (s : State) : Out := privEvent s (writeQfbase { s with party := .policy 0 } v)
def execPinsizeWrite (v : DWord) (s : State) : Out := privEvent s (writePinsize { s with party := .policy 0 } v)
def execL2pqWrite (die : BitVec 2) (v : DWord) (s : State) : Out :=
  privEvent s (writeL2pq { s with party := .policy 0 } die.toNat v)
def execQuotaWrite (num : BitVec 3) (v : DWord) (s : State) : Out :=
  privEvent s (writeQuota { s with party := .policy 0 } num.toNat v)
def execDcfgWrite (dom : BitVec 1) (v : DWord) (s : State) : Out :=
  privEvent s (writeDcfg { s with party := .policy 0 } dom.toNat v)
def execSsctlWrite (v : DWord) (s : State) : Out := privEvent s (writeSsctl { s with party := .policy 0 } v)
def execFabctlWrite (v : DWord) (s : State) : Out := privEvent s (writeFabctl { s with party := .policy 0 } v)
def execSvnfloorWrite (v : DWord) (s : State) : Out := privEvent s (writeSvnfloor { s with party := .policy 0 } v)

end Sys2Proof.Machine
end

