-- ==== Sys2Proof/Machine/Tape.lean ====
section
/-!
DEFINITION. The tape of a group (R262 to R270): spans, the spill stack, marks, the recompute event and its end, and the scalar
tape instructions. Data words are numbered from TAPE.OPEN and the entry of span n is entry n of the spill stack.
-/
namespace Sys2Proof.Machine

/-- Spans begun up to a word position. -/
def spansAt (w : Nat) : Nat := (w + 29) / 30

/-- TAPESTAT (R53). -/
def tapeStat (t : Tape) : DWord :=
  if !t.opened then 0
  else BitVec.ofNat 64 (t.stack.length * 2 ^ 40 + 128 * (spansAt t.wpos - t.resLo) * 2 ^ 16 + (if t.crcErr then 8 else 0) +
    (if t.exh then 4 else 0) + (if t.recomp then 2 else 0) + 1)

/-- The header of a span (R262). -/
def spanHeader (cont cls1 : Bool) (n : Nat) : Word :=
  BitVec.ofNat 32 ((if cont then 2 ^ 31 else 0) + (if cls1 then 2 ^ 30 else 0) + n % 2 ^ 30)

/-- The 124 bytes of a span that its CRC covers. -/
def spanBytes (t : Tape) (n : Nat) : List Byte :=
  leBytes 4 (SMap.get 0 t.hdrs n).toNat ++ ((List.range 30).map fun i => leBytes 4 (SMap.get 0 t.words (30 * n + i)).toNat).flatten

/-- The CRC that a closed span has in the share. -/
def spanCrc (t : Tape) (n : Nat) : Word := BitVec.ofNat 32 (crc32c (spanBytes t n))
/-- A span is closed: it holds all its words. -/
def Tape.closed (t : Tape) (n : Nat) : Bool := decide (30 * (n + 1) ≤ t.wpos)
/-- A closed span that does not match its CRC, among those of the top record from a word on (R267). -/
def Tape.crcFails (t : Tape) (p : Nat) : Bool :=
  (List.range (spansAt t.wpos - p / 30)).any fun i => t.closed (p / 30 + i) && SMap.get 0 t.crcs (p / 30 + i) != spanCrc t (p / 30 + i)

/-- The segment that holds a word. -/
def segOf (t : Tape) (w : Nat) : Option TapeSeg := t.segs.find? fun x => x.start ≤ w && (x.isOpen || w < x.stop)

/-- A group's tape in the state. -/
def State.setTape (s : State) (t : Tape) : State := { s with g := { s.g with tape := t } }

/-- The fault of a tape that has no room: TAPESTAT.EXH, and nothing else (R265, R266). -/
def exhausted (s : State) : Stop := .trapIn (s.setTape { s.g.tape with exh := true }) { code := .tapeExhausted }

/-- Place bytes of a Binder write, once no engine owns their line (R201). -/
def State.placeBytes (s : State) (key : Nat) (b : List Byte) : Res State :=
  if s.owned key b.length then .error (.stall .recall)
  else .ok (if isRemote key then s.putRemote key b.length (ofBytes b) s.g.relL else s.writeBytes key b)

/-- The words of a span whose bytes leave the share with an uncorrectable error: they are poisoned where the span is spilled, and reported as
latent (R458). -/
def spillBad (s : State) (t : Tape) (n key : Nat) : State :=
  (t.bad.filter fun w => w / 30 == n && !isRemote key).foldl (fun s w =>
    let p := poisonKey (key + 4 + 4 * (w % 30))
    { s with poison := if s.poison.contains p then s.poison else s.poison ++ [p] }.errRecord 2 1 s.gteam.core 0 0) s

/-- Evict the oldest resident span (R265): a span of class 0 is spilled whole, one of class 1 leaves a stub. -/
def evict (s0 s : State) : Res State := do
  let t := s.g.tape
  let n := t.resLo
  if t.spillSz < 128 * (n + 1) then .error (exhausted s0)
  else do
    let va := t.spill + BitVec.ofNat 64 (128 * n)
    let l ← lift (access s va 8 .store .plainStore)
    let hdr := SMap.get 0 t.hdrs n
    let dropped := hdr.getLsbD 30
    let b := spanBytes t n
    let stub := leBytes 4 hdr.toNat ++ leBytes 4 (match segOf t (30 * n) with
      | some x => x.id.toNat
      | none => 0)
    let s ← if dropped then do
        let s ← s.placeBytes l.key stub
        s.placeBytes (l.key + 124) (leBytes 4 (crc32c stub))
      else (s.placeBytes l.key (b ++ leBytes 4 (SMap.get 0 t.crcs n).toNat)).map fun s => spillBad s t n l.key
    .ok ((s.touch va true (some 2)).setTape { t with resLo := n + 1, bad := t.bad.filter (· / 30 != n), stack := ⟨n, dropped⟩ :: t.stack })

/-- Evict until the resident spans fit the share. -/
def evictFor (s0 : State) (cap : Nat) : Nat → State → Res State
  | 0, s => .ok s
  | k + 1, s =>
    if spansAt s.g.tape.wpos - s.g.tape.resLo ≤ cap then .ok s
    else do
      let s ← evict s0 s
      evictFor s0 cap k s

/-- Write the words of a record from the write position, with the headers of the spans it begins and the CRCs of those it closes. -/
def tapeWrite (t : Tape) (ws : List Word) : Tape :=
  let step (x : Tape) (w : Word) : Tape :=
    let hdrs := if x.wpos % 30 = 0 then SMap.set 0 x.hdrs (x.wpos / 30) (spanHeader (x.wpos != t.wpos) t.cls1 (x.wpos / 30)) else x.hdrs
    let y := { x with words := SMap.set 0 x.words x.wpos w, hdrs := hdrs, wpos := x.wpos + 1, bad := x.bad.filter (· != x.wpos) }
    if y.wpos % 30 = 0 then { y with crcs := SMap.set 0 y.crcs (x.wpos / 30) (spanCrc y (x.wpos / 30)) } else y
  ws.foldl step t

/-- Append a record (R263, R265): `ws` without its descriptor is mask, bitmap and values; LEN and BACK are filled in. -/
def tapeAppend (s : State) (n : Nat) (mask : List Word) (rest : List Word) : Res State :=
  let t := s.g.tape
  let len := mask.length + 1 + rest.length
  let back := match t.top with
    | some p => t.wpos - p
    | none => 0
  let desc := BitVec.ofNat 32 ((n - 1) + len * 2 ^ 3 + back * 2 ^ 14 + (if t.marked then 2 ^ 25 else 0))
  let t1 := tapeWrite t (mask ++ [desc] ++ rest)
  evictFor s (s.gteam.tapesz / 128) (spansAt t1.wpos) (s.setTape { t1 with top := some t.wpos, marked := false })

/-- A span does not match its CRC (R267): TAPESTAT.CRC, the record of a CRC-32C mismatch (R461), and TAPE_CRC. -/
def crcMismatch (s : State) (key : Nat) : Stop :=
  .trapIn ((s.errRecord 6 9 s.gteam.core 0 key).setTape { s.g.tape with crcErr := true }) { code := .tapeCrc }
/-- Refill the span on top of the spill stack (R267). -/
def refill (s0 s : State) : Res State := do
  let t := s.g.tape
  match t.stack with
  | [] => .error (.trap { code := .bounds })
  | e :: rest =>
    let va := t.spill + BitVec.ofNat 64 (128 * e.span)
    let l ← lift (access s va 8 .load .scalarLoad)
    arrive s l va 128
    let b := leBytes 128 (s.seen l.key 128)
    require (crc32c (b.take 124) = fieldOf b 124 4) (crcMismatch s0 l.key)
    let words := SMap.setAll 0 t.words ((List.range 30).map (30 * e.span + ·)) fun w =>
      BitVec.ofNat 32 (fieldOf b (4 + 4 * (w - 30 * e.span)) 4)
    .ok ((s.touch va false (some 2)).setTape { t with
      words := words, hdrs := SMap.set 0 t.hdrs e.span (BitVec.ofNat 32 (fieldOf b 0 4))
      crcs := SMap.set 0 t.crcs e.span (BitVec.ofNat 32 (fieldOf b 124 4)), resLo := e.span, stack := rest })

/-- Refill until the span of a word is resident. -/
def refillTo (s0 : State) (w : Nat) : Nat → State → Res State
  | 0, s => .ok s
  | k + 1, s => if s.g.tape.resLo ≤ w / 30 then .ok s else do
      let s ← refill s0 s
      refillTo s0 w k s

/-- The top record is removed: the new top, the write position and the segments it leaves (R266, R267). A segment's entry stays until a
record before its start is popped, a closed segment that a pop reaches is open again, and the class of later spans stays as the last mark
set it: DEDUCED, unsafe: assumption 33. -/
def tapeDrop (t : Tape) (p : Nat) (desc : Word) : Tape :=
  let back := bitsOf desc.toNat 14 11
  { t with
    top := if back = 0 then none else some (p - back)
    wpos := p
    marked := desc.getLsbD 25
    segs := (t.segs.filter fun x => x.start ≤ p).map fun x => if p < x.stop then { x with isOpen := true } else x }

/-- A pop's top record lies in a segment with a dropped span (R267, R268). -/
def needsRecompute (t : Tape) (p : Nat) : Option TapeSeg :=
  (segOf t p).bind fun x => if t.stack.any fun e => e.dropped && x.start ≤ 30 * e.span && (x.isOpen || 30 * e.span < x.stop) then some x else none

/-- The event's first half (R268): the lane stream is held and the segment discarded, with the stubs of its spans. DEDUCED, unsafe: assumption 33. -/
def holdPop (s : State) (x : TapeSeg) : State :=
  let t := s.g.tape
  { s with
    g := { s.g with
      lane := { count := s.g.lane.count }
      tape := { t with
        top := x.prev, wpos := x.start, resLo := min t.resLo (x.start / 30)
        stack := t.stack.filter fun e => e.span < x.start / 30
        segs := t.segs.filter fun y => y.start ≤ x.start
        cls1 := false, marked := false, held := true, heldLane := s.g.lane } }
    engineQ := s.engineQ ++ [.recompute s.g.gid] }

/-- The event's second half (R268): `s1` and the resume PC are saved, and the handler starts; a region ends with it (R339). DEDUCED, unsafe: assumption 33. -/
def takeRecompute (s : State) : State :=
  let t := s.g.tape
  if !t.held || t.recomp then s
  else
    let id : Word := match t.segs.getLast? with
      | some x => x.id
      | none => 0
    let g := { s.g with
      lastTrap := 0x17
      tape := { t with recomp := true, savedS1 := SMap.get 0 s.g.sc.sreg 1, savedPc := s.g.sc.pc }
      sc := { s.g.sc with sreg := SMap.set 0 s.g.sc.sreg 1 (id.setWidth 64), pc := t.handler, bad := putBit s.g.sc.bad 1 false }
      sStall := none }
    { s with g := g.endRegion t.handler }

/-- The end of the handler (R269), after its drain: the segment's entry goes, RECOMP clears, `s1` and the PC return, the held
lane stream is released, and a region ends (R339). -/
def markRet (s : State) : Res State :=
  let t := s.g.tape
  if !t.recomp then .error (trapP .reservedField)
  else
    let g := { s.g with
      lane := { t.heldLane with count := s.g.lane.count }
      tape := { t with
        segs := t.segs.dropLast, recomp := false, held := false, heldLane := {}
        savedS1 := 0, savedPc := 0 }
      sc := { s.g.sc with sreg := SMap.set 0 s.g.sc.sreg 1 t.savedS1, pc := t.savedPc, bad := putBit s.g.sc.bad 1 false } }
    .ok { s with g := g.endRegion t.savedPc }

/-! ### The scalar instructions -/

/-- TAPE.OPEN (R264). -/
def execTapeOpen (a : SReg) (s : State) : Out :=
  finishS s (do
    ready s [] [a]
    drain s
    let va := s.rdS a
    recordCheck va 32
    let (b, u) ← recordAt s va 4
    let spill := fieldOf b 0 8
    require (!s.g.tape.opened && 256 ≤ s.gteam.tapesz && spill % 128 = 0 && fieldOf b 8 8 % 128 = 0 && fieldOf b 16 8 % 4 = 0 &&
      fieldOf b 24 8 = 0) (trapP .reservedField)
    .ok ((u.remClear).setTape { opened := true, spill := BitVec.ofNat 64 spill, spillSz := fieldOf b 8 8,
                                handler := BitVec.ofNat 64 (fieldOf b 16 8) }).next)

/-- TAPE.MARK of class 0 or 1 (R266). -/
def mark (s : State) (cls1 : Bool) (id : Word) : Res State :=
  let t := s.g.tape
  if t.recomp then .ok s
  else
    let w := 30 * spansAt t.wpos
    let pad := List.replicate (w - t.wpos) (0 : Word)
    let t1 := tapeWrite t pad
    let segs := t1.segs.map fun x => if x.isOpen then { x with isOpen := false, stop := w } else x
    if cls1 && 16 ≤ segs.length then .error (exhausted s)
    else .ok (s.setTape { t1 with cls1 := cls1, marked := true, segs := if cls1 then segs ++ [⟨w, id, true, w, t.top⟩] else segs })

/-- TAPE.MARK (R266, R269). -/
def execTapeMark (a : SReg) (s : State) : Out :=
  finishS s (do
    ready s [] [a]
    drain s
    let x := (s.rdS a).toNat
    require (s.g.tape.opened && bitsOf x 34 30 = 0 && bitsOf x 32 2 ≠ 3) (trapP .reservedField)
    if bitsOf x 32 2 = 2 then markRet s
    else do
      let t ← mark s (bitsOf x 32 2 = 1) (BitVec.ofNat 32 x)
      .ok t.next)

/-- TAPE.MARK of class 2 (R269). -/
def execTapeMarkRet (a : SReg) (s : State) : Out :=
  finishS s (do
    ready s [] [a]
    drain s
    let x := (s.rdS a).toNat
    require (s.g.tape.opened && bitsOf x 34 30 = 0 && bitsOf x 32 2 = 2) (trapP .reservedField)
    markRet s)

/-- TAPE.STAT (R270). -/
def execTapeStat (d : SReg) (s : State) : Out :=
  finishS s (do
    ready s [d] []
    .ok (s.wrS d (tapeStat s.g.tape)).next)

/-- TAPE.CLOSE (R270): it waits for the lane runs and for every write of the Binder in flight. -/
def execTapeClose (s : State) : Out :=
  finishS s (do
    drain s
    require s.fabDone (.stall .peer)
    .ok (s.setTape {}).next)

/-- RECOMPUTE (R268): taken by the scalar stream of a group whose pop is held. DEDUCED, unsafe: assumption 33. -/
def execRecompute (gid : Nat) (s : State) : Out := .next (onGroup s gid takeRecompute)

end Sys2Proof.Machine
end

