-- ==== Sys2Proof/Machine/ScalarSys.lean ====
section
/-!
DEFINITION. System registers (R49 to R55, R96, R97) and their access from both kinds of party.
-/
namespace Sys2Proof.Machine

/-- GSTAT (R50). -/
def gstat (g : Group) : DWord :=
  BitVec.ofNat 64 (g.lastTrap.toNat * 256 + (if g.parkMask = 0 then 0 else 4) + (if g.det then 2 else 0) +
    (if g.copyTrap then 1 else 0))

/-- YIELDREQ (R52). -/
def yieldReq (g : Group) : DWord := BitVec.ofNat 64 (g.deadline.toNat * 2 ^ 32 + (if g.yieldReq then 1 else 0))

/-- The registers that wait for the lane runs enqueued before (R55). -/
def drainsFirst (num : Nat) : Bool := num = 1 ∨ num = 0xC ∨ num = 3 ∨ num = 8

/-- A non-privileged register of the group in focus; `none` for an unassigned number (R49). -/
def groupReg (s : State) (num : Nat) : Option DWord :=
  let g := s.g
  let t := s.gteam
  match num with
  | 0x000 => some (BitVec.ofNat 64 Config.W)
  | 0x001 => some (g.em.setWidth 64)
  | 0x002 => some (gstat g)
  | 0x003 => some g.fpte
  | 0x004 => some g.haloWait
  | 0x005 => some (yieldReq g)
  | 0x006 => some (tapeStat g.tape)
  | 0x007 => some g.laneSel
  | 0x008 => some ((SMap.get 0 g.lstat g.laneSel.toNat).setWidth 64)
  | 0x009 => some g.perfctl
  | 0x00A => some g.pcnt0
  | 0x00B => some g.pcnt1
  | 0x00C => some 0
  | 0x010 => some (BitVec.ofNat 64 (gslotOf t g))
  | 0x011 => some (BitVec.ofNat 64 ((t.ngroups - 1) * 256 + t.k * 16 + g.gidx))
  | 0x012 => some (BitVec.ofNat 64 t.tx)
  | 0x013 => some (BitVec.ofNat 64 t.ty)
  | 0x014 => some (BitVec.ofNat 64 t.tz)
  | 0x015 => some (BitVec.ofNat 64 t.teamlin)
  | 0x018 => some (BitVec.ofNat 64 g.winsz)
  | 0x019 => some (BitVec.ofNat 64 g.predsz)
  | 0x01A => some (BitVec.ofNat 64 t.scrsz)
  | 0x01B => some g.lcb
  | 0x01C => some g.regcnt
  | 0x01D => some (BitVec.ofNat 64 s.clock)
  | _ => none

/-- A system register's value for the party that reads it (R49, R55, R102). -/
def sysRead (s : State) (num : Nat) : Res DWord :=
  match s.party with
  | .policy k =>
    if num = 0x01D then .ok (BitVec.ofNat 64 s.clock)
    else if 0x800 ≤ num then match privRead s k num with
      | some v => .ok v
      | none => .error reserved
    else .error reserved
  | .group =>
    if 0x800 ≤ num then .error (trapP .privilege)
    else match groupReg s num with
      | none => .error reserved
      | some v => if drainsFirst num && !s.g.drained then .error (.stall .drain) else .ok v

/-- The assignable bits of FPTE (R51). -/
def fpteMask : DWord := 0xF3F

/-- A write of PERFCTL (R54, R96): a reserved event code is refused; CLR clears both counters. -/
def writePerfctl (g : Group) (v : DWord) : Option Group :=
  if v.getLsbD 7 || v.getLsbD 3 then none
  else
    let g := { g with perfctl := keep v 0 9 }
    some (if v.getLsbD 9 then { g with pcnt0 := 0, pcnt1 := 0 } else g)

/-- A write of a non-privileged register by the group in focus (R49, R96). -/
def groupWrite (s : State) (num : Nat) (v : DWord) : Res State :=
  let g := s.g
  let put (x : Group) : Res State := .ok { s with g := x }
  match num with
  | 0x001 => put { g with em := v.setWidth 32 }
  | 0x002 => if v &&& 0xFFFFFFFFFFFF00F8 = 0 then put { g with copyTrap := v.getLsbD 0 } else .error reserved
  | 0x003 => if v &&& ~~~fpteMask = 0 then put { g with fpte := v } else .error reserved
  | 0x004 => put { g with haloWait := keep v 0 32 }
  | 0x007 => if v.toNat < Config.W then put { g with laneSel := v } else .error reserved
  | 0x008 => put { g with lstat := SMap.set 0 g.lstat g.laneSel.toNat (v.setWidth 32 &&& 0xF3F) }
  | 0x009 => match writePerfctl g v with
    | some x => put x
    | none => .error reserved
  | 0x00A => put { g with pcnt0 := v }
  | 0x00B => put { g with pcnt1 := v }
  | n => match groupReg s n with
    | some _ => .ok s
    | none => .error reserved

/-- SGET (R96). -/
def execSget (d : SReg) (num : BitVec 12) (s : State) : Out :=
  finishS s (do
    ready s [d] []
    let v ← sysRead s num.toNat
    .ok (s.wrS d v).next)

/-- A condition view (R97): the register and the bit it copies. -/
def viewOf : Nat → Option (Nat × Nat)
  | 0x020 => some (0x005, 0) | 0x021 => some (0x002, 2) | 0x022 => some (0x002, 1) | 0x023 => some (0x006, 0)
  | 0x024 => some (0x006, 1)
  | _ => none

/-- SGET of a condition view (R97). -/
def execSgetView (k : CReg) (num : BitVec 12) (s : State) : Out :=
  finishS s (match viewOf num.toNat with
    | none => .error reserved
    | some (r, b) => do
      let v ← sysRead s r
      .ok (s.wrC k (v.getLsbD b)).next)

/-- SSET (R96). A write that starts the device again leaves nothing to step past (R469). -/
def execSset (num : BitVec 12) (a : SReg) (s : State) : Out :=
  finishS s (do
    ready s [] [a]
    let v := s.rdS a
    let n := num.toNat
    match s.party with
    | .policy k =>
      if n = 0x01D then .ok s.next
      else if 0x800 ≤ n then do
        let t ← privWrite s k n v
        .ok (if n = 0x862 ∧ v.getLsbD 0 ∧ !warming s then t else t.next)
      else .error reserved
    | .group =>
      if 0x800 ≤ n then .error (trapP .privilege)
      else if (viewOf n).isSome then .error reserved
      else if drainsFirst n && !s.g.drained then .error (.stall .drain)
      else do
        let t ← groupWrite s n v
        .ok t.next)

/-- A write of PERFCTL by the group's scalar stream with CLR in effect (R96); a policy core has no such register (R102). -/
def execPerfctlClear (v : DWord) (s : State) : Out :=
  finishS s (do
    require (s.party == .group) reserved
    match writePerfctl s.g v with
    | some x => .ok { s with g := x }.next
    | none => .error reserved)

end Sys2Proof.Machine
end

