-- ==== Sys2Proof/Machine/Save.lean ====
section
/-!
DEFINITION. Saving and restoring a team (R375 to R380, R402, R476): how its groups are settled, the image in its save area, and its
return. What the image does not lay out byte for byte is kept beside it (DESIGN CHOICE, unsafe: assumption 11).
-/
namespace Sys2Proof.Machine

/-! ### Settling a group (R375, R402) -/

/-- Vectors that have been fetched and not popped are dropped (R180). -/
def dropFetched (s : State) : State :=
  { s with g := { s.g with streams := s.g.streams.map fun y => (y.1, { y.2 with loadQ := [] }) } }

/-- A stopped group's record is withdrawn: WDRAWN is set, and a DONE on it is ignored (R402). -/
def withdraw (s : State) (d seq : Nat) : State :=
  let dm := s.dom d
  let s := s.setDom d { dm with gfLive := dm.gfLive.map fun r => if r.seq == seq then { r with withdrawn := true } else r }
  s.putRecord d (gfSlot s d seq + 15) [1]

/-- The group in focus as it is saved: its waits given up, a fault undone (R375, R402). DESIGN CHOICE, safe: assumption 63. -/
def settle (s0 : State) : State :=
  let s := (match s0.g.phase with
    | .stopping t lane => stopGroup s0 lane t
    | _ => s0).abandon
  let s := match s.g.phase with
    | .stopped seq t _ =>
      let s := match seq with
        | some n => withdraw s s.gdom n
        | none => s
      let g := if t.kind = .restart then s.g.restart else s.g
      { s with g := g.goOn }
    | _ => s
  dropFetched s

/-! ### The save area (R376) -/

def up64 (n : Nat) : Nat := (n + 63) / 64 * 64

/-- Sizes of the sections, in their order. -/
def sectionSizes (s : State) (t : Team) (n p : Nat) : List Nat :=
  let g := t.ngroups
  let ch := (s.cluster t.cluster).chans.filter fun x => x.cons == t.k
  [4096 * g, 4 * Config.W * n * g, up64 (p * 4) * g, 1024 * g, 3072 * g, t.tapesz * g, t.scrsz,
   if (s.core t.core).tiles.any fun y => y.owner == t.tid then 114688 else 0, (ch.map fun x => 64 + 8 * x.depth).sum]

/-- Their offsets, each aligned to 64: 0 for an empty section. -/
def sectionOffs : Nat → List Nat → List Nat
  | _, [] => []
  | at_, n :: ns => (if n = 0 then 0 else up64 at_) :: sectionOffs (up64 at_ + n) ns
/-- The bytes of an area: where its last section ends. -/
def areaBytes (sizes : List Nat) : Nat := sizes.foldl (fun a n => if n = 0 then a else up64 a + n) 0

/-- A range of an area before a save fills it: zero, and without poison. -/
def State.clearArea (s : State) (a n : Nat) : State :=
  { s with mem := Memory.clear s.mem a (a + n), poison := s.poison.filter fun x => !(a ≤ x && x < a + n) }

/-- Write fields given as (offset, bytes, value). -/
def State.fields (s : State) (base : Nat) (fs : List (Nat × Nat × Nat)) : State :=
  fs.foldl (fun s f => s.write (base + f.1) f.2.1 f.2.2) s

/-- A descriptor's 64-byte record with its position, port and marks (R176, R376). -/
def streamRecord (x : Stream) : List (Nat × Nat × Nat) :=
  if !x.defined then []
  else
    [(0, 8, x.base.toNat),
     (8, 1, (if x.store then 1 else 0) + (if x.esz then 2 else 0) + (x.ndim - 1) * 4 + (if x.fresh then 16 else 0)),
     (9, 6, x.pos), (15, 1, (x.port.getD 0) + (if x.port.isSome then 16 else 0) + 32)] ++
    (x.counts.zipIdx.map fun c => (16 + 4 * c.2, 4, c.1)) ++ (x.strides.zipIdx.map fun k => (32 + 8 * k.2, 8, ofInt 64 k.1))

/-- One pending fixed-latency result (R377, HAZL): its distance is counted from the next position (R386). DEDUCED, unsafe: assumption 40. -/
def hazlEntry (p : Pending) : Nat := p.first + p.count * 2 ^ 12 + p.pred * 2 ^ 22 + (p.dist - 1) * 2 ^ 29

/-- The 8-byte fields of SYSR. -/
def sysrOf (g : Group) : List DWord :=
  [g.fpte, g.haloWait, g.laneSel, g.perfctl, g.pcnt0, g.pcnt1, gstat g, 0]

/-- A group's header (R377) without the team record. -/
def headerFields (g : Group) : List (Nat × Nat × Nat) :=
  let flags := (if g.triggered then 1 else 0) + (if g.lane.active.isSome then 2 else 0) +
    (match g.phase with
      | .suspended .. => 4
      | _ => 0) + (if g.tape.held then 8 else 0)
  let light := if g.leave == .light then 2 ^ 16 else 0
  let frames := g.lane.frames.reverse
  let t := g.tape
  [(0, 4, 1 + light + (if g.gidx = 0 then 2 ^ 17 else 0)), (4, 4, 1), (8, 8, g.sc.pc.toNat), (16, 8, g.regcnt.toNat),
   (24, 8, g.region.pc.toNat), (32, 1, g.gidx), (33, 1, g.sc.cond.toNat), (34, 1, flags), (35, 1, g.lane.queue.length),
   (36, 4, (g.lane.active.map (·.lpc)).getD 0)] ++
  (g.lane.queue.zipIdx.map fun r => (40 + 4 * r.2, 4, r.1.lpc)) ++
  ((List.range 3).map fun i => (72 + 4 * i, 4, (SMap.get 0 g.lane.lc i).toNat)) ++ [(84, 1, frames.length)] ++
  ((frames.zipIdx.map fun f => [(88 + 16 * f.2, 4, f.1.start), (92 + 16 * f.2, 4, f.1.stop),
    (96 + 16 * f.2, 1, if f.1.isW then 1 else 0), (97 + 16 * f.2, 1, f.1.pa.toNat)]).flatten) ++
  [(136, 16, g.em.toNat), (152, 16, g.parkMask.toNat), (168, 16, g.killMask.toNat), (184, 8, g.sc.tok.toNat)] ++
  (g.sc.sreg.map fun x => (192 + 8 * x.1, 8, x.2.toNat)) ++ ((sysrOf g).zipIdx.map fun x => (704 + 8 * x.2, 8, x.1.toNat)) ++
  (g.grids.map fun x => (768 + 8 * x.1, 8, x.2.desc.toNat)) ++
  [(896, 8, t.spill.toNat), (904, 8, t.spillSz), (912, 8, t.handler.toNat), (928, 8, t.top.getD 0), (936, 8, t.stack.length),
   (944, 8, t.savedS1.toNat), (952, 8, t.savedPc.toNat)] ++
  ((t.segs.zipIdx.map fun x => [(960 + 16 * x.2, 8, x.1.start), (968 + 16 * x.2, 4, x.1.id.toNat),
    (972 + 16 * x.2, 4, if x.1.isOpen then 1 else 0)]).flatten) ++
  [(1216, 288, g.haz.var.foldl (fun m p =>
      m ||| ((2 ^ p.count - 1) * 2 ^ p.first) ||| (if p.pred = 0 then 0 else 2 ^ (2048 + p.pred))) 0)] ++
  (((g.haz.fixed.filter fun p => decide (1 < p.dist)).take 70).zipIdx.map fun x => (1504 + 8 * x.2, 8, hazlEntry x.1)) ++
  (match g.replay with
    | none => [(2072, 8, g.frozen.toNat)]
    | some r => [(2064, 8, r.sess.toNat), (2072, 8, r.g.toNat), (2080, 8, r.idx)])

/-- The team record (R476). -/
def teamFields (s : State) (t : Team) (n p : Nat) (offs : List Nat) : List (Nat × Nat × Nat) :=
  let c := s.cluster t.cluster
  (offs.zipIdx.map fun o => (2560 + 8 * o.2, 8, o.1)) ++
  [(2632, 2, n), (2634, 1, p), (2635, 1, t.ngroups), (2636, 1, Config.W), (2637, 1, t.k), (2638, 1, t.q0), (2640, 4, t.scrsz),
   (2644, 4, t.tapesz), (2648, 4, t.teamlin), (2652, 4, t.launch)] ++
  ((t.watches.zipIdx.map fun w => [(2656 + 16 * w.2, 8, w.1.1.toNat), (2664 + 16 * w.2, 8, w.1.2.toNat)]).flatten) ++
  ((List.range 16).map fun b =>
    let a := SMap.get [] c.arrived b
    (2784 + 8 * b, 8, (SMap.get 0 c.phase b).toNat +
      2 ^ 32 * (((List.range 16).filter fun i => a.contains (cluKey t.k i)).map fun i => 2 ^ i).sum))

/-- The first lane index of the outermost loop's body. -/
def loopStart (fs : List Frame) : Nat := (fs.getLast?.map (·.start)).getD 0
/-- The words of a loop buffer in the order of its body. -/
def loopFields (g : Group) : List (Nat × Nat × Nat) :=
  g.lane.loopBuf.map fun x => (12 * (x.1 - loopStart g.lane.frames), 12, x.2.toNat)

/-- The share image: each resident span in its place, with its CRC. -/
def tapeFields (g : Group) (size : Nat) : List (Nat × Nat × Nat) :=
  let t := g.tape
  if !t.opened || size < 128 then []
  else ((List.range (spansAt t.wpos - t.resLo)).map fun i =>
    let n := t.resLo + i
    (128 * (n % (size / 128)), 128, ofBytes (spanBytes t n ++ leBytes 4 (SMap.get 0 t.crcs n).toNat)))

/-- Write one group's sections. -/
def saveGroup (s : State) (area : Nat) (offs : List Nat) (size : Nat) (g : Group) : State :=
  let i := g.gidx
  let o (k : Nat) : Nat := area + offs.getD k 0
  let s := [(area + 4096 * i, 4096), (o 1 + 4 * Config.W * g.winsz * i, 4 * Config.W * g.winsz),
      (o 2 + up64 (g.predsz * 4) * i, up64 (g.predsz * 4)), (o 3 + 1024 * i, 1024), (o 4 + 3072 * i, 3072),
      (o 5 + size * i, size)].foldl (fun s r => s.clearArea r.1 r.2) s
  let s := s.fields (area + 4096 * i) (headerFields g)
  let s := s.fields (o 1 + 4 * Config.W * g.winsz * i) (g.vreg.map fun x => (4 * x.1, 4, x.2.toNat))
  let s := s.fields (o 2 + up64 (g.predsz * 4) * i) ((0, 4, 2 ^ 32 - 1) :: g.preds.map fun x => (4 * x.1, 4, x.2.toNat))
  let s := s.fields (o 3 + 1024 * i) ((g.streams.map fun x => (streamRecord x.2).map fun f => (64 * x.1 + f.1, f.2)).flatten)
  let s := if g.leave == .light then s else s.fields (o 4 + 3072 * i) (loopFields g)
  s.fields (o 5 + size * i) (tapeFields g size)

/-- The marks of the words into which a poisoned word's bytes go (R460). -/
def movedMarks (src dst p : Nat) : List Nat :=
  ((List.range (poisonUnit p)).map fun i => poisonKey (p + i - src + dst)).eraseDups
/-- A range of memory moved to another, poison with it, and the source left zero. -/
def moveBytes (s : State) (src dst n : Nat) : State :=
  let inside (a : Nat) : Bool := src ≤ a && a < src + n
  let cells := s.mem.filter fun c => inside c.1
  let bad := s.poison.filter fun p => inside p
  { s with
    mem := cells.foldl (fun m c => Memory.setByte m (c.1 - src + dst) c.2) (Memory.clear (Memory.clear s.mem src (src + n)) dst (dst + n))
    poison := (s.poison.filter fun p => !inside p) ++ (bad.map (movedMarks src dst)).flatten.eraseDups }

/-- A range of memory copied to another, poison with it. -/
def copyBytes (s : State) (src dst n : Nat) : State :=
  let inside (a : Nat) : Bool := src ≤ a && a < src + n
  { s with
    mem := (s.mem.filter fun c => inside c.1).foldl (fun m c => Memory.setByte m (c.1 - src + dst) c.2) (Memory.clear s.mem dst (dst + n))
    poison := s.poison.filter (fun p => !(dst ≤ p && p < dst + n)) ++
      ((s.poison.filter inside).map (movedMarks src dst)).flatten.eraseDups }

/-- The channel section: head 0, count, messages. -/
def chanFields (s : State) (t : Team) : List (Nat × Nat × Nat) :=
  (((s.cluster t.cluster).chans.filter fun x => x.cons == t.k).foldl (fun (a : Nat × List (Nat × Nat × Nat)) x =>
    (a.1 + 64 + 8 * x.depth,
     a.2 ++ (a.1 + 8, 8, x.msgs.length) :: x.msgs.zipIdx.map fun m => (a.1 + 64 + 8 * m.2, 8, m.1.toNat))) (0, [])).2

/-! ### The save -/

/-- The resident groups of a team. -/
def teamGroups (s : State) (tid : Nat) : List Group := s.groups.filter fun g => g.team == tid

/-- The geometry of a team's area: its groups' window and predicates, the sections' sizes and offsets. -/
def geometry (s : State) (t : Team) : Nat × Nat × List Nat × List Nat :=
  let gs := teamGroups s t.tid
  let n := (gs.head?.map (·.winsz)).getD 64
  let p := (gs.head?.map (·.predsz)).getD 16
  let sizes := sectionSizes s t n p
  (n, p, sizes, sectionOffs 0 sizes)

/-- STATE becomes 2 in a group's header and in that of group 0 (R378). -/
def completeLight (s : State) (area gidx : Nat) : State := (s.write (area + 4096 * gidx + 4) 4 2).write (area + 4) 4 2
/-- The area that firmware has chosen for a team's yield. -/
def yieldArea (s : State) (t : Team) : Option Nat := ((s.cluster t.cluster).areas.lookup t.k).filter fun a => a % 4096 == 0
/-- The team section of an area, in group 0's header; a group 0 that has been saved before keeps its FMT (R374, R476). -/
def saveTeamRecord (s : State) (area : Nat) (t : Team) : State :=
  let (n, p, _, offs) := geometry s t
  let zero := (teamGroups s t.tid).any fun g => g.gidx == 0 && g.leave == .light
  s.fields area ((if zero then [] else [(0, 4, 0x20001)]) ++ (4, 4, 1) :: teamFields s t n p offs)

/-- The light save of the group in focus, after its drain (R212, R374): its sections go to the gang's area, with the team section. Its streams'
unpopped contents go, and the lane stream is empty. While the request stands it leaves; with the request withdrawn its save is
complete, and it goes on at once in its slot. -/
def lightSave (s : State) : State :=
  let s := dropFetched { s with g := { s.g with leave := .light } }
  let t := s.gteam
  let s := match yieldArea s t with
    | some a =>
      let u := saveTeamRecord (saveGroup s a (geometry s t).2.2.2 t.tapesz s.g) a t
      if u.g.yieldReq then u else completeLight u a u.g.gidx
    | none => s
  if s.g.yieldReq then s
  else
    s.g.refills.foldl State.post { s with g := { s.g with leave := .stay } }

/-- The free bytes of a tile section, whose form R376 gives to no reader. DESIGN CHOICE, unsafe: assumption 11. -/
def tileBytes (s : State) : List Byte := (List.range 114688).map fun i => (Config.freeWord (s.fresh + i)).setWidth 8

/-- What a group takes back beside its image. DESIGN CHOICE, unsafe: assumption 11. -/
def keptGroup (g : Group) : Group := { g with leave := .stay, yieldReq := false, deadline := 0, live := false }

/-- The scratch of a team goes to its section, and the partition is free (R378). -/
def saveScratch (s : State) (area tid n : Nat) (offs : List Nat) : State :=
  if n = 0 then s else moveBytes s (scratchKey tid 0) (area + offs.getD 6 0) n

/-- The last write of a save has landed: STATE is 2 in every header that the save has written (R378). -/
def completeSave (s : State) (x : SavedTeam) : State :=
  let s := (0 :: x.groups.map (·.gidx)).foldl (fun s i => s.write (x.area + 4096 * i + 4) 4 2) s
  { s with saved := s.saved.map fun (y : SavedTeam) => if y.area == x.area then { y with complete := true, holds := none } else y }

/-- The words of a group's window that a GLD or a TAPE.POP writes and that no marker has covered. DESIGN CHOICE, safe: assumption 63. -/
def lateKeys (g : Group) : List Nat :=
  ((g.haz.var.filter (·.late)).map fun p => ((List.range p.count).map fun i => (List.range 32).map fun l => 32 * (p.first + i) + l).flatten).flatten
/-- The groups whose latest such results have still to be delivered when the image is written: of those that have any, as many as the core's
remap table takes; which, is free (R379). DESIGN CHOICE, safe: assumption 63. -/
def lateGroups (s : State) (core : Nat) (gs : List Group) : List Group :=
  ((gs.zipIdx.filter fun x => !(lateKeys x.1).isEmpty && (Config.freeWord (s.fresh + x.2)).getLsbD 0).map (·.1)).take
    (16 - (s.core core).remap.length)

/-- Save a team whose groups have settled into an area (R376 to R379): the image, and the team's core freed. DESIGN CHOICE, unsafe: assumption 11. -/
def saveTeam (s : State) (area tid : Nat) : State :=
  let t := s.team tid
  let s := freeCore s t.core
  let gs := teamGroups s tid
  let (n, p, sizes, offs) := geometry s t
  let s := s.clearArea area (areaBytes sizes)
  let s := s.fields area [(0, 4, 0x20001), (4, 4, 1)]
  let late := lateGroups s t.core gs
  let s := { s with fresh := s.fresh + gs.length }
  let shown (g : Group) : Group :=
    if late.any (·.gid == g.gid) then { g with vreg := g.vreg.filter fun x => !(lateKeys g).contains x.1 } else g
  let s := gs.foldl (fun s g => saveGroup s area offs t.tapesz (shown g)) s
  let s := s.fields area (teamFields s t n p offs)
  let s := if sizes.getD 7 0 = 0 then s
    else { s.writeBytes (area + offs.getD 7 0) (tileBytes s) with fresh := s.fresh + 114688 }
  let s := s.fields (area + offs.getD 8 0) (chanFields s t)
  let hold := t.scrsz ≠ 0 && scratchBusy s tid
  let s := if hold then s else saveScratch s area tid t.scrsz offs
  let x := s.core t.core
  let gids := gs.map (·.gid)
  let busy := hold || s.jobs.any (fun j => gids.contains j.gid) || !late.isEmpty
  let kept : SavedTeam :=
    { area := area, tid := tid, cid := t.cluster, groups := gs.map keptGroup
      tiles := x.tiles.filter fun y => y.owner == tid, lastWidth := x.lastWidth
      holds := if hold then some (t.core, offs.getD 6 0) else none
      late := (late.map fun g => (lateKeys g).map fun k => (g.gidx, k)).flatten, complete := false }
  let s := s.setCore t.core { x with
    tiles := x.tiles.filter fun y => y.owner != tid, held := if hold then x.held + t.scrsz else x.held
    remap := x.remap ++ late.map fun g => (g.gid, area) }
  let s := s.setTeam { t with resident := false }
  let s := { s with
    saved := kept :: s.saved.filter fun y => y.area != area
    g := if gids.contains s.g.gid && s.g.live then {} else s.g
    others := s.others.filter fun g => !gids.contains g.gid
    jobs := s.jobs.map fun (j : Job) => match gs.find? fun (g : Group) => g.gid == j.gid with
      | some g => { j with area := some (area, g.gidx) }
      | none => j }
  if busy then s.post (.saveComplete area) else completeSave s kept

/-- The results that were late are written into the saved windows, and the remap entries go (R379). -/
def deliverLate (s : State) (x : SavedTeam) : State :=
  let o1 := x.area + s.read (x.area + 2568) 8
  let s := x.late.foldl (fun s (e : Nat × Nat) => match x.groups.find? fun g => g.gidx == e.1 with
    | some g => s.write (o1 + 4 * Config.W * g.winsz * g.gidx + 4 * e.2) 4 (SMap.get 0 g.vreg e.2).toNat
    | none => s) s
  let c := (s.team x.tid).core
  let k := s.core c
  { s.setCore c { k with remap := k.remap.filter fun e => e.2 != x.area } with
    saved := s.saved.map fun (y : SavedTeam) => if y.area == x.area then { y with late := [] } else y }

/-- The held scratch partition is written and released once no engine writes into it (R379). -/
def releaseHold (s : State) (x : SavedTeam) : State :=
  match x.holds with
  | none => s
  | some (c, off) =>
    if scratchBusy s x.tid then s
    else
      let n := (s.team x.tid).scrsz
      let s := moveBytes s (scratchKey x.tid 0) (x.area + off) n
      let s := s.setCore c { s.core c with held := (s.core c).held - n }
      { s with saved := s.saved.map fun (y : SavedTeam) => if y.area == x.area then { y with holds := none } else y }

def savedAt (s : State) (area : Nat) : Option SavedTeam := s.saved.find? fun x => x.area == area
/-- Nothing of the save is outstanding. -/
def savedWhole (s : State) (x : SavedTeam) : Bool :=
  x.holds.isNone && x.late.isEmpty && !s.jobs.any fun j => (j.area.map (·.1)) == some x.area

/-- SAVE_COMPLETE (R378, R379): the late results and the scratch that had to wait are written; with the last of them STATE is 2. -/
def execSaveComplete (area : Nat) (s : State) : Out :=
  .next (match savedAt s area with
    | none => s
    | some x =>
      if x.complete then s
      else
        let s := deliverLate s x
        let s := match savedAt s area with
          | some x => releaseHold s x
          | none => s
        match savedAt s area with
        | none => s
        | some x =>
          if savedWhole s x then completeSave s x
          else if x.holds.isSome then s.post (.saveComplete area)
          else s)

/-! ### The restore -/

/-- A stream's descriptor as its record holds it. -/
def streamAt (s : State) (a : Nat) : Stream :=
  let b := Memory.bytes s.mem a 64
  let ctrl := fieldOf b 8 1
  let mark := fieldOf b 15 1
  let nd := bitsOf ctrl 2 2 + 1
  if bitsOf mark 5 1 = 0 then {}
  else
    { defined := true, base := BitVec.ofNat 64 (fieldOf b 0 8), store := bitsOf ctrl 0 1 == 1, esz := bitsOf ctrl 1 1 == 1
      fresh := bitsOf ctrl 4 1 == 1, ndim := nd, counts := (List.range nd).map fun i => fieldOf b (16 + 4 * i) 4
      strides := (List.range nd).map fun i => toSigned 64 (fieldOf b (32 + 8 * i) 8), pos := fieldOf b 9 6
      port := if bitsOf mark 4 1 = 1 then some (bitsOf mark 0 4) else none }

/-- The hazard state of a header (R72, R377): the destinations of HAZV, one pending result each, and the entries of HAZL. What the header
does not say of an entry, that a matrix instruction made it, is that of the kept entry. DEDUCED, unsafe: assumption 40. -/
def hazardAt (s : State) (h : Nat) (kept : Hazard) : Hazard :=
  let v := s.read (h + 1216) 288
  let mx (d : Nat) : Bool := kept.var.any fun p => p.mx && p.first ≤ d && d < p.first + p.count
  let regs := ((List.range 2048).filter fun i => bitsOf v i 1 = 1).map fun i =>
    ({ first := i, count := 1, pred := 0, dist := 0, mx := mx i } : Pending)
  let prs := ((List.range 128).filter fun i => bitsOf v (2048 + i) 1 = 1).map fun i =>
    ({ first := 0, count := 0, pred := i, dist := 0 } : Pending)
  let old := (kept.fixed.filter fun p => decide (1 < p.dist)).take 70
  let fixed := (List.range 70).filterMap fun i =>
    let e := s.read (h + 1504 + 8 * i) 8
    if e = 0 then none
    else
      let p : Pending := { first := bitsOf e 0 12, count := bitsOf e 12 10, pred := bitsOf e 22 7, dist := bitsOf e 29 7 + 1 }
      some (match old[i]? with
        | some q => if q.first = p.first ∧ q.count = p.count ∧ q.pred = p.pred then { p with mx := q.mx } else p
        | none => p)
  { fixed := fixed, var := regs ++ prs }

/-- The share's resident spans, with what the header says of the tape (R376, R377). -/
def tapeAt (s : State) (h share size : Nat) (kept : Tape) : Tape :=
  if !kept.opened then kept
  else
    let rd (o n : Nat) : Nat := s.read (h + o) n
    let spans := (List.range (spansAt kept.wpos - kept.resLo)).map (kept.resLo + ·)
    let word (n i : Nat) : Nat := s.read (share + 128 * (n % (size / 128)) + 4 * i) 4
    { kept with
      spill := BitVec.ofNat 64 (rd 896 8), spillSz := rd 904 8, handler := BitVec.ofNat 64 (rd 912 8), top := kept.top.map fun _ => rd 928 8
      savedS1 := BitVec.ofNat 64 (rd 944 8), savedPc := BitVec.ofNat 64 (rd 952 8)
      hdrs := spans.foldl (fun m n => SMap.set 0 m n (BitVec.ofNat 32 (word n 0))) kept.hdrs
      crcs := spans.foldl (fun m n => SMap.set 0 m n (BitVec.ofNat 32 (word n 31))) kept.crcs
      words := spans.foldl (fun m n => (List.range 30).foldl (fun m i => SMap.set 0 m (30 * n + i) (BitVec.ofNat 32 (word n (i + 1)))) m)
        kept.words
      bad := (kept.bad ++ ((spans.map fun n => ((List.range 30).filter fun i =>
        poisoned s (share + 128 * (n % (size / 128)) + 4 * (i + 1)) 4).map (30 * n + ·)).flatten)).eraseDups
      segs := kept.segs.zipIdx.map fun x => { x.1 with
        start := rd (960 + 16 * x.2) 8, id := BitVec.ofNat 32 (rd (968 + 16 * x.2) 4), isOpen := rd (972 + 16 * x.2) 4 == 1 } }

/-- A run as a restored group takes it: its registers are those of the scalar stream but for what has been written since its RUN (R42,
R375). -/
def runAt (lpc : Nat) (sreg old : SMap DWord) (kept : Option Run) : Run :=
  match kept with
  | none => { lpc := lpc, snap := sreg }
  | some r => { r with
    lpc := lpc
    snap := (List.range 63).foldl (fun m i =>
      let k := i + 1
      SMap.set 0 m k (if SMap.get 0 r.snap k = SMap.get 0 old k then SMap.get 0 sreg k else SMap.get 0 r.snap k)) ([] : SMap DWord) }

/-- A group as its image and what was kept give it (R377, R380). DESIGN CHOICE, unsafe: assumption 11. -/
def restoreGroup (s : State) (area slot : Nat) (offs : List Nat) (t : Team) (g : Group) : Group :=
  let h := area + 4096 * g.gidx
  let rd (off n : Nat) : Nat := s.read (h + off) n
  let o (k : Nat) : Nat := area + offs.getD k 0
  let sreg := (List.range 63).foldl (fun m i => SMap.set 0 m (i + 1) (BitVec.ofNat 64 (rd (192 + 8 * (i + 1)) 8))) ([] : SMap DWord)
  let frames := ((List.range (rd 84 1)).map fun i =>
    (⟨rd (88 + 16 * i) 4, rd (92 + 16 * i) 4, rd (96 + 16 * i) 1 == 1, BitVec.ofNat 7 (rd (97 + 16 * i) 1)⟩ : Frame)).reverse
  let lane : LaneCtx :=
    { active := if bitsOf (rd 34 1) 1 1 = 1 then some (runAt (rd 36 4) sreg g.sc.sreg g.lane.active) else none
      queue := (List.range (rd 35 1)).map fun i => runAt (rd (40 + 4 * i) 4) sreg g.sc.sreg g.lane.queue[i]?
      count := g.lane.count
      frames := frames
      lc := (List.range 3).foldl (fun m i => SMap.set 0 m i (BitVec.ofNat 32 (rd (72 + 4 * i) 4))) []
      loopBuf := g.lane.loopBuf.map fun x =>
        (x.1, BitVec.ofNat 96 (s.read (o 4 + 3072 * g.gidx + 12 * (x.1 - loopStart frames)) 12)) }
  let sysr (i : Nat) : DWord := BitVec.ofNat 64 (rd (704 + 8 * i) 8)
  let win := o 1 + 4 * Config.W * g.winsz * g.gidx
  let bad (a n : Nat) : Bool := !s.poison.isEmpty && poisoned s a n
  let pre := o 2 + up64 (g.predsz * 4) * g.gidx
  { g with
    slot := slot, live := true, phase := (match g.phase with
      | .suspended .. => g.phase
      | _ => if t.committed && t.filled then .running else .placed)
    sc := { pc := BitVec.ofNat 64 (rd 8 8), sreg := sreg, cond := BitVec.ofNat 8 (rd 33 1), tok := BitVec.ofNat 64 (rd 184 8)
            bad := (List.range 63).foldl (fun m i => if bad (h + 192 + 8 * (i + 1)) 8 then putBit m (i + 1) true else m) g.sc.bad }
    badV := (g.badV ++ (List.range (Config.W * g.winsz)).filter fun i => bad (win + 4 * i) 4).eraseDups
    regcnt := BitVec.ofNat 64 (rd 16 8)
    region := { g.region with pc := BitVec.ofNat 64 (rd 24 8) }
    triggered := bitsOf (rd 34 1) 0 1 == 1
    lane := lane
    em := BitVec.ofNat 32 (rd 136 4), parkMask := BitVec.ofNat 32 (rd 152 4), killMask := BitVec.ofNat 32 (rd 168 4)
    fpte := sysr 0, haloWait := sysr 1, laneSel := sysr 2, perfctl := sysr 3, pcnt0 := sysr 4, pcnt1 := sysr 5
    lastTrap := (sysr 6).extractLsb' 8 8, copyTrap := (sysr 6).getLsbD 0
    yieldReq := (sysr 7).getLsbD 0, deadline := (sysr 7).extractLsb' 32 32
    haz := hazardAt s h g.haz
    streams := (List.range 16).foldl (fun m k => SMap.set {} m k (streamAt s (o 3 + 1024 * g.gidx + 64 * k))) []
    grids := g.grids.map fun x => (x.1, { x.2 with desc := BitVec.ofNat 64 (rd (768 + 8 * x.1) 8) })
    tape := tapeAt s h (o 5 + t.tapesz * g.gidx) t.tapesz g.tape
    frozen := if g.replay.isSome then g.frozen else BitVec.ofNat 32 (rd 2072 4)
    replay := g.replay.map fun r => { r with
      sess := BitVec.ofNat 64 (rd 2064 8), g := BitVec.ofNat 32 (rd 2072 4), idx := rd 2080 8 }
    vreg := (List.range (Config.W * g.winsz)).foldl (fun m i => SMap.set 0 m i (BitVec.ofNat 32 (s.read (win + 4 * i) 4))) []
    preds := (List.range (g.predsz - 1)).foldl (fun m i =>
      SMap.set 0 m (i + 1) (BitVec.ofNat 32 (s.read (pre + 4 * (i + 1)) 4))) [] }

/-- The team's record of an area (R476): the team, and what its save has kept of it. An area may have been moved since. DESIGN CHOICE, unsafe: assumption 11. -/
def teamAt (s : State) (area : Nat) : Option (Team × SavedTeam) :=
  let rd (off n : Nat) : Nat := s.read (area + off) n
  match s.saved.find? fun x =>
    let t := s.team x.tid
    t.teamlin == rd 2648 4 && t.launch == rd 2652 4 with
  | none => none
  | some x =>
    let t := s.team x.tid
    let watch (i : Nat) : Nat × Nat := (rd (2656 + 16 * i) 8, rd (2664 + 16 * i) 8)
    if rd 0 4 % 2 ^ 16 = 1 ∧ bitsOf (rd 0 4) 17 1 = 1 then
      some ({ t with
        ngroups := rd 2635 1, k := rd 2637 1, q0 := rd 2638 1, scrsz := rd 2640 4, tapesz := rd 2644 4
        watches := (((List.range 8).map watch).filter fun w => w != (0, 0)).map fun w => (BitVec.ofNat 64 w.1, BitVec.ofNat 64 w.2) }, x)
    else none

/-- The cluster's barriers as a team's record gives them (R476). -/
def barriersAt (s : State) (area : Nat) (t : Team) (c : Cluster) : Cluster :=
  (List.range 16).foldl (fun c b =>
    let v := s.read (area + 2784 + 8 * b) 8
    let mine := ((List.range 16).filter fun i => bitsOf v (32 + i) 1 = 1).map (cluKey t.k)
    let rest := (SMap.get [] c.arrived b).filter fun e => e / 16 != t.k
    { c with phase := SMap.set 0 c.phase b (BitVec.ofNat 32 v), arrived := SMap.set [] c.arrived b (mine ++ rest) }) c

/-- The channel section of an area (R376): each channel that the team consumes, its head, its count, its messages. -/
def chansAt (s : State) (at_ : Nat) (k : Nat) : List Chan → List Chan
  | [] => []
  | x :: xs =>
    if x.cons != k then x :: chansAt s at_ k xs
    else
      let head := s.read at_ 8
      let n := min (s.read (at_ + 8) 8) x.depth
      let place (i : Nat) : Nat := at_ + 64 + 8 * ((head + i) % x.depth)
      { x with msgs := (List.range n).map fun i => BitVec.ofNat 64 (s.read (place i) 8)
               bad := (x.bad ++ (List.range n).filter fun i => poisoned s (place i) 8).eraseDups } ::
        chansAt s (at_ + 64 + 8 * x.depth) k xs

/-- What a restored team needs of a core. -/
def needOf (t : Team) (c : Cluster) (n : Nat) : Need :=
  { idx := (List.range t.ngroups).filter fun i => !t.exited.contains i, regs := n, q0 := t.q0
    sram := t.scrsz + t.tapesz * t.ngroups + ((c.chans.filter fun y => y.cons == t.k).map fun y => 8 * y.depth).sum }

/-- The rectangle that a core and the team's k fix (R107, R273), and whether the core obeys it. -/
def rectOf (s : State) (t : Team) (c : Cluster) (core : Nat) : Cluster × Bool :=
  let other := s.teams.any fun y => y.cluster == c.cid && y.resident && y.tid != t.tid
  let c' := if other then c else { c with die := dieOf core, x0 := meshXof core - t.k % c.w, y0 := meshYof core - t.k / c.w }
  (c', core < Config.cores && (if other then c.coreOf t.k == core
    else t.k % c.w ≤ meshXof core && t.k / c.w ≤ meshYof core && c'.inDie))

/-- A place of an area that a restore reads for itself and that holds an uncorrectable error (R458): a header but its registers, the team's
record, a predicate, a stream's record, the loop buffer. A flaw in a register, in scratch, a message or a tape share goes with its word. DESIGN CHOICE, unsafe: assumption 11. -/
def imageFlaw (s : State) (area : Nat) : Option Nat :=
  match if s.poison.isEmpty then none else teamAt s area with
  | none => none
  | some (_, x) =>
    let o (k : Nat) : Nat := area + s.read (area + 2560 + 8 * k) 8
    let p := s.read (area + 2634) 1
    let of_ (g : Group) : List (Nat × Nat) :=
      let h := area + 4096 * g.gidx
      [(h, 192), (h + 704, 3392), (o 2 + up64 (p * 4) * g.gidx, p * 4), (o 3 + 1024 * g.gidx, 1024), (o 4 + 3072 * g.gidx, 3072)]
    (((area, 192) :: (area + 704, 3392) :: (x.groups.map of_).flatten).find? fun r => poisoned s r.1 r.2).map (·.1)

/-- The statuses of CTX.LOAD (R107): the slot of group 0, or of the lowest group that is left where group 0 has exited, or a failure; `none`
while STATE is 1 (R379). A core of another domain, and one that a launch of higher rank has reserved (R372), gives status 2, a core number
beyond the package's cores status 4, and 4 is tested before 2: DESIGN CHOICE, unsafe: assumption 61. Every section is read from the area
(R380); the scratch goes to the team's partition with its poison. DESIGN CHOICE, unsafe: assumption 11. -/
def restoreTeam (s : State) (area core : Nat) : Option (DWord × State) :=
  match if area % 4096 = 0 ∧ area + 4096 ≤ s.priv.memtop.toNat then teamAt s area else none with
  | none => some (0x8000000000000003, s)
  | some (t, x) =>
    if s.read (area + 4) 4 = 1 then none
    else
      let c := s.cluster x.cid
      let l := s.launch t.launch
      let n := s.read (area + 2632) 2
      let p := s.read (area + 2634) 1
      let (c', rectOk) := rectOf s t c core
      let need := needOf t c n
      if !rectOk then some (0x8000000000000004, s)
      else if !fits s core need || (s.core core).owner != l.dom || !openTo s l core then some (0x8000000000000002, s)
      else
        let slots := takeSlots s core t.q0 need.idx []
        let offs := (List.range 9).map fun i => s.read (area + 2560 + 8 * i) 8
        let gs := x.groups.map fun g =>
          restoreGroup s area (((need.idx.zip slots).lookup g.gidx).getD 0) offs t { g with winsz := n, predsz := p }
        let k := s.core core
        let s := s.setCore core { k with
          tiles := x.tiles ++ k.tiles.filter fun y => !x.tiles.any y.overlaps
          lastWidth := if x.tiles.isEmpty then k.lastWidth else x.lastWidth.foldl (fun m r => SMap.set 0 m r.1 r.2) k.lastWidth }
        let s := if t.scrsz = 0 then s else copyBytes s (area + offs.getD 6 0) (scratchKey t.tid 0) t.scrsz
        let c' := barriersAt s area t c'
        let s := (s.setTeam { t with core := core, resident := true }).setCluster
          { c' with chans := chansAt s (area + offs.getD 8 0) t.k c'.chans }
        let s := { s.dropSectors core with
          saved := s.saved.filter fun y => y.tid != x.tid
          others := s.others ++ gs }
        let evs := (gs.map fun g =>
          g.refills ++ (if g.tape.held && !g.tape.recomp then [Ev.recompute g.gid] else []) ++
          (match g.phase with
            | .suspended .. => [Ev.syscallReply g.gid]
            | _ => [])).flatten
        let s := evs.foldl State.post s
        some (BitVec.ofNat 64 (slots.headD 0), s)

/-- A deterministic launch whose ticket holder's gang is saved: that gang is restored before any other of the launch (R408). -/
def holderSaved (s : State) (l : Launch) : Option Nat :=
  if !l.rcd.det then none
  else (s.teams.find? fun t => t.launch == l.num && t.teamlin == l.ticket && s.saved.any fun x => x.cid == t.cluster).map (·.cluster)

/-- A saved team can be restored on some core. -/
def restorable (s : State) (x : SavedTeam) : Bool :=
  match teamAt s x.area with
  | none => false
  | some (t, x) =>
    let c := s.cluster x.cid
    let l := s.launch t.launch
    let need := needOf t c (s.read (x.area + 2632) 2)
    (List.range Config.cores).any fun k => (rectOf s t c k).2 && fits s k need && (s.core k).owner == l.dom && openTo s l k
/-- A launch that ranks before another has a gang that could be placed, or a saved one that could be restored (R370). -/
def outranked (s : State) (l : Launch) : Bool :=
  (s.launches.any fun m => m.waits && ranksBefore m l && canPlace s m) ||
  s.saved.any fun x => ranksBefore (s.launch (s.team x.tid).launch) l && x.complete && restorable s x

/-- CONTEXT_RESTORE (R380): the distributor brings a saved team back; while STATE is 1 it waits, and so it does while a gang is being placed or
a launch that ranks before its own could be served (R370, R371). The ticket holder's gang goes first, and when no core fits one of its
teams firmware is told (R408), as it is of an image that cannot be read (R458; DESIGN CHOICE, unsafe: assumption 11). -/
def execContextRestore (area core : Nat) (s : State) : Out :=
  .next (match teamAt s area with
    | none => s
    | some (t, x) =>
      let l := s.launch t.launch
      let turn := (holderSaved s l).all (fun c => c == x.cid) && !holderUnplaced s l && s.placing.isNone && !outranked s l
      if !turn then s.post (.contextRestore area core)
      else if let some a := imageFlaw s area then (s.note (flawed 0 a 0)).irq 1
      else match restoreTeam s area core with
        | none => s.post (.contextRestore area core)
        | some (v, u) =>
          if v.getLsbD 63 then (if l.rcd.det && !restorable s x then s.irq 1 else s)
          else u)

/-! ### Gangs -/

/-- Every resident team of the gang has an area. -/
def gangAreas (s : State) (cid : Nat) (areas : List (Nat × Nat)) : Bool :=
  (s.teams.filter fun t => t.cluster == cid && t.resident && !t.gone).all fun t => (areas.lookup t.k).any fun a => a % 4096 == 0

/-- Save every resident team of a gang that still has a group. -/
def saveGang (s : State) (cid : Nat) (areas : List (Nat × Nat)) : State :=
  (s.teams.filter fun t => t.cluster == cid && t.resident && !t.gone).foldl (fun s t => saveTeam s ((areas.lookup t.k).getD 0) t.tid) s

/-- The resident groups of a gang. -/
def gangGroups (s : State) (cid : Nat) : List Group :=
  let ts := (s.teams.filter fun t => t.cluster == cid && t.resident).map (·.tid)
  s.groups.filter fun g => ts.contains g.team

/-- A group that has made its save. -/
def Group.left (g : Group) : Bool := g.leave == .light || g.leave == .forced

/-- The gang leaves once every group of it has saved or exited (R374). -/
def tryLeave (s : State) (cid : Nat) : State :=
  let gs := gangGroups s cid
  if !gs.isEmpty && gs.all Group.left && gangAreas s cid (s.cluster cid).areas then saveGang s cid (s.cluster cid).areas
  else s

/-- Change the groups of a gang. -/
def mapGang (s : State) (cid : Nat) (f : Group → Group) : State :=
  s.mapGroups fun g => if g.live && (s.team g.team).cluster == cid then f g else g

/-- The forced save of the groups of a team or gang that are to make one, have nothing in flight, and whose pushes have been written to
memory (R375, R378). -/
def settleForced (s : State) (gs : List Group) : State :=
  gs.foldl (fun s g => onGroup s g.gid fun s =>
    if s.g.leave == .forcing && !inFlight s s.g false && !inFlight s s.g true && s.g.pushes.isEmpty then
      let s := settle s
      { s with g := { s.g with leave := .forced } }
    else s) s

/-- Forced pre-emption of the groups of a gang that `sel` names, but for those whose YIELD has issued (R374, R375): each settles when
nothing of it is in flight, and the gang leaves once every group has saved. DESIGN CHOICE, safe: assumption 63. -/
def forceGang (s : State) (cid : Nat) (sel : Group → Bool) : State :=
  let s := mapGang s cid fun g => if g.leave == .stay && sel g then { g with leave := .forcing } else g
  tryLeave (settleForced s (gangGroups s cid)) cid

/-- YIELD_REQUEST (R374): every group of the gang receives the request, or loses it; a group that has made its light save meanwhile goes on
at once in its slot, its save complete and its streams refilling. A withdrawn request leaves DEADLINE as it is, counting down. DEDUCED, unsafe: assumption 56. -/
def execYieldRequest (cluster : Nat) (req : Bool) (deadline : Word) (areas : List (Nat × Nat)) (s : State) : Out :=
  if req then
    .next (tryLeave (mapGang (s.setCluster { s.cluster cluster with areas := areas }) cluster fun g =>
      { g with yieldReq := true, deadline := deadline }) cluster)
  else
    let back := (gangGroups s cluster).filter fun g => g.leave == .light
    let s := back.foldl (fun s g => match yieldArea s (s.team g.team) with
      | some a => completeLight s a g.gidx
      | none => s) s
    .next ((back.map Group.refills).flatten.foldl State.post (mapGang s cluster fun g =>
      { g with yieldReq := false, leave := if g.leave == .light then .stay else g.leave }))

/-- FORCED_PREEMPTION (R375): the gang is saved whole, into the areas firmware has chosen. -/
def execForcedPreemption (cluster : Nat) (areas : List (Nat × Nat)) (s : State) : Out :=
  .next (if gangAreas s cluster areas then forceGang (s.setCluster { s.cluster cluster with areas := areas }) cluster fun _ => true
    else s)

/-- DEADLINE_EXPIRY (R374): in the ck in which DEADLINE is 0, the groups that have not yielded are pre-empted. DESIGN CHOICE, safe: assumption 22. -/
def execDeadlineExpiry (cluster : Nat) (areas : List (Nat × Nat)) (s : State) : Out :=
  .next (if gangAreas s cluster areas then
      forceGang (s.setCluster { s.cluster cluster with areas := areas }) cluster fun g => g.yieldReq && g.deadline == 0
    else s)

end Sys2Proof.Machine
end

