-- ==== Sys2Proof/Machine/LaunchCtl.lean ====
section
/-!
DEFINITION. Launch control by groups (R209 to R213, R367, R368): graph-edge pushes, triggers, exit, yield, and the invalidation of
instruction caches.
-/
namespace Sys2Proof.Machine

/-- A graph-edge queue's header (R367). -/
structure EdgeHdr where
  log2 : Nat
  prio : Nat
  cls : Nat
  ring : Nat
  free : Nat
  pushed : Nat
  taken : Nat
deriving DecidableEq, Repr

/-- The header's fields, if it obeys R367. -/
def edgeHdr (b : List Byte) : Option EdgeHdr :=
  let cfg := fieldOf b 0 4
  let log2 := bitsOf cfg 0 4
  let ring := fieldOf b 8 8
  let free := fieldOf b 16 4
  let pushed := fieldOf b 24 8
  let taken := fieldOf b 32 8
  let used := (pushed + 2 ^ 64 - taken) % 2 ^ 64
  if 12 < log2 ∨ bitsOf cfg 7 1 ≠ 0 ∨ bitsOf cfg 10 22 ≠ 0 ∨ fieldOf b 4 4 ≠ 0 ∨ fieldOf b 20 4 ≠ 0 ∨ fieldOf b 40 24 ≠ 0 ∨
      ring % 128 ≠ 0 ∨ 2 ^ log2 < free + used then none
  else some ⟨log2, bitsOf cfg 4 3, bitsOf cfg 8 2, ring, free, pushed, taken⟩

/-- A device's update of an object of the group's space: the checks of a store, and the write. -/
def putAt (s : State) (va : DWord) (n v : Nat) : Res State := do
  let l ← lift (access s va n .store .plainStore)
  require (!s.owned l.key n) (.stall .recall)
  .ok (if isRemote l.key then (s.touch va true).putRemote l.key n v s.g.relS else (s.touch va true).write l.key n v)

/-- Write bytes 8 at a time. -/
def putAll (s : State) (va : DWord) : List Byte → Nat → Res State
  | _, 0 => .ok s
  | b, n + 1 => do
    let t ← putAt s va 8 (ofBytes (b.take 8))
    putAll t (va + 8) (b.drop 8) n

/-- A push (R368): `none` when no slot is free. -/
def edgePush (s : State) (sa sb : DWord) : Res (Option State) := do
  recordCheck sa 128
  recordCheck sb 64
  let (r, t) ← recordAt s sa 16
  let (h, t) ← recordAt t sb 8
  match edgeHdr h with
  | none => .error (trapP .reservedField)
  | some q =>
    if q.free = 0 then .ok none
    else do
      let t ← putAll t (BitVec.ofNat 64 (q.ring + 128 * (q.pushed % 2 ^ q.log2))) r 16
      let t ← putAt t (sb + 16) 4 (q.free - 1)
      let t ← putAt t (sb + 24) 8 (q.pushed + 1)
      let l ← lift (translate s sb .store)
      let e : EdgePush := ⟨l.key, q.pushed, s.gdom, s.gasn, s.gteam.launch⟩
      .ok (some ({ t.remClear with edges := t.edges ++ [e] }.post (.launchTake (.edge s.gdom s.gasn sb))))

/-- LAUNCH.Q (R209). -/
def execLaunchQ (a b : SReg) (s : State) : Out :=
  finishS s (do
    ready s [] [a, b]
    drain s
    match ← edgePush s (s.rdS a) (s.rdS b) with
    | none => .error (.stallIn s.remClear .launchFull)
    | some t => .ok t.endRegion.next)

/-- LAUNCH.TRY (R209): without a free slot nothing is waited for. -/
def execLaunchTry (k : CReg) (a b : SReg) (s : State) : Out :=
  finishS s (do
    ready s [] [a, b]
    match ← edgePush s (s.rdS a) (s.rdS b) with
    | none => .ok (s.remClear.wrC k false).next
    | some t => do
      drain s
      .ok (t.endRegion.wrC k true).next)

/-- TRIGGER (R210). -/
def execTrigger (s : State) : Out :=
  finishS s (do
    drain s
    if s.g.triggered then .ok s.next
    else
      let l := s.glaunch
      let s := s.setLaunch { l with triggers := l.triggers + 1 }
      .ok { s with g := { s.g with triggered := true } }.next)

/-- EXIT (R211): the drain, the waits of step 2, and the group leaves. A policy core, which is in no group, issues no more: DEDUCED,
unsafe: assumption 47. DESIGN CHOICE, unsafe: assumption 38. -/
def execExit (s : State) : Out :=
  finishS s (do
    drain s
    require (s.g.parked.isEmpty && s.sc.tok == 0) (.stall .exitWait)
    match s.party with
    | .policy k => .ok (s.setPol k { s.pol k with halted := true })
    | .group => .ok (tryLeave (s.leave false) s.gteam.cluster))

/-- YIELD (R212, R374): with a request, the drain and the light save. A YIELD that has issued is not recalled: its save is made even when
the request has gone meanwhile or its deadline has come. -/
def execYield (s : State) : Out :=
  finishS s (
    if !s.g.yieldReq && s.g.leave != .yielding then .ok s.next
    else if s.party == .group && !s.g.drained then .error (.stallIn { s with g := { s.g with leave := .yielding } } .drain)
    else .ok (tryLeave (lightSave s.next) s.gteam.cluster))

/-- ICINV (R213): this model holds no stale instruction word but an open loop's buffer, which R213 leaves alone, so the drain is the
whole effect. DEDUCED, unsafe: assumption 51. -/
def icinv (s : State) : Out := finishS s (do drain s; .ok s.next)
def execIcinvTeam (s : State) : Out := icinv s
def execIcinvClu (s : State) : Out := icinv s
def execIcinvDev (s : State) : Out := icinv s
def execIcinvFab (s : State) : Out := icinv s
def execIcinvSys (s : State) : Out := icinv s

end Sys2Proof.Machine
end

