-- ==== Sys2Proof/Machine/Distributor.lean ====
section
/-!
DEFINITION. The distributor (R361 to R372, R405): pushes, taking and checking records, placing gangs, completion, and the ticket of
deterministic mode.
-/
namespace Sys2Proof.Machine

/-! ### Pushes (R364, R365) -/

/-- LAUNCH_PUSH: a host's write into a queue's block. -/
def execLaunchPush (queue offset : Nat) (bytes : List Byte) (s : State) : Out :=
  let q := s.queue queue
  let bad := q.owner == 15 || !q.en || bytes.length != 128 || offset != 0x80
  if bad || q.free == 0 then
    .next (s.setQueue queue { q with
      dropped := min (q.dropped + 1) (2 ^ 32 - 1), malf := q.malf || bad, ovf := q.ovf || !bad })
  else
    let t := s.writeBytes (q.base + 128 * (q.tail % 2 ^ q.log2)) bytes
    .next ((t.setQueue queue { q with tail := q.tail + 1, free := q.free - 1 }).post (.launchTake (.queue queue)))

/-! ### Records (R361, R362) -/

/-- An aligned value of a launch's address space. -/
def peekAt (s : State) (dom asn : Nat) (va : DWord) (n : Nat) : Option Nat := peek s dom asn va.toNat n

/-- The bytes of a record in the launch's space. -/
def peekBytes (s : State) (dom asn : Nat) (va : DWord) : Nat → Option (List Byte)
  | 0 => some []
  | n + 1 => match peekAt s dom asn va 8, peekBytes s dom asn (va + 8) n with
    | some v, some b => some (leBytes 8 v ++ b)
    | _, _ => none

/-- One entry of a channel table (R281, R361). -/
def chanEntry (e teams : Nat) : Option Chan :=
  let x : Chan := { ch := bitsOf e 0 5, prod := bitsOf e 5 4, cons := bitsOf e 9 4, depth := bitsOf e 13 6 + 1, msgs := [] }
  if bitsOf e 19 13 ≠ 0 ∨ teams ≤ x.prod ∨ teams ≤ x.cons then none else some x

/-- The channel table, its words as `rd` finds them. -/
def chanTable (rd : DWord → Option Nat) (teams : Nat) (va : DWord) : Nat → Option (List Chan)
  | 0 => some []
  | n + 1 => match (rd va).bind fun e => chanEntry e teams, chanTable rd teams (va + 4) n with
    | some x, some xs => if xs.any fun y => y.ch == x.ch then none else some (x :: xs)
    | _, _ => none

/-- The record's fields, if no reason of R362 refuses it; `rd` reads the launch's space. -/
def launchRec (rd : DWord → Option Nat) (cls : Nat) (b : List Byte) : Option LaunchRec :=
  let f (o n : Nat) : Nat := fieldOf b o n
  let flags := f 33 1
  let pass := bitsOf flags 0 1 == 1
  let clu := f 32 1
  let w := bitsOf clu 0 3 + 1
  let h := bitsOf clu 3 3 + 1
  let r : LaunchRec :=
    { scb := BitVec.ofNat 64 (f 0 8), lcb := BitVec.ofNat 64 (f 8 8), gx := f 16 4, gy := f 20 4, gz := f 24 4, regs := f 28 2
      preds := f 30 1, team := f 31 1, cw := w, ch := h, pass := pass, det := bitsOf flags 1 1 == 1
      after := bitsOf flags 2 1 == 1, scratch := f 36 4, tape := f 40 4, chans := []
      args := (List.range 4).map fun i => BitVec.ofNat 64 (f (64 + 8 * i) 8)
      compl := BitVec.ofNat 64 (f 96 8), cval := BitVec.ofNat 64 (f 104 8) }
  let shared := bitsOf flags 3 5 = 0 ∧ f 34 2 = 0 ∧ f 44 4 = 0 ∧ f 57 7 = 0 ∧ f 112 8 = 0 ∧ f 120 8 = 0 ∧ f 96 8 % 16 = 0
  if !decide shared then none
  else if pass then
    if f 0 8 % 128 = 0 ∧ f 8 8 = 0 ∧ f 16 8 = 0 ∧ f 24 8 = 0 ∧ clu = 0 ∧ f 36 8 = 0 ∧ f 48 8 = 0 ∧ f 56 1 = 0 ∧ r.det = false ∧
        r.args.all (· == 0) ∧ cls = 0 then some r
    else none
  else if f 0 8 % 64 = 0 ∧ f 8 8 % 64 = 0 ∧ 1 ≤ r.gx ∧ 1 ≤ r.gy ∧ 1 ≤ r.gz ∧ r.gx * r.gy * r.gz < 2 ^ 32 ∧ 64 ≤ r.regs ∧
      r.regs ≤ 2048 ∧ r.regs % 64 = 0 ∧ 16 ≤ r.preds ∧ r.preds ≤ 128 ∧ r.preds % 16 = 0 ∧ 1 ≤ r.team ∧ r.team ≤ 16 ∧
      bitsOf clu 6 2 = 0 ∧ h ≤ 6 ∧ w * h ≤ 12 ∧ r.scratch % 8192 = 0 ∧ r.scratch ≤ 1572864 ∧ r.tape % 128 = 0 ∧
      f 48 8 % 4 = 0 ∧ f 56 1 ≤ 32 ∧ (f 48 8 = 0 → f 56 1 = 0) ∧ r.gx % w = 0 ∧ r.gy % h = 0 then
    match chanTable rd (w * h) (BitVec.ofNat 64 (f 48 8)) (f 56 1) with
    | none => none
    | some cs =>
      let l : Launch := { rcd := { r with chans := cs } }
      if (List.range (w * h)).all fun k => fitsEmpty (l.need k 0) then some l.rcd else none
  else none

/-! ### Completion (R369) -/

/-- The completion record, and the launch leaves the device. DEDUCED, unsafe: assumption 46. -/
def completeLaunch (s : State) (l : Launch) (code : Nat) : State :=
  let t := { s with launches := s.launches.filter (fun x => x.num != l.num), clusters := s.clusters.filter (fun c => c.launch != l.num)
                    resv := s.resv.filter fun r => r.1 != l.num }
  let t := if l.rcd.compl = 0 then t else if l.rcd.compl.toNat % 16 ≠ 0 then t.irq 1 else
    match translatePt s l.dom l.asn true l.rcd.compl .store with
    | .error _ => t.irq 1
    | .ok p =>
      let b := leBytes 8 l.rcd.cval.toNat ++ leBytes 8 code
      if isPeer p.key then
        let (d, a) := peerOf p.key
        t.send (reqPacket t l.dom 2 d a 16 b) { bytes := 16, cells := [(p.key, 16)], write := true, compl := true }
      else if !isHost p.key && (p.h || poisoned t p.key 16) then t.irq 1
      else t.placeAt l.dom p.key 16 (ofBytes b) true
  match l.src with
  | .queue i => if (t.queue i).head = (t.queue i).tail then t else t.post (.launchTake l.src)
  | .edge .. => t

/-- An engine owns the line of the completion record (R201). -/
def complOwned (s : State) (l : Launch) : Bool :=
  l.rcd.compl != 0 && match translatePt s l.dom l.asn true l.rcd.compl .store with
    | .ok p => s.owned p.key 16
    | .error _ => false

/-- The launch has nothing left to do: its groups have exited, its engine writes are performed, the Headland deliveries of its publications
among them, its writes to other packages are acknowledged, since the completion is released at `.sys` (R452), and its staging is
released. DESIGN CHOICE, unsafe: assumption 38. -/
def launchDone (s : State) (l : Launch) : Bool :=
  (if l.rcd.pass then l.pass.done else decide (l.total ≤ l.exits) || l.aborted) &&
  !s.anyReq (fun r => r.write && r.launch == some l.num) && !complOwned s l &&
  !s.jobs.any (fun j => j.launch == l.num) && !s.deliveries.any (fun x => x.launch == some l.num) && !s.teams.any fun t => t.launch == l.num

/-- LAUNCH_COMPLETE. -/
def execLaunchComplete (launch : Nat) (s : State) : Out :=
  .next (match s.launch? launch with
    | none => s
    | some l => if launchDone s l then completeLaunch s l (if l.aborted then 2 else 0) else s.post (.launchComplete launch))

/-! ### Taking a record (R365, R368) -/

/-- The record at the head of a queue, and how far it is on its way (R365, R368). -/
inductive Head where
  | empty
  /-- the distributor finds the graph-edge queue invalid (R367) -/
  | lost
  | waits
  | ready (seq dom asn prio cls : Nat) (b : List Byte) (parent : Option Nat)
deriving DecidableEq, Repr

/-- AFTER = 1 and the previous record's launch is still active. -/
def afterWaits (s : State) (b : List Byte) (last : Option Nat) : Bool :=
  bitsOf (fieldOf b 33 1) 2 1 == 1 && last.any fun n => (s.launch? n).isSome

/-- The place of a graph-edge queue's header. -/
def edgeKey (s : State) (dom asn : Nat) (va : DWord) : Option Nat :=
  match translatePt s dom asn true va .load with
  | .ok l => some l.key
  | .error _ => none

/-- The head of a queue. A record of a graph-edge queue waits for the trigger point of the launch whose group pushed it, and has that
group's domain and address space; the queue's object is known by its place, whatever address names it (R368, R370, R388). DEDUCED, unsafe: assumption 46. -/
def headOf (s : State) (src : LaunchSrc) : Head :=
  match src with
  | .queue i =>
    let q := s.queue i
    if q.head = q.tail then .empty
    else if q.owner = 15 ∨ q.stop then .waits
    else
      let b := Memory.bytes s.mem (q.base + 128 * (q.head % 2 ^ q.log2)) 128
      if afterWaits s b q.last then .waits else .ready q.head (i / 64) q.asn q.prio q.cls b none
  | .edge dom asn va =>
    match edgeKey s dom asn va, (peekBytes s dom asn va 8).bind edgeHdr with
    | some key, some h =>
      if h.pushed = h.taken then .empty
      else
        let e := s.edges.find? fun x => x.key == key && x.seq == h.taken
        let waits := (e.bind fun x => s.launch? x.parent).any fun p => !p.triggerPoint
        match peekBytes s dom asn (BitVec.ofNat 64 (h.ring + 128 * (h.taken % 2 ^ h.log2))) 16 with
        | none => .lost
        | some b =>
          if waits || afterWaits s b (s.edgeLast.lookup key) then .waits
          else .ready h.taken ((e.map (·.dom)).getD dom) ((e.map (·.asn)).getD asn) h.prio h.cls b (e.map (·.parent))
    | _, _ => .lost

/-- The queues that hold records. DEDUCED, unsafe: assumption 46. -/
def sources (s : State) : List LaunchSrc := s.engineQ.filterMap fun e => match e with
  | .launchTake src => some src
  | _ => none
/-- The ck in which a head became eligible; one that has just become so, now. -/
def ripeAt (s : State) (src : LaunchSrc) (seq : Nat) : Nat :=
  ((s.ripe.find? fun x => x.1 == src && x.2.1 == seq).map (·.2.2)).getD s.clock
/-- The heads that are eligible in this ck are noted with it (R370). -/
def ripen (s : State) : State :=
  { s with ripe := (sources s).filterMap fun src => match headOf s src with
      | .ready seq _ _ _ _ _ _ => some (src, seq, ripeAt s src seq)
      | _ => none }

/-- The words of a record's channel table that lie in the host or peer window (R361, R441). -/
def tableCells (s : State) (dom asn : Nat) (b : List Byte) : List (Nat × Nat) :=
  (List.range (min 32 (fieldOf b 56 1))).filterMap fun i =>
    match translatePt s dom asn true (BitVec.ofNat 64 (fieldOf b 48 8 + 4 * i)) .load with
    | .ok l => if isRemote l.key then some (l.key, 4) else none
    | .error _ => none
/-- A word of a launch's space as the distributor finds it, with what the completions of its window reads have brought. -/
def wordAt (s : State) (dom asn : Nat) (val : Option (Nat → Nat → Nat)) (va : DWord) : Option Nat :=
  match translatePt s dom asn true va .load with
  | .ok l => if isRemote l.key then val.map fun f => f l.key 4 else peekAt s dom asn va 4
  | .error _ => none

/-- A taken record becomes a launch, or is refused and completes at once. The device reads the domain's configuration block (R388). -/
def beginLaunch (s : State) (src : LaunchSrc) (since dom asn prio cls : Nat) (b : List Byte) (parent : Option Nat)
    (val : Option (Nat → Nat → Nat) := none) : State :=
  let n := s.nextLaunch
  let s := { s with nextLaunch := n + 1 }.readBlock dom
  let l : Launch := { num := n, dom := dom, asn := asn, prio := prio, cls := cls, src := src, since := since, parent := parent }
  match launchRec (wordAt s dom asn val) cls b with
  | none =>
    completeLaunch s { l with rcd := { compl := BitVec.ofNat 64 (fieldOf b 96 8), cval := BitVec.ofNat 64 (fieldOf b 104 8) } } 1
  | some r =>
    let s := { s with launches := s.launches ++ [{ l with rcd := r }] }
    if r.pass then s.post (.visibilityPass n) else s

/-- A graph-edge queue's header after its head is taken: FREE and TAKEN count (R368). -/
def takeEdge (s : State) (dom asn : Nat) (va : DWord) : Option State := do
  let h ← (peekBytes s dom asn va 8).bind edgeHdr
  let t ← poke s dom asn (va.toNat + 16) 4 (h.free + 1)
  poke t dom asn (va.toNat + 32) 8 (h.taken + 1)

/-- LAUNCH_TAKE. A record that is not eligible yet stays. DEDUCED, unsafe: assumption 46. -/
def takeRecord (src : LaunchSrc) (s : State) : State :=
  match headOf s src with
  | .empty => s
  | .lost => s.irq 1
  | .waits => s.post (.launchTake src)
  | .ready seq dom asn prio cls b parent =>
    if 1024 ≤ s.launches.length then s.post (.launchTake src)
    else match s.look (2 ^ 65 + s.nextLaunch) (tableCells s dom asn b) with
    | .error t => t.post (.launchTake src)
    | .ok (s, val) =>
      let taken : Option State := match src with
        | .queue i =>
          let q := s.queue i
          some (s.setQueue i { q with head := q.head + 1, free := q.free + 1, last := some s.nextLaunch })
        | .edge d a va => (takeEdge s d a va).map fun t =>
          let key := (edgeKey s d a va).getD 0
          { t with
            edges := t.edges.filter fun x => !(x.key == key && x.seq == seq)
            edgeLast := (key, t.nextLaunch) :: t.edgeLast.filter fun x => x.1 != key }
      match taken with
      | none => s.irq 1
      | some t => (beginLaunch t src (ripeAt s src seq) dom asn prio cls b parent val).post (.launchTake src)

def execLaunchTake (src : LaunchSrc) (s : State) : Out := .next (takeRecord src s)

/-! ### Placement (R370, R371) -/

/-- The distributor may place this launch's next gang now: it is the first of the order that fits, behind the launch's saved gangs unless it is
the ticket holder's (R408), and no eligible record that ranks before it has still to be taken (R370). -/
def mayPlace (s : State) (l : Launch) : Bool :=
  s.placing.isNone && l.waits && (holderUnplaced s l || !s.saved.any fun x => (s.team x.tid).launch == l.num) && !outranked s l &&
  (1024 ≤ s.launches.length || (sources s).all fun src => match headOf s src with
    | .ready seq _ _ prio _ _ _ => !ranksBefore { num := s.nextLaunch, prio := prio, src := src, since := ripeAt s src seq } l
    | _ => true)

/-- The teams of a gang, in ascending k: each team with its groups. -/
def placeTeams (l : Launch) (cid : Nat) (c : Cluster) (g0 : Nat × Nat × Nat) (quads : List Nat) : List Nat → State → State
  | [], s => s
  | k :: ks, s =>
    let r := l.rcd
    let core := c.coreOf k
    let tid := s.nextId
    let x := g0.1 + k % r.cw
    let y := g0.2.1 + k / r.cw
    let z := g0.2.2
    let q0 := quads.getD k 0 % 4
    let t : Team :=
      { tid := tid, launch := l.num, cluster := cid, k := k, core := core, q0 := q0, teamlin := x + r.gx * (y + r.gy * z)
        tx := x, ty := y, tz := z, stageDie := dieOf core, ngroups := r.team, scrsz := r.scratch, tapesz := r.tape }
    let slots := takeSlots s core q0 (List.range r.team) []
    let gs := slots.zipIdx.map fun (p : Nat × Nat) => freshGroup l (tid + 1 + p.2) tid p.2 p.1
    placeTeams l cid c g0 quads ks
      { s.dropSectors core with teams := s.teams ++ [t], others := s.others ++ gs, nextId := tid + 1 + r.team }

/-- GANG_PLACE: the gang begins placement on a rectangle that it fits. DEDUCED, unsafe: assumption 46. -/
def execGangPlace (launch die x y : Nat) (quads : List Nat) (s : State) : Out :=
  .next (match s.launch? launch with
    | none => s
    | some l =>
      let r := l.rcd
      let cid := s.nextId
      let c : Cluster :=
        { cid := cid, launch := launch, w := r.cw, h := r.ch, die := die, x0 := x, y0 := y, chans := r.chans }
      let s := reserve s
      if mayPlace s l && c.inDie && (List.range (c.w * c.h)).all fun k => openTo s l (c.coreOf k) &&
          (s.core (c.coreOf k)).owner == l.dom && fits s (c.coreOf k) (l.need k (quads.getD k 0 % 4)) then
        let s := { s with nextId := cid + 1, clusters := s.clusters ++ [c], placing := some launch
                          resv := s.resv.filter fun r => r.1 != launch }
        let s := placeTeams l cid c (l.gangAt l.gangs) quads (List.range (c.w * c.h)) s
        (s.setLaunch { l with gangs := l.gangs + 1, told := false }).post (.gangCommit launch)
      else s)

/-- The groups of a team that is committed and filled may issue. -/
def startTeam (s : State) (t : Team) : State :=
  if t.committed && t.filled then
    s.mapGroups fun g => if g.live && g.team == t.tid && g.phase == .placed then { g with phase := .running } else g
  else s

/-- GANG_COMMIT: no group of the gang issues before it. -/
def execGangCommit (launch : Nat) (s : State) : Out :=
  .next (if s.placing = some launch then
    let ts := s.teams.filter fun t => t.launch == launch && !t.committed
    let s := { s with placing := none }
    ts.foldl (fun s t => (startTeam (s.setTeam { t with committed := true }) { t with committed := true }).post (.teamReady t.tid)) s
  else s)

/-- TEAM_READY: the team's zero-fill is complete. -/
def execTeamReady (team : Nat) (s : State) : Out :=
  .next (match s.team? team with
    | none => s
    | some t => startTeam (s.setTeam { t with filled := true }) { t with filled := true })

/-! ### The ticket of deterministic mode (R405, R407) -/

/-- The ticket moves past released teams; the team that receives it has its staged entries performed first (R405). The state, and whether
an entry is still held. -/
def passTicket (launch : Nat) : Nat → State → State × Bool
  | 0, s => (s, false)
  | n + 1, s => match s.launch? launch with
    | none => (s, false)
    | some l => match s.teams.find? fun t => t.launch == launch && t.teamlin == l.ticket with
      | none => (s, false)
      | some t =>
        match performStaged s l.dom l.asn t.tid t.staged with
        | (s, false) => (s, true)
        | (s, true) =>
          if t.resident || !t.gone then (s, false)
          else passTicket launch n (({ s with teams := s.teams.filter fun y => y.tid != t.tid }).setLaunch { l with ticket := l.ticket + 1 })

/-- In an aborted launch the ticket passes over what will never be placed: the staging of its teams is performed in their order. -/
def passAborted (launch : Nat) : Nat → State → State × Bool
  | 0, s => (s, false)
  | n + 1, s => match s.launch? launch with
    | none => (s, false)
    | some l =>
      let ts := s.teams.filter fun t => t.launch == launch
      match ts.find? fun t => ts.all fun u => t.teamlin ≤ u.teamlin with
      | none => (s, false)
      | some t => if t.resident then (s, false) else match performStaged s l.dom l.asn t.tid t.staged with
        | (s, false) => (s, true)
        | (s, true) => passAborted launch n { s with teams := s.teams.filter fun y => y.tid != t.tid }

/-- TICKET_PASS: as far as it comes; while an entry is held it is tried again. -/
def execTicketPass (launch : Nat) (s : State) : Out :=
  .next (match (if (s.launch launch).aborted then passAborted else passTicket) launch (s.teams.length + 1) s with
    | (t, true) => t.post (.ticketPass launch)
    | (t, false) => t)

end Sys2Proof.Machine
end

