-- ==== Sys2Proof/Machine/Gleaner.lean ====
section
/-!
DEFINITION. The Gleaner (R420 to R424): one sample of every core, its reason code and its record.
-/
namespace Sys2Proof.Machine

/-- The reason of a stream that waits (R422, orders 4 to 11). -/
def Stall.reason : Stall → Nat
  | .rejoin => 2
  | .queueEmpty | .queueFull => 3
  | .pairWait => 6
  | .staleHalo => 7
  | .barrier | .cluWait | .arrWait => 5
  | .chanFull | .chanEmpty | .launchFull => 9
  | _ => 4

/-- The group in a slot of a core. -/
def slotGroup (s : State) (c slot : Nat) : Option Group :=
  s.groups.find? fun g => g.slot == slot && (s.team g.team).core == c

/-- A run is active, queued, or held by a recompute event (R268, R422, R423). -/
def Group.runHeld (g : Group) : Bool := !g.runsDone || g.tape.heldLane.active.isSome

/-- The reason code of a sampled group, at the start of the ck (R422): a stream that issues in it, one that is ready and not chosen, or what
its stream waits for, in the last ck of its wait as well. -/
def sampleReason (s : State) (g : Group) : Nat :=
  if s.issueQ.any fun p => p.1 == g.gid then 0
  else if 0 < g.ageS || 0 < g.ageL then 1
  else
    match g.phase, g.leave with
    | .running, .stay | .running, .yielding =>
      match g.restOf g.runHeld, g.stallOf g.runHeld with
      | some (_ + 1, r), _ => r
      | _, some w => w.reason
      | some (0, r), none => if r = 0 then 4 else r
      | none, none => 4
    | _, _ => 4

/-- A sample record (R423) of a core. -/
def sampleRecord (s : State) (c : Nat) : List Byte :=
  let slot := (s.core c).sampSlot
  let head (reason flags : Nat) : List Byte :=
    leBytes 8 s.clock ++ leBytes 1 c ++ leBytes 1 slot ++ leBytes 1 reason ++ leBytes 1 flags
  let none_ := head 11 0 ++ leBytes 20 0
  match slotGroup s c slot with
  | none => none_
  | some g =>
    let t := s.team g.team
    let l := s.launch t.launch
    if !s.priv.ssctl.getLsbD (18 + l.dom) then none_
    else
      head (sampleReason s g) (if g.runHeld then 1 else 0) ++
        leBytes 4 (((g.lane.active.or g.tape.heldLane.active).map (·.lpc)).getD 0) ++ leBytes 8 g.sc.pc.toNat ++ leBytes 4 t.teamlin ++ leBytes 4 l.num

/-- Write or drop one core's record, and advance its slot pointer (R421, R424). -/
def sampleCore (s : State) (c : Nat) : State :=
  let n := s.priv.sssize.toNat / 32
  let used := s.priv.sswptr - (if s.priv.sswptr < s.priv.ssrptr then s.priv.sswptr else s.priv.ssrptr)
  let b := sampleRecord s c
  let x := s.core c
  let s := s.setCore c { x with sampSlot := (x.sampSlot + 1) % 64 }
  if n ≤ used.toNat then { s with priv := { s.priv with ssdrop := s.priv.ssdrop + 1 } }
  else
    let s := s.writeBytes (s.priv.ssbase.toNat + 32 * (s.priv.sswptr.toNat % n)) b
    { s with priv := { s.priv with sswptr := s.priv.sswptr + 1 } }

/-- GLEANER_SAMPLE: every core, in ascending order, when EN is 1 and the sample's ck has come; the next one follows PERIOD ck later
(R421). DESIGN CHOICE, safe: assumption 22. -/
def execGleanerSample (s : State) : Out :=
  .next (if s.priv.ssctl.getLsbD 16 && s.sampAt ≤ s.clock then
      { (List.range Config.cores).foldl sampleCore s with sampAt := s.clock + bitsOf s.priv.ssctl.toNat 0 16 }
    else s)

end Sys2Proof.Machine
end

