-- ==== Sys2Proof/Machine/Transcend.lean ====
section
/-!
DEFINITION. The special functions (R150, R151) and the symmetric level-index arithmetic (R32 to R38, R160 to R164). Numbers are
fixed point with p fraction bits, whose error stays far below 2^(500 - p). A result nearer than that to a rounding boundary is computed again
with twice as many, from 768 on; one that 2^48 bits do not tell from the boundary takes either side of it, by a free choice (DESIGN CHOICE,
safe: assumption 8).
-/
namespace Sys2Proof.Machine

/-! ### Fixed point with p fraction bits -/

/-- A computation at a precision, with whether it settles its result; repeated with twice the bits while it does not. -/
def settleFrom {α : Type} (f : Nat → α × Bool) : Nat → Nat → α
  | 0, p => (f p).1
  | n + 1, p => match f p with
    | (x, true) => x
    | (_, false) => settleFrom f n (2 * p)
/-- The result as a precision from 768 bits on settles it. DESIGN CHOICE, safe: assumption 8. -/
def settled {α : Type} (f : Nat → α × Bool) : α := settleFrom f 38 768

/-- One, in fixed point. -/
def fxOne (p : Nat) : Nat := 2 ^ p
/-- Σ z^(2k+1) / (2k+1). -/
def lnTerms (p : Nat) : Nat → Nat → Nat → Nat → Nat
  | 0, _, _, _ => 0
  | f + 1, z2, k, t => t / k + lnTerms p f z2 (k + 2) (t * z2 / fxOne p)
/-- ln 2, as 2·artanh(1/3). -/
def fxLn2 (p : Nat) : Nat := 2 * lnTerms p (p / 3) (fxOne p / 9) 1 (fxOne p / 3)
/-- The arctangent of 1/q: the alternating sum of 1/(k·q^k). -/
def atanTerms (q : Nat) : Nat → Nat → Int → Int
  | 0, _, _ => 0
  | f + 1, k, t => t / k - atanTerms q f (k + 2) (t / (q * q : Nat))
/-- π/2 with 160 bits more, by Machin's formula. -/
def fxPiHalf (p : Nat) : Nat :=
  let one : Int := fxOne (p + 160)
  (8 * atanTerms 5 (p / 4 + 40) 1 (one / 5) - 2 * atanTerms 239 (p / 4 + 40) 1 (one / 239)).toNat

/-- Σ r^n / n! from term `k` on. -/
def expTerms (p : Nat) : Nat → Nat → Nat → Nat → Nat
  | 0, _, _, _ => 0
  | f + 1, r, k, t => t + expTerms p f r (k + 1) (t * r / fxOne p / k)
/-- e^x of a fixed-point x as a mantissa in [1, 2) and a power of two. -/
def fxExp (p : Nat) (x : Int) : Nat × Int :=
  let l := fxLn2 p
  let n := x / (l : Int)
  (expTerms p (p / 4) (x - n * l).toNat 1 (fxOne p), n)
/-- A fixed-point mantissa scaled by a power of two. -/
def fxScale (m : Nat) (n : Int) : Nat := if 0 ≤ n then m * 2 ^ n.toNat else m / 2 ^ (-n).toNat
def fxExpNat (p : Nat) (x : Int) : Nat := let (m, n) := fxExp p x; fxScale m n

/-- ln of a positive fixed-point value. -/
def fxLn (p : Nat) (v : Nat) : Int :=
  let e : Int := (Nat.log2 v : Int) - p
  let y := fxScale v (-e)
  let z := (y - fxOne p) * fxOne p / (y + fxOne p)
  e * fxLn2 p + 2 * lnTerms p (p / 3) (z * z / fxOne p) 1 z

/-- The alternating sum t − t·r²/(k(k+1)) + …: sine from t = r, k = 2, cosine from t = 1, k = 1. -/
def trigTerms (p : Nat) : Nat → Nat → Nat → Int → Int
  | 0, _, _, _ => 0
  | f + 1, r2, k, t => t + trigTerms p f r2 (k + 2) (-(t * r2 / fxOne p / (k * (k + 1) : Nat)))
def fxSin (p r : Nat) : Int := trigTerms p (p / 6) (r * r / fxOne p) 2 r
def fxCos (p r : Nat) : Int := trigTerms p (p / 6) (r * r / fxOne p) 1 (fxOne p)

/-! ### The special functions on exact values -/

/-- The side on which a value lies that is too near a boundary to be told: a free choice. DESIGN CHOICE, safe: assumption 8. -/
def freeSide (x : Nat) : Bool := Config.freeSide x
/-- A fixed-point value that is not exact, and whether it is settled: it is not where all its bits below the 100 highest are alike, to the
last 500. DESIGN CHOICE, safe: assumption 8. -/
def fxVal (p : Nat) (x : Int) (n : Int) : XVal × Bool :=
  let a := x.natAbs
  let k := Nat.log2 a - 100
  let u := 2 ^ k
  let low := a % u
  let neg := decide (x < 0)
  if k < 501 || (2 ^ 500 ≤ low && low + 2 ^ 500 ≤ u) then (.fin (signInt neg (sticky a true)) (n - p - 1), true)
  else
    let m := if low < 2 ^ 500 then a / u else a / u + 1
    (.fin (signInt neg (m * 2 ^ 100 + 1 - if freeSide a then 0 else 2)) (n - p - 100 + k), false)
/-- A value just beside m·2^e: away from zero or toward it. DESIGN CHOICE, safe: assumption 8. -/
def nudgeFin (m : Int) (e : Int) (up : Bool) : XVal :=
  .fin (signInt (decide (m < 0)) (if up then m.natAbs * 2 ^ 100 + 1 else m.natAbs * 2 ^ 100 - 1)) (e - 100)
/-- The exponent of the leading bit. -/
def topExp (m : Int) (e : Int) : Int := Nat.log2 m.natAbs + e
/-- m·2^e in fixed point. -/
def toFx (p : Nat) (m : Int) (e : Int) : Int := signInt (decide (m < 0)) (fxScale m.natAbs (e + p))

/-- VFEXP2. -/
def xexp2 : XVal → XVal × Nat
  | .nan => (.nan, 0)
  | .inf n => (if n then .zero false else .inf false, 0)
  | .zero _ => (.fin 1 0, 0)
  | .fin m e =>
    if 20 ≤ topExp m e then (.fin 3 (if m < 0 then -(2 ^ 20) else 2 ^ 20), 0)
    else if topExp m e < -60 then (nudgeFin 1 0 (decide (0 < m)), 0)
    else if 0 ≤ e then (.fin 1 (m * 2 ^ e.toNat), 0)
    else if m % 2 ^ (-e).toNat = 0 then (.fin 1 (m / 2 ^ (-e).toNat), 0)
    else
      (settled fun p =>
        let (v, n) := fxExp p (toFx p m e * fxLn2 p / fxOne p)
        fxVal p v n, 0)
/-- VFLOG2. -/
def xlog2 : XVal → XVal × Nat
  | .nan => (.nan, 0)
  | .inf n => if n then (.nan, fNV) else (.inf false, 0)
  | .zero _ => (.inf true, fDZ)
  | .fin m e =>
    if m < 0 then (.nan, fNV)
    else if m = 2 ^ Nat.log2 m.natAbs then (ofInteger (topExp m e), 0)
    else
      (settled fun p => fxVal p (topExp m e * fxOne p + fxLn p (fxScale m.natAbs (p - Nat.log2 m.natAbs)) * fxOne p / fxLn2 p) 0, 0)
/-- The quadrant of a positive value and its offset within it. -/
def quadrant (p : Nat) (m : Int) (e : Int) : Nat × Nat :=
  let x := fxScale m.natAbs (e + p + 160)
  let h := fxPiHalf p
  (x / h % 4, x % h / 2 ^ 160)
/-- VFSIN and VFCOS. -/
def xsin : XVal → XVal × Nat
  | .nan => (.nan, 0)
  | .inf _ => (.nan, fNV)
  | .zero n => (.zero n, 0)
  | .fin m e =>
    if topExp m e < -60 then (nudgeFin m e false, 0)
    else
      (settled fun p =>
        let (q, r) := quadrant p m e
        let v := if q % 2 = 0 then fxSin p r else fxCos p r
        fxVal p (if (q / 2 == 1) != decide (m < 0) then -v else v) 0, 0)
def xcos : XVal → XVal × Nat
  | .nan => (.nan, 0)
  | .inf _ => (.nan, fNV)
  | .zero _ => (.fin 1 0, 0)
  | .fin m e =>
    if topExp m e < -60 then (nudgeFin 1 0 false, 0)
    else
      (settled fun p =>
        let (q, r) := quadrant p m e
        let v := if q % 2 = 0 then fxCos p r else fxSin p r
        fxVal p (if q = 1 || q = 2 then -v else v) 0, 0)
/-- VFTANH. -/
def xtanh : XVal → XVal × Nat
  | .nan => (.nan, 0)
  | .inf n => (.fin (signInt n 1) 0, 0)
  | .zero n => (.zero n, 0)
  | .fin m e =>
    if 6 ≤ topExp m e then (nudgeFin (if m < 0 then -1 else 1) 0 false, 0)
    else if topExp m e < -60 then (nudgeFin m e false, 0)
    else
      (settled fun p =>
        let x := fxExpNat p (2 * toFx p m.natAbs e)
        fxVal p (signInt (decide (m < 0)) ((x - fxOne p) * fxOne p / (x + fxOne p))) 0, 0)

/-! ### Level-index values (R32 to R35). Positions and indexes count units of 2^-fw. -/

/-- A symmetric level-index format: its fraction width. -/
structure Sli where
  fw : Nat
deriving DecidableEq, Repr
def l32 : Sli := ⟨27⟩
def l16 : Sli := ⟨11⟩

def Sli.one (f : Sli) : Nat := 2 ^ f.fw
def Sli.frac (f : Sli) (x : Nat) : Nat := x % 2 ^ f.fw
def Sli.level (f : Sli) (x : Nat) : Nat := x / 2 ^ f.fw % 8
def Sli.rho (f : Sli) (x : Nat) : Bool := x / 2 ^ (f.fw + 3) % 2 == 1
def Sli.neg (f : Sli) (x : Nat) : Bool := x / 2 ^ (f.fw + 4) % 2 == 1
def Sli.isZero (f : Sli) (x : Nat) : Bool := f.level x == 0 && f.frac x == 0
def Sli.isNan (f : Sli) (x : Nat) : Bool := f.level x == 0 && f.frac x != 0
def Sli.signBit (f : Sli) (n : Bool) : Nat := if n then 2 ^ (f.fw + 4) else 0
/-- The index s of a non-zero magnitude (R33). -/
def Sli.index (f : Sli) (x : Nat) : Nat := f.level x * f.one + f.frac x
/-- The position T (R35). -/
def Sli.pos (f : Sli) (x : Nat) : Int := if f.rho x then 2 * f.one - f.index x else f.index x
def Sli.topPos (f : Sli) : Int := 8 * f.one - 1
def Sli.botPos (f : Sli) : Int := 1 - 6 * (f.one : Int)
/-- The encoding of a position. -/
def Sli.enc (f : Sli) (n : Bool) (t : Int) : Nat :=
  f.signBit n + (if t < f.one then 2 ^ (f.fw + 3) + (2 * f.one - t).toNat else t.toNat)
/-- The magnitude is at least 1 (R37). -/
def Sli.big (f : Sli) (x : Nat) : Bool := !f.rho x || f.index x == f.one

/-- An exact position or index: on the grid, just beside a grid point, or elsewhere (p fraction bits). -/
inductive TVal where
  | grid (t : Int)
  | near (t : Int) (up : Bool)
  | real (x : Int)
deriving DecidableEq, Repr

/-- A grid index in fixed point. -/
def Sli.fx (f : Sli) (p : Nat) (t : Int) : Int := t * (2 ^ (p - f.fw) : Nat)
/-- A value that differs from the grid point `base` by too little to be told apart is beside it. -/
def Sli.real (f : Sli) (p : Nat) (x : Int) (base : Int) (up : Bool) : TVal :=
  if (x - f.fx p base).natAbs < 2 ^ 500 then .near base up else .real x

/-- A computed position lies too near a boundary to be told from it at this precision. DESIGN CHOICE, safe: assumption 8. -/
def closeTo (x y : Int) : Bool := decide ((x - y).natAbs < 2 ^ 500)
/-- Rounding in index space (R35): the position and the flags, and whether the precision settles them. A position that no precision tells
from a midpoint, a grid point or an end of the range takes either side, or its flag or none, by a free choice. DESIGN CHOICE, safe: assumption 8. -/
def Sli.roundT (f : Sli) (p : Nat) : TVal → (Int × Nat) × Bool
  | .grid t => (if f.topPos < t then (f.topPos, fLTOP + fNX) else if t < f.botPos then (f.botPos, fLTOP + fNX) else (t, 0), true)
  | .near t up =>
    (if f.topPos < t || (t == f.topPos && up) then (f.topPos, fLTOP + fNX)
    else if t < f.botPos || (t == f.botPos && !up) then (f.botPos, fLTOP + fNX)
    else (t, fNX), true)
  | .real x =>
    let side := freeSide x.natAbs
    if closeTo x (f.fx p f.topPos) then ((f.topPos, if side then fLTOP + fNX else fNX), false)
    else if closeTo x (f.fx p f.botPos) then ((f.botPos, if side then fLTOP + fNX else fNX), false)
    else if f.fx p f.topPos < x then ((f.topPos, fLTOP + fNX), true)
    else if x < f.fx p f.botPos then ((f.botPos, fLTOP + fNX), true)
    else
      let lo := x / (2 ^ (p - f.fw) : Nat)
      let mid := f.fx p lo + (2 ^ (p - 1 - f.fw) : Nat)
      if closeTo x mid then ((if side then lo + 1 else lo, fNX), false)
      else
        let t := if mid < x then lo + 1 else lo
        if closeTo x (f.fx p t) then ((t, if side then 0 else fNX), false) else ((t, fNX), true)
/-- A position that is computed at every precision, rounded (R35). -/
def Sli.round (f : Sli) (t : Nat → TVal) : Int × Nat := settled fun p => f.roundT p (t p)

/-- ψ, the inverse of φ, of a fixed-point value. -/
def psi (p : Nat) : Nat → Nat → Nat
  | 0, x => x
  | f + 1, x => if x < fxOne p then x else fxOne p + psi p f (fxLn p x).toNat
/-- φ of an index in fixed point (R33), if it is below 2^300. -/
def phiGo (p : Nat) : Nat → Nat → Option Nat
  | 0, y => some y
  | n + 1, y => if 207 * fxOne p < y then none else phiGo p n (fxExpNat p y)
def Sli.phi (f : Sli) (p t : Nat) : Option Nat := phiGo p (t / f.one) (f.fx p (t % f.one)).toNat

/-- ln(1 ± e^-d) for d > 0 (or d = 0 when adding). -/
def lnOnePm (p : Nat) (sub : Bool) (d : Nat) : Int :=
  let e := fxExpNat p (-(d : Int))
  fxLn p (if sub then fxOne p - e else fxOne p + e)

/-- The index of φ(a) ± φ(b), a ≥ b. -/
def Sli.addIdx (f : Sli) (a b : Nat) (sub : Bool) (p : Nat) : TVal :=
  if b = 0 then .grid a
  else if sub && a == b then .grid 0
  else if a ≤ f.one && b ≤ f.one && (sub || a + b ≤ f.one) then .grid (if sub then a - b else a + b : Nat)
  else match f.phi p a, f.phi p b with
    | some x, some y => f.real p (psi p 9 (if sub then x - y else x + y)) a (!sub)
    | _, _ =>
      -- φ(a) is beyond direct range: its logarithm is φ(a − 1)
      let lnB : Option Int := if f.one ≤ b then (f.phi p (b - f.one)).map Int.ofNat else some (fxLn p (f.fx p b).toNat)
      match f.phi p (a - f.one), lnB with
      | some x, some y =>
        let d := (x - y).toNat
        if p * fxOne p < d then .near a (!sub)
        else f.real p (fxOne p + psi p 9 (x + lnOnePm p sub d).toNat) a (!sub)
      | _, _ => .near a (!sub)

/-- The logarithm of the magnitude at a position, as a number if it is below 2^300. -/
def Sli.logOf (f : Sli) (p : Nat) (t : Int) : Option Int :=
  (f.phi p (t - f.one).natAbs).map (signInt (decide (t < f.one)))
/-- The position of |x| ± |y| from the positions t ≥ v, not equal when subtracting. -/
def Sli.addPos (f : Sli) (t v : Int) (sub : Bool) (p : Nat) : TVal :=
  match f.logOf p t, f.logOf p v with
  | some x, some y =>
    let d := (x - y).toNat
    if p * fxOne p < d then .near t (!sub)
    else
      let l := x + lnOnePm p sub d
      f.real p (fxOne p + signInt (decide (l < 0)) (psi p 9 l.natAbs)) t (!sub)
  | _, _ => .near t (!sub)

/-- A signed index, as a position: 1 + r or 1 − r. -/
def Sli.fromIdx (f : Sli) (p : Nat) (neg : Bool) : TVal → TVal
  | .grid r => .grid (f.one + (if neg then -r else r))
  | .near r up => .near (f.one + (if neg then -r else r)) (up != neg)
  | .real x => .real (fxOne p + (if neg then -x else x))
/-- The position of |x|·|y|: the logarithms add. -/
def Sli.mulPos (f : Sli) (t v : Int) (k : Nat) : TVal :=
  let a := t - f.one
  let b := v - f.one
  let p := if b.natAbs ≤ a.natAbs then a else b
  let q := if b.natAbs ≤ a.natAbs then b else a
  f.fromIdx k (decide (p < 0)) (f.addIdx p.natAbs q.natAbs (decide (p < 0) != decide (q < 0)) k)

/-- The level flags of result z in format g against a first operand a in format f (R37). -/
def Sli.levelFlags (f : Sli) (a : Nat) (g : Sli) (z : Nat) : Nat :=
  if f.level a = 0 || g.level z = 0 then 0
  else if f.big a != g.big z then fLRX
  else if f.level a < g.level z then fLXU
  else if g.level z < f.level a then fLXD
  else 0

/-- A rounded result with its flags. -/
def Sli.result (f : Sli) (a : Nat) (n : Bool) (t : Nat → TVal) : Nat × Nat :=
  let (p, fl) := f.round t
  let z := f.enc n p
  (z, fl ||| f.levelFlags a f z)

/-- LADD (R36, R160). -/
def Sli.add (f : Sli) (a b : Nat) : Nat × Nat :=
  if f.isNan a || f.isNan b then (1, 0)
  else if f.isZero a && f.isZero b then (f.signBit (f.neg a && f.neg b), 0)
  else if f.isZero a then (f.enc (f.neg b) (f.pos b), 0)
  else if f.isZero b then (f.enc (f.neg a) (f.pos a), 0)
  else
    let t := f.pos a
    let v := f.pos b
    let sub := f.neg a != f.neg b
    if sub && t == v then (0, 0)
    else if v ≤ t then f.result a (f.neg a) (f.addPos t v sub)
    else f.result a (f.neg b) (f.addPos v t sub)
/-- The other sign of a value that is not a NaN (LNEG, R36, R164). A zero and a magnitude of 1 come out in the encodings that R34 says are
produced: DEDUCED, unsafe: assumption 56. -/
def Sli.negate (f : Sli) (a : Nat) : Nat :=
  if f.isNan a then a else if f.isZero a then f.signBit (!f.neg a) else f.enc (!f.neg a) (f.pos a)
/-- LSUB. -/
def Sli.sub (f : Sli) (a b : Nat) : Nat × Nat := f.add a (f.negate b)
/-- LMUL. -/
def Sli.mul (f : Sli) (a b : Nat) : Nat × Nat :=
  let n := f.neg a != f.neg b
  if f.isNan a || f.isNan b then (1, 0)
  else if f.isZero a || f.isZero b then (f.signBit n, 0)
  else f.result a n (f.mulPos (f.pos a) (f.pos b))
/-- LDIV. A division of x by a zero sets the level flags of R37 beside those of R36's row: DEDUCED, unsafe: assumption 56. -/
def Sli.div (f : Sli) (a b : Nat) : Nat × Nat :=
  let n := f.neg a != f.neg b
  if f.isNan a || f.isNan b then (1, 0)
  else if f.isZero b then
    if f.isZero a then (1, fNV)
    else
      let z := f.enc n f.topPos
      (z, fDZ ||| fLTOP ||| f.levelFlags a f z)
  else if f.isZero a then (f.signBit n, 0)
  else f.result a n (f.mulPos (f.pos a) (2 * f.one - f.pos b))
/-- LRCP (R36). -/
def Sli.recip (f : Sli) (a : Nat) : Nat :=
  if f.level a = 0 || (!f.rho a && f.index a == f.one) then a
  else if f.rho a then a - 2 ^ (f.fw + 3) else a + 2 ^ (f.fw + 3)

/-- The order of LCMP (R162); none beside a NaN. -/
def Sli.key (f : Sli) (a : Nat) : Int :=
  if f.isZero a then 0 else signInt (f.neg a) (f.pos a + 7 * f.one).toNat
def Sli.cmp (f : Sli) (a b : Nat) : Option Ordering :=
  if f.isNan a || f.isNan b then none else some (compare (f.key a) (f.key b))

/-- IEEE to SLI (R38). -/
def Sli.ofIeee (f : Sli) (snan : Bool) : XVal → Nat × Nat
  | .nan => (1, if snan then fNV else 0)
  | .inf n => (f.enc n f.topPos, fLTOP)
  | .zero n => (f.signBit n, 0)
  | .fin m e =>
    let n := decide (m < 0)
    let k := topExp m e
    if k = 0 && m.natAbs == 2 ^ Nat.log2 m.natAbs then (f.enc n f.one, 0)
    else
      let (t, fl) := f.round fun p =>
        let l := k * fxLn2 p + fxLn p (fxScale m.natAbs (p - Nat.log2 m.natAbs))
        .real (fxOne p + signInt (decide (l < 0)) (psi p 9 l.natAbs))
      (f.enc n t, fl)
/-- SLI to IEEE (R38): rounded in value space; beyond the largest finite value, infinite in every mode. -/
def Sli.toIeee (f : Sli) (g : Fmt) (r : Rnd) (sat ftz : Bool) (a : Nat) : Nat × Nat :=
  let n := f.neg a
  let ovf := if sat then (g.signed n g.top, fOF + fNX + fSAT) else (g.signed n (g.inf.getD g.top), fOF + fNX)
  if f.isNan a then (g.nan, 0)
  else if f.isZero a then (g.signed n 0, 0)
  else if f.index a = f.one then g.settle r sat ftz (.fin (signInt n 1) 0)
  else
    let small := f.rho a
    match settled fun p => match f.phi p (f.index a - f.one) with
      | some y =>
        if 1200 * fxOne p < y then (none, true)
        else
          let (v, k) := fxExp p (signInt small y)
          let (x, ok) := fxVal p (signInt n v) k
          (some x, ok)
      | none => (none, true) with
    | some v => if XVal.cmp v.abs (g.decode false g.top) == .gt then ovf else g.settle r sat ftz v
    | none => if small then g.settle r sat ftz (.fin (signInt n 1) (-5000)) else ovf

/-- l16 to l32 (R38), with the level flags. -/
def sliWiden (a : Nat) : Nat × Nat :=
  if l16.isNan a then (1, 0)
  else if l16.isZero a then (l32.signBit (l16.neg a), 0)
  else
    let z := l32.enc (l16.neg a) (l16.pos a * 65536)
    (z, l16.levelFlags a l32 z)
/-- l32 to l16 (R38): nearest position, ties to the even fraction. -/
def sliNarrow (a : Nat) : Nat × Nat :=
  if l32.isNan a then (1, 0)
  else if l32.isZero a then (l16.signBit (l32.neg a), 0)
  else
    let t := l32.pos a
    let q := t / 65536
    let rem := t % 65536
    let p := if 32768 < rem || (rem == 32768 && q % 2 == 1) then q + 1 else q
    let (p, fl) :=
      if l16.topPos * 65536 < t then (l16.topPos, fLTOP + fNX)
      else if t < l16.botPos * 65536 then (l16.botPos, fLTOP + fNX)
      else (p, if rem = 0 then 0 else fNX)
    let z := l16.enc (l32.neg a) p
    (z, fl ||| l32.levelFlags a l16 z)

end Sys2Proof.Machine
end

