-- ==== Sys2Proof/Machine/GridGeom.lean ====
section
/-!
DEFINITION. Partitioned grids (R294 to R299): descriptors and owner tables, the box of a partition and its ghost cells, the storage
of a cell, and the values the engine synthesises at global faces.
-/
namespace Sys2Proof.Machine

/-! ### Descriptors (R294, R295) -/

/-- `n` fields of `size` bytes from an offset. -/
def fieldsOf (b : List Byte) (off size n : Nat) : List Nat := (List.range n).map fun i => fieldOf b (off + size * i) size

/-- An entry of the owner table, if it obeys its layout. DEDUCED, unsafe: assumption 29. -/
def gownerOf (b : List Byte) : Option GOwner :=
  if fieldOf b 12 2 < 512 ∧ fieldOf b 14 1 < 4 ∧ fieldOf b 15 1 = 0 then
    some ⟨fieldOf b 0 8, fieldOf b 8 4, fieldOf b 12 2, fieldOf b 14 1⟩
  else none

/-- KIND and DBASE of the element format: plain words, or a format that R294 admits. -/
def gridFormat (s : State) (dom pfd : Nat) : Option (Nat × Nat) :=
  if pfd = 0 then some (0, 0)
  else if 64 ≤ pfd then none
  else (pfdOf s dom pfd).bind fun p =>
    if p.blk = 0 ∧ [1, 2, 3, 4, 5, 6, 8, 9].contains p.kind then some (p.kind, p.dbase) else none

/-- The descriptor without its owner table, if it obeys R294. -/
def gridOf (s : State) (dom : Nat) (b : List Byte) : Option GridD :=
  let nd := fieldOf b 4 1
  let g := fieldOf b 6 1
  let r := fieldOf b 7 1
  let d := fieldOf b 8 1
  let nb := fieldOf b 9 1
  let bc := fieldsOf b 12 1 6
  let n := fieldsOf b 20 4 3
  let p := fieldsOf b 32 4 3
  let cs := fieldsOf b 48 4 6
  let dimOk (k : Nat) : Bool :=
    let nk := n.getD k 0
    let pk := p.getD k 0
    let lo := bc.getD (2 * k) 0
    let hi := bc.getD (2 * k + 1) 0
    if k < nd then
      1 ≤ nk && nk ≤ 2 ^ 24 && 1 ≤ pk && pk ≤ 65535 && nk % pk == 0 && g ≤ nk / pk && lo ≤ 5 && hi ≤ 5 && ((lo == 0) == (hi == 0))
    else nk == 1 && pk == 1 && lo == 0 && hi == 0 && cs.getD (2 * k) 0 == 0 && cs.getD (2 * k + 1) 0 == 0
  let zero := ofBytes ((b.drop 80).take 176) == 0 && fieldOf b 11 1 == 0 && fieldOf b 18 2 == 0 && fieldOf b 44 4 == 0
  let lim := 1 ≤ nd && nd ≤ 3 && g ≤ 8 && 1 ≤ r && r ≤ 4 && 1 ≤ d && d ≤ 4 && (nb == 2 || nb == 3) && fieldOf b 10 1 ≤ 1
  if lim && zero && d * r ≤ g && (List.range 3).all dimOk && p.foldl (· * ·) 1 ≤ 2 ^ 20 && fieldOf b 72 8 % 64 == 0 then
    (gridFormat s dom (fieldOf b 5 1)).map fun f =>
      { id := fieldOf b 0 4, ndim := nd, pfd := fieldOf b 5 1, kind := f.1, dbase := f.2, gw := g, rad := r, depth := d
        nbuf := nb, fault := fieldOf b 10 1 == 1, bc := bc, n := n, p := p, consts := cs, owners := [], crc := crc32c b }
  else none

/-! ### The box of a partition (R295, R297) -/

def GridD.cnt (d : GridD) (k : Nat) : Nat := d.p.getD k 1
def GridD.ext (d : GridD) (k : Nat) : Nat := d.n.getD k 1 / d.cnt k
def GridD.gst (d : GridD) (k : Nat) : Nat := if k < d.ndim then d.gw else 0
def GridD.side (d : GridD) (k : Nat) : Nat := d.ext k + 2 * d.gst k
def GridD.vol (d : GridD) : Nat := d.side 0 * d.side 1 * d.side 2
/-- Index k of a partition. -/
def GridD.idx (d : GridD) (part k : Nat) : Nat :=
  match k with
  | 0 => part % d.cnt 0
  | 1 => part / d.cnt 0 % d.cnt 1
  | _ => part / d.cnt 0 / d.cnt 1
def GridD.partAt (d : GridD) (is : List Nat) : Nat := is.getD 0 0 + d.cnt 0 * (is.getD 1 0 + d.cnt 1 * is.getD 2 0)

/-- A cell is given by its coordinates relative to the partition's interior, or by its number in the box. -/
def GridD.cell (d : GridD) (x : List Int) : Nat :=
  let y (k : Nat) : Nat := (x.getD k 0 + d.gst k).toNat
  (y 2 * d.side 1 + y 1) * d.side 0 + y 0
def GridD.coords (d : GridD) (c : Nat) : List Int :=
  [(c % d.side 0 : Nat) - (d.gst 0 : Int), (c / d.side 0 % d.side 1 : Nat) - (d.gst 1 : Int),
    (c / d.side 0 / d.side 1 : Nat) - (d.gst 2 : Int)]
def dims : List Nat := [0, 1, 2]
def GridD.inBox (d : GridD) (x : List Int) : Bool :=
  dims.all fun k => -(d.gst k : Int) ≤ x.getD k 0 && x.getD k 0 < (d.ext k + d.gst k : Nat)
def GridD.interior (d : GridD) (x : List Int) : Bool := dims.all fun k => 0 ≤ x.getD k 0 && x.getD k 0 < d.ext k
/-- The depth of a ghost cell (R297). -/
def GridD.ghostDepth (d : GridD) (x : List Int) : Nat :=
  (dims.map fun k => if x.getD k 0 < 0 then (-(x.getD k 0)).toNat else (x.getD k 0 + 1 - d.ext k).toNat).foldl max 0
/-- The global coordinate of a cell. -/
def GridD.global (d : GridD) (part : Nat) (x : List Int) (k : Nat) : Int := x.getD k 0 + (d.idx part k * d.ext k : Nat)
def GridD.periodic (d : GridD) (k : Nat) : Bool := d.bc.getD (2 * k) 0 == 0
/-- The cell lies outside the global domain in a non-periodic dimension. -/
def GridD.beyond (d : GridD) (part : Nat) (x : List Int) (k : Nat) : Bool :=
  k < d.ndim && !d.periodic k && (d.global part x k < 0 || (d.n.getD k 1 : Int) ≤ d.global part x k)
def GridD.synthetic (d : GridD) (part : Nat) (x : List Int) : Bool := dims.any (d.beyond part x)
/-- The partition whose interior holds a cell of the global domain, and the cell there. -/
def GridD.source (d : GridD) (part : Nat) (x : List Int) : Nat × List Int :=
  let gl := dims.map fun k => (d.global part x k % (d.n.getD k 1 : Int)).toNat
  (d.partAt (gl.zipIdx.map fun z => z.1 / d.ext z.2), gl.zipIdx.map fun z => ((z.1 % d.ext z.2 : Nat) : Int))

/-- The neighbours of a partition (R297). DEDUCED, unsafe: assumption 29. -/
def GridD.neighbours (d : GridD) (part : Nat) : List Nat :=
  let step (k : Nat) : List Int := ([-2, -1, 0, 1, 2] : List Int).filter fun o =>
    let i := (d.idx part k : Int) + o
    o.natAbs * d.ext k < d.ext k + 2 * d.gst k && (d.periodic k || (0 ≤ i && i < d.cnt k))
  let at_ (k : Nat) (o : Int) : Nat := (((d.idx part k : Int) + o) % (d.cnt k : Int)).toNat
  (((step 2).map fun c => ((step 1).map fun b => (step 0).map fun a =>
    if a = 0 ∧ b = 0 ∧ c = 0 then [] else [d.partAt [at_ 0 a, at_ 1 b, at_ 2 c]]).flatten).flatten).flatten.eraseDups

/-! ### Storage (R26, R295) -/

def GridD.width (d : GridD) : Nat := if d.kind = 0 then 32 else kindWidth d.kind
def GridD.owner (d : GridD) (part : Nat) : GOwner := d.owners.getD part ⟨0, 0, 0, 0⟩
/-- Bits from DBASE, or from address 0 for plain words, to a cell of a buffer. DEDUCED, unsafe: assumption 29. -/
def GridD.bitAt (d : GridD) (part buf c : Nat) : Nat :=
  let a := (d.owner part).addr
  (if d.kind = 0 then 8 * a else (a - d.dbase) * 8 / d.width * d.width) + d.width * (buf * d.vol + c)
/-- The bytes that hold a cell, and its bit offset in the first. -/
def GridD.bytesOf (d : GridD) (part buf c : Nat) : List DWord × Nat :=
  let bit := d.bitAt part buf c
  ((List.range ((bit % 8 + d.width + 7) / 8)).map fun i => BitVec.ofNat 64 (d.dbase + bit / 8 + i), bit % 8)

/-- A byte of a grid's storage: its page must carry H and the grid's format, whose entry obeys R25 at every access and is the one that
the grid was bound with (R25, R170, R295); a window's pages carry no H and have no translation fault (R290). -/
def gridLoc (s : State) (gr : Grid) (k : Access) (va : DWord) : Except Trap Loc :=
  match windowLoc s va, translatePt s gr.dom gr.asn true va k with
  | some (.error t), _ => .error t
  | some (.ok _), _ => .error (preciseAt .format va)
  | none, .error t => .error t
  | none, .ok l =>
    let entry := match if l.pfd = 0 then none else pfdOf s gr.dom l.pfd with
      | none => l.pfd == 0
      | some p => p.kind == gr.d.kind && p.dbase == gr.d.dbase
    if l.h && l.pfd == gr.d.pfd && entry && formatOk s gr.dom l.pfd va then .ok l else .error (preciseAt .format va)
/-- The locations of the bytes of a cell. -/
def cellLocs (s : State) (gr : Grid) (k : Access) (part buf c : Nat) : Except Trap (List Loc) :=
  (gr.d.bytesOf part buf c).1.mapM (gridLoc s gr k)
/-- The raw element in the bytes at given locations. -/
def rawAt (s : State) (d : GridD) (part buf c : Nat) (ls : List Loc) : Nat :=
  ofBytes (ls.map fun l => Memory.byte s.mem l.key) / 2 ^ (d.bytesOf part buf c).2 % 2 ^ d.width
/-- The raw element of a cell, for the engine; an unreadable cell has none. -/
def readCell (s : State) (gr : Grid) (part buf c : Nat) : Option Nat :=
  match cellLocs s gr .load part buf c with
  | .error _ => none
  | .ok ls => if ls.any fun l => poisoned s l.key 1 then none else some (rawAt s gr.d part buf c ls)
/-- Write a raw element at locations: whole bytes in one write, else merged with the neighbouring elements. -/
def putRaw (s : State) (d : GridD) (part buf c v : Nat) (ls : List Loc) : State :=
  match ls with
  | [] => s
  | l :: _ =>
    if d.width % 8 = 0 then s.write l.key (d.width / 8) v
    else
      let off := (d.bytesOf part buf c).2
      let old := ofBytes (ls.map fun x => Memory.byte s.mem x.key)
      let new := old - (old / 2 ^ off % 2 ^ d.width) * 2 ^ off + v % 2 ^ d.width * 2 ^ off
      ls.zipIdx.foldl (fun t x => t.write x.1.key 1 (new / 256 ^ x.2 % 256)) s
/-- The bits of each byte that a cell's element fills. -/
def GridD.fills (d : GridD) (part buf c : Nat) (ls : List Loc) : List (Nat × Nat) :=
  ls.zipIdx.map fun x => (x.1.key, (2 ^ d.width - 1) * 2 ^ (d.bytesOf part buf c).2 / 256 ^ x.2 % 256)
/-- The poison of the words that a delivery fills whole goes (R460). -/
def fillWords (s : State) (fs : List (Nat × Nat)) : State :=
  if s.poison.isEmpty then s
  else
    let whole (k : Nat) : Bool := fs.foldl (fun m f => if f.1 = k then m ||| f.2 else m) 0 == 255
    { s with poison := s.poison.filter fun p => !(List.range (poisonUnit p)).all fun i => whole (p + i) }
def putCell (s : State) (gr : Grid) (part buf c v : Nat) : Option State :=
  match cellLocs s gr .store part buf c with
  | .error _ => none
  | .ok ls => some (putRaw s gr.d part buf c v ls)

/-! ### Values at global faces (R299) -/

/-- The exact value of a raw element that is not l32, and its encoding. -/
def GridD.val (d : GridD) (raw : Nat) : XVal := if d.kind = 0 then f32.decode false raw else elemVal d.kind raw
def GridD.enc (d : GridD) (x : XVal) : Nat :=
  match d.kind with
  | 0 => rne32 x
  | 1 => f16.round .rne x
  | 2 => bf16.round .rne x
  | 8 => (toIntSat 8 true .rne x).1
  | k => match kindFmt k with
    | some f => (f.narrow false x).1
    | none => 0

/-- An l32 value in the encoding the device produces (R34). -/
def Sli.canon (f : Sli) (a : Nat) : Nat :=
  if f.isNan a then 1 else if f.isZero a then f.signBit (f.neg a) else f.enc (f.neg a) (f.pos a)

/-- The position of a magnitude with logarithm l, beside the grid point `base` if it is too near to be told apart. -/
def Sli.ofLog (f : Sli) (p : Nat) (l : Int) (base : Int) (up : Bool) : TVal :=
  f.real p (fxOne p + signInt (decide (l < 0)) (psi p 9 l.natAbs)) base up

/-- ln n. -/
def lnNat (p n : Nat) : Int := fxLn p (n * fxOne p)

/-- e0 + k·(e0 − e1) in SLI, rounded once (R35): (k + 1)·|e0| and k·|e1| combined by their logarithms. -/
def Sli.linear (f : Sli) (k e0 e1 : Nat) : Nat :=
  let t0 := f.pos e0
  let t1 := f.pos e1
  let n0 := f.neg e0
  let n1 := !f.neg e1
  let one (n : Bool) (t : Int) (m : Nat) : Nat :=
    if m = 1 then f.enc n t
    else f.enc n (f.round fun p => match f.logOf p t with
      | some l => f.ofLog p (l + lnNat p m) t true
      | none => .near t true).1
  if f.isNan e0 || f.isNan e1 then 1
  else if f.isZero e0 && f.isZero e1 then 0
  else if f.isZero e0 then one n1 t1 k
  else if f.isZero e1 then one n0 t0 (k + 1)
  else if t0 == t1 then (if n0 == n1 then one n0 t0 (2 * k + 1) else f.enc n0 t0)
  else
    let sub := n0 != n1
    let two := settled fun p =>
      let la := (f.logOf p t0).map (· + lnNat p (k + 1))
      let lb := (f.logOf p t1).map (· + lnNat p k)
      let first (v : TVal) : (Bool × Int) × Bool := let x := f.roundT p v; ((n0, x.1.1), x.2)
      let second (v : TVal) : (Bool × Int) × Bool := let x := f.roundT p v; ((n1, x.1.1), x.2)
      match la, lb with
      | some x, some y =>
        let d := (x - y).natAbs
        let l := (if y ≤ x then x else y) + if p * fxOne p < d then 0 else lnOnePm p sub d
        if y ≤ x then first (f.ofLog p l t0 (!sub || t1 < t0)) else second (f.ofLog p l t1 (!sub || 2 ≤ k))
      | some x, none => if t1 < t0 then first (f.ofLog p x t0 true) else second (.near t1 (!sub || 2 ≤ k))
      | none, some y => if t1 < t0 then first (.near t0 true) else second (f.ofLog p y t1 (!sub))
      | none, none => if t1 < t0 then first (.near t0 true) else second (.near t1 (!sub || 2 ≤ k))
    f.enc two.1 two.2

/-- The cells a rule reads, by their distance from the face (R299). -/
def faceRefs (rule k : Nat) : List Nat :=
  match rule with
  | 1 => [0]
  | 2 | 3 => [k - 1]
  | 5 => [0, 1]
  | _ => []
/-- The ghost at depth k from the raw values of the cells the rule reads and the face's constant. DESIGN CHOICE, safe: assumption 3. -/
def GridD.ghost (d : GridD) (rule k const : Nat) (es : List Nat) : Nat :=
  let a := es.getD 0 0
  let b := es.getD 1 0
  if d.kind = 9 then
    match rule with
    | 1 | 2 => l32.canon a
    | 3 => l32.negate (l32.canon a)
    | 4 => if l32.isNan const then l32.canon const else const
    | _ => l32.linear k a b
  else
    match rule with
    | 1 | 2 => d.enc (d.val a)
    | 3 => d.enc (d.val a).neg
    | 4 => d.enc (f32.decode false const)
    | _ =>
      let diff := (XVal.add false (d.val a) (d.val b).neg).1
      let x := (XVal.add false (d.val a) (XVal.mul (.fin k 0) diff).1).1
      match x with
      | .zero _ => d.enc (.zero false)
      | _ => d.enc x

/-- The value of a cell of buffer t mod B as the face rules resolve it, dimension by dimension: interior cells, ghost cells
delivered for step t, and the rule's value at a face; none while a reference cell awaits its delivery. -/
def refVal (s : State) (gr : Grid) (p : GridPart) (t : Nat) : List Nat → List Int → Option Nat
  | [], x =>
    let c := gr.d.cell x
    let buf := t % gr.d.nbuf
    if gr.d.interior x || SMap.get none p.tags (buf * gr.d.vol + c) == some ⟨t, false⟩ then readCell s gr p.part buf c else none
  | k :: ks, x =>
    if gr.d.beyond p.part x k then
      let gx := gr.d.global p.part x k
      let n := gr.d.n.getD k 1
      let hi := decide (0 ≤ gx)
      let depth := if hi then (gx + 1 - n).toNat else (-gx).toNat
      let face := 2 * k + (if hi then 1 else 0)
      let rule := gr.d.bc.getD face 0
      let start : Int := (gr.d.idx p.part k * gr.d.ext k : Nat)
      -- a domain one cell wide has no second cell: the spec gives none, so the value is free
      let ref (j : Nat) : Option Nat :=
        if n ≤ j then some ((Config.freeWord (s.fresh + j)).toNat % 2 ^ gr.d.width)
        else refVal s gr p t ks (x.set k ((if hi then (n : Int) - 1 - j else j) - start))
      ((faceRefs rule depth).mapM ref).map fun es => gr.d.ghost rule depth (gr.d.consts.getD face 0) es
    else refVal s gr p t ks x

end Sys2Proof.Machine
end

