-- ==== Sys2Proof/Machine/Grid.lean ====
section
/-!
DEFINITION. The grid instructions (R190 to R193), the Headland engine's publications, deliveries and syntheses (R296 to R299), and
GLD and GST with their step tags (R300 to R302).
-/
namespace Sys2Proof.Machine
open Forms (LView)

/-! ### Grids of the package -/

def Grid.isOf (g : Grid) (dom asn : Nat) (desc : DWord) : Bool := g.dom == dom && g.asn == asn && g.desc == desc
def State.grid? (s : State) (dom asn : Nat) (desc : DWord) : Option Grid := s.grids.find? fun g => g.isOf dom asn desc
def State.setGrid (s : State) (g : Grid) : State :=
  { s with grids := g :: s.grids.filter fun x => !x.isOf g.dom g.asn g.desc }
def Grid.partOf (g : Grid) (p : Nat) : GridPart := (g.parts.find? fun x => x.part == p).getD { part := p }
def Grid.setPart (g : Grid) (p : GridPart) : Grid := { g with parts := p :: g.parts.filter fun x => x.part != p.part }
def Delivery.isOf (x : Delivery) (g : Grid) : Bool := g.isOf x.dom x.asn x.desc

/-! ### Synthesis and publication (R297, R299) -/

/-- Write a ghost cell of step t with its tag. -/
def putGhost (gr : Grid) (p : GridPart) (c : Nat) (tag : CellTag) : GridPart :=
  { p with tags := SMap.set none p.tags (tag.step % gr.d.nbuf * gr.d.vol + c) (some tag) }

/-- Synthesise the awaiting cells of a partition whose reference cells stand. -/
def synthesise (s : State) (gr : Grid) (p : GridPart) : State × GridPart :=
  p.await.foldl (fun (x : State × GridPart) (w : Nat × Nat) =>
    match (refVal x.1 gr x.2 w.2 dims (gr.d.coords w.1)).bind fun v => putCell x.1 gr p.part (w.2 % gr.d.nbuf) w.1 v with
    | none => x
    | some t =>
      let q := putGhost gr x.2 w.1 ⟨w.2, false⟩
      (t, { q with await := q.await.filter (· != w), synth := (w.1, w.2) :: q.synth })) (s, p)

/-- The ghost cells of partition `q` that lie in the interior of `p`, with the cell of `p` that holds each. -/
def GridD.ghostsFrom (d : GridD) (p q : Nat) : List (Nat × Nat) :=
  (List.range d.vol).filterMap fun c =>
    let x := d.coords c
    if d.interior x || d.synthetic q x then none
    else
      let (o, y) := d.source q x
      if o = p then some (c, d.cell y) else none

/-- The packet of a delivery (R296, R449): the receiver's partition in ADDR, GRIDID and the descriptor's CRC in AUX; the data
carries the sender's partition, the step, and the cells (DESIGN CHOICE, unsafe: assumption 12). -/
def deliveryPacket (s : State) (gr : Grid) (dst : Nat) (x : Delivery) : Packet :=
  let data := leBytes 4 x.src ++ leBytes 4 x.step ++ (x.cells.map fun c => leBytes 4 c.1 ++ leBytes 4 c.2).flatten
  { reqPacket s gr.dom 8 dst x.dst data.length data with aux := BitVec.ofNat 64 (gr.d.id + gr.d.crc * 2 ^ 32) }

/-- A partition's boundary cells of step t for one neighbour; a poisoned one is the publication's fault. -/
def cellsFor (s : State) (gr : Grid) (part t q : Nat) : Res (Nat × List (Nat × Nat)) := do
  let buf := t % gr.d.nbuf
  let cells ← (gr.d.ghostsFrom part q).mapM fun c => do
    let ls ← lift (cellLocs s gr .load part buf c.2)
    match ls.find? fun l => poisoned s l.key 1 with
    | some l => .error (.trap (flawed ((gr.d.bytesOf part buf c.2).1.headD 0) l.key l.home))
    | none => .ok (c.1, rawAt s gr.d part buf c.2 ls)
  .ok (q, cells)

/-- Send a partition's boundary cells of step t to one neighbour. -/
def sendTo (gr : Grid) (p : GridPart) (t : Nat) (s : State) (to_ : Nat × List (Nat × Nat)) : State :=
  let q := to_.1
  let pkg := (gr.d.owner q).pkg
  let x : Delivery := { id := s.nextId, dom := gr.dom, asn := gr.asn, desc := gr.desc, src := p.part, dst := q, step := t,
                        cells := to_.2, sent := pkg != s.fabric.pkg, launch := some s.gteam.launch }
  let s := { s with nextId := s.nextId + 1, deliveries := s.deliveries ++ [x] }
  if x.sent then
    let pk := deliveryPacket s gr pkg x
    s.send pk { bytes := pk.data.length, deliv := some x.id, launch := x.launch }
  else s.post (.headlandDelivery x.id)

/-- The engine accepts the publication of step t (R297): every neighbour's cells are read before anything is published. DEDUCED, unsafe: assumption 30. -/
def publish (s : State) (gr : Grid) (part t : Nat) : Res State := do
  let p := gr.partOf part
  let faces := (List.range gr.d.vol).filter fun c => gr.d.synthetic part (gr.d.coords c)
  let out ← (gr.d.neighbours part).mapM (cellsFor s gr part t)
  let (s, p) := synthesise s gr { p with published := some t, await := p.await ++ faces.map fun c => (c, t) }
  .ok (out.foldl (sendTo gr p t) (s.setGrid (gr.setPart p)))

/-- The lines that deliveries and syntheses of a publication will write on this package: the engine owns them from the instruction on
(R201, R298, R414). -/
def pubLines (s : State) (gr : Grid) (part t : Nat) : List (Loc × DWord) :=
  let buf := t % gr.d.nbuf
  let line (q c : Nat) : List (Loc × DWord) := match cellLocs s gr .store q buf c with
    | .ok ls => ls.zip (gr.d.bytesOf q buf c).1
    | .error _ => []
  (((List.range gr.d.vol).filter fun c => gr.d.synthetic part (gr.d.coords c)).map (line part)).flatten ++
    ((gr.d.neighbours part).map fun q =>
      if (gr.d.owner q).pkg = s.fabric.pkg then ((gr.d.ghostsFrom part q).map fun c => line q c.1).flatten else []).flatten

/-! ### GRID.BIND, GRID.PUB, GRID.STAT -/

/-- The owner table, entry by entry. DEDUCED, unsafe: assumption 29. -/
def readOwners (s : State) (a : DWord) : Nat → Res (List GOwner × State)
  | 0 => .ok ([], s)
  | n + 1 => do
    let (b, t) ← recordAt s a 2
    match gownerOf b with
    | none => .error (trapP .reservedField)
    | some o => do
      let (os, u) ← readOwners t (a + 16) n
      .ok (o :: os, u)

/-- Every page of a partition's storage carries H and the grid's format (R295). DEDUCED, unsafe: assumption 29. -/
def storageOk (s : State) (gr : Grid) (part : Nat) : Res Unit := do
  let d := gr.d
  let a := (d.owner part).addr
  require (if d.kind = 0 then a % 4 = 0 else d.dbase ≤ a) (.trap (preciseAt .format (BitVec.ofNat 64 a)))
  let lo := d.dbase + d.bitAt part 0 0 / 8
  let hi := d.dbase + (d.bitAt part 0 (d.nbuf * d.vol) - 1) / 8
  (List.range (hi / 65536 + 1 - lo / 65536)).forM fun i => do
    let _ ← lift (gridLoc s gr .load (BitVec.ofNat 64 (max lo ((lo / 65536 + i) * 65536))))

/-- Launches that still take part in a grid: those that are active. DESIGN CHOICE, unsafe: assumption 13. -/
def Grid.lives (s : State) (g : Grid) : Bool := g.launches.any fun n => (s.launch? n).isSome

/-- GRID.BIND (R190, R296). A grid that no active launch has bound begins afresh (DESIGN CHOICE, unsafe: assumption 13). -/
def execGridBind (g : BitVec 4) (a : SReg) (s : State) : Out :=
  finishS s (do
    ready s [] [a]
    drain s
    let va := s.rdS a
    recordCheck va 256
    let (b, t) ← recordAt s va 32
    match gridOf s s.gdom b with
    | none => .error (trapP .reservedField)
    | some d0 => do
      let (os, t) ← readOwners t (BitVec.ofNat 64 (fieldOf b 72 8)) (d0.p.foldl (· * ·) 1)
      let t := t.remClear
      let d := { d0 with owners := os }
      match os.findIdx? fun o => s.party == .group && o.pkg == s.fabric.pkg && o.team == s.gteam.teamlin with
      | none => .error (trapP .reservedField)
      | some part => do
        let fresh : Grid := { dom := s.gdom, asn := s.gasn, desc := va, d := d, launches := [], parts := [] }
        let gr := match s.grid? s.gdom s.gasn va with
          | some o => if o.lives s && o.d == d then o else fresh
          | none => fresh
        storageOk t gr part
        let u := if gr.parts == [] then { t with deliveries := t.deliveries.filter fun x => !x.isOf gr } else t
        let u := u.setGrid { gr with launches := (s.gteam.launch :: gr.launches).eraseDups }
        .ok { u with g := { u.g with grids := SMap.set ⟨0, 0⟩ u.g.grids g.toNat ⟨va, part + 1⟩ } }.next)

/-- The grid and the partition bound to a slot; an unbound slot raises RESERVED_FIELD. -/
def slotGrid (s : State) (g : BitVec 4) : Res (Grid × Nat) :=
  match SMap.get ⟨0, 0⟩ s.g.grids g.toNat with
  | ⟨_, 0⟩ => .error (trapP .reservedField)
  | ⟨a, p + 1⟩ => match s.grid? s.gdom s.gasn a with
    | none => .error (trapP .reservedField)
    | some gr => .ok (gr, p)

/-- GRID.PUB (R191). -/
def execGridPub (g : BitVec 4) (a : SReg) (s : State) : Out :=
  finishS s (do
    ready s [] [a]
    drain s
    let (gr, part) ← slotGrid s g
    let t := (s.rdS a).toNat % 2 ^ 32
    s.release .fab
    let low := match (gr.partOf part).published with
      | some p => decide (t < p)
      | none => false
    require (!low && t != 2 ^ 32 - 1) (trapP .reservedField)
    if (gr.partOf part).published = some t then .ok s.next
    else do
      let ls := pubLines s gr part t
      require (!ls.any fun l => s.owned l.1.key 1) (.stall .recall)
      let u ← s.grants false ls
      let u ← publish u gr part t
      .ok u.next)

/-- The latest of the steps, if there is one. -/
def latest (l : List Nat) : Option Nat := l.foldl (fun m x => match m with
  | some y => some (max x y)
  | none => some x) none

/-- The latest step received over the face of dimension k (R192): its neighbour's, or the latest whose cells the engine has
synthesised. -/
def faceStep (gr : Grid) (p : GridPart) (k : Nat) (hi : Bool) : Option Nat :=
  let d := gr.d
  let x (j : Nat) : Int := if hi then (d.ext k + j : Nat) else -((j : Int) + 1)
  let one := ([0, 0, 0] : List Int).set k (x 0)
  if d.gst k = 0 then none
  else if d.synthetic p.part one then
    let cells := (List.range d.vol).filter fun c =>
      let y := d.coords c
      (dims.all fun m => m == k || (0 ≤ y.getD m 0 && y.getD m 0 < d.ext m)) &&
        (if hi then decide ((d.ext k : Int) ≤ y.getD k 0) else decide (y.getD k 0 < 0))
    latest ((p.synth.map (·.2)).filter fun t => cells.all fun c => p.synth.contains (c, t))
  else latest ((p.recv.filter fun r => r.1 == (d.source p.part one).1).map (·.2))
/-- RCVSTEP. -/
def rcvStep (gr : Grid) (p : GridPart) : Nat :=
  let fs := ((List.range gr.d.ndim).map fun k => [faceStep gr p k false, faceStep gr p k true]).flatten
  if fs.all (·.isSome) then fs.foldl (fun m x => min m (x.getD m)) (2 ^ 32 - 1) else 2 ^ 32 - 1

/-- GRID.STAT (R192). -/
def execGridStat (d : SReg) (g : BitVec 4) (s : State) : Out :=
  finishS s (do
    ready s [d] []
    let (gr, part) ← slotGrid s g
    let p := gr.partOf part
    .ok (s.wrS d (BitVec.ofNat 64 (p.published.getD (2 ^ 32 - 1) * 2 ^ 32 + rcvStep gr p))).next)

/-! ### Deliveries (R298) -/

/-- A pending delivery is for the grid: by name, or a packet's by its GRIDID and the descriptor's CRC (R296). -/
def Delivery.isFor (x : Delivery) (gr : Grid) : Bool :=
  match x.packet with
  | none => x.isOf gr
  | some p => x.dom == gr.dom && p.aux.toNat == gr.d.id + gr.d.crc * 2 ^ 32

/-- The delivery may be written: the receiver is ready, and no earlier step waits on the region (R298). -/
def deliverable (s : State) (gr : Grid) (x : Delivery) : Bool :=
  (x.step < gr.d.nbuf || match (gr.partOf x.dst).published with
    | some p => decide (x.step + 1 ≤ p + gr.d.nbuf)
    | none => false) &&
  !s.deliveries.any fun y => y.isFor gr && y.src == x.src && y.dst == x.dst && y.step < x.step

/-- Write a delivery's cells; none when the storage cannot be written. -/
def writeCells (gr : Grid) (part buf : Nat) : List (Nat × Nat) → State → Option State
  | [], s => some s
  | (c, v) :: t, s => (putCell s gr part buf c v).bind (writeCells gr part buf t)

/-- A collective owns a line that the delivery, or a synthesis that waits for it, would write: it waits by recall (R201, R313). -/
def deliveryOwned (s : State) (gr : Grid) (x : Delivery) : Bool :=
  ((x.cells.map fun c => (x.step, c.1)) ++ (gr.partOf x.dst).await.map fun w => (w.2, w.1)).any fun w =>
    match cellLocs s gr .store x.dst (w.1 % gr.d.nbuf) w.2 with
    | .ok ls => ls.any fun l => s.owned l.key 1
    | .error _ => false

/-- A packet's response (R449). -/
def packetReply (p : Packet) (status : Nat) (data : List Byte) : Packet :=
  { type := p.type ||| 0x80, flags := (if p.flags.getLsbD 0 then 2 else 0) ||| (p.flags &&& 4), src := p.dst, dst := p.src
    tag := p.tag, len := BitVec.ofNat 32 data.length, pkey := p.pkey, op := p.op, status := BitVec.ofNat 8 status, addr := p.addr
    aux := 0, aux2 := 0, tailZero := true, data := data }
/-- Send a response. DEDUCED, unsafe: assumption 28. -/
def State.respond (s : State) (p : Packet) : State :=
  { s with fabric := { s.fabric with out := (planeOf s p.addr.toNat p.dst.toNat, p) :: s.fabric.out } }

/-- The grid a delivery is for: by name, or by a packet's GRIDID among those of the packet's domain. -/
def deliveryGrid (s : State) (x : Delivery) : Option Grid :=
  match x.packet with
  | none => s.grid? x.dom x.asn x.desc
  | some p => s.grids.find? fun g => g.dom == x.dom && g.d.id == p.aux.toNat % 2 ^ 32

/-- A delivery written: its cells, their tags, the syntheses that waited for them, and the answer to another package. DESIGN CHOICE, unsafe: assumption 31. -/
def deliver (s : State) (gr : Grid) (x : Delivery) : State :=
  let buf := x.step % gr.d.nbuf
  let fills := (x.cells.map fun c => match cellLocs s gr .store x.dst buf c.1 with
    | .ok ls => gr.d.fills x.dst buf c.1 ls
    | .error _ => []).flatten
  match if deliveryOwned s gr x then none else writeCells gr x.dst buf x.cells (fillWords s fills) with
  | none => s.post (.headlandDelivery x.id)
  | some t =>
    let p := x.cells.foldl (fun q c => putGhost gr q c.1 ⟨x.step, false⟩) (gr.partOf x.dst)
    let (t, p) := synthesise t gr { p with recv := (x.src, x.step) :: p.recv }
    let t := { (t.setGrid (gr.setPart p)).dropL1 with deliveries := t.deliveries.filter fun y => y.id != x.id }
    match x.packet with
    | none => t
    | some pk => t.respond (packetReply pk 0 [])

/-- HEADLAND_DELIVERY: written once the receiver is ready; a packet for a grid that this package has not bound waits, and one with
another descriptor is discarded and reported (R296). DESIGN CHOICE, unsafe: assumption 31. -/
def execHeadlandDelivery (n : Nat) (s : State) : Out :=
  .next (match s.deliveries.find? fun x => x.id == n with
    | none => s
    | some x =>
      if x.sent then s
      else match deliveryGrid s x with
        | none => s.post (.headlandDelivery n)
        | some gr =>
          if x.packet.any fun p => p.aux.toNat / 2 ^ 32 != gr.d.crc then
            { s with deliveries := s.deliveries.filter fun y => y.id != n }.errRecord 7 7 0 0 0
          else
            let x := { x with asn := gr.asn, desc := gr.desc }
            let s := { s with deliveries := s.deliveries.map fun y => if y.id == n then x else y }
            if deliverable s gr x then deliver s gr x else s.post (.headlandDelivery n))

/-! ### GLD and GST (R193, R300 to R302) -/

/-- The lanes' cells, or the fault of the first check that fails: unused coordinate fields, the type, the bounds. -/
def gridCells (s : State) (m : LGrid) (x : LIn) : Res (Grid × Nat × List (Nat × List Int)) := do
  let (gr, part) ← slotGrid s m.slot
  require ((2 ≤ gr.d.ndim || m.vb == .zero) && (3 ≤ gr.d.ndim || m.vc == .zero)) (trapP .reservedField)
  require (gr.d.kind == 0 || (m.ty == .b32) == (gr.d.kind == 9)) (trapP .format)
  let i (k : Nat) : Int := (gr.d.idx part k * gr.d.ext k : Nat)
  let cs := (lanesOf x.act).map fun l =>
    (l, [toSigned 32 (x.a l).toNat - i 0, toSigned 32 (x.b l).toNat - i 1, toSigned 32 (x.c l).toNat - i 2])
  failLanes (cs.filterMap fun c => if gr.d.inBox c.2 then none else some (c.1, preciseAt .bounds 0))
  .ok (gr, part, cs)

/-- The step tag: a uniform register as the run read it (R42, R92). -/
def stepTag (s : State) (k : SReg) : Res Nat := do
  require (!s.g.waits k) (.stall .scoreboard)
  .ok ((snapS s.g.run k).toNat % 2 ^ 32)

/-- T of a ghost cell: the most recent step delivered on its region, or synthesised, that is not above t (R300). -/
def deliveredStep (gr : Grid) (p : GridPart) (x : List Int) (t : Nat) : Option Nat :=
  let ss := if gr.d.synthetic p.part x then (p.synth.filter fun y => y.1 == gr.d.cell x).map (·.2)
    else (p.recv.filter fun y => y.1 == (gr.d.source p.part x).1).map (·.2)
  latest (ss.filter fun y => decide (y ≤ t))
/-- The tag of a ghost cell of the buffer of step t. -/
def tagAt (gr : Grid) (p : GridPart) (x : List Int) (t : Nat) : Option CellTag :=
  SMap.get none p.tags (t % gr.d.nbuf * gr.d.vol + gr.d.cell x)
/-- k ≤ g − r·(t − T). -/
def reaches (d : GridD) (x : List Int) (t tt : Nat) : Bool := d.ghostDepth x + d.rad * (t - tt) ≤ d.gw
/-- The cell is current (R300). -/
def current (gr : Grid) (p : GridPart) (x : List Int) (t : Nat) : Bool :=
  gr.d.interior x || match deliveredStep gr p x t with
    | none => false
    | some tt => decide (t + 1 ≤ tt + gr.d.depth) && reaches gr.d x t tt && match tagAt gr p x t with
      | some g => g.step == t && (g.isLocal || t == tt)
      | none => false

/-- STALE_HALO of lanes with their cells: what R301 reports is of the lowest. DEDUCED, unsafe: assumption 30. -/
def staleTrap (gr : Grid) (p : GridPart) (slot t : Nat) (cs : List (Nat × List Int)) : Res Unit :=
  let global (x : List Int) : List Int := x.zipIdx.map fun y => y.1 + (gr.d.idx p.part y.2 * gr.d.ext y.2 : Nat)
  failLanes (cs.map fun c => (c.1, { restartAt .staleHalo 0 with halo := some (slot, t, global c.2, rcvStep gr p) }))

/-- The lanes that are stale wait, or fault by the grid's policy (R301). -/
def staleWait (s : State) (gr : Grid) (p : GridPart) (slot t : Nat) (cs : List (Nat × List Int)) : Res Unit :=
  if cs.isEmpty then .ok ()
  else if gr.d.fault && (s.g.haloOver || s.g.haloWait.toNat % 2 ^ 32 = 0) then staleTrap gr p slot t cs
  else .error (.stall .staleHalo)

/-- The locations of the lanes' cells. -/
def gridLocs (s : State) (gr : Grid) (part t : Nat) (k : Access) (cs : List (Nat × List Int)) : Res (List (Nat × Nat × List Loc)) := do
  let rs := cs.map fun c => (c.1, gr.d.cell c.2, cellLocs s gr k part (t % gr.d.nbuf) (gr.d.cell c.2))
  failLanes (rs.filterMap fun r => (errorOf r.2.2).map fun e => (r.1, e))
  require (!rs.any fun r => match r.2.2 with
    | .ok ls => ls.any fun l => s.owned l.key 1
    | .error _ => false) (.stall .recall)
  .ok (rs.filterMap fun r => match r.2.2 with
    | .ok ls => some (r.1, r.2.1, ls)
    | .error _ => none)

/-- The stalled instruction's limit is spent when it performs. -/
def State.haloDone (s : State) : State := { s with g := { s.g with haloOver := false } }

/-- The word a GLD delivers from a raw element, and the raw element a GST stores (R193). -/
def GridD.load (d : GridD) (ty : LType) (raw : Nat) : Nat := if ty == .f32 && d.kind != 0 then elemF32 d.kind raw none else raw
def GridD.store (d : GridD) (ty : LType) (w : Nat) : Nat :=
  if ty == .f32 && d.kind != 0 then (encElem d.kind .rne false false w).1 else w

/-- GLD. DEDUCED, unsafe: assumption 30. -/
def execGld (m : LGrid) (s : State) : Out :=
  laneDo (Forms.gld m) (fun x u => do
    let (gr, part, cs) ← gridCells u m x
    let t ← stepTag u m.k
    let p := gr.partOf part
    staleWait u gr p m.slot.toNat t (cs.filter fun c => !current gr p c.2 t)
    let ls ← gridLocs u gr part t .load cs
    failLanes (ls.filterMap fun l => (l.2.2.find? fun y => poisoned u y.key 1).map fun y => (l.1, flawed 0 y.key y.home))
    let val (l : Nat) : DWord := byLane (ls.map fun y => (y.1, gr.d.load m.ty (rawAt u gr.d part (t % gr.d.nbuf) y.2.1 y.2.2))) l
    writeField u (u.haloDone.acquire .fab) x.act .w32 false m.vd val) s

/-- What a GST does with a lane's cell (R302). -/
inductive GstCase where
  | write | drop | wait | fault
deriving DecidableEq, Repr

/-- DEDUCED, unsafe: assumption 30. -/
def gstCase (s : State) (gr : Grid) (p : GridPart) (x : List Int) (t : Nat) : GstCase :=
  let d := gr.d
  if d.interior x then
    if s.deliveries.any fun y => y.packet.isNone && y.isOf gr && y.src == p.part && y.step < t && y.step % d.nbuf == t % d.nbuf then .wait
    else .write
  else if (tagAt gr p x t).any fun g => !g.isLocal && t ≤ g.step then .drop
  else match deliveredStep gr p x t with
    | none => .wait
    | some tt => if tt + d.depth < t + 1 then .wait else if reaches d x t tt then .write else .fault

/-- The words that the store of a cell folds (R417): its bits in place in the aligned words that hold them. -/
def cellWords (d : GridD) (part buf c v : Nat) : List (Word × Word) :=
  let bit := 8 * d.dbase + d.bitAt part buf c
  let x := v % 2 ^ d.width * 2 ^ (bit % 32)
  (List.range ((bit % 32 + d.width + 31) / 32)).map fun i => (BitVec.ofNat 32 (x / 2 ^ (32 * i)), BitVec.ofNat 32 (bit / 32 * 4 + 4 * i))

/-- GST. DEDUCED, unsafe: assumption 30. -/
def execGst (m : LGrid) (s : State) : Out :=
  laneDo (Forms.gst m) (fun x u => do
    let (gr, part, cs) ← gridCells u m x
    let t ← stepTag u m.k
    let p := gr.partOf part
    let dec := cs.map fun c => (c, gstCase u gr p c.2 t)
    staleTrap gr p m.slot.toNat t ((dec.filter fun c => c.2 == .fault).map (·.1))
    staleWait u gr p m.slot.toNat t ((dec.filter fun c => c.2 == .wait).map (·.1))
    let ws := (dec.filter fun c => c.2 == .write).map (·.1)
    let ls ← gridLocs u gr part t .store ws
    let buf := t % gr.d.nbuf
    let val (l : Nat) : Nat := gr.d.store m.ty ((x.d l).toNat % 2 ^ 32)
    let u ← u.grants true (ls.map fun y => y.2.2.zip (gr.d.bytesOf part buf y.2.1).1).flatten
    let u := u.fold true ((ls.map fun y => cellWords gr.d part buf y.2.1 (val y.1)).flatten)
    let u := ls.foldl (fun w y => putRaw w gr.d part buf y.2.1 (val y.1) y.2.2) u
    let p := (ws.filter fun c => !gr.d.interior c.2).foldl (fun q c => putGhost gr q (gr.d.cell c.2) ⟨t, true⟩) p
    .ok ((u.haloDone.dropSectors u.gteam.core).setGrid (gr.setPart p))) s

/-- STALE_HALO_TIMEOUT (R301): HALOWAIT ck have passed since the instruction first found a stale cell. DESIGN CHOICE, safe: assumption 1. -/
def execStaleHaloTimeout (gid : Nat) (s : State) : Out :=
  .next (onGroup s gid fun s =>
    if s.g.lStall = some .staleHalo then { s with g := { s.g with haloOver := true, lStall := none } } else s)

end Sys2Proof.Machine
end

