-- ==== Sys2Proof/Machine/Xfer.lean ====
section
/-!
DEFINITION. Transfers and collectives as their source and their ranks see them (R206 to R208, R451, R452, R454): XFER, COLL, the
segments that the all-reduce engine passes on in rank order, and the tokens.
-/
namespace Sys2Proof.Machine

/-! ### Reading a source range -/

/-- 8-byte units of an engine's source range up to the first that stops it. -/
def readRange (s : State) (va : DWord) : Nat → List Byte × Option Stop × State
  | 0 => ([], none, s)
  | n + 1 => match loadRaw s va 8 false with
    | .error e => ([], some e, s)
    | .ok (v, t) =>
      let (b, e, u) := readRange t (va + 8) n
      (leBytes 8 v ++ b, e, u)

/-- The packages share a plane that is up (R448): this package has one up. -/
def reachable (s : State) : Bool := !(List.range 72).all fun p => s.fabric.planesDown.contains p

/-! ### XFER (R206, R207) -/

/-- A transfer record. -/
structure XferRec where
  src : DWord
  dst : Nat
  ctr : DWord
  len : Nat
  peer : Nat
deriving DecidableEq, Repr

/-- The record, if its fields obey R206. DEDUCED, unsafe: assumption 25. -/
def xferOf (b : List Byte) : Option XferRec :=
  let r : XferRec := { src := BitVec.ofNat 64 (fieldOf b 0 8), dst := fieldOf b 8 8, ctr := BitVec.ofNat 64 (fieldOf b 16 8)
                       len := fieldOf b 24 4, peer := fieldOf b 28 2 }
  if r.src.toNat % 64 = 0 ∧ r.dst % 64 = 0 ∧ r.ctr.toNat % 8 = 0 ∧ r.len % 64 = 0 ∧ 64 ≤ r.len ∧ r.len ≤ 2 ^ 31 ∧ r.peer < 512 ∧
      fieldOf b 30 2 = 0 then some r
  else none

/-- The data cut where it crosses a 4 KiB boundary of the destination. -/
def xferChunks : Nat → Nat → List Byte → List (Nat × List Byte)
  | 0, _, _ => []
  | n + 1, a, b =>
    if b.isEmpty then []
    else
      let k := 4096 - a % 4096
      (a, b.take k) :: xferChunks n (a + k) (b.drop k)

/-- Send packet k of a transfer, on the k-th up plane from the transfer's first (R451). DEDUCED, unsafe: assumption 25. -/
def sendXfer (r : XferRec) (job : Nat) (s : State) (c : (Nat × List Byte) × Nat) : State :=
  let (a, b) := c.1
  s.sendOwn { reqPacket s s.gdom 6 r.peer a b.length b with aux := r.ctr }
    { bytes := b.length, job := some job, cells := [(a, b.length)], write := true, hop := some (r.dst, c.2) }

/-- XFER: what has been read is sent; a fault of the source is the token's code. DESIGN CHOICE, unsafe: assumption 9. DEDUCED, unsafe: assumption 25. -/
def execXfer (d a : SReg) (s : State) : Out :=
  finishS s (do
    ready s [d] [a]
    drain s
    let va := s.rdS a
    recordCheck va 32
    let (b, t) ← recordAt s va 4
    match xferOf b with
    | none => .error (trapP .reservedField)
    | some r => do
      s.release .fab
      if !reachable s then .ok ((t.remClear.endRegion.startJob d (.xfer 0 0 5) 0).next)
      else
        let (data, stop, u) := readRange t r.src (r.len / 8)
        match stop.map (cpStop u) with
        | some (.wait w st) => .error (.stallIn { s with remote := w.remote, fabric := w.fabric } st)
        | x =>
          let (code, u) := match x with
            | some (.code c w) => (c, w)
            | _ => (0, u)
          let whole := if code = 0 then data else data.take (data.length / 64 * 64)
          let cs := xferChunks (r.len / 64 + 1) r.dst whole
          let u := cs.zipIdx.foldl (sendXfer r u.nextId) u.remClear
          .ok ((u.endRegion.startJob d (.xfer cs.length 0 code) 0).next))

/-- XFER_COMPLETE (R207): every packet is acknowledged, or has failed. -/
def execXferComplete (job : Nat) (s : State) : Out :=
  .next (match s.job? job with
    | none => s
    | some j => match j.kind with
      | .xfer 0 acked code => s.finishJob j (statusWord code acked)
      | .xfer .. => s.post (.xferComplete job)
      | _ => s)

/-! ### COLL: streams of elements (R208) -/

/-- Bytes of an element in the buffers and in the stream between ranks: reductions pass f32 partial results. -/
def collElem (ty : Nat) : Nat := if ty = 1 then 2 else 4
def Coll.reduces (c : Coll) : Bool := c.op == 0 || c.op == 2
def Coll.esz (c : Coll) : Nat := if c.reduces then 4 else collElem c.ty
/-- Elements of the whole stream. -/
def Coll.elems (c : Coll) : Nat := if c.op = 1 ∨ c.op = 2 then c.count * c.pkgs.length else c.count
def Coll.bytes (c : Coll) : Nat := c.elems * c.esz
/-- Segments of 4 KiB; an empty stream has one empty segment. -/
def Coll.segs (c : Coll) : Nat := max 1 ((c.bytes + 4095) / 4096)
def Coll.isLast (c : Coll) : Bool := c.rank + 1 == c.pkgs.length

/-- An element of this rank's data as f32: bf16 is widened exactly. -/
def Coll.x (c : Coll) (i : Nat) : Nat := fieldOf c.own (collElem c.ty * i) (collElem c.ty) * (if c.ty = 1 then 65536 else 1)
/-- acc and the element of the next rank (R208, R149). DEDUCED, unsafe: assumption 26. -/
def collReduce (rop acc x : Nat) : Nat :=
  match rop with
  | 0 => (fpAdd f32 .rne false false acc x).1
  | 1 => (fpMinMax f32 false false false acc x).1
  | _ => (fpMinMax f32 true false false acc x).1
/-- A segment after this rank: reduced with its elements, or with its block put in. DEDUCED, unsafe: assumption 26. -/
def Coll.step (c : Coll) (off : Nat) (acc : List Byte) : List Byte :=
  if c.reduces then
    ((List.range (acc.length / 4)).map fun i =>
      let x := c.x (off / 4 + i)
      leBytes 4 (if c.rank = 0 then x else collReduce c.rop (fieldOf acc (4 * i) 4) x)).flatten
  else
    let block := c.count * c.esz
    let lo := if c.op = 1 then block * c.rank else 0
    if c.op = 3 ∧ c.rank ≠ c.root then acc
    else acc.zipIdx.map fun x => if lo ≤ off + x.2 ∧ off + x.2 < lo + block then c.own.getD (off + x.2 - lo) 0 else x.1

/-! ### Segments between ranks -/

/-- What every rank's record must agree on, as a segment carries it, with the code so far (DESIGN CHOICE, unsafe: assumption 14). -/
def Coll.header (c : Coll) (code : Nat) : List Byte :=
  leBytes 4 c.key ++ leBytes 4 c.count ++ leBytes 1 c.ty ++ leBytes 1 c.rop ++ leBytes 2 c.root ++ leBytes 1 code ++ leBytes 19 0
/-- Send a segment to a rank. DESIGN CHOICE, unsafe: assumption 14. -/
def collSend (dom job : Nat) (c : Coll) (off code : Nat) (b : List Byte) (s : State) (rank : Nat) : State :=
  let data := c.header code ++ b
  s.send { reqPacket s dom 7 (c.pkgs.getD rank 0) off data.length data with
    op := BitVec.ofNat 8 c.op, aux := BitVec.ofNat 64 (c.comm + c.seq * 2 ^ 32) } { bytes := data.length, job := some job }

/-- A result segment reaches this rank. DESIGN CHOICE, unsafe: assumption 15. -/
def Coll.take (c : Coll) (off code : Nat) (b : List Byte) : Coll :=
  if c.finished then c
  else if code ≠ 0 then { c with code := code, finished := true }
  else
    let got := (off, b) :: c.got.filter fun x => x.1 != off
    { c with got := got, finished := got.length == c.segs }

/-- A partial segment at this rank: reduced and passed on; the last rank returns the result to all. -/
def collFeed (dom job : Nat) (c : Coll) (s : State) (off code : Nat) (acc : List Byte) : Coll × State :=
  let code := if code = 0 then c.code else code
  let b := if code = 0 then c.step off acc else []
  if c.isLast then
    (c.take off code b, ((List.range (c.pkgs.length - 1))).foldl (collSend dom job c off code b) s)
  else (c, collSend dom job c off code b s (c.rank + 1))

/-- A segment packet at this rank: a result from the last rank, else a partial from the rank before; a record that disagrees gives
code 6. -/
def collPacket (dom job : Nat) (c : Coll) (s : State) (p : Packet) : Coll × State :=
  let h := p.data.take 32
  let code := fieldOf h 12 1
  let code := if p.op.toNat ≠ c.op ∨ (h.take 12) ≠ (c.header 0).take 12 then 6 else code
  let b := p.data.drop 32
  if c.finished then (c, s)
  else if !c.isLast && p.src.toNat == c.pkgs.getD (c.pkgs.length - 1) 0 then (c.take p.addr.toNat code b, s)
  else collFeed dom job c s p.addr.toNat code b

/-! ### COLL (R208, R454) -/

/-- The communicator's packages and key, or the code of the failure with the packages that its entry names. DESIGN CHOICE, unsafe: assumption 14. -/
def commOf (s : State) (dom c : Nat) : Except (State × Nat × List Nat) (List Nat × Nat) :=
  let d := s.dom dom
  let a := d.commbase.toNat + 32 * c
  let n := s.read (a + 8) 4
  let ra := s.read a 8
  let pkgs := (List.range n).map fun i => s.read (ra + 2 * i) 2
  if d.commcnt.toNat ≤ c then .error (s, 6, [])
  else if poisoned s a 32 then .error (s.note (flawed 0 a 0), 4, [])
  else if n = 0 ∨ 512 < n then .error (s, 6, [])
  else if poisoned s ra (2 * n) then .error (s.note (flawed 0 ra 0), 4, [])
  else if s.read (a + 16) 16 ≠ 0 ∨ (pkgs.filter (· == s.fabric.pkg)).length ≠ 1 then .error (s, 6, pkgs)
  else .ok (pkgs, s.read (a + 12) 4)

/-- The record, if its fields obey R208, without what the communicator gives. -/
def collOf (op : Nat) (b : List Byte) : Option Coll :=
  let ty := fieldOf b 20 1
  let rop := fieldOf b 21 1
  if 2 < ty ∨ (ty = 2 ∧ (op = 0 ∨ op = 2)) ∨ 2 < rop ∨ ((op = 1 ∨ op = 3) ∧ rop ≠ 0) ∨ ofBytes ((b.drop 28).take 36) ≠ 0 then none
  else some
    { op := op, count := fieldOf b 16 4, ty := ty, rop := rop, root := if op = 3 then fieldOf b 22 2 else 0
      comm := fieldOf b 24 4, seq := 0, key := 0, pkgs := [], rank := 0, own := [], keys := [] }

/-- Elements that this rank reads from SBUF and writes to DBUF. -/
def Coll.reads (c : Coll) : Nat :=
  if c.op = 2 then c.count * c.pkgs.length else if c.op = 3 ∧ c.rank ≠ c.root then 0 else c.count
def Coll.writes (c : Coll) : Nat := if c.op = 1 then c.count * c.pkgs.length else c.count

/-- This rank's elements, or the stop. DESIGN CHOICE, unsafe: assumption 9. -/
def collRead (s : State) (va : DWord) (n : Nat) : Nat → Except CpStop (List Byte × State)
  | 0 => .ok ([], s)
  | k + 1 => match loadRaw s va n false with
    | .error e => .error (cpStop s e)
    | .ok (v, t) => match collRead t (va + BitVec.ofNat 64 n) n k with
      | .error e => .error e
      | .ok (b, u) => .ok (leBytes n v ++ b, u)
/-- The destination's elements: their locations, or the fault. -/
def collDest (s : State) (va : DWord) (n : Nat) : Nat → Except Trap (List (Loc × DWord))
  | 0 => .ok []
  | k + 1 => match access s va n .store (.laneStore true) with
    | .error t => .error t
    | .ok l => match collDest s (va + BitVec.ofNat 64 n) n k with
      | .error t => .error t
      | .ok ls => .ok ((l, va) :: ls)

/-- A COLL that fails before this rank has a place among the ranks: it counts as one, and the other packages that its entry names are told
(R454). DESIGN CHOICE, unsafe: assumption 15. -/
def failColl (s : State) (d : SReg) (c : Coll) (code : Nat) (pkgs : List Nat) : State :=
  let c := { c with code := code, finished := true, pkgs := pkgs }
  let others := (List.range pkgs.length).filter fun i => pkgs.getD i 0 != s.fabric.pkg && pkgs.getD i 0 < 512
  let t := others.foldl (collSend s.gdom s.nextId c 0 code []) s
  (t.endRegion.startJob d (.coll c) 0).next

/-- Start a COLL at this rank: rank 0 sends its segments, another rank takes those that came early. -/
def startColl (s : State) (d : SReg) (c : Coll) : State :=
  let id := s.nextId
  let dom := s.gdom
  let (c, s) :=
    if c.finished then (c, s)
    else if c.rank = 0 then
      (List.range c.segs).foldl (fun (x : Coll × State) i =>
        collFeed dom id x.1 x.2 (4096 * i) 0 (List.replicate (min 4096 (c.bytes - 4096 * i)) 0)) (c, s)
    else
      let mine (p : Packet) : Bool := p.aux.toNat == c.comm + c.seq * 2 ^ 32 && keyDom s p.pkey == some dom
      let early := s.fabric.collHeld.filter mine
      let s := { s with fabric := { s.fabric with collHeld := s.fabric.collHeld.filter fun p => !mine p } }
      early.foldl (fun (x : Coll × State) p => collPacket dom id x.1 x.2 p) (c, s)
  (s.endRegion.startJob d (.coll c) 0).next

/-- COLL.op: a failure that this rank finds is a code that it passes on to the others (DESIGN CHOICE, unsafe: assumption 15). DESIGN CHOICE, unsafe: assumption 14. A record whose TYPE, OP or reserved
bytes break the layout raises RESERVED_FIELD, precise, as R206 has it for XFER: DESIGN CHOICE, unsafe: assumption 61. -/
def coll (op : Nat) (d a : SReg) (s : State) : Out :=
  finishS s (do
    ready s [d] [a]
    drain s
    let va := s.rdS a
    recordCheck va 64
    let (b, t) ← recordAt s va 8
    match collOf op b with
    | none => .error (trapP .reservedField)
    | some c => do
      s.release .fab
      let idx := 2 ^ 32 * t.gdom + c.comm
      let c := { c with seq := SMap.get 0 t.fabric.collSeq idx }
      let counted (u : State) : State :=
        { u with fabric := { u.fabric with collSeq := SMap.set 0 u.fabric.collSeq idx (c.seq + 1) } }
      match commOf t t.gdom c.comm with
      | .error (w, code, pkgs) => .ok (failColl (counted w.remClear) d c code pkgs)
      | .ok (pkgs, key) =>
        let c := { c with pkgs := pkgs, key := key, rank := pkgs.findIdx (· == t.fabric.pkg) }
        let n := collElem c.ty
        if pkgs.length ≤ c.root then .ok (startColl (counted t.remClear) d { c with code := 6 })
        else match collRead t (BitVec.ofNat 64 (fieldOf b 0 8)) n c.reads with
          | .error (.wait w st) => .error (.stallIn { s with remote := w.remote, fabric := w.fabric } st)
          | .error (.code k w) => .ok (startColl (counted w.remClear) d { c with code := k })
          | .ok (own, u) => match collDest u (BitVec.ofNat 64 (fieldOf b 8 8)) n c.writes with
            | .error e => .ok (startColl (counted (u.note e).remClear) d { c with code := cpCode u e.code })
            | .ok ls => do
              require (!ls.any fun l => s.owned l.1.key n) (.stall .recall)
              let u ← u.grants false ls
              .ok (startColl (counted u.remClear) d { c with own := own, keys := ls.map fun l => l.1.key }))

def execCollAr (d a : SReg) (s : State) : Out := coll 0 d a s
def execCollAg (d a : SReg) (s : State) : Out := coll 1 d a s
def execCollRs (d a : SReg) (s : State) : Out := coll 2 d a s
def execCollBc (d a : SReg) (s : State) : Out := coll 3 d a s

/-- The bytes of the whole result stream. -/
def Coll.stream (c : Coll) : List Byte :=
  ((List.range c.segs).map fun i => ((c.got.find? fun x => x.1 == 4096 * i).map (·.2)).getD []).flatten
/-- Element i of what this rank writes: its block of `.RS`; bf16 reductions are rounded once. DEDUCED, unsafe: assumption 26. -/
def Coll.result (c : Coll) (st : List Byte) (i : Nat) : Nat :=
  let j := if c.op = 2 then c.count * c.rank + i else i
  let v := fieldOf st (c.esz * j) c.esz
  if c.reduces ∧ c.ty = 1 then (encElem 2 .rne false false v).1 else v
/-- Write an element of the result: locally, to the host, or to a peer. -/
def collPut (j : Job) (n v : Nat) (s : State) (key : Nat) : State :=
  if isPeer key then
    let (d, a) := peerOf key
    s.send (reqPacket s j.dom 2 d a n (leBytes n v))
      { bytes := n, job := some j.id, gid := some j.gid, launch := some j.launch, cells := [(key, n)], write := true }
  else s.placeAt j.dom key n v

/-- The token of a COLL, which is an acquire whatever its code (R208, R311); a team that has waited for it is released (R211). -/
def endColl (s : State) (j : Job) (c : Coll) : State :=
  releaseGone (s.dropL1.finishJob j (if c.code = 0 then statusWord 0 (collElem c.ty * c.writes) else statusWord c.code 0))

/-- COLL_COMPLETE: the result is written, and the token after it and after the answers of another package that performs the writes. -/
def execCollComplete (job : Nat) (s : State) : Out :=
  .next (match s.job? job with
    | none => s
    | some j => match j.kind with
      | .coll c =>
        if !c.finished || s.jobWaits job then s.post (.collComplete job)
        else if c.code ≠ 0 ∨ c.written then endColl s j c
        else
          let st := c.stream
          let n := collElem c.ty
          let t := c.keys.zipIdx.foldl (fun t k => collPut j n (c.result st k.2) t k.1) s
          if c.keys.any isPeer then (t.setJob { j with kind := .coll { c with written := true } }).post (.collComplete job)
          else endColl t j c
      | _ => s)

end Sys2Proof.Machine
end

