-- ==== Sys2Proof/Machine/Packets.lean ====
section
/-!
DEFINITION. The fabric's transaction layer at its ends (R448 to R454): requests that arrive at this package as a target, segments and
deliveries for its engines, responses and timeouts at this package as a source, rate limits, and planes.
-/
namespace Sys2Proof.Machine

/-! ### Packets that are refused -/

/-- The bytes of a packet's fields that the layout of a type limits: a read's LEN, a vector packet's element count, and XFER data of at most
4 KiB that crosses no 4 KiB boundary (R449, R450). -/
def lenOk (t len addr : Nat) : Bool :=
  match t with
  | 1 => decide (4 ≤ len ∧ len ≤ 4096)
  | 4 | 5 => decide (len ≤ 32)
  | 6 => decide (addr % 4096 + len ≤ 4096)
  | _ => true
/-- A packet of an unknown type, or with a field that its layout does not admit (R449). -/
def packetBad (p : Packet) : Bool :=
  let t := p.type.toNat % 128
  t == 0 || 8 < t || 8 ≤ p.flags.toNat || 512 ≤ p.src.toNat || 512 ≤ p.dst.toNat || !p.tailZero ||
    (p.type.toNat < 128 && !lenOk t p.len.toNat p.addr.toNat)
/-- A fabric error reported to firmware (R449, R461). -/
def State.fabError (s : State) : State := s.errRecord 7 7 0 0 0

/-- FABRIC_BAD_PACKET. -/
def execFabricBadPacket (p : Packet) (s : State) : Out := .next (if packetBad p then s.fabError else s)

/-- The header beat of a packet (R449). -/
def headerBeat (p : Packet) : List Byte :=
  leBytes 1 p.type.toNat ++ leBytes 1 p.flags.toNat ++ leBytes 2 p.src.toNat ++ leBytes 2 p.dst.toNat ++ leBytes 2 p.tag.toNat ++
    leBytes 4 p.len.toNat ++ leBytes 2 p.pkey.toNat ++ leBytes 1 p.op.toNat ++ leBytes 1 p.status.toNat ++ leBytes 8 p.addr.toNat ++
    leBytes 8 p.aux.toNat ++ leBytes 8 p.aux2.toNat ++ leBytes 24 0
/-- A packet on the wire: its header beat, and its data in whole beats (R449). -/
def Packet.wire (p : Packet) : List Byte := headerBeat p ++ p.data ++ List.replicate ((64 - p.data.length % 64) % 64) 0
/-- The header that 64 bytes hold. -/
def readHeader (b : List Byte) (data : List Byte) : Packet :=
  { type := BitVec.ofNat 8 (fieldOf b 0 1), flags := BitVec.ofNat 8 (fieldOf b 1 1), src := BitVec.ofNat 16 (fieldOf b 2 2)
    dst := BitVec.ofNat 16 (fieldOf b 4 2), tag := BitVec.ofNat 16 (fieldOf b 6 2), len := BitVec.ofNat 32 (fieldOf b 8 4)
    pkey := BitVec.ofNat 16 (fieldOf b 12 2), op := BitVec.ofNat 8 (fieldOf b 14 1), status := BitVec.ofNat 8 (fieldOf b 15 1)
    addr := BitVec.ofNat 64 (fieldOf b 16 8), aux := BitVec.ofNat 64 (fieldOf b 24 8), aux2 := BitVec.ofNat 64 (fieldOf b 32 8)
    tailZero := fieldOf b 40 24 == 0, data := data }

/-- The domain whose partition key a unit carries (R448). DESIGN CHOICE, unsafe: assumption 24. -/
def unitKeyOk (s : State) (key : BitVec 16) (a : Nat) : Bool :=
  key != 0 && SMap.get 0 s.fabric.keys (a / 2 ^ 30) == key && SMap.get 15 s.units (a / 2 ^ 30) != 15
/-- The STATUS of an access by a request: 0 admitted, 1 refused, 2 above MEMTOP (R448, R449). -/
def admitStatus (s : State) (p : Packet) (a n : Nat) : Nat :=
  if s.priv.memtop.toNat < a + n then 2
  else if unitKeyOk s p.pkey a && unitKeyOk s p.pkey (a + n - 1) then 0 else 1

/-- A consumed data error at the target: its record. -/
def targetError (s : State) (a : Nat) : State :=
  let (st, u) := unitOf s a 0
  s.errRecord 1 st u 0 a

/-- A request of a given type arrives: bad ones are discarded and reported, others performed by `f`, which gives STATUS, AUX and the
response's data. -/
def serve (type : Nat) (p : Packet) (s : State) (f : State → State × Nat × DWord × List Byte) : State :=
  if packetBad p || p.type.toNat != type then s.fabError
  else
    let (t, st, aux, data) := f s
    t.respond { packetReply p st data with aux := aux }

/-! ### What a request waits for: recalls and grants (R201, R313, R414 to R416) -/

/-- The addresses of a vector packet, in offset order. -/
def vectorAddrs (p : Packet) : List Nat := (List.range p.len.toNat).map fun i => p.addr.toNat + fieldOf p.data (2 * i) 2
def vectorSize (p : Packet) : Nat := if p.flags.getLsbD 2 then 8 else 4
/-- The places that a request reaches: address and size. -/
def packetReach (p : Packet) : List (Nat × Nat) :=
  match p.type.toNat with
  | 3 => [(p.addr.toNat, if p.flags.getLsbD 2 then 8 else 4)]
  | 4 | 5 => (vectorAddrs p).map fun a => (a, vectorSize p)
  | 6 => (p.addr.toNat, p.len.toNat) :: if p.aux = 0 then [] else [(p.aux.toNat, 8)]
  | _ => [(p.addr.toNat, p.len.toNat)]
def InReq.reach : InReq → List (Nat × Nat)
  | .bar2 _ off w len => [(off, (w.map List.length).getD len)]
  | .packet p => packetReach p
/-- The lines that two requests share. -/
def InReq.meets (x y : InReq) : Bool :=
  x.reach.any fun a => y.reach.any fun b => a.1 / 512 ≤ (b.1 + b.2 - 1) / 512 && b.1 / 512 ≤ (a.1 + a.2 - 1) / 512
/-- The worst admission of a request's places. -/
def reachStatus (s : State) (p : Packet) (ps : List (Nat × Nat)) : Nat :=
  (ps.map fun a => admitStatus s p a.1 a.2).foldl (fun st x => if st = 0 then x else st) 0

/-- The lines for which a request is granted at its home node: a store's, an atomic's, those that the fabric takes into ownership for an
XFER, and an acquire's, which a read of 8 bytes at most may be. No field tells it from a plain load. DESIGN CHOICE, unsafe: assumption 59. -/
def grantLines (p : Packet) : List Nat :=
  let lines (a n : Nat) : List Nat := (List.range ((a + n - 1) / 512 + 1 - a / 512)).map fun i => max a (512 * (a / 512 + i))
  match p.type.toNat with
  | 1 => if p.len.toNat ≤ 8 then [p.addr.toNat] else []
  | 3 => if fabOpOf p.op == some gradIndex then [] else [p.addr.toNat]
  | 4 => []
  | 5 => vectorAddrs p
  | 6 => lines p.addr.toNat p.len.toNat
  | _ => lines p.addr.toNat p.len.toNat

/-- The participant for which a request is made: one of the domain's sessions and any of its numbers, or none. No field of a packet names
it: it is free, by the place among the free values that the request drew when it came. DESIGN CHOICE, unsafe: assumption 59. -/
def peerMember (s : State) (p : Packet) (seed : Nat) : Option Member :=
  let xs := s.sessions.filter fun x => some x.dom == keyDom s p.pkey
  (xs[(Config.freeWord seed).toNat % (xs.length + 1)]?).map fun x =>
    { dom := x.dom, asn := x.asn, phys := x.phys, desc := x.desc, play := x.play
      pid := (Config.freeWord (seed + 1)).toNat % max 1 (fieldOf x.rcd 12 4) }

/-- The grants that a request has not had yet, one a line in its order, logged or matched on the target package as its own are (R414 to
R416): the state, the lines granted, and whether it may be performed. DESIGN CHOICE, unsafe: assumption 59. -/
def peerGrants (m : Member) : List Nat → State → List Nat → State × List Nat × Bool
  | [], s, seen => (s, seen, true)
  | a :: as, s, seen =>
    if seen.contains (a / 512) then peerGrants m as s seen
    else match grantAt s m a 0 0 false with
      | .ok u => peerGrants m as u.remClear (a / 512 :: seen)
      | .error (.stallIn u _) => (u, seen, false)
      | .error _ => (s, seen, false)

/-! ### Requests (R449, R450, R452) -/

/-- A read. -/
def doRead (p : Packet) (s : State) : State :=
  serve 1 p s fun s =>
    let a := p.addr.toNat
    let n := p.len.toNat
    match admitStatus s p a n with
    | 0 => if poisoned s a n then (targetError s a, 3, 0, []) else (s, 0, 0, Memory.bytes s.mem a n)
    | st => (s, st, 0, [])
/-- A write. -/
def doWrite (p : Packet) (s : State) : State :=
  serve 2 p s fun s =>
    match admitStatus s p p.addr.toNat p.len.toNat with
    | 0 => (s.writeBytes p.addr.toNat (p.data.take p.len.toNat), 0, 0, [])
    | st => (s, st, 0, [])
/-- An atomic of 4 or 8 bytes, or a gradient contribution, which goes to the word's Thresher (R187, R336); a byte that names no
operation is a reserved field's value. DESIGN CHOICE, safe: assumption 27. -/
def doAtomic (p : Packet) (s : State) : State :=
  match fabOpOf p.op with
  | none => s.fabError
  | some i => serve 3 p s fun s =>
    let a := p.addr.toNat
    let n := if p.flags.getLsbD 2 then 8 else 4
    match admitStatus s p a n with
    | 0 =>
      if i = gradIndex then (contribute s ((keyDom s p.pkey).getD 0) a (p.aux.toNat % 2 ^ 32), 0, 0, [])
      else if poisoned s a n then (targetError s a, 3, 0, [])
      else
        let old := s.read a n
        (s.write a n (fabNew i n old p.aux.toNat p.aux2.toNat), 0, BitVec.ofNat 64 old, [])
    | st => (s, st, 0, [])
/-- A vector read, in offset order. -/
def doVectorRead (p : Packet) (s : State) : State :=
  serve 4 p s fun s =>
    let n := vectorSize p
    match reachStatus s p (packetReach p) with
    | 0 =>
      match (vectorAddrs p).find? fun a => poisoned s a n with
      | some a => (targetError s a, 3, 0, [])
      | none => (s, 0, 0, ((vectorAddrs p).map fun a => Memory.bytes s.mem a n).flatten)
    | st => (s, st, 0, [])
/-- A vector write, in offset order. -/
def doVectorWrite (p : Packet) (s : State) : State :=
  serve 5 p s fun s =>
    let n := vectorSize p
    match reachStatus s p (packetReach p) with
    | 0 => ((vectorAddrs p).zipIdx.foldl (fun t x => t.write x.1 n (fieldOf p.data (64 + n * x.2) n)) s, 0, 0, [])
    | st => (s, st, 0, [])
/-- XFER data: written, then its length is added to the arrival counter, which must lie in a HOME 1 page (R452). DEDUCED, unsafe: assumption 25. -/
def doXferData (p : Packet) (s : State) : State :=
  serve 6 p s fun s =>
    let c := p.aux.toNat
    match admitStatus s p p.addr.toNat p.len.toNat with
    | 0 =>
      let t := (s.writeBytes p.addr.toNat (p.data.take p.len.toNat)).dropL1
      if c = 0 then (t, 0, 0, [])
      else if c % 8 ≠ 0 || (homeRefusal t 1 c).isSome then (t, 4, 0, [])
      else if poisoned t c 8 then (targetError t c, 3, 0, [])
      else (t.write c 8 ((t.read c 8 + p.len.toNat) % 2 ^ 64), 0, 0, [])
    | st => (s, st, 0, [])

/-- A request for memory is performed. -/
def doPacket (p : Packet) (s : State) : State :=
  match p.type.toNat with
  | 1 => doRead p s
  | 2 => doWrite p s
  | 3 => doAtomic p s
  | 4 => doVectorRead p s
  | 5 => doVectorWrite p s
  | _ => doXferData p s

/-! ### A host's accesses through BAR2 (R439, R458) -/

/-- Every unit of the range belongs to the domain, and the range lies below MEMTOP. -/
def bar2Ok (s : State) (dom off n : Nat) : Bool :=
  decide (off + n ≤ s.priv.memtop.toNat) && SMap.get 15 s.units (off / 2 ^ 30) == dom &&
    SMap.get 15 s.units ((off + n - 1) / 2 ^ 30) == dom
/-- A refused access is counted. -/
def bar2Refused (s : State) (dom off : Nat) : State :=
  let d := s.dom dom
  s.setDom dom { d with refused := min (2 ^ 32 - 1) (d.refused + 1), refsticky := true, refaddr := BitVec.ofNat 64 off }
/-- A read's completion to the host, with the data-poisoned bit where an uncorrectable error was consumed (R458). -/
def State.hostReads (s : State) (dom off : Nat) (b : List Byte) (bad : Bool := false) : State :=
  { s with hostRd := (dom, off, b, bad) :: s.hostRd }
/-- A write of bytes, or a read of `len` bytes. -/
def doBar2 (dom off : Nat) (write : Option (List Byte)) (len : Nat) (s : State) : State :=
  match write with
  | some b => if bar2Ok s dom off b.length then s.writeBytes off b else bar2Refused s dom off
  | none =>
    if !bar2Ok s dom off len then (bar2Refused s dom off).hostReads dom off (List.replicate len 0xFF)
    else if poisoned s off len then (targetError s off).hostReads dom off (List.replicate len 0xFF) true
    else s.hostReads dom off (Memory.bytes s.mem off len)

/-! ### Arrivals -/

def InReq.perform (x : InReq) (s : State) : State :=
  match x with
  | .bar2 d o w n => doBar2 d o w n s
  | .packet p => doPacket p s
/-- The request would be admitted: one that is refused waits for nothing. -/
def InReq.admitted (x : InReq) (s : State) : Bool :=
  match x with
  | .bar2 d o w n => bar2Ok s d o ((w.map List.length).getD n)
  | .packet p => !packetBad p && reachStatus s p ((packetReach p).take (if p.type = 6 then 1 else 32)) == 0

/-- A request performs, or waits: for the recall of a line that an engine owns (R201, R313), and for its grants (R416), each of which it
keeps. -/
def tryArrival (x : Arrival) (s : State) : State × Option Arrival :=
  if !x.req.admitted s then (x.req.perform s, none)
  else if x.req.reach.any fun a => s.owned a.1 a.2 then (s, some x)
  else match x.req with
    | .bar2 .. => (x.req.perform s, none)
    | .packet p => match peerMember s p x.seed with
      | none => (x.req.perform s, none)
      | some m =>
        let (u, seen, ok) := peerGrants m (grantLines p) { s with ch := 2 ^ 40 + x.num } x.granted
        let u := { u with ch := s.ch }
        if ok then (x.req.perform u, none) else (u, some { x with granted := seen })
/-- A request from outside arrives, behind those that wait for a line of its own (R307). -/
def State.arrives (s : State) (r : InReq) : State :=
  let x : Arrival := { num := s.nextId, req := r, seed := s.fresh, granted := [] }
  let s := if s.sessions.isEmpty then s else { s with fresh := s.fresh + 2 }
  if s.waitIn.any fun y => y.req.meets r then { s with waitIn := s.waitIn ++ [x], nextId := s.nextId + 1 }
  else match tryArrival x s with
    | (t, none) => t
    | (t, some y) => { t with waitIn := t.waitIn ++ [y], nextId := s.nextId + 1 }
/-- The requests that wait are tried again, in their order. -/
def State.retryIn (s : State) : State :=
  s.waitIn.foldl (fun t x =>
    if t.waitIn.any fun y => y.req.meets x.req then { t with waitIn := t.waitIn ++ [x] }
    else match tryArrival x t with
      | (u, none) => u
      | (u, some y) => { u with waitIn := u.waitIn ++ [y] }) { s with waitIn := [] }

/-- A request for memory of a given type arrives. -/
def packetArrives (type : Nat) (p : Packet) (s : State) : State :=
  if packetBad p || p.type.toNat != type then s.fabError else s.arrives (.packet p)

def execFabricRead (p : Packet) (s : State) : Out := .next (packetArrives 1 p s)
def execFabricWrite (p : Packet) (s : State) : Out := .next (packetArrives 2 p s)
def execFabricAtomic (p : Packet) (s : State) : Out := .next (packetArrives 3 p s)
def execFabricVectorRead (p : Packet) (s : State) : Out := .next (packetArrives 4 p s)
def execFabricVectorWrite (p : Packet) (s : State) : Out := .next (packetArrives 5 p s)
/-- DEDUCED, unsafe: assumption 25. -/
def execFabricXferData (p : Packet) (s : State) : Out := .next (packetArrives 6 p s)

/-! ### Segments and deliveries -/

/-- A COLL segment of a domain: it goes to this rank's COLL, or is held until the rank issues it (R454). DESIGN CHOICE, unsafe: assumption 14. DESIGN CHOICE, unsafe: assumption 15. -/
def collArrive (s : State) (p : Packet) (dom : Nat) : State :=
  let comm := p.aux.toNat % 2 ^ 32
  let seq := p.aux.toNat / 2 ^ 32
  let isIt (j : Job) : Option (Job × Coll) := match j.kind with
    | .coll c => if j.dom = dom ∧ c.comm = comm ∧ c.seq = seq then some (j, c) else none
    | _ => none
  match s.jobs.findSome? isIt with
  | some (j, c) =>
    let (c, t) := collPacket dom j.id c s p
    t.setJob { j with kind := .coll c }
  | none =>
    if SMap.get 0 s.fabric.collSeq (2 ^ 32 * dom + comm) ≤ seq then
      { s with fabric := { s.fabric with collHeld := s.fabric.collHeld ++ [p] } }
    else s
def execFabricCollSegment (p : Packet) (s : State) : Out :=
  .next (serve 7 p s fun s => match keyDom s p.pkey with
    | none => (s, 1, 0, [])
    | some d => (collArrive s p d, 0, 0, []))

/-- The cells of a delivery's data (DESIGN CHOICE, unsafe: assumption 12). -/
def packetCells (p : Packet) : List (Nat × Nat) :=
  (List.range ((p.data.length - 8) / 8)).map fun i => (fieldOf p.data (8 + 8 * i) 4, fieldOf p.data (12 + 8 * i) 4)
/-- A Headland delivery from another package: it waits with its engine for the checks and the receiver (R296, R298). DESIGN CHOICE, unsafe: assumption 31. -/
def deliveryArrive (s : State) (p : Packet) (dom : Nat) : State :=
  let x : Delivery := { id := s.nextId, dom := dom, asn := 0, desc := 0, src := fieldOf p.data 0 4, dst := p.addr.toNat
                        step := fieldOf p.data 4 4, cells := packetCells p, packet := some p }
  { s with nextId := s.nextId + 1, deliveries := s.deliveries ++ [x] }.post (.headlandDelivery x.id)
/-- A key of neither domain is refused (R448). DESIGN CHOICE, unsafe: assumption 31. -/
def execFabricHeadlandPacket (p : Packet) (s : State) : Out :=
  .next (if packetBad p || p.type != 8 then s.fabError
    else match keyDom s p.pkey with
      | none => s.respond (packetReply p 1 [])
      | some d => deliveryArrive s p d)

/-! ### Responses (R453) -/

/-- A response's effect on the rate limit or the cap of its target. -/
def adjust (s : State) (d rtt : Nat) (ece : Bool) : State :=
  let f := s.fabric
  if s.priv.fabctl.getLsbD 0 then
    let least := SMap.get 0 f.minRtt d
    let m := if least = 0 then rtt else min least rtt
    let w := SMap.get 4096 f.wcap d
    let w := if 2 * rtt ≤ 3 * m then min (2 ^ 20) (w + 4096) else max 4096 (w / 2)
    { s with fabric := { f with minRtt := SMap.set 0 f.minRtt d m, wcap := SMap.set 4096 f.wcap d w } }
  else if !ece then s
  else
    let s := { s with fabric := { f with quietAt := SMap.set 0 f.quietAt d s.clock } }
    let f := s.fabric
    if (SMap.get 0 f.cutAt d = 0 || SMap.get 0 f.cutAt d + 1023 ≤ s.clock) then
      { s with fabric := { f with rl := SMap.set 1440 f.rl d (max 8 (SMap.get 1440 f.rl d * 7 / 8)),
                                  cutAt := SMap.set 0 f.cutAt d (s.clock + 1) } }
    else s

/-- RATE_RECOVERY: 1,024 ck have passed since the target's last response with ECE, or last addition. -/
def execRateRecovery (pkg : Nat) (s : State) : Out :=
  .next (if s.priv.fabctl.getLsbD 0 || decide (s.clock < SMap.get 0 s.fabric.quietAt pkg + 1024) then s
    else { s with fabric := { s.fabric with
      rl := SMap.set 1440 s.fabric.rl pkg (min 1440 (SMap.get 1440 s.fabric.rl pkg + 16))
      quietAt := SMap.set 0 s.fabric.quietAt pkg s.clock } })

/-- The token code of a response's STATUS (R199, R452). -/
def statusCode (st : Nat) : Nat := if st = 0 then 0 else if st = 3 then 4 else 2
/-- The status of a window access (R441). -/
def statusRem (st : Nat) : Nat := if st = 0 then 0 else if st = 3 then 3 else 1

/-- A request of a piece of work is answered: code 0, or why it failed. -/
def jobAnswer (s : State) (id bytes code : Nat) : State :=
  match s.job? id with
  | none => s
  | some j => match j.kind with
    | .copy =>
      let old := bitsOf j.status.toNat 56 7
      s.setJob { j with status := if code = 0 ∨ old ≠ 0 then j.status else statusWord code (j.status.toNat % 2 ^ 32) }
    | .xfer left acked c =>
      s.setJob { j with kind := .xfer (left - 1) (if code = 0 then acked + bytes else acked) (if c = 0 then code else c) }
    | .coll c => if code = 0 ∨ (c.finished ∧ !c.written) then s else s.setJob { j with kind := .coll { c with code := code, finished := true } }
    | .seal _ => s

/-- A posted access of a group has failed (R441): the group takes the fault at its next issue slot, now or when it next runs. DEDUCED, unsafe: assumption 28. -/
def postedFault (s : State) (gid : Nat) (st : Nat) : State := s.owe gid (remFault st 0)

/-- The value of `n` bytes from the elements of a packet and their data. -/
def elemBytes (pa n : Nat) (cells : List (Nat × Nat)) (data : List Byte) (got : List (Nat × Nat)) : Nat :=
  match cells with
  | [] => 0
  | c :: cs =>
    if pa ≤ c.1 && c.1 + c.2 ≤ pa + n && !got.contains c then
      fieldOf data 0 c.2 * 256 ^ (c.1 - pa) + elemBytes pa n cs (data.drop c.2) (c :: got)
    else elemBytes pa n cs (data.drop c.2) got

/-- A window access has its completion; a posted one that fails is its group's fault, and a completion record's is reported (R369). -/
def remAnswer (s : State) (r : FabReq) (st : Nat) (old : DWord) (data : List Byte) : State :=
  let isIt (x : RemReq) : Bool := isPeer x.pa && !x.isDone && x.tag == r.tag
  let val (x : RemReq) : Nat := if x.atomic.isSome then old.toNat else elemBytes x.pa x.size r.cells data []
  if s.remote.any isIt then { s with remote := s.remote.map fun x => if isIt x then { x with isDone := true, status := st, val := val x } else x }
  else if st = 0 || !r.write then s
  else if r.compl then s.irq 1
  else match r.gid with
    | some g => postedFault s g st
    | none => s

/-- The request is answered: the status of a window access, the code of a piece of work, old value and data. DEDUCED, unsafe: assumption 28. -/
def answer (s : State) (r : FabReq) (st code : Nat) (old : DWord) (data : List Byte) : State :=
  match r.job, r.deliv with
  | some j, _ => jobAnswer s j r.bytes code
  | none, some n =>
    if st = 0 then { s with deliveries := s.deliveries.filter fun x => x.id != n }
    else { s with deliveries := s.deliveries.map fun (x : Delivery) => if x.id == n then { x with launch := none } else x }
  | none, none => remAnswer s r st old data

def State.dropReq (s : State) (r : FabReq) : State :=
  { s with fabric := { s.fabric with reqs := s.fabric.reqs.filter fun x => !(x.tag == r.tag && x.dst == r.dst) } }

/-- FABRIC_RESPONSE. -/
def execFabricResponse (p : Packet) (s : State) : Out :=
  .next (
    if packetBad p || p.type.toNat < 128 then s.fabError
    else match s.fabric.reqs.find? fun r => r.tag == p.tag.toNat && r.dst == p.src.toNat with
      | none => s
      | some r =>
        let st := p.status.toNat
        answer (adjust (s.dropReq r) r.dst (s.clock - r.sent) (p.flags.getLsbD 1)) r (statusRem st) (statusCode st) p.aux p.data)

/-- A request has had no response for 1 ms (R441): token code 5 or a data error. DEDUCED, unsafe: assumption 28. -/
def timedOut (s : State) (r : FabReq) : State := answer (s.dropReq r) r 5 5 0 []

/-- PEER_TIMEOUT: the requests of a group, or for 0 of the device itself, that have had no response for 1,250,000 ck. DESIGN CHOICE, safe: assumption 1. -/
def execPeerTimeout (gid : Nat) (s : State) : Out :=
  let mine (r : FabReq) : Bool := match r.gid, r.job.bind s.job? with
    | some g, _ => g == gid
    | none, some j => j.gid == gid
    | none, none => gid == 0
  .next ((s.fabric.reqs.filter fun r => mine r && r.sent + 1250000 ≤ s.clock).foldl timedOut s)

/-! ### Planes (R448, R451) -/

/-- FABRIC_PLANE_DOWN: later requests take the planes that are up; the error is recorded. -/
def execFabricPlaneDown (plane : Nat) (s : State) : Out :=
  .next (
    if 72 ≤ plane || s.fabric.planesDown.contains plane then s
    else { s with fabric := { s.fabric with planesDown := plane :: s.fabric.planesDown } }.errRecord 4 7 plane 0 0)

end Sys2Proof.Machine
end

