-- ==== Sys2Proof/Machine/HostPort.lean ====
section
/-!
DEFINITION. The host's side of a domain (R439 to R444, R473): BAR2 accesses, register writes, the PCIe links and completions, and the
attestation window.
-/
namespace Sys2Proof.Machine

/-! ### BAR2 (R439, R458) -/

/-- The device has reached READY (R468): before it a BAR access other than to the domain registers does nothing. DEDUCED, unsafe: assumption 54. -/
def State.isReady (s : State) : Bool := s.start.step == 10

/-- HOST_BAR2_ACCESS: a write of bytes, or a read of `len` bytes; before READY a read gives ones and a write is dropped. DEDUCED, unsafe: assumption 54. -/
def execHostBar2Access (dom off : Nat) (write : Option (List Byte)) (len : Nat) (s : State) : Out :=
  .next (
    if s.isReady then s.arrives (.bar2 dom off write len)
    else if write.isSome then s
    else s.hostReads dom off (List.replicate len 0xFF))

/-! ### Register writes (R364, R440, R473) -/

/-- The host clears the sticky bits of a launch queue's block (R364). -/
def queueW1c (s : State) (i : Nat) (v : DWord) : State :=
  let q := s.queue i
  s.setQueue i { q with malf := q.malf && !v.getLsbD 2, ovf := q.ovf && !v.getLsbD 1 }
/-- A byte list of 64 with 8 bytes replaced. -/
def putNonce (b : List Byte) (off : Nat) (v : DWord) : List Byte :=
  (List.range 64).map fun i => if off ≤ i ∧ i < off + 8 then BitVec.ofNat 8 (v.toNat / 256 ^ (i - off)) else b.getD i 0

/-- The host writes half of an entry of the MSI-X table: the vector's address, or its data and its mask, bit 32; a pending message goes once
its vector is not masked (R439). PRESUMED, unsafe: assumption 23. -/
def msixWrite (s : State) (dom vec : Nat) (upper : Bool) (v : DWord) : State :=
  let d := s.dom dom
  if upper then
    let s := s.setDom dom { d with msixData := SMap.set (2 ^ 32) d.msixData vec (v &&& 0x1FFFFFFFF), msixPend := putBit d.msixPend vec false }
    if d.msixPend.getLsbD vec then s.message dom vec else s
  else s.setDom dom { d with msixAddr := SMap.set 0 d.msixAddr vec (v &&& ~~~3) }

/-- HOST_REGISTER_WRITE: the writable registers of BAR0 without a behaviour of their own; other offsets change nothing, and before READY
only NONCE is written, from step 4 on (R468, R473). A COMMCNT above 4,096 is not written (DESIGN CHOICE, unsafe: assumption 16). DEDUCED, unsafe: assumption 54. -/
def execHostRegisterWrite (dom off : Nat) (v : DWord) (s : State) : Out :=
  let d := s.dom dom
  .next (
    if 0x30040 ≤ off ∧ off < 0x30080 ∧ off % 8 = 0 ∧ 4 ≤ s.start.step then
      s.setDom dom { d with attest := { d.attest with nonce := putNonce d.attest.nonce (off - 0x30040) v } }
    else if !s.isReady then s
    else if off = 0x08 then s.setDom dom { d with commbase := BitVec.ofNat 64 (bitsOf v.toNat 6 46 * 64) }
    else if off = 0x10 then (if v.toNat % 2 ^ 13 ≤ 4096 then s.setDom dom { d with commcnt := BitVec.ofNat 64 (v.toNat % 2 ^ 13) } else s)
    else if off = 0x18 then s.setDom dom { d with refsticky := d.refsticky && !v.getLsbD 63 }
    else if 0x20000 ≤ off ∧ off < 0x20100 ∧ off % 8 = 0 then msixWrite s dom ((off - 0x20000) / 16) (off % 16 == 8) v
    else if 0x10000 ≤ off ∧ off < 0x14000 ∧ off % 0x100 = 0x18 then queueW1c s (64 * dom + (off - 0x10000) / 0x100) v
    else s)

/-! ### What the host reads in BAR0 (R364, R440, R473) -/

/-- A launch queue's block (R364): QCFG, QBASE, FREE and the counts; PUSH and what is reserved read zero. -/
def queueBlock (q : LaunchQueue) (off : Nat) : Nat :=
  if off = 0x00 then (if q.en then 2 ^ 31 else 0) + q.log2 * 2 ^ 16 + q.prio * 2 ^ 8 + q.cls
  else if off = 0x08 then q.base
  else if off = 0x10 then q.free
  else if off = 0x18 then q.dropped * 2 ^ 32 + (if q.malf then 4 else 0) + (if q.ovf then 2 else 0) + (if q.stop then 1 else 0)
  else 0
/-- The domain registers (R440). -/
def domainReg (s : State) (dom off : Nat) : Nat :=
  let d := s.dom dom
  if off = 0x00 then (if d.altpath then 2 ^ 10 else 0) + (if d.failover then 2 ^ 9 else 0) + (if s.isReady then 2 ^ 8 else 0) + dom
  else if off = 0x08 then d.commbase.toNat
  else if off = 0x10 then d.commcnt.toNat
  else if off = 0x18 then (if d.refsticky then 2 ^ 63 else 0) + d.refused
  else if off = 0x20 then d.refaddr.toNat
  else 0
/-- The MSI-X table, 16 bytes a vector, and the pending bits behind it (R439). PRESUMED, unsafe: assumption 23. -/
def msixReg (d : Domain) (off : Nat) : DWord :=
  if off = 0x100 then d.msixPend.setWidth 64
  else if off % 16 = 8 then SMap.get (2 ^ 32) d.msixData (off / 16)
  else SMap.get 0 d.msixAddr (off / 16)
/-- The attestation window (R473); the certificate is the part's own. DESIGN CHOICE, safe: assumption 4. -/
def attestReg (a : Attest) (off : Nat) : Nat :=
  if off = 0x008 then a.status
  else if 0x040 ≤ off ∧ off < 0x080 then fieldOf a.nonce (off - 0x040) 8
  else if 0x100 ≤ off ∧ off < 0x440 then fieldOf a.report (off - 0x100) 8
  else if 0x1000 ≤ off ∧ off < 0x3000 then ofBytes ((List.range 8).map fun i => Config.romByte (2 ^ 16 + off + i))
  else 0
/-- The eight bytes that the host reads at an aligned offset of BAR0: ones before READY, but for the domain registers from the end of
step 4 on and the attestation window from then on (R468, R473). -/
def hostRegister (s : State) (dom off : Nat) : DWord :=
  if s.start.step < 4 then BitVec.allOnes 64
  else if off < 0x10000 then BitVec.ofNat 64 (domainReg s dom off)
  else if 0x30000 ≤ off then BitVec.ofNat 64 (attestReg (s.dom dom).attest (off - 0x30000))
  else if !s.isReady then BitVec.allOnes 64
  else if off < 0x14000 then BitVec.ofNat 64 (queueBlock (s.queue (64 * dom + (off - 0x10000) / 0x100)) (off % 0x100))
  else if 0x20000 ≤ off ∧ off ≤ 0x20100 then msixReg (s.dom dom) (off - 0x20000)
  else 0

/-- How a configuration read is answered. -/
inductive ConfigAnswer where
  /-- as an absent function answers it: all ones -/
  | absent
  /-- Configuration Request Retry Status -/
  | retry
  /-- DSTART, in the vendor-specific capability -/
  | dstart (v : DWord)
  /-- what the PCIe standard gives -/
  | standard
deriving DecidableEq, Repr
/-- A configuration read through a function of a port, of DSTART or of another register (R439, R468, R470): function 1 is present while
failover is enabled for the domain it serves; DSTART is readable at every step. -/
def hostConfig (s : State) (port fn : Nat) (isDstart : Bool) : ConfigAnswer :=
  if 2 ≤ fn || (fn = 1 && !(s.dom (1 - port)).failover) then .absent
  else if isDstart then .dstart (dstart s.start)
  else if s.start.step < 4 then .retry
  else .standard

/-! ### PCIe (R442, R444) -/

/-- The host domain of a resident group. -/
def groupDom (s : State) (gid : Nat) : Option Nat :=
  (s.groups.find? fun g => g.gid == gid).map fun g => (s.launch (s.team g.team).launch).dom

/-- The newest `n` messages that the device sent on a port, newest first, as they go again on the other one. -/
def resent (s : State) (port n : Nat) : List HostMsg :=
  let on (m : HostMsg) : Option HostMsg := match m with
    | .write p a b r => if p = port then some (.write (1 - port) a b r) else none
    | .msix p d v a x => if p = port then some (.msix (1 - port) d v a x) else none
  (s.hostOut.filterMap on).take n

/-- PCIE_LINK_DOWN (R444): the link's end knows how many of the newest messages on the port, and which requests by their tags, its data-link
layer had not acknowledged. With failover the domain's traffic takes the other port: those messages and reads go there in their order,
and those AtomicOps end as timeouts; an acknowledged one awaits its completion. -/
def execPcieLinkDown (loss : LinkLoss) (s : State) : Out :=
  let port := loss.port
  let d := s.dom port
  let s := (s.setDom port { d with linkUp := false, altpath := d.altpath || d.failover }).errRecord 4 8 port 0 0
  let lost (x : RemReq) : Bool :=
    isHost x.pa && x.atomic.isSome && !x.isDone && loss.tags.contains x.tag && groupDom s x.gid == some port
  .next (if d.failover then
      { s with hostOut := resent s port loss.unacked ++ s.hostOut, remote := s.remote.map fun x => if lost x then { x with isDone := true, status := 5 } else x }
    else s)

/-- PCIE_LINK_UP: the link has retrained and firmware clears ALTPATH. DEDUCED, unsafe: assumption 28. -/
def execPcieLinkUp (port : Nat) (s : State) : Out :=
  .next (s.setDom port { s.dom port with linkUp := true, altpath := false })

/-- PCIE_COMPLETION: the request of a tag completes, with its data or an AtomicOp's old value, or as unsupported. DEDUCED, unsafe: assumption 28. -/
def execPcieCompletion (tag : Nat) (ok : Bool) (data : List Byte) (s : State) : Out :=
  let isIt (x : RemReq) : Bool := x.tag == tag && isHost x.pa && !x.isDone
  let complete (x : RemReq) : RemReq := { x with isDone := true, status := if ok then 0 else 1, val := ofBytes (data.take x.size) }
  .next { s with remote := s.remote.map fun x => if isIt x then complete x else x }

/-! ### Attestation (R473) -/

/-- ATTEST_CMD: a 1 starts a report unless one is under way. -/
def execAttestCmd (dom : Nat) (v : DWord) (s : State) : Out :=
  let d := s.dom dom
  let o := s.dom (1 - dom)
  .next (
    if v ≠ 1 ∨ d.attest.status = 1 ∨ s.start.step < 4 then s
    else
      let a : Attest := { d.attest with status := 1, latched := putNonce d.attest.nonce 64 0, behind := o.attest.status == 1 }
      (s.setDom dom { d with attest := a }).post (.attestDone dom))

/-- The digests of a report: of the ROM and of the fuse contents, into which a raised SVN floor is blown; the spec gives neither; and of the
image as verified (DESIGN CHOICE, safe: assumption 4). -/
def reportDigests (s : State) : List Byte :=
  let rom (n : Nat) : List Byte := (List.range 64).map fun i => Config.romByte (64 * n + i)
  let image : List Byte := match s.start.digest with
    | some d => (List.range 64).map fun i => d.getD i 0
    | none => rom 1
  rom 0 ++ image ++ (List.range 64).map (Config.fuseByte s.priv.svnfloor.toNat)
/-- The signed body of a report, 320 bytes. -/
def attestBody (s : State) (dom : Nat) (a : Attest) : List Byte :=
  a.latched ++ reportDigests s ++ leBytes 8 s.start.svn ++ leBytes 8 (if s.start.image then 1 else 0) ++ leBytes 8 dom ++ leBytes 40 0
/-- The report: its body, and the signature over it by R472's scheme with the part's identity key (DESIGN CHOICE, safe: assumption 4). -/
def attestReport (s : State) (dom : Nat) (a : Attest) : List Byte :=
  attestBody s dom a ++ rsaSign Config.idModulus Config.idExponent (attestBody s dom a)

/-- ATTEST_DONE: the windows are served in the order of their CMD writes. -/
def execAttestDone (dom : Nat) (s : State) : Out :=
  let d := s.dom dom
  let o := s.dom (1 - dom)
  .next (
    if d.attest.status ≠ 1 then s
    else if d.attest.behind then s.post (.attestDone dom)
    else
      let s := s.setDom dom
        { d with attest := { d.attest with status := 2, report := attestReport s dom d.attest } }
      s.setDom (1 - dom) { o with attest := { o.attest with behind := false } })

end Sys2Proof.Machine
end

