-- ==== Sys2Proof/Machine/Integrity.lean ====
section
/-!
DEFINITION. Scrubbing, runtime repair and the mesh links (R455, R458, R460 to R463, R465), and the promotion of a waiting group
(R373).
-/
namespace Sys2Proof.Machine

/-- Poison words (R460). -/
def State.poisons (s : State) (ps : List Nat) : State :=
  { s with poison := s.poison ++ ps.eraseDups.filter fun p => !s.poison.contains p }
/-- STRUCT and UNIT of a data error at an address of main memory or of a HOME 2 line (R461). DEDUCED, unsafe: assumption 64. -/
def errUnit (s : State) (w : ErrPlace) (pa : Nat) : Nat × Nat :=
  match w with
  | .l2 => (3, (unitOf s pa 0).2)
  | .granary => (4, (sliceOf s pa).1)
  | .hbm => (5, (sliceOf s pa).1 / 8)

/-- A tag error on a line in L2 or the Granary (R459): a clean line is invalidated, which is a corrected error; of a dirty line every word is
poisoned. A HOME 2 line, which stands in L2 alone, counts as dirty. DEDUCED, unsafe: assumption 64. -/
def tagError (s : State) (granary : Bool) (pa : Nat) : State :=
  let line := pa / 512
  let home2 := decide (home2Base ≤ pa)
  let (st, u) := errUnit s (if granary then .granary else .l2) pa
  let words := (List.range 32).map fun i => 512 * line + 16 * i
  match (if granary then s.granary else s.l2).find? fun x => x.line == line with
  | none => if home2 && !granary then (s.poisons words).errRecord 2 st u 0 pa else s
  | some x =>
    let t := if granary then { s with granary := s.granary.filter fun y => y.line != line }
      else { s with l2 := s.l2.filter fun y => y.line != line }
    if !x.dirty then t.errRecord 0 st u 0 pa else (t.poisons words).errRecord 2 st u 0 pa

/-- An error of a word that programs do not address, or of a register: corrected, with its record, or left in the word until it is read or
written (R456, R458). -/
def strikeGroup (s : State) (gid struct unit : Nat) (fixed : Bool) (f : Group → Group) : State :=
  if fixed then s.errRecord 0 struct unit 0 0
  else if polId 0 ≤ gid then s
  else s.mapGroups fun g => if g.live && g.gid == gid then f g else g
/-- The core of a group. -/
def State.coreOf (s : State) (gid : Nat) : Nat :=
  ((s.groups.find? fun g => g.gid == gid).map fun g => (s.team g.team).core).getD 0
/-- A word of core SRAM. -/
def strikeSram (s : State) (key : Nat) (fixed : Bool) : State :=
  if fixed then s.errRecord 0 1 (unitOf s key 1).2 0 (if 2 ^ 60 ≤ key then 0 else key) else s.poisons [poisonKey key]
/-- A message. -/
def strikeMessage (s : State) (cid ch prod cons i : Nat) (fixed : Bool) : State :=
  let c := s.cluster cid
  let isIt (x : Chan) : Bool := x.ch == ch && x.prod == prod && x.cons == cons && decide (i < x.msgs.length)
  if fixed then s.errRecord 0 1 (c.coreOf cons) 0 0
  else s.setCluster { c with chans := c.chans.map fun x => if isIt x then { x with bad := i :: x.bad.filter (· != i) } else x }

/-- An error of a memory word at an address of main memory or of a HOME 2 line: one that a check corrects, one that a scrub, an eviction or a
write-back finds uncorrectable, a tag's, or one that nothing has met yet. -/
def strikeWord (s : State) (pa : Nat) : Finding → State
  | .corrected w => s.errRecord 0 (errUnit s w pa).1 (errUnit s w pa).2 0 pa
  | .uncorrectable w => (s.poisons [poisonKey pa]).errRecord 2 (errUnit s w pa).1 (errUnit s w pa).2 0 pa
  | .tag granary => tagError s granary pa
  | .struck => s.poisons [poisonKey pa]
  | _ => s

/-- SCRUB_PASS (R456, R458, R459, R462): what a patrol scrub finds, while scrubbing is enabled; and what the checks of every structure find
without it. A link's retries, and a mesh link at its retry limit, which counts as down, are reported. DEDUCED, unsafe: assumption 64. -/
def execScrubPass (pa : Nat) (find : ScrubFind) (s : State) : Out :=
  let here := decide (pa < capacity s) || (homeRefusal s 2 pa).isNone
  .next (
    if find.patrol && !s.priv.scrubctl.getLsbD 32 then s
    else match find.what with
      | .scalarReg gid r fixed => strikeGroup s gid 0 (s.coreOf gid) fixed fun g =>
          if r = 0 ∨ 64 ≤ r then g else { g with sc := { g.sc with bad := putBit g.sc.bad r true } }
      | .vectorReg gid k fixed => strikeGroup s gid 0 (s.coreOf gid) fixed fun g =>
          if k < Config.W * g.winsz then { g with badV := k :: g.badV.filter (· != k) } else g
      | .scratch team off fixed => if (s.team team).resident ∧ off < (s.team team).scrsz then strikeSram s (scratchKey team off) fixed else s
      | .pinned fixed => if (homeRefusal s 1 pa).isNone then strikeSram s pa fixed else s
      | .message c ch prod cons i fixed => strikeMessage s c ch prod cons i fixed
      | .tapeWord gid w fixed => strikeGroup s gid 1 (s.coreOf gid) fixed fun g =>
          if 30 * g.tape.resLo ≤ w ∧ w < g.tape.wpos then { g with tape := { g.tape with bad := w :: g.tape.bad.filter (· != w) } } else g
      | .retried st link => if 6 ≤ st ∧ st ≤ 8 then s.errRecord 3 st link 0 0 else s
      | .meshLost link => s.errRecord 4 6 link 0 0
      | f => if here then strikeWord s pa f else s)

/-- A repair: its record is written to the repair sector, or holds for this run alone when the sector is full (R465). -/
def repair (s : State) (rec_ : Nat) (struct unit : Nat) : State :=
  let full := decide (510 ≤ (sectorRecords s.start.sectorNow).length)
  let r := BitVec.ofNat 64 rec_
  let st := if full then { s.start with extra := s.start.extra ++ [r] }
    else { s.start with writes := s.start.writes ++ [sectorAppend s.start.sectorNow r] }
  let t := { s with start := st, priv := { s.priv with repairstat := repairStat (st.repairs ++ s.env.fused) st.retired } }.errRecord 5
    struct unit (if full then 1 else 0) 0
  if full then t else t.post .flashWrite

/-- ROW_SPARE (R463): a row is spared; a stack whose spare rows have run out is marked for retirement at the next start. -/
def execRowSpare (stack channel : Nat) (row : Option Nat) (s : State) : Out :=
  .next (match row with
    | some r => repair s (2 ^ 60 + stack % 16 * 2 ^ 56 + channel % 256 * 2 ^ 48 + r % 2 ^ 32) 5 stack
    | none => repair s (2 * 2 ^ 60 + stack % 16 * 2 ^ 56) 5 stack)

/-- WAY_DISABLE (R463): the way's lines leave in every set of the slice; dirty ones are written back, from L2 to the Granary where it holds
the line, poison included. -/
def execWayDisable (die slice way : Nat) (granary : Bool) (s : State) : Out :=
  let goes (x : CacheLine) : Bool := (setOf s granary x.line).1 == die * 32 + slice && x.way == way
  let s := if granary then { s with granary := s.granary.filter fun x => !goes x }
    else
      let back := (s.l2.filter fun x => goes x && x.dirty).map (·.line)
      { s with l2 := s.l2.filter fun x => !goes x
               granary := s.granary.map fun x => if back.contains x.line then { x with dirty := true } else x }
  .next (repair s (3 * 2 ^ 60 + die % 16 * 2 ^ 56 + slice % 256 * 2 ^ 48 + (if granary then 2 ^ 47 else 0) + way % 32 * 2 ^ 40)
    (if granary then 4 else 3) (die * 32 + slice))

/-- The width of a mesh link, 0 full, 1 half, 2 quarter: MESHCTL fixes it for every link, or leaves it automatic (R455). -/
def State.linkWidth (s : State) (link : Nat) : Nat :=
  let m := bitsOf s.priv.meshctl.toNat 0 2
  if m = 0 then SMap.get 0 s.fabric.links link else m - 1
/-- The data bits of a link at a width: a reply link has 256 at full width, a request link 64. A flit is one link width of data with a CRC-16
(R455). -/
def linkBits (reply : Bool) (width : Nat) : Nat := (if reply then 256 else 64) / 2 ^ width
def flitBits (reply : Bool) (width : Nat) : Nat := linkBits reply width + 16
/-- MESH_NARROW and MESH_WIDEN (R455): a link changes its width while MESHCTL leaves it automatic; narrowing never widens it. -/
def execMeshNarrow (link : Nat) (quarter : Bool) (s : State) : Out :=
  .next (if bitsOf s.priv.meshctl.toNat 0 2 = 0 then
      { s with fabric := { s.fabric with
        links := SMap.set 0 s.fabric.links link (max (SMap.get 0 s.fabric.links link) (if quarter then 2 else 1)) } }
    else s)
def execMeshWiden (link : Nat) (s : State) : Out :=
  .next (if bitsOf s.priv.meshctl.toNat 0 2 = 0 then
      { s with fabric := { s.fabric with links := SMap.set 0 s.fabric.links link 0 } }
    else s)

/-- A stream that has been ready for 4,096 consecutive ck without issuing is promoted until it issues once (R373). -/
def Group.promote (g : Group) (lane : Bool) : Group :=
  if lane then { g with promoL := g.promoL || decide (4096 ≤ g.ageL) } else { g with promoS := g.promoS || decide (4096 ≤ g.ageS) }
/-- ISSUE_PROMOTION (R373): the group ranks above every other on the stream until it issues once. -/
def execIssuePromotion (gid : Nat) (lane : Bool) (s : State) : Out :=
  .next (s.mapGroups fun g => if g.live && g.gid == gid then g.promote lane else g)

end Sys2Proof.Machine
end

