-- ==== Sys2Proof/Machine/LaneFloat.lean ====
section
/-!
DEFINITION. Lane floating-point, conversion, q4, level-index, status and generator instructions (R145 to R167).
-/
namespace Sys2Proof.Machine
open Forms (alu1 alu2 fma1 fma2 fma3 sfu1 sfu2 xf srcTy)

/-! ### Arithmetic (R147 to R154) -/

def float1 (o : LOp) (f : Fmt → Nat → Nat × Nat) (x : LIn) : LRes := elems1 o.ty (f (LType.fmt o.ty)) x
def float2 (o : LOp) (f : Fmt → Nat → Nat → Nat × Nat) (x : LIn) : LRes := elems2 o.ty (f (LType.fmt o.ty)) x

def execVfadd (o : LOp) (s : State) : Out := laneOp (fma2 o) (float2 o fun f => fpAdd f o.rnd o.sat o.ftz) s
def execVfsub (o : LOp) (s : State) : Out := laneOp (fma2 o) (float2 o fun f => fpSub f o.rnd o.sat o.ftz) s
def execVfmul (o : LOp) (s : State) : Out := laneOp (fma2 o) (float2 o fun f => fpMul f o.rnd o.sat o.ftz) s
def execVfma (o : LOp) (s : State) : Out :=
  laneOp (fma3 o) (elems3 o.ty (fpFma (LType.fmt o.ty) o.rnd o.sat o.ftz)) s
def execVfmin (o : LOp) (s : State) : Out := laneOp (fma2 o) (float2 o fun f => fpMinMax f false (xf o 0 1 == 1) o.ftz) s
def execVfmax (o : LOp) (s : State) : Out := laneOp (fma2 o) (float2 o fun f => fpMinMax f true (xf o 0 1 == 1) o.ftz) s
def execVfdiv (o : LOp) (s : State) : Out := laneOp (sfu2 o) (float2 o fun f => fpDiv f o.rnd o.sat o.ftz) s

/-- A function of one operand, correctly rounded (R150). -/
def floatUn (o : LOp) (g : XVal → XVal × Nat) (x : LIn) : LRes := float1 o (fun f => fpUn f o.rnd o.sat o.ftz g) x
def execVfsqrt (o : LOp) (s : State) : Out := laneOp (sfu1 o) (floatUn o xsqrt) s
def execVfrcp (o : LOp) (s : State) : Out := laneOp (sfu1 o) (floatUn o xrcp) s
def execVfrsq (o : LOp) (s : State) : Out := laneOp (sfu1 o) (floatUn o xrsqrt) s
def execVfexp2 (o : LOp) (s : State) : Out := laneOp (sfu1 o) (floatUn o xexp2) s
def execVflog2 (o : LOp) (s : State) : Out := laneOp (sfu1 o) (floatUn o xlog2) s
def execVfsin (o : LOp) (s : State) : Out := laneOp (sfu1 o) (floatUn o xsin) s
def execVfcos (o : LOp) (s : State) : Out := laneOp (sfu1 o) (floatUn o xcos) s
def execVftanh (o : LOp) (s : State) : Out := laneOp (sfu1 o) (floatUn o xtanh) s

def execVffrc (o : LOp) (s : State) : Out := laneOp (fma1 o) (float1 o fun f => fpFrc f o.rnd o.ftz) s
def execVfrnd (o : LOp) (s : State) : Out := laneOp (fma1 o) (float1 o fun f => fpRnd f o.rnd o.ftz) s
/-- VFSCALE (R153): the scale is a signed 32-bit word, or a signed half of each element. -/
def execVfscale (o : LOp) (s : State) : Out :=
  let w := if o.ty.packed then 16 else 32
  laneOp (Forms.vfscale o) (fun x => resOf fun l =>
    let (v, fl) := joinElems (LType.ew o.ty) ((List.range (LType.count o.ty)).map fun i =>
      fpScale (LType.fmt o.ty) o.rnd o.sat o.ftz (elemOf (LType.ew o.ty) (x.a l) i) (toSigned w (elemOf w (x.b l) i)))
    (BitVec.ofNat 64 v, fl)) s
def execVfdot2 (o : LOp) (s : State) : Out :=
  laneOp (Forms.vfdot2 o) (fun x => resOf fun l =>
    let (v, fl) := fpDot2 (LType.fmt o.ty) o.rnd o.sat o.ftz (elemOf 16 (x.a l) 0) (elemOf 16 (x.b l) 0) (elemOf 16 (x.a l) 1)
      (elemOf 16 (x.b l) 1) (x.c l).toNat
    (BitVec.ofNat 64 v, fl)) s

/-! ### Conversions (R155 to R157) -/

/-- VCVT of one element. -/
def cvtElem (dst src : LType) (r : Rnd) (sat ftz : Bool) (a : Nat) : Nat × Nat :=
  let isF (t : LType) : Bool := Forms.clsF.contains t
  let w := LType.ew dst
  if isF dst then
    let f := LType.fmt dst
    if isF src then
      let g := LType.fmt src
      let (b, fl) := f.settle r sat ftz (g.decode ftz a)
      (b, fl ||| (if g.isSnan a then fNV else 0))
    else f.settle r sat ftz (ofInteger (LType.val src a))
  else if isF src then toIntSat w (Sys2Proof.LType.signed dst) r ((LType.fmt src).decode false a)
  else intoInt w (Sys2Proof.LType.signed dst) sat (LType.val src a)
def execVcvt (o : LOp) (s : State) : Out :=
  let src := srcTy o
  laneOp (Forms.vcvt o) (fun x => resOf fun l =>
    let (v, fl) := joinElems (LType.ew o.ty) ((List.range (LType.count o.ty)).map fun i =>
      cvtElem o.ty src o.rnd o.sat o.ftz (elemOf (LType.ew src) (x.a l) i))
    (BitVec.ofNat 64 v, fl)) s

/-- Field width of an element of a kind in a packed word (R156). -/
def packWidth (k : Nat) : Nat := if k = 1 ∨ k = 2 then 16 else if k = 6 then 4 else 8
/-- The first register of a vector operand. -/
def regNum : Opd → Nat
  | .v n => n.toNat
  | _ => 0
def execVpack (o : LOp) (s : State) : Out :=
  let k := xf o 9 4
  let n := Forms.packCount k
  laneOp (Forms.vpack o) (fun x => resOf fun l =>
    let src : List Nat :=
      if n = 2 then [(x.a l).toNat, (x.b l).toNat]
      else ((List.range (n / 2)).map fun i => (s.g.vr (regNum o.va + i) l).toNat) ++
        (List.range (n / 2)).map fun i => (s.g.vr (regNum o.vb + i) l).toNat
    let (v, fl) := joinElems (packWidth k) (src.map (encElem k o.rnd o.sat o.ftz))
    (BitVec.ofNat 64 v, fl)) s
def execVunpack (o : LOp) (s : State) : Out :=
  let k := xf o 9 4
  let n := Forms.packCount k
  laneDo (Forms.vunpack o) (fun x t =>
    let raw (i l : Nat) : Nat := (x.a l).toNat / 2 ^ (packWidth k * i) % 2 ^ kindWidth k
    let g := (List.range n).foldl (fun g i => g.putVec (regNum o.vd + i) x.act fun l => BitVec.ofNat 32 (elemF32 k (raw i l) none)) t.g
    let snan (i l : Nat) : Bool := match k with
      | 1 => f16.isSnan (raw i l)
      | 2 => bf16.isSnan (raw i l)
      | _ => false
    .ok ({ t with g := g }.raise x.act fun l => if (List.range n).any fun i => snan i l then fNV else 0)) s

/-! ### q4 (R158, R159) -/

def execVq4dec (o : LOp) (s : State) : Out :=
  laneOp (Forms.q4code o) (fun x =>
    { v := fun l => BitVec.ofNat 64 (q4Dec ((x.a l).toNat / 16 ^ xf o 0 3 % 16) ((x.b l).toNat % 256) (x.c l).toNat) }) s
/-- A super-scale is finite and greater than zero. -/
def scaleOk (sc : Nat) : Bool := match f32.decode false sc with
  | .fin m _ => decide (0 < m)
  | _ => false
def q4Super (a : Nat) : Nat × Nat :=
  match f32.decode false a with
  | .nan => (0x3F800000, fNV)
  | .inf _ => (0x7F7FFFFF, fSAT)
  | .zero _ => (0x3F800000, 0)
  | .fin .. => (a % 2 ^ 31, 0)
/-- The ceiling of an exact quotient of positive values. -/
def ceilQuot (m : Int) (e : Int) (n : Int) (k : Int) : Int :=
  let d := e - k
  let num := m * (if 0 ≤ d then 2 ^ d.toNat else 1)
  let den := n * (if d < 0 then 2 ^ (-d).toNat else 1)
  0 - (0 - num) / den
/-- |a| > S; no order holds with a NaN. -/
def absAbove (a sc : Nat) : Bool :=
  match f32.decode false a, f32.decode false sc with
  | .nan, _ | _, .nan => false
  | x, y => XVal.cmp x.abs y == .gt
/-- The quotient of VQ4ENC.scale; `none` where it is forced to 0. -/
def q4Quot (a sc : Nat) : Option Nat :=
  match f32.decode false sc, f32.decode false a with
  | .fin n k, .fin m e => if n < 0 then none else some (max 0 (min 255 (ceilQuot (m.natAbs * 256 : Nat) e n k - 1))).toNat
  | .fin n _, .zero _ => if n < 0 then none else some 0
  | .fin n _, .inf _ => if n < 0 then none else some 255
  | _, _ => none
def q4Scale (a sc : Nat) : Nat × Nat :=
  ((q4Quot a sc).getD 0, (if (q4Quot a sc).isSome then 0 else fNV) ||| if absAbove a sc then fSAT else 0)
def q4Code (a q sc : Nat) : Nat × Nat :=
  if scaleOk sc then q4Enc a q sc
  else ((if a / 2 ^ 31 % 2 = 1 then 8 else 0), fNV)
def natRes (f : Nat → Nat × Nat) : LRes := resOf fun l => (BitVec.ofNat 64 (f l).1, (f l).2)
def execVq4encSuper (o : LOp) (s : State) : Out := laneOp (Forms.q4super o) (fun x => natRes fun l => q4Super (x.a l).toNat) s
def execVq4encScale (o : LOp) (s : State) : Out :=
  laneOp (Forms.q4scale o) (fun x => natRes fun l => q4Scale (x.a l).toNat (x.c l).toNat) s
def execVq4encCode (o : LOp) (s : State) : Out :=
  laneOp (Forms.q4code o) (fun x => natRes fun l => q4Code (x.a l).toNat ((x.b l).toNat % 256) (x.c l).toNat) s

/-! ### Level-index arithmetic (R160 to R164) -/

def sliOf (t : LType) : Sli := if t = .l16x2 then l16 else l32
def execLadd (o : LOp) (s : State) : Out := laneOp (Forms.sli2 o) (elems2 o.ty (sliOf o.ty).add) s
def execLsub (o : LOp) (s : State) : Out := laneOp (Forms.sli2 o) (elems2 o.ty (sliOf o.ty).sub) s
def execLmul (o : LOp) (s : State) : Out := laneOp (Forms.sli2 o) (elems2 o.ty (sliOf o.ty).mul) s
def execLdiv (o : LOp) (s : State) : Out := laneOp (Forms.sli2 o) (elems2 o.ty (sliOf o.ty).div) s
/-- The conditions of R125 on an order; none is unordered. -/
def cmpOrd (code : Nat) : Option Ordering → Bool
  | none => code == 1 || code == 6
  | some o => match code with
    | 0 => o == .eq | 1 => o != .eq | 2 => o == .lt | 3 => o != .gt | 4 => o == .gt | 5 => o != .lt | 7 => true
    | _ => false
def execLcmp (o : LOp) (s : State) : Out :=
  laneOp (Forms.cmp o) (fun x =>
    { p := fun l => testElems o.ty (xf o 4 1 == 1) (fun a b => cmpOrd (xf o 0 4) ((sliOf o.ty).cmp a b)) (x.a l) (x.b l) }) s
/-- LCVT by its pair (R163). -/
def lcvtLane (o : LOp) (a b : DWord) : DWord × Nat :=
  let src := srcTy o
  let dst := o.ty
  let both (w : Nat) (f : Nat → Nat × Nat) : DWord × Nat :=
    let (v, fl) := joinElems w ((List.range (LType.count dst)).map fun i => f (elemOf (LType.ew src) a i))
    (BitVec.ofNat 64 v, fl)
  if src = .l32 ∧ dst = .l16x2 then
    let (v, fl) := joinElems 16 [sliNarrow a.toNat, sliNarrow b.toNat]
    (BitVec.ofNat 64 v, fl)
  else if src = .l16x2 ∧ dst = .l32 then
    let (v, fl) := sliWiden (elemOf 16 a (xf o 0 1))
    (BitVec.ofNat 64 v, fl)
  else if Forms.clsL.contains dst then
    let f := LType.fmt src
    both (LType.ew dst) fun x => (sliOf dst).ofIeee (f.isSnan x) (f.decode false x)
  else both (LType.ew dst) fun x => (sliOf src).toIeee (LType.fmt dst) o.rnd o.sat o.ftz x
def execLcvt (o : LOp) (s : State) : Out := laneOp (Forms.lcvt o) (fun x => resOf fun l => lcvtLane o (x.a l) (x.b l)) s
def execLrcp (o : LOp) (s : State) : Out := laneOp (alu1 o) (elems1 o.ty fun a => plain ((sliOf o.ty).recip a)) s
def execLneg (o : LOp) (s : State) : Out := laneOp (alu1 o) (elems1 o.ty fun a => plain ((sliOf o.ty).negate a)) s

/-! ### The status word and the generator (R165 to R167) -/

/-- VSTAT parks as if it carried S = 1. -/
def statOp (v : Forms.LView) (f : LIn → State → Res State) (s : State) : Out :=
  finishL s (do
    let (x, t) ← laneIssueWith v true s
    let t ← f x t
    .ok (laneDone v t))
def Group.setLst (g : Group) (act : Word) (f : Nat → Word) : Group :=
  { g with lstat := (lanesOf act).foldl (fun m l => SMap.set 0 m l (f l)) g.lstat }
def execVstatGet (o : LOp) (s : State) : Out :=
  statOp (Forms.vstatGet o) (fun x t => writeField s t x.act .w32 false o.vd fun l => lo32 (t.g.lst l)) s
def execVstatSet (o : LOp) (s : State) : Out :=
  statOp (Forms.vstatPut o) (fun x t => .ok { t with g := t.g.setLst x.act fun l => (x.a l).setWidth 32 &&& 0xF3F }) s
def execVstatClr (o : LOp) (s : State) : Out :=
  statOp (Forms.vstatPut o) (fun x t =>
    .ok { t with g := t.g.setLst x.act fun l => t.g.lst l &&& ~~~((x.a l).setWidth 32 &&& 0xF3F) }) s

/-- VSOW (R166): with `.x2` the second word goes to the next register. -/
def execVsow (o : LOp) (s : State) : Out :=
  laneDo (Forms.vsow o) (fun x t => do
    let w (k : Word) (l : Nat) : Word := sow32 ((x.a l).setWidth 32) ((x.b l).setWidth 32 ^^^ k)
    if xf o 0 1 = 1 then
      .ok { t with g := (t.g.putVec (regNum o.vd) x.act (w 0)).putVec (regNum o.vd + 1) x.act (w 0x5A5A5A5A) }
    else writeField s t x.act .w32 false o.vd fun l => lo32 (w 0 l)) s
/-- VUNIT (R167). -/
def execVunit (o : LOp) (s : State) : Out :=
  laneOp (alu1 o) (fun x => { v := fun l => BitVec.ofNat 64 (rne32 (mkFin ((x.a l).toNat / 256 : Nat) (-24) false)) }) s

end Sys2Proof.Machine
end

