-- ==== Sys2Proof/Machine/Fetch.lean ====
section
/-!
DEFINITION. Fetching instructions (R57, R280): a scalar word, and a lane instruction from the loop buffer or memory.
-/
namespace Sys2Proof.Machine

/-- A lane word's opcode. -/
def opcodeOf (w : LaneWord) : Nat := (w.extractLsb' 86 10).toNat

/-- The word at a fetch address: a fault of the fetch gives its address, and what the page or its data refuse is region-restart (R57). The
windows carry no X (R290). An address that is not canonical is PROTECTION with SUB 4 and precise, as R168 step 1 has it for data: R57 names
translation faults alone. DEDUCED, unsafe: assumption 44. -/
def fetchWord (s : State) (a : DWord) : Except Trap Word :=
  let fault (t : Trap) : Trap := { t with fetch := true, addr := a }
  match windowLoc s a with
  | some _ => .error (fault (restartAt .protection a 0))
  | none => match translate s a .fetch with
    | .error t => .error (fault t)
    | .ok l =>
      if poisoned s l.key 4 then .error (fault (flawed a l.key l.home))
      else .ok (BitVec.ofNat 32 (s.read l.key 4))

/-- Lane instruction `i` of the group in focus, from memory. -/
def fetchLane (s : State) (i : Nat) : Except Trap LaneWord := do
  let w0 ← fetchWord s (laneAddr s.g i 0)
  let w1 ← fetchWord s (laneAddr s.g i 1)
  let w2 ← fetchWord s (laneAddr s.g i 2)
  .ok (w2 ++ w1 ++ w0)

/-- Lane instruction `i` as the run takes it: a loop's body from its buffer (R280). -/
def laneWordAt (s : State) (i : Nat) : Except Trap LaneWord :=
  match s.g.lane.loopBuf.lookup i with
  | some w => .ok w
  | none => fetchLane s i

/-- The body of an outermost loop as its buffer takes it whole when the loop opens, so that no later turn raises a fetch fault (R142, R280): a
word that cannot be fetched is the loop instruction's fault. DEDUCED, unsafe: assumption 51. -/
def fillLoopBuf (s : State) : Nat → Nat → Except Trap (List (Nat × LaneWord))
  | 0, _ => .ok []
  | n + 1, i => do
    let w ← fetchLane s i
    let ws ← fillLoopBuf s n (i + 1)
    .ok ((i, w) :: ws)

end Sys2Proof.Machine
end

