-- ==== Sys2Proof/Machine/Loops.lean ====
section
/-!
DEFINITION. Loops, the end of a run and the execution mask (R140 to R144). LOOP, LOOPW, ENDL and VRET take no issue position.
-/
namespace Sys2Proof.Machine
open Forms (xf)

/-- The word is ENDL: a word of its opcode with a reserved field that is not zero is none, so LOOP finds no ENDL there. DEDUCED, unsafe: assumption 41. -/
def isEndl (w : LaneWord) : Bool := w == BitVec.ofNat 96 (0x072 * 2 ^ 86)

/-- The run's index moves; the buffer goes with the outermost loop. -/
def State.laneJump (s : State) (i : Nat) : State := { s with g := s.g.laneStep i }

/-- Open a loop, or step past it (R141). DEDUCED, unsafe: assumption 41. -/
def openLoop (s : State) (n : Nat) (isW : Bool) (pa : PReg) (cnt : Word) (go bad : Bool) : Res State := do
  let g := s.g
  let i := g.run.lpc
  let e := i + n + 1
  require (g.lane.frames.length < 3) (trapP .bounds)
  require (1 ≤ n && n ≤ 254 && !bad) (trapP .reservedField)
  let w ← lift (laneWordAt s e)
  require (isEndl w && g.lane.frames.head?.all fun f => e < f.stop) (trapP .reservedField)
  if go then
    let buf ← if g.lane.frames.isEmpty then lift (fillLoopBuf s (n + 1) (i + 1)) else .ok g.lane.loopBuf
    let lane := { g.lane with
      frames := ⟨i + 1, e, isW, pa⟩ :: g.lane.frames
      lc := SMap.set 0 g.lane.lc g.lane.frames.length cnt
      loopBuf := buf }
    .ok ({ s with g := { g with lane := lane } }.laneJump (i + 1))
  else .ok (s.laneJump (e + 1))

/-- Some active lane satisfies the predicate. -/
def anyLane (g : Group) (pa : PReg) : Bool := g.em &&& ~~~g.parkMask &&& g.pr pa != 0

/-- DEDUCED, unsafe: assumption 41. -/
def execLoopImm (cnt : BitVec 20) (n : BitVec 8) (s : State) : Out :=
  finishL s (do
    needLanes s
    openLoop s n.toNat false 0 (cnt.setWidth 32) (cnt != 0) false)
/-- DEDUCED, unsafe: assumption 41. -/
def execLoopReg (va : Opd) (n : BitVec 8) (s : State) : Out :=
  finishL s (do
    needLanes s
    let waits := match va with
      | .s r => s.g.waits r
      | _ => false
    require (!waits) (.stall .scoreboard)
    let bad := match va with
      | .s r => r != 0 && s.g.run.bad.getLsbD r.toNat
      | _ => false
    require (!bad) (registerError s [])
    let cnt : Word := (s.g.rdOpd s.gteam.teamlin true va 0).setWidth 32
    openLoop s n.toNat false 0 cnt (cnt != 0) false)
/-- LOOPW: its parking is a marker (R142). DEDUCED, unsafe: assumption 40. DEDUCED, unsafe: assumption 41. -/
def execLoopw (pa : PReg) (cap : BitVec 14) (n : BitVec 8) (s : State) : Out :=
  finishL s (do
    needLanes s
    require (pa.toNat < s.g.predsz) (trapP .bounds)
    let s := { s with g := { s.g with haz := s.g.haz.cover } }
    openLoop s n.toNat true pa (cap.setWidth 32) (anyLane s.g pa) (cap == 0))

/-- DEDUCED, unsafe: assumption 40. -/
def execEndl (s : State) : Out :=
  finishL s (do
    needLanes s
    let g := s.g
    let e := g.run.lpc
    match g.lane.frames with
    | [] => .error (trapP .reservedField)
    | f :: rest => do
      require (f.stop == e) (trapP .reservedField)
      let d := rest.length
      let c := SMap.get 0 g.lane.lc d - 1
      let again := c != 0 && (!f.isW || anyLane g f.pa)
      let g := if f.isW then { g with haz := g.haz.cover } else g
      let lane := { g.lane with
        lc := SMap.set 0 g.lane.lc d c
        frames := if again then f :: rest else rest
        loopBuf := if again || !rest.isEmpty then g.lane.loopBuf else [] }
      .ok ({ s with g := { g with lane := lane } }.laneJump (if again then f.start else e + 1)))

/-- VRET (R143): the next queued run becomes active, and the store hash folds what waited for this run (R417). -/
def execVret (s : State) : Out :=
  finishL s (do
    needLanes s
    require s.g.lane.frames.isEmpty (trapP .reservedField)
    let g := { s.g with lane := { s.g.lane with active := s.g.lane.queue.head?, queue := s.g.lane.queue.tail } }
    .ok { s with g := g.foldReady })

/-- EMSET (R144): the mask of every lane, a parked one too. DESIGN CHOICE, unsafe: assumption 61. -/
def setEm (t : State) (m : Word) : Res State := .ok { t with g := { t.g with em := m } }
def emPred (o : LOp) (t : State) : Word := t.g.pr (BitVec.ofNat 7 (xf o 0 7))
def execEmsetAnd (o : LOp) (s : State) : Out := laneDo (Forms.emset o) (fun _ t => setEm t (t.g.em &&& emPred o t)) s
def execEmsetAndn (o : LOp) (s : State) : Out := laneDo (Forms.emset o) (fun _ t => setEm t (t.g.em &&& ~~~(emPred o t))) s
def execEmsetOr (o : LOp) (s : State) : Out := laneDo (Forms.emset o) (fun _ t => setEm t (t.g.em ||| emPred o t)) s
def execEmsetSet (o : LOp) (s : State) : Out := laneDo (Forms.emsetSet o) (fun x t => setEm t ((x.a 0).setWidth 32)) s
/-- EMSET.set.hi: no lane at or above 64 exists at W = 32. -/
def execEmsetSetHi (o : LOp) (s : State) : Out := laneDo (Forms.emsetSet o) (fun _ t => .ok t) s

end Sys2Proof.Machine
end

