-- ==== Sys2Proof/Machine/Matrix.lean ====
section
/-!
DEFINITION. The matrix engine: the sources of A and B with their formats and scales (R218 to R222), the checks of R225 in their
order, the summations of R226 and R227, the tiles of the B store (R215, R216), and the pairing of two cores (R231 to R233).
-/
namespace Sys2Proof.Machine
open Forms (LView)

/-! ### Summation -/

/-- KSum (R226). -/
def ksumScale (ts : List XVal) : Option Int :=
  ts.foldl (fun a t => match t with
    | .fin m e =>
      let k : Int := Nat.log2 m.natAbs + e
      some (match a with
        | none => k
        | some b => max b k)
    | _ => a) none
/-- A term truncated toward zero, in units of 2^u. -/
def ksumTerm (u : Int) : XVal → Int
  | .fin m e => if u ≤ e then m * 2 ^ (e - u).toNat else signInt (decide (m < 0)) (m.natAbs / 2 ^ (u - e).toNat)
  | _ => 0
def ksum (ts : List XVal) : Word :=
  if ts.contains .nan || (ts.contains (.inf false) && ts.contains (.inf true)) then 0x7FC00000
  else if ts.contains (.inf false) then 0x7F800000
  else if ts.contains (.inf true) then 0xFF800000
  else match ksumScale ts with
    | none => if ts.all (· == .zero true) then 0x80000000 else 0
    | some e =>
      let u := e - 37
      BitVec.ofNat 32 (rne32 (mkFin (ts.foldl (fun n t => n + ksumTerm u t) 0) u false))

/-- The integer value of an s8 element. -/
def XVal.toInt : XVal → Int
  | .fin m e => m * 2 ^ e.toNat
  | _ => 0

/-- An accumulator element after one product: float (R226) or integer (R227). -/
def mxElem (int sat : Bool) (x : Word) (as bs : List XVal) : Word :=
  let ps := as.zip bs
  if int then
    let n := x.toInt + ps.foldl (fun n p => n + p.1.toInt * p.2.toInt) 0
    BitVec.ofInt 32 (if sat then max (-(2 ^ 31)) (min (2 ^ 31 - 1) n) else n)
  else
    [0, 1, 2].foldl (fun x i =>
      ksum (f32.decode false x.toNat :: ((ps.drop (32 * i)).take 32).map fun p => (XVal.mul p.1 p.2).1)) x

/-! ### Sources -/

/-- A range of `n` bytes in a window's allocation. -/
def winLoc (s : State) (va : DWord) (n : Nat) : Option Loc :=
  match windowLoc s va, windowLoc s (va + BitVec.ofNat 64 (n - 1)) with
  | some (.ok a), some (.ok b) => if b.key = a.key + (n - 1) then some a else none
  | _, _ => none
/-- An address lies in the team or the cluster window. DEDUCED, unsafe: assumption 32. -/
def inWindow (va : DWord) : Bool := va.toNat / 2 ^ 48 == 0x00F0 || va.toNat / 2 ^ 48 == 0x00F1

/-- The smallest stride of R221. -/
def zeroStride (rowBytes w : Nat) : Nat :=
  (((List.range 8).map fun i => (rowBytes + 15) / 16 * 16 + 16 * i).find? fun x => w != 0 && x * 8 % w == 0).getD rowBytes

/-- A piece of a row: its address, its location, its bytes. -/
structure MxPiece where
  va : DWord
  loc : Loc
  n : Nat
deriving DecidableEq, Repr

/-- An operand that has passed its checks: its kind, its descriptor when it carries scales, its rows with their first address, and
the side-plane values' places. -/
structure MxSrc where
  kind : Nat
  pfd : Option Pfd
  rows : List (DWord × List MxPiece)
  side : List MxPiece
deriving DecidableEq, Repr

/-- The element index of a row's first element: its bit offset from DBASE in elements of width w (R222). -/
def rowIndex (p : Pfd) (w : Nat) (row : DWord) : Nat := (row - BitVec.ofNat 64 p.dbase).toNat * 8 / w

/-- The kind a source and a format field settle (R219); `some none` is a descriptor or record that breaks R25. -/
def mxKind (fc : Nat) (base : DWord) : Option (Option Pfd) → Option Nat
  | none => if fc = 0 ∨ fc = 7 then none else some fc
  | some none => none
  | some (some p) =>
    if base.toNat < p.dbase ∨ 8 < p.kind ∨ (p.kind = 8 ∧ p.blk ≠ 0) ∨ (fc ≠ 0 ∧ fc ≠ p.kind) then none else some p.kind

/-- The first of a list's faults other than FORMAT; the FORMAT fault (R225 steps 2 and 4). -/
def faultsOf {α : Type} (rs : List (Except Trap α)) (fmt : Bool) : Res Unit :=
  match rs.filterMap errorOf |>.find? fun t => (t.code == .format) == fmt with
  | some t => .error (.trap t)
  | none => .ok ()
def okOf {α : Type} : Except Trap α → Option α
  | .ok x => some x
  | .error _ => none

/-- The pieces of a row: one in a window, 16-byte granules elsewhere. DEDUCED, unsafe: assumption 32. -/
def rowPieces (s : State) (win : Bool) (rowBytes : Nat) (row : DWord) : List (Except Trap MxPiece) :=
  if win then
    [match winLoc s row rowBytes with
      | some l => .ok ⟨row, l, rowBytes⟩
      | none => .error (preciseAt .protection row 3)]
  else (List.range ((rowBytes + 15) / 16)).map fun i =>
    let va := row + BitVec.ofNat 64 (16 * i)
    (translate s va .load).map fun l => ⟨va, l, min 16 (rowBytes - 16 * i)⟩

/-- The places of the side-plane values that a row uses. -/
def rowSide (s : State) (win : Bool) (p : Pfd) (w ncol : Nat) (row : DWord) : List (Except Trap MxPiece) :=
  (((List.range ncol).map fun j => p.sideOf (rowIndex p w row + j)).flatten.eraseDups).map fun a =>
    if win then match winLoc s a.1 a.2 with
      | some l => .ok ⟨a.1, l, a.2⟩
      | none => .error (preciseAt .protection a.1 3)
    else (access s a.1 a.2 .load (.laneLoad false)).map fun l => ⟨a.1, l, a.2⟩

/-- Steps 2 to 4 of R225 for one operand of `nrow` rows by `ncol` columns under format field `fc`. The spec places two faults at none of the
steps: RESERVED_FIELD for a named vc with a source outside the windows comes before them all, and UNCORRECTABLE_DATA of the scratch format
record within step 2, before the rows' faults: DESIGN CHOICE, unsafe: assumption 61. DEDUCED, unsafe: assumption 32. -/
def mxSource (s : State) (x : LIn) (m : LMx) (fc nrow ncol : Nat) (ldb : Bool) : Res MxSrc := do
  let base := x.a 0
  let rec_ := x.c 0
  let win := inWindow base
  let named := m.vc != .v 0
  let recLoc := winLoc s rec_ 32
  require (win || !named || !ldb) (trapP .reservedField)
  require (win || ldb) (trapP .protection 3 base)
  require (!named || recLoc.isSome) (trapP .protection 3 rec_)
  match if named then recLoc else none with
  | none => .ok ()
  | some l => do
    require (!s.owned l.key 32) (.stall .recall)
    require (!poisoned s l.key 32) (.trap (flawed rec_ l.key l.home))
  let first ← if win then .ok { key := 0 } else match translate s base .load with
    | .error t => if t.code == .format then .ok { key := 0 } else .error (.trap t)
    | .ok l => .ok l
  let fmt := if named then some (recLoc.bind fun l => pfdParse (s.readOwn l 32))
             else if first.pfd = 0 then none else some (pfdOf s s.gdom first.pfd)
  let kind := mxKind fc base fmt
  let w := kindWidth (kind.getD fc)
  let rowBytes := ncol * w / 8
  let stride := if m.vb == .zero then BitVec.ofNat 64 (zeroStride rowBytes w) else x.b 0
  let rows := if w = 0 then [] else (List.range nrow).map fun r => base + BitVec.ofNat 64 r * stride
  let pieces := rows.map fun r => (r, rowPieces s win rowBytes r)
  let scaled : Option Pfd := match kind, fmt with
    | some k, some (some p) => if k = 7 ∨ p.block ≠ 0 then some p else none
    | _, _ => none
  let side := (scaled.map fun p => (rows.map fun r => rowSide s win p w ncol r).flatten).getD []
  require (!win || (winLoc s base 1).isSome) (trapP .protection 3 base)
  faultsOf (pieces.map (·.2)).flatten false
  faultsOf side false
  let onGrid := (scaled.map fun p => rows.all fun r => (r - BitVec.ofNat 64 p.dbase).toNat * 8 % w == 0).getD true
  require ((!named || rec_.toNat % 32 == 0) && base.toNat % 16 == 0 && (m.vb == .zero || stride.toNat % 16 == 0) && onGrid)
    (trapP .misaligned 0 base)
  require (rowBytes ≤ stride.toNat) (trapP .reservedField)
  faultsOf (pieces.map (·.2)).flatten true
  faultsOf side true
  let got := pieces.map fun r => (r.1, r.2.filterMap okOf)
  match kind with
  | none => .error (trapP .format 0 base)
  | some k => do
    let low : Nat := match fmt with
      | some (some p) => p.dbase
      | _ => 0
    require (win || (got.map (·.2)).flatten.all fun c => c.loc.pfd == first.pfd && !c.loc.h && low ≤ c.va.toNat) (trapP .format 0 base)
    .ok ⟨k, scaled, got, side.filterMap okOf⟩

/-- Step 5 of R168 for a source: remote rows are awaited, and an uncorrectable word ends the instruction (R225). DEDUCED, unsafe: assumption 32. -/
def mxArrive (s : State) (q : MxSrc) : Res Unit := do
  let ps := (q.rows.map (·.2)).flatten ++ q.side
  require (!ps.any fun c => s.owned c.loc.key c.n) (.stall .recall)
  match ← s.remReads (ps.map fun c => (c.loc.key, c.n)) with
  | b :: _ => .error (.trapIn s.remClear (remFault b.2 (((ps.find? fun c => c.loc.key == b.1).map (·.va)).getD 0)))
  | [] =>
    match ps.find? fun c => !isRemote c.loc.key && poisoned s c.loc.key c.n with
    | some c => .error (.trap (flawed c.va c.loc.key c.loc.home))
    | none => .ok ()

/-- The exact value of an element with its side-plane values (R222). -/
def mxVal (kind raw : Nat) (side : List Nat) : XVal :=
  if kind = 7 then
    let v := (XVal.mul (q4Mag (raw % 8) (side.getD 0 0)) (f32.decode false (side.getD 1 0))).1
    if raw / 8 % 2 = 1 then v.neg else v
  else match side with
    | [] => elemVal kind raw
    | sc :: _ => (XVal.mul (elemVal kind raw) (bf16.decode false sc)).1

/-- The values of a source, row by row; L1 may serve them (R287). -/
def MxSrc.values (q : MxSrc) (s : State) (ncol : Nat) : List (List XVal) :=
  let w := kindWidth q.kind
  let sv (a : DWord × Nat) : Nat := match q.side.find? fun c => c.va == a.1 with
    | some c => s.serve false c.loc c.n
    | none => 0
  q.rows.map fun r =>
    let bits := r.2.foldl (fun n c => n + s.serve false c.loc c.n * 2 ^ (8 * (c.va - r.1).toNat)) 0
    (List.range ncol).map fun j =>
      let side := match q.pfd with
        | none => []
        | some p => (p.sideOf (rowIndex p w r.1 + j)).map sv
      mxVal q.kind (bits / 2 ^ (w * j) % 2 ^ w) side

/-! ### Tiles -/

/-- The tile that a designator names: that of the width recorded for it (R219). -/
def State.tileOf (s : State) (d : Nat) : Option Tile :=
  let c := s.core s.gteam.core
  c.tiles.find? fun y => y.d == d && y.width == SMap.get 0 c.lastWidth d
/-- Column c of a tile. -/
def Tile.column (y : Tile) (c : Nat) : List XVal := (List.range 96).map fun k => SMap.get (.zero false) y.vals (128 * k + c)

/-- Load a tile: the tiles it overlaps become empty (R216). -/
def State.loadTile (s : State) (d kind : Nat) (rows : List (List XVal)) : State :=
  let c := s.gteam.core
  let x := s.core c
  let y : Tile :=
    { d := d, width := kindWidth kind, kind := kind, owner := s.g.team,
      vals := ((rows.zipIdx.map fun r => r.1.zipIdx.map fun v => (128 * r.2 + v.2, v.1)).flatten).filter fun v => v.2 != .zero false }
  s.setCore c { x with tiles := y :: x.tiles.filter fun z => !y.overlaps z, lastWidth := SMap.set 0 x.lastWidth d y.width }

/-! ### The instructions -/

/-- Issue of a matrix instruction: the checks of R67, then the convergence check, which precedes every check of an operand (R225). -/
def mxIssue (v : LView) (s : State) : Res (LIn × State) := do
  needLanes s
  let _ ← laneChecks v v.h.sw s
  require (s.g.em == BitVec.allOnes 32 && s.g.parkMask == 0) (trapP .illegalConvergence)
  laneIssue v s

/-- MX.LDB (R228). -/
def execMxLdb (m : LMx) (s : State) : Out :=
  finishL s (do
    let (x, t) ← mxIssue (Forms.mxLdb m) s
    let q ← mxSource t x m m.bf.toNat 96 128 true
    require (Forms.desigOk q.kind m.d.toNat) (trapP .reservedField)
    mxArrive t q
    let t := t.loadTile m.d.toNat q.kind (q.values t 128)
    let t := if inWindow (x.a 0) then t else (t.usedL1 t (((q.rows.map (·.2)).flatten ++ q.side).map (·.loc))).touchAll (((q.rows.map (·.2)).flatten ++ q.side).map (·.va))
    .ok (laneDone (Forms.mxLdb m) t.remClear))

/-- The accumulator's first register. -/
def accOf (m : LMx) : Nat := match m.vd with
  | .v n => n.toNat
  | _ => 0
/-- Every accumulator element that `upd` names takes its new value (R223). -/
def State.accumulate (s : State) (acc : Nat) (upd : Nat → Nat → Bool) (f : Nat → Nat → Word → Word) : State :=
  { s with g := (List.range Forms.accRegs).foldl (fun g i =>
      let r := i / 4
      let c (l : Nat) : Nat := 32 * (i % 4) + l
      g.putVec (acc + i) (maskOf fun l => upd r (c l)) fun l => f r (c l) (g.vr (acc + i) l)) s.g }

/-- The product with a tile, in the elements that `upd` names. -/
def mxProduct (s : State) (m : LMx) (upd : Nat → Nat → Bool) (kind : Nat) (rows : List (List XVal)) (y : Tile) : State :=
  let cols := (List.range 128).map y.column
  s.accumulate (accOf m) upd fun r c x => mxElem (kind == 8) m.sat x (rows.getD r []) (cols.getD c [])

/-- The B kind that the tile or an explicit format field gives (R219). -/
def mxBKind (s : State) (m : LMx) : Option Nat :=
  match s.tileOf m.d.toNat with
  | some y => some y.kind
  | none => if m.bf = 0 then none else some m.bf.toNat

/-- Steps 4 and 5 of R225 for the tile under the A kind, where it is known: the mix of s8 with another kind and `.sat` are decided by the
resolved formats, whether or not the tile still stands. -/
def mxTile (s : State) (m : LMx) (kind : Option Nat) : Res Tile := do
  let y := s.tileOf m.d.toNat
  let ks := kind.toList ++ (mxBKind s m).toList
  require (y.all fun y => m.bf == 0 || y.kind == m.bf.toNat) (trapP .format)
  require ((ks.all (· == 8) || ks.all (· != 8)) && (!m.sat || ks.all (· == 8))) (trapP .reservedField)
  match y with
  | some y => do
    require (y.owner == s.g.team) (trapP .bounds)
    .ok y
  | none => .error (trapP .bounds)

/-- The accumulator elements that a product reads hold no uncorrectable error (R223, R458). -/
def accReadable (s : State) (m : LMx) (upd : Nat → Nat → Bool) : Res Unit :=
  match s.g.badV.filter fun k => accOf m ≤ k / 32 && k / 32 < accOf m + Forms.accRegs &&
      upd ((k / 32 - accOf m) / 4) (32 * ((k / 32 - accOf m) % 4) + k % 32) with
  | [] => .ok ()
  | ks => .error (registerError s ((List.range 32).filter fun l => ks.any fun k => k % 32 == l))

/-- MX.MMA and MX.MMA16 (R229, R230): the elements that a product updates. -/
def mxMultiply (upd : Nat → Nat → Bool) (m : LMx) (s : State) : Out :=
  finishL s (do
    let (x, t) ← mxIssue (Forms.mxMma m) s
    let q ← mxSource t x m m.af.toNat 64 96 false
    let y ← mxTile t m (some q.kind)
    mxArrive t q
    accReadable t m upd
    .ok (laneDone { Forms.mxMma m with lat := .fixed (Forms.mxLat q.kind) } (mxProduct t m upd q.kind (q.values t 96) y)))
def execMxMma (m : LMx) (s : State) : Out := mxMultiply (fun _ _ => true) m s
/-- Block i updates rows 4i..4i+3 and columns 8i..8i+7 (R230). -/
def execMxMma16 (m : LMx) (s : State) : Out := mxMultiply (fun r c => r / 4 == c / 8) m s

/-- MX.ZERO (R234). -/
def execMxZero (m : LMx) (s : State) : Out :=
  finishL s (do
    let (_, t) ← mxIssue (Forms.mxZero m) s
    .ok (laneDone (Forms.mxZero m) (t.accumulate (accOf m) (fun _ _ => true) fun _ _ _ => 0)))

/-! ### MX.PAIR (R231 to R233) -/

/-- The west core of the pair, when both cores belong to the group's cluster. DEDUCED, unsafe: assumption 32. -/
def pairCore (s : State) (west : Bool) : Option Nat :=
  let c := s.gcluster
  let k := s.gteam.k
  if west then (if k % c.w + 1 < c.w then some s.gteam.core else none) else (if k % c.w = 0 then none else some (s.gteam.core - 1))

/-- What a side brings: its state after issue, its A kind and rows (the west side), its tile's kind. -/
structure PairSide where
  t : State
  kind : Nat
  rows : List (List XVal)
  tile : Tile

/-- The checks of one side; the east side's A kind is taken to be its tile's until the match (R231). DEDUCED, unsafe: assumption 32. RESERVED_FIELD
for a missing neighbour comes right after the convergence check: R231 places it at issue, at none of R225's steps. DESIGN CHOICE, unsafe: assumption 61. -/
def pairPrep (west : Bool) (m : LMx) (s : State) : Res PairSide :=
  if west then do
    let (x, t) ← mxIssue (Forms.mxPairW m) s
    require (pairCore t true).isSome (trapP .reservedField)
    let q ← mxSource t x m m.af.toNat 64 96 false
    let y ← mxTile t m (some q.kind)
    mxArrive t q
    accReadable t m fun _ _ => true
    .ok ⟨t, q.kind, q.values t 96, y⟩
  else do
    let (_, t) ← mxIssue (Forms.mxPairE m) s
    require (pairCore t false).isSome (trapP .reservedField)
    let y ← mxTile t m (mxBKind t m)
    accReadable t m fun _ _ => true
    .ok ⟨t, y.kind, [], y⟩

/-- One side's product and completion. -/
def pairGo (west : Bool) (m : LMx) (kind : Nat) (rows : List (List XVal)) (p : PairSide) : State :=
  laneDone (if west then Forms.mxPairW m else Forms.mxPairE m) (mxProduct p.t m (fun _ _ => true) kind rows p.tile)

/-- A waiting side leaves the wait. -/
def State.unpair (s : State) (gid : Nat) : State := { s with pairs := s.pairs.filter fun p => p.gid != gid }

/-- The side waits for its partner. -/
def pairWait (west : Bool) (m : LMx) (core : Nat) (s : State) : Stop :=
  .stallIn (if s.pairs.any fun p => p.gid == s.g.gid then s
    else { s with pairs := s.pairs ++ [⟨core, west, m.tag.toNat, s.g.gid, m⟩] }) .pairWait

/-- Both sides of a match, the issuing one and the earliest waiting one, in one step: a waiting side whose own checks now fail takes its
fault and the issuing one waits; formats that do not go together stop both (R232). DEDUCED, unsafe: assumption 32. -/
def pairMatch (west : Bool) (m : LMx) (core : Nat) (s : State) (own : PairSide) (p : PairWait) : Res State :=
  let me := s.g.gid
  let s := (s.unpair me).unpair p.gid
  let back (t : State) : State := (t.focus me).getD t
  match s.focus p.gid with
  | none => .error (pairWait west m core s)
  | some o => match pairPrep p.west p.m o with
    | .error (.trap t) => .error (pairWait west m core (back (takeTrap o true t)))
    | .error (.trapIn u t) => .error (pairWait west m core (back (takeTrap (o.unissue true u) true t)))
    | .error _ => .error (pairWait west m core { s with pairs := p :: s.pairs })
    | .ok far =>
      let a := if west then own else far
      let b := if west then far else own
      if (a.kind == 8) != (b.tile.kind == 8) then
        .error (.trapIn (back (takeTrap o true { code := .reservedField })) { code := .reservedField })
      else
        let r := pairGo p.west p.m a.kind a.rows far
        let t := back { r with g := { r.g with lStall := none } }
        .ok { t with g := (pairGo west m a.kind a.rows own).g }

/-- One side of MX.PAIR: it takes a failure mark, meets a waiting partner, or waits. -/
def mxPair (west : Bool) (m : LMx) (s : State) : Res State := do
  let own ← pairPrep west m s
  match pairCore s west with
  | none => .error (trapP .reservedField)
  | some core =>
    let here (p : PairWait) (w : Bool) : Bool := p.core == core && p.west == w && p.tag == m.tag.toNat
    match s.pairMarks.find? fun p => here p west with
    | some k => .error (.trapIn { s with pairMarks := s.pairMarks.erase k } { code := .pairTimeout })
    | none => match s.pairs.find? fun p => here p !west with
      | some p => pairMatch west m core s own p
      | none => .error (pairWait west m core s)
def execMxPairW (m : LMx) (s : State) : Out := finishL s (mxPair true m s)
def execMxPairE (m : LMx) (s : State) : Out := finishL s (mxPair false m s)

/-- PAIR_TIMEOUT (R233): the waiting instance faults and leaves a mark for the other side. DESIGN CHOICE, safe: assumption 1. -/
def execPairTimeout (gid : Nat) (s : State) : Out :=
  .next (onGroup s gid fun s =>
    match s.pairs.find? fun p => p.gid == gid with
    | none => s
    | some p => takeTrap { s.unpair gid with pairMarks := s.pairMarks ++ [{ p with west := !p.west }] } true { code := .pairTimeout })

end Sys2Proof.Machine
end

