-- ==== Sys2Proof/Machine/Parking.lean ====
section
/-!
DEFINITION. Parked lanes (R257 to R261): the resume record of a lane, PARK and REJOIN; and the shape of a rendering instruction: what
each active lane reads and computes, with the lanes that fault parked and the others complete (R238, R239).
-/
namespace Sys2Proof.Machine
open Forms (LView)

/-! ### Records -/

/-- The destination block of a parked instruction: its first register and its size. -/
def ParkOp.dest : ParkOp → Nat × Nat
  | .trace r .. => (reg r.vd, 8)
  | .hitAdj r => (reg r.vd, 15)
  | .tex r => (reg r.vd, 4)
  | .texAdj r => (reg r.vd, 3)
  | .vbRd r => (reg r.vd, 3)
  | .edgeSamp r _ => (reg r.vd, 10)
  | .park | .discard => (0, 0)
where
  reg : Opd → Nat
    | .v n => n.toNat
    | _ => 0
/-- Lane opcodes (R238). -/
def ParkOp.opc : ParkOp → Nat
  | .trace .. => 0x160 | .hitAdj _ => 0x161 | .tex _ => 0x162 | .texAdj _ => 0x163 | .vbRd _ => 0x164 | .edgeSamp .. => 0x167
  | .discard => 0x168 | .park => 0x169

/-- Consecutive free slots of a core's lane fault queue from its next record on (R399). DEDUCED, unsafe: assumption 37. -/
def lfqRoom (s : State) (c : Nat) : Nat :=
  let x := s.core c
  let log2 := dcbLfqLog2 s s.gdom
  let busy (n : Nat) : Bool := x.lfLive.any fun r => slotOf r.seq log2 == slotOf (x.lfSeq + 1 + n) log2
  ((List.range (2 ^ log2)).find? busy).getD (2 ^ log2)

/-- What a lane needs to be parked: its fault, its SUB, its operands, its descriptor. -/
structure ParkCause where
  lane : Nat
  t : Trap
  sub : Nat := 0
  opds : DWord × DWord × DWord := (0, 0, 0)
  desc : List Byte := []
  reads : SampleReads := []

/-- Park one lane of the group in focus at lane instruction `lpc`: its record, its park bit, the notification (R258, R399). -/
def State.parkLane (s : State) (op : ParkOp) (lpc : Nat) (p : ParkCause) : State :=
  let s := s.readBlock s.gdom
  let c := s.gteam.core
  let x := s.core c
  let d := s.gdom
  let log2 := dcbLfqLog2 s d
  let seq := x.lfSeq + 1
  let base := dcbLfqBase s d + c * 128 * 2 ^ log2 + 128 * slotOf seq log2
  let b := leBytes 8 seq ++ leBytes 2 (gslotOf s.gteam s.g) ++ leBytes 1 p.lane ++ leBytes 1 p.t.code.num ++ leBytes 2 op.opc ++
    leBytes 1 p.sub ++ leBytes 1 0 ++ leBytes 8 lpc ++ leBytes 8 p.t.addr.toNat ++ leBytes 8 s.g.regcnt.toNat ++
    leBytes 8 s.gteam.teamlin
  let s := ((s.note p.t).putRecord d base b).putRecord d (base + 56) (leBytes 8 0)
  let s := s.setCore c { x with lfSeq := seq, lfLive := x.lfLive ++ [(⟨seq, s.g.gid, p.lane⟩ : LfRec)] }
  let s := { s with g := { s.g with
    parkMask := putBit s.g.parkMask p.lane true
    parkNew := putBit s.g.parkNew p.lane true
    parked := s.g.parked ++ [(⟨p.lane, c, seq, op, lpc, p.opds, p.desc, p.reads, s.g.regcnt⟩ : ParkRec)] } }
  (s.notify d p.t.code.num (dcbLfqVec s d)).post (.laneResume c seq)

/-- Park lanes in ascending order while the queue has room; the first lane without a slot makes its fault the group's (R258). DEDUCED,
unsafe: assumption 37. -/
def parkSome (s : State) (op : ParkOp) : Nat → List ParkCause → Res State
  | _, [] => .ok s
  | 0, p :: ps =>
    .error (.trapIn s { p.t with kind := .restart, lane := some p.lane
                                 mask := maskOf fun l => (p :: ps).any fun x => x.lane == l && x.t.code == p.t.code })
  | n + 1, p :: ps => parkSome (s.parkLane op s.g.run.lpc p) op n ps
/-- DEDUCED, unsafe: assumption 37. -/
def parkLanes (s : State) (op : ParkOp) (ps : List ParkCause) : Res State :=
  let s := if ps.isEmpty then s else s.readBlock s.gdom
  parkSome s op (lfqRoom s s.gteam.core) ps

/-! ### The shape of a rendering instruction -/

/-- Why a lane's work stops: its lane parks, the group faults at steps 1 and 2 of R168, a remote read is awaited, or a line is owned by
an engine (R201). -/
inductive RFail where
  | park (t : Trap) (reads : SampleReads := [])
  | fault (t : Trap)
  | ask (pa n : Nat)
  | recall
deriving DecidableEq, Repr

/-- What a lane's work gives: its destination block, its flags, its gradient contributions. -/
structure LaneVal where
  ws : List Word
  fl : Nat := 0
  adds : List (DWord × Loc × Word) := []

/-- The work of a lane: operands and descriptor as read; for DISP 3 of EDGE.SAMP, the samples as the parked instruction read them, where a
read that could not be made is the empty sample (R258). -/
abbrev LaneSem := State → Nat → DWord × DWord × DWord → List Byte → Option SampleReads → Except RFail LaneVal

/-- A read of a rendering instruction (R239): steps 1 and 2 of R168 fault the group, everything later parks the lane. What L1
holds may serve it unless it is fresh (R287). DEDUCED, unsafe: assumption 34. -/
def renderRead (s : State) (va : DWord) (n : Nat) (fresh : Bool := false) : Except RFail Nat :=
  -- the 64-byte unit that holds the bytes comes whole from the host or a peer (R239, R308)
  let cell (k : Nat) : Nat × Nat := if k % 64 + n ≤ 64 then (k - k % 64, 64) else (k, n)
  if !canonical va then .error (.fault (preciseAt .protection va 4))
  else if va.toNat % n ≠ 0 then .error (.fault (preciseAt .misaligned va))
  else match translate s va .load with
    | .error t => .error (.park t)
    | .ok l =>
      if !(Admit.laneLoad false).ok l then .error (.park (preciseAt .format va))
      else if s.owned l.key n then .error .recall
      else if isRemote l.key then
        match s.rem? (cell l.key).1 (cell l.key).2 with
        | some r => if !r.isDone then .error (.ask (cell l.key).1 (cell l.key).2) else if r.status = 0 then .ok (s.readOwn l n)
                    else .error (.park (remFault r.status va))
        | none => .error (.ask (cell l.key).1 (cell l.key).2)
      else if poisoned s l.key n then .error (.park (flawed va l.key l.home))
      else .ok (s.serve fresh l n)

/-- A descriptor read once for the whole instruction (R239). -/
def readDesc (s : State) (va : DWord) (n : Nat) : Res (List Byte × State) := do
  recordCheck va n
  recordAt s va (n / 8)

/-- Write a lane's destination block. -/
def Group.putBlock (g : Group) (first : Nat) (l : Nat) (ws : List Word) : Group :=
  ws.zipIdx.foldl (fun g x => g.putVec (first + x.2) (maskOf fun k => k == l) fun _ => x.1) g

/-- A lane's results: the block and the contributions. -/
def State.laneVal (s : State) (op : ParkOp) (l : Nat) (v : LaneVal) : State :=
  let s := { s with g := s.g.putBlock op.dest.1 l v.ws }
  v.adds.foldl (fun s a => (s.touch a.1).gradAddTo a.2.1 a.2.2) s

/-- A rendering instruction's reads may meet any sector of their core. DESIGN CHOICE, unsafe: assumption 20. -/
def State.metCore (s : State) : State :=
  let c := s.gteam.core
  s.metSectors c ((s.l1.filter fun x => x.core == c).map fun x => (x, Config.freeSector s.fresh x.sector))

/-- The outcomes of the active lanes, whose reads check the core's L1 (R459): faults of the group first, reads to await, then the results, the flags and the parked lanes. -/
def renderLanes (s : State) (op : ParkOp) (sem : LaneSem) (act : Word) (opds : Nat → DWord × DWord × DWord) (desc : List Byte) :
    Res State := do
  let outs := (lanesOf act).map fun l => (l, sem s l (opds l) desc none)
  failLanes (outs.filterMap fun o => match o.2 with
    | .error (.fault t) => some (o.1, t)
    | _ => none)
  let asks := outs.filterMap fun o => match o.2 with
    | .error (.ask pa n) => some (pa, n)
    | _ => none
  require asks.isEmpty (.stallIn (s.askReads true asks) .peer)
  require (!outs.any fun o => match o.2 with
    | .error .recall => true
    | _ => false) (.stall .recall)
  let done := outs.filterMap fun o => match o.2 with
    | .ok v => some (o.1, v)
    | .error _ => none
  let parks := outs.filterMap fun o => match o.2 with
    | .error (.park t rs) => some ({ lane := o.1, t := t, opds := opds o.1, desc := desc, reads := rs } : ParkCause)
    | _ => none
  let t ← parkLanes s.metCore op parks
  let t := done.foldl (fun t o => t.laneVal op o.1 o.2) t
  .ok (((t.raise (maskOf fun l => done.any fun o => o.1 == l) fun l =>
    ((done.find? fun o => o.1 == l).map fun o => o.2.fl).getD 0).remClear).dropSectors t.gteam.core)

/-- A rendering instruction: issue, the descriptor, the lanes. `region` says whether it ends a region (R171). -/
def render (v : LView) (op : ParkOp) (desc : LIn → State → Res (List Byte × State)) (sem : LaneSem) (region : Bool) (s : State) : Out :=
  finishL s (do
    let (x, t) ← laneIssue v s
    let (b, t) ← desc x t
    let t ← renderLanes t op sem x.act (fun l => (x.a l, x.b l, x.c l)) b
    let t := laneDone v t
    .ok (if region then { t with g := t.g.endRegion t.g.sc.pc } else t))

/-- No descriptor. -/
def noDesc (_ : LIn) (s : State) : Res (List Byte × State) := .ok ([], s)

/-- The registers of a block in a lane. -/
def Group.block (g : Group) (o : Opd) (l n : Nat) : List Word :=
  let k := match o with
    | .v n => n.toNat
    | _ => 0
  (List.range n).map fun i => g.vr (k + i) l

/-! ### PARK and REJOIN -/

/-- PARK (R259): every active lane. -/
def execPark (r : LRen) (code : BitVec 8) (s : State) : Out :=
  laneDo (Forms.bare r) (fun x t =>
    parkLanes t .park ((lanesOf x.act).map fun l => { lane := l, t := { code := .brk, sub := code.toNat }, sub := code.toNat })) s

/-- REJOIN (R260): it issues as a marker, waits for every parked lane, and takes the killed lanes out of `em`. -/
def execRejoin (r : LRen) (s : State) : Out :=
  finishL s (do
    let (_, t) ← laneIssueWith (Forms.bare r) true s
    require t.g.parked.isEmpty (.stall .rejoin)
    .ok (laneDone (Forms.bare r) { t with g := { t.g with em := t.g.em &&& ~~~t.g.killMask, parkMask := 0, killMask := 0 } }))

end Sys2Proof.Machine
end

