-- ==== Sys2Proof/Machine/Privileged.lean ====
section
/-!
DEFINITION. The privileged instructions (R104 to R109): returns, translation caches, whole contexts, ownership, watchdogs.
-/
namespace Sys2Proof.Machine

/-- The policy core that executes. -/
def State.polk (s : State) : Nat := match s.party with
  | .policy k => k
  | .group => 0

/-- ERET (R105). -/
def execEret (s : State) : Out := finishS s (do needPolicy s; .ok (policyReturn s s.polk))

/-- Remove cached translations (R106). -/
def tlbinv (src : List SReg) (b : DWord) (sel : Nat → Nat → TlbEntry → Bool) (s : State) : Res State := do
  needPolicy s
  ready s [] src
  require (bitsOf b.toNat 18 46 = 0) reserved
  .ok { s with tlb := s.tlb.filter fun e => !sel (bitsOf b.toNat 16 2) (bitsOf b.toNat 0 16) e }.next

def execTlbinvPage (a b : SReg) (s : State) : Out :=
  finishS s (tlbinv [a, b] (s.rdS b) (fun d asn e => e.dom == d && e.asn == asn &&
    e.base == (s.rdS a).toNat / pageBytes e.level * pageBytes e.level) s)
def execTlbinvSpace (b : SReg) (s : State) : Out := finishS s (tlbinv [b] (s.rdS b) (fun d asn e => e.dom == d && e.asn == asn) s)
def execTlbinvDom (b : SReg) (s : State) : Out := finishS s (tlbinv [b] (s.rdS b) (fun d _ e => e.dom == d) s)
def execTlbinvAll (s : State) : Out := finishS s (do needPolicy s; .ok { s with tlb := [] }.next)

/-- CTX.SAVE (R107): the team of the named group is saved whole, once nothing of its groups is in flight; a failure changes nothing. Where
both failures hold, the missing group is the one reported, and `sd` is 0 once the image stands, while STATE may still be 1 for what engines
have yet to write into it (R379): DESIGN CHOICE, unsafe: assumption 61. -/
def execCtxSave (d a b : SReg) (s : State) : Out :=
  finishS s (do
    needPolicy s
    ready s [d] [a, b]
    let x := (s.rdS a).toNat
    let area := (s.rdS b).toNat
    let back (t : State) (v : DWord) : State := ({ t with party := s.party }.wrS d v).next
    match s.groups.find? fun g => g.slot == bitsOf x 0 6 && (s.team g.team).core == bitsOf x 8 8 with
    | none => .ok (back s 0x8000000000000001)
    | some g =>
      if area % 4096 ≠ 0 ∨ s.priv.memtop.toNat < area + areaBytes (geometry s (s.team g.team)).2.2.1 then .ok (back s 0x8000000000000003)
      else
        let t := s.mapGroups fun y => if y.live && y.team == g.team && y.leave == .stay then { y with leave := .forcing } else y
        let t := settleForced t (teamGroups t g.team)
        if (teamGroups t g.team).all Group.left then .ok (back (saveTeam t area g.team) 0)
        else .error (.stallIn { t with party := s.party } .drain))

/-- CTX.LOAD (R107): an area still being written is waited for (R379). -/
def execCtxLoad (d a b : SReg) (s : State) : Out :=
  finishS s (do
    needPolicy s
    ready s [d] [a, b]
    let core := bitsOf (s.rdS a).toNat 8 8
    match imageFlaw s (s.rdS b).toNat with
    | some k => .error (.trap (flawed (s.rdS b) k 0))
    | none => match restoreTeam s (s.rdS b).toNat core with
    | none => .error (.stall .drain)
    | some (v, t) => .ok (t.wrS d v).next)

/-- DOM.SET of a core: its host-pinned area is zero-filled (R286). -/
def domCore (s : State) (c dom : Nat) : DWord × State :=
  if Config.cores ≤ c then (2, s)
  else if (s.core c).owner = dom then (0, s)
  else if !(onCore s c).isEmpty then (1, s)
  else
    let lo := home1Base + c * 0x200000
    (0, { (s.setCore c { s.core c with owner := dom }) with
      mem := Memory.clear s.mem lo (lo + 0x200000)
      poison := s.poison.filter fun p => !(lo ≤ p && p < lo + 0x200000) })

/-- DOM.SET of a launch queue. -/
def domQueue (s : State) (i dom : Nat) : DWord × State :=
  if 128 ≤ i then (2, s)
  else if (s.queue i).owner = dom then (0, s)
  else if (s.queue i).head ≠ (s.queue i).tail then (1, s)
  else (0, s.setQueue i { s.queue i with owner := dom })

/-- DOM.SET of a 1 GiB unit: zero-filled, and the sums pending for it are lost (R293). After a warm start a unit that goes back to the
domain it had keeps its contents (R469). DEDUCED, unsafe: assumption 54. -/
def domUnit (s : State) (u dom : Nat) : DWord × State :=
  let had := SMap.get 15 s.units u
  if capacity s ≤ u * 2 ^ 30 then (2, s)
  else if had = dom then (0, s)
  else
    let s := { s.dropL1 with units := SMap.set 15 s.units u dom }
    if had = 15 && s.start.oldUnits.any (fun o => SMap.get 15 o u == dom) then (0, s)
    else (0, { s with
      start := { s.start with oldUnits := s.start.oldUnits.map fun o => SMap.set 15 o u dom }
      mem := Memory.clear s.mem (u * 2 ^ 30) ((u + 1) * 2 ^ 30)
      poison := s.poison.filter fun p => p / 2 ^ 30 != u
      threshers := s.threshers.filter fun e => e.pa / 2 ^ 30 != u
      spills := s.spills.filter fun e => e.pa / 2 ^ 30 != u })

/-- DOM.SET (R108). -/
def execDomSet (d a b : SReg) (s : State) : Out :=
  finishS s (do
    needPolicy s
    ready s [d] [a, b]
    let x := (s.rdS a).toNat
    let dom := (s.rdS b).toNat
    require (bitsOf x 60 4 ≤ 2 ∧ (dom < 2 ∨ dom = 15)) reserved
    let q := bitsOf x 0 16
    require (!(bitsOf x 60 4 == 1 && q < 128 && dom != 15 && q / 64 != dom)) reserved
    let (v, t) := match bitsOf x 60 4 with
      | 0 => domCore s (bitsOf x 0 8) dom
      | 1 => domQueue s q dom
      | _ => domUnit s (bitsOf x 0 10) dom
    .ok (t.wrS d v).next)

/-- WDT (R109). -/
def execWdt (a : SReg) (s : State) : Out :=
  finishS s (do
    needPolicy s
    ready s [] [a]
    let x := s.rdS a
    require (bitsOf x.toNat 32 32 = 0) reserved
    let w : Word := x.setWidth 32
    .ok (s.setPol s.polk { s.pol s.polk with wdt := if w = 0 then none else some w }).next)

end Sys2Proof.Machine
end

