-- ==== Sys2Proof/Machine/ReplayCtl.lean ====
section
/-!
DEFINITION. The REPLAY family (R214, R412, R413, R418) and the Stile's limit (R416).
-/
namespace Sys2Proof.Machine

/-- A participant of the session is still in it: a group, resident or saved, or a policy core. -/
def inSession (s : State) (m : Member) : Bool :=
  let member (g : Group) : Bool := g.replay.any fun r => r.sess == m.desc
  let isIn (g : Group) : Bool :=
    member g && (s.launch (s.team g.team).launch).dom == m.dom && (s.launch (s.team g.team).launch).asn == m.asn
  if m.phys then (List.range 4).any fun k => member (s.pol k).ctx
  else s.groups.any isIn || s.saved.any fun x => x.groups.any isIn

/-- A participant joins. The session begins anew where it is not known, and where nobody is in it any more and it records, changes from
one use to the other, or has already had this participant: then its descriptor is read and its logs are unread. A replay that has only
lost its participants for a while goes on where its logs stand (R416). DEDUCED, unsafe: assumption 55. -/
def enterSession (s : State) (m : Member) (rcd : List Byte) : State :=
  let st := fieldOf rcd 40 8
  let rest := s.sessions.filter fun x => !x.isOf m
  match (session? s m).filter fun x => inSession s m || (m.play && x.play && !x.pids.contains m.pid) with
  | some x => { s with sessions := { x with status := st, pids := m.pid :: x.pids } :: rest }
  | none =>
    { s with
      sessions := ⟨m.dom, m.asn, m.phys, m.desc, rcd, st, m.play, [m.pid]⟩ :: rest
      sessNodes := s.sessNodes.filter fun n => !(n.dom == m.dom && n.asn == m.asn && n.desc == m.desc) }

/-- Join a session (R412). DEDUCED, unsafe: assumption 55. -/
def joinSession (play : Bool) (a b : SReg) (s : State) : Out :=
  finishS s (do
    ready s [] [a, b]
    drain s
    let va := s.rdS a
    let x := (s.rdS b).toNat
    recordCheck va 64
    let (d, t) ← recordAt s va 8
    let status := fieldOf d 40 8
    require (bitsOf x 56 8 = 0 ∧ bitsOf x 32 24 < fieldOf d 12 4 ∧ s.g.replay.isNone) (trapP .reservedField)
    require (!play || (bitsOf status 0 1 = 0 && bitsOf status 2 1 = 0)) (trapP .reservedField)
    let r : Replay := { sess := va, play := play, pid := bitsOf x 32 24, g := BitVec.ofNat 32 x, idx := 0, pend := [] }
    let t := enterSession t.remClear ⟨s.gdom, s.gasn, s.party != .group, va, play, r.pid⟩ d
    .ok { t with g := { t.g with replay := some r } }.next)

def execReplayRec (a b : SReg) (s : State) : Out := joinSession false a b s
def execReplayPlay (a b : SReg) (s : State) : Out := joinSession true a b s

/-- REPLAY.CHK (R418). DEDUCED, unsafe: assumption 55. -/
def execReplayChk (d : SReg) (s : State) : Out :=
  finishS s (do
    ready s [d] []
    drain s
    match s.g.replay, s.member? with
    | some r, some m => do
      let per := sessField s m 24 4
      require (r.idx < per) (if m.play then trapP .bounds else .trapIn (setStatus s m 2) { code := .bounds })
      let va := BitVec.ofNat 64 (sessField s m 16 8 + 8 * (r.pid * per + r.idx))
      let t ← if m.play then do
          let (e, t) ← loadS s va 8 false
          require (bitsOf e 63 1 = 1 ∧ bitsOf e 0 32 = r.g.toNat) (.trapIn (setStatus s m 1) { code := .replayDiverge })
          .ok t
        else do
          let l ← lift (access s va 8 .store .plainStore)
          (s.touch va true).put l va 8 (2 ^ 63 + r.g.toNat) s.g.relS
      .ok ({ t with g := { t.g with replay := some { r with idx := r.idx + 1 } } }.wrS d (r.g.setWidth 64)).next
    | _, _ => .error (trapP .reservedField))

/-- REPLAY.OFF: the group's G stays as it is; outside a session nothing changes. -/
def execReplayOff (s : State) : Out :=
  finishS s (do
    drain s
    .ok { s with g := { s.g with replay := none, frozen := (s.g.replay.map fun (r : Replay) => r.g).getD s.g.frozen } }.next)

/-- A staged entry of a group that a Stile holds is released, where its session sets a limit (R416). -/
def releaseStaged (s : State) (gid : Nat) (t : Team) : Team :=
  match t.staged with
  | e :: rest => match e.sess with
    | some (d, play, pid) =>
      let l := s.launch t.launch
      let held := match stagedGrant s l.dom l.asn t.tid e with
        | .error (.stall .stile) => true
        | _ => false
      if e.gid == gid && l.ticket == t.teamlin && held && sessField s ⟨l.dom, l.asn, false, d, play, pid⟩ 28 4 != 0 then
        { t with staged := { e with released := true } :: rest }
      else t
    | none => t
  | [] => t

/-- STILE_TIMEOUT: the held request is released, and its next issue raises REPLAY_DIVERGE; a staged entry that is held is released as well. A
STILEWAIT of 0 sets no limit. DESIGN CHOICE, safe: assumption 1. -/
def execStileTimeout (gid : Nat) (s : State) : Out :=
  let s := { s with teams := s.teams.map (releaseStaged s gid) }
  .next (onGroup s gid fun s =>
    let held := s.g.sStall == some .stile || s.g.lStall == some .stile
    match s.member? with
    | some m => if held && sessField s m 28 4 ≠ 0 then
        { s with g := { s.g with stileOver := true, sStall := none, lStall := none } } else s
    | none => s)

end Sys2Proof.Machine
end

