-- ==== Sys2Proof/Machine/Exact.lean ====
section
/-!
DEFINITION. Exact rational values with infinities, NaN and signed zeros, for the formulas of the rendering instructions and the
visibility pass: each operation is exact, zeros follow the sign rules of R17, and invalid operations raise NV (R18). Every result is
rounded once at its end.
-/
namespace Sys2Proof.Machine

/-- A value and the flags that reaching it has raised; `q` is not zero. -/
inductive QVal where
  | nan
  | inf (neg : Bool)
  | zero (neg : Bool)
  | q (x : Rat)
deriving DecidableEq, Repr

/-- A value with its flags. -/
structure Q where
  v : QVal
  fl : Nat := 0
deriving DecidableEq, Repr

/-- A non-zero dyadic value. -/
def ratOf (m : Int) (e : Int) : Rat := if 0 ≤ e then ((m * 2 ^ e.toNat : Int) : Rat) else mkRat m (2 ^ (-e).toNat)
def Q.ofX : XVal → Q
  | .nan => ⟨.nan, 0⟩
  | .inf n => ⟨.inf n, 0⟩
  | .zero n => ⟨.zero n, 0⟩
  | .fin m e => ⟨.q (ratOf m e), 0⟩
/-- A rational; zero is +0. -/
def Q.ofRat (x : Rat) : Q := if x = 0 then ⟨.zero false, 0⟩ else ⟨.q x, 0⟩
/-- An f32 operand: a signalling NaN raises NV (R18). -/
def Q.f32 (w : Word) : Q :=
  let x := Q.ofX (Machine.f32.decode false w.toNat)
  if Machine.f32.isSnan w.toNat then { x with fl := fNV } else x

def QVal.isNeg : QVal → Bool
  | .nan => false
  | .inf n | .zero n => n
  | .q x => x < 0
def Q.neg (x : Q) : Q :=
  { x with v := match x.v with
    | .nan => .nan
    | .inf n => .inf !n
    | .zero n => .zero !n
    | .q y => .q (-y) }
def Q.add (x y : Q) : Q :=
  let fl := x.fl ||| y.fl
  match x.v, y.v with
  | .nan, _ | _, .nan => ⟨.nan, fl⟩
  | .inf a, .inf b => if a = b then ⟨.inf a, fl⟩ else ⟨.nan, fl ||| fNV⟩
  | .inf a, _ | _, .inf a => ⟨.inf a, fl⟩
  | .zero a, .zero b => ⟨.zero (a && b), fl⟩
  | .zero _, z | z, .zero _ => ⟨z, fl⟩
  | .q a, .q b => if a + b = 0 then ⟨.zero false, fl⟩ else ⟨.q (a + b), fl⟩
def Q.sub (x y : Q) : Q := x.add y.neg
def Q.mul (x y : Q) : Q :=
  let fl := x.fl ||| y.fl
  let n := x.v.isNeg != y.v.isNeg
  match x.v, y.v with
  | .nan, _ | _, .nan => ⟨.nan, fl⟩
  | .inf _, .zero _ | .zero _, .inf _ => ⟨.nan, fl ||| fNV⟩
  | .inf _, _ | _, .inf _ => ⟨.inf n, fl⟩
  | .zero _, _ | _, .zero _ => ⟨.zero n, fl⟩
  | .q a, .q b => ⟨.q (a * b), fl⟩
def Q.div (x y : Q) : Q :=
  let fl := x.fl ||| y.fl
  let n := x.v.isNeg != y.v.isNeg
  match x.v, y.v with
  | .nan, _ | _, .nan => ⟨.nan, fl⟩
  | .inf _, .inf _ | .zero _, .zero _ => ⟨.nan, fl ||| fNV⟩
  | .inf _, _ => ⟨.inf n, fl⟩
  | .zero _, _ | _, .inf _ => ⟨.zero n, fl⟩
  | .q _, .zero _ => ⟨.inf n, fl ||| fDZ⟩
  | .q a, .q b => ⟨.q (a / b), fl⟩
/-- The sum of terms in order. -/
def Q.sum : List Q → Q
  | [] => ⟨.zero false, 0⟩
  | x :: xs => xs.foldl Q.add x

/-- The value of a finite one. -/
def QVal.toRat : QVal → Rat
  | .q x => x
  | _ => 0
/-- An order on values other than NaN. -/
def QVal.lt : QVal → QVal → Bool
  | .nan, _ | _, .nan => false
  | .inf a, .inf b => a && !b
  | .inf a, _ => a
  | _, .inf b => !b
  | x, y => decide (x.toRat < y.toRat)
/-- Neither is NaN and the first is not greater. -/
def QVal.le (x y : QVal) : Bool := x != .nan && y != .nan && !y.lt x
def QVal.isZero : QVal → Bool
  | .zero _ => true
  | _ => false
def QVal.finite : QVal → Bool
  | .zero _ | .q _ => true
  | _ => false
/-- The exact value rounds as this dyadic one does. -/
def Q.toX (x : Q) : XVal :=
  match x.v with
  | .nan => .nan
  | .inf n => .inf n
  | .zero n => .zero n
  | .q y =>
    let n := y.num.natAbs
    let s := 80 + Nat.log2 y.den - Nat.log2 n
    .fin (signInt (decide (y.num < 0)) (sticky (n * 2 ^ s / y.den) (n * 2 ^ s % y.den != 0))) (-(s : Int) - 1)
/-- RNE32 with the flags of R18. -/
def Q.round (x : Q) : Word × Nat :=
  let (b, g) := Machine.f32.settle .rne false false x.toX
  (BitVec.ofNat 32 b, x.fl ||| g)
/-- RNE32 (R17). -/
def Q.rne (x : Q) : Word := x.round.1
/-- A value rounded to f32 and taken on. -/
def Q.step (x : Q) : Q := Q.f32 x.rne

/-- The floor of a rational. -/
def floorR (x : Rat) : Int := x.num / (x.den : Int)

/-- RNE32(± √x) for a rational x > 0. -/
def rneSqrt (neg : Bool) (x : Rat) : Word :=
  let n := x.num.natAbs
  let k := (200 + Nat.log2 x.den - Nat.log2 n + 1) / 2
  let y := n * 4 ^ k / x.den
  let r := isqrt y
  let exact := r * r * x.den == n * 4 ^ k
  BitVec.ofNat 32 (rne32 (.fin (signInt neg (sticky r (!exact))) (-(k : Int) - 1)))

end Sys2Proof.Machine
end

