-- ==== Sys2Proof/Machine/Trace.lean ====
section
/-!
DEFINITION. Rays: the triangle test that TRACE and the visibility pass share (R244, R323), the box test and the traversal of a BVH
(R240 to R246), TRACE and HIT.ADJ (R247).
-/
namespace Sys2Proof.Machine

/-! ### The triangle test (R244) -/

/-- The exact edge functions of a projected triangle and its determinant. -/
structure Edges where
  u : Q
  v : Q
  w : Q
  det : Q

/-- Qx·Py − Qy·Px, the form of each edge function. -/
def cross2 (px py qx qy : Q) : Q := (px.mul qy).sub (py.mul qx)
def edgesOf (a b c : Q × Q) : Edges :=
  let u := cross2 c.1 c.2 b.1 b.2
  let v := cross2 a.1 a.2 c.1 c.2
  let w := cross2 b.1 b.2 a.1 a.2
  ⟨u, v, w, (u.add v).add w⟩

/-- A value is below zero. -/
def Q.isNeg (x : Q) : Bool := x.v.lt (.zero false)
/-- The sign test and the rule for a zero edge function whose edge runs from P to Q. -/
def edgeOk (neg : Bool) (value : Q) (p q : Q × Q) : Bool :=
  !(if neg then (QVal.zero false).lt value.v else value.isNeg) &&
  (!value.v.isZero || p.2.v.lt q.2.v || (p.2.v.le q.2.v && q.2.v.le p.2.v && q.1.v.lt p.1.v))
/-- The tests of the three edges. -/
def insideTri (e : Edges) (a b c : Q × Q) : Bool :=
  let n := e.det.isNeg
  let tst (value : Q) (p q : Q × Q) : Bool := if n then edgeOk n value q p else edgeOk n value p q
  tst e.u b c && tst e.v c a && tst e.w a b

/-- A ray: its direction and origin by axis, its interval. -/
structure Ray where
  o : List Word
  d : List Word
  tmin : Word
  tmax : Word

/-- The value of a component. -/
def comp (v : List Word) (a : Nat) : Q := Q.f32 (v.getD a 0)
def finiteVec (v : List Word) : Bool := v.all fun w => (Q.f32 w).v.finite
def magOf (w : Word) : Nat := f32.mag w.toNat

/-- The axis of the largest |d|, the lowest on a tie. -/
def axisZ (d : List Word) : Nat :=
  (List.range 3).foldl (fun k a => if magOf (d.getD k 0) < magOf (d.getD a 0) then a else k) 0

/-- An accepted hit: t, b1, b2, det < 0. -/
structure TriHit where
  t : Word
  b1 : Word
  b2 : Word
  back : Bool
deriving DecidableEq, Repr

/-- The test of a ray against a triangle of vertices `vs`. -/
def triTest (r : Ray) (cullb twoSided : Bool) (vs : List (List Word)) : Option TriHit :=
  if !vs.all finiteVec then none
  else
    let kz := axisZ r.d
    let k1 := (kz + 1) % 3
    let k2 := (kz + 2) % 3
    let swap := (comp r.d kz).isNeg
    let kx := if swap then k2 else k1
    let ky := if swap then k1 else k2
    let sx := ((comp r.d kx).div (comp r.d kz)).step
    let sy := ((comp r.d ky).div (comp r.d kz)).step
    let sz := ((Q.ofRat 1).div (comp r.d kz)).step
    let pts := vs.map fun v =>
      let q (a : Nat) : Q := ((comp v a).sub (comp r.o a)).step
      (((q kx).sub (sx.mul (q kz))).step, ((q ky).sub (sy.mul (q kz))).step, (sz.mul (q kz)).step)
    let zero : Q := ⟨.zero false, 0⟩
    let at_ (i : Nat) : Q × Q × Q := pts.getD i (zero, zero, zero)
    let p2 (i : Nat) : Q × Q := ((at_ i).1, (at_ i).2.1)
    let e := edgesOf (p2 0) (p2 1) (p2 2)
    if e.det.v.isZero || (cullb && e.det.isNeg && !twoSided) || !insideTri e (p2 0) (p2 1) (p2 2) then none
    else
      let tt := ((e.u.mul (at_ 0).2.2).add (e.v.mul (at_ 1).2.2)).add (e.w.mul (at_ 2).2.2)
      let t := (tt.div e.det).rne
      if (Q.f32 r.tmin).v.le (Q.f32 t).v && (Q.f32 t).v.le (Q.f32 r.tmax).v then
        some ⟨t, (e.v.div e.det).rne, (e.w.div e.det).rne, e.det.isNeg⟩
      else none

/-! ### The BVH (R240 to R242) -/

/-- A child reference. -/
inductive BRef where
  | box (a : DWord)
  | leaf (a : DWord) (n : Nat)
  | empty
deriving DecidableEq, Repr

/-- A reference, unless it breaks R240. DEDUCED, unsafe: assumption 34. -/
def brefOf (x : Nat) : Option BRef :=
  let a := BitVec.ofNat 64 (ext57 x)
  let run := bitsOf x 57 5
  match bitsOf x 62 2 with
  | 0 => if run = 0 ∧ bitsOf x 0 7 = 0 then some (.box a) else none
  | 1 => if bitsOf x 0 6 = 0 then some (.leaf a (run + 1)) else none
  | 2 => if run = 0 then some .empty else none
  | _ => none

/-- The reads of 64-byte units. -/
def readUnits (s : State) (a : DWord) : Nat → Except RFail (List Byte)
  | 0 => .ok []
  | n + 1 => do
    let v ← renderRead s a 64
    let t ← readUnits s (a + 64) n
    .ok (leBytes 64 v ++ t)

def f32At (b : List Byte) (off : Nat) : Word := BitVec.ofNat 32 (fieldOf b off 4)
def vec3At (b : List Byte) (off : Nat) : List Word := [f32At b off, f32At b (off + 4), f32At b (off + 8)]

/-- A box node, unless it breaks R241: its children with their byte bounds. -/
structure BoxNode where
  o : List Word
  e : List Int
  kids : List (BRef × List Nat)
/-- DEDUCED, unsafe: assumption 34. -/
def boxNode (b : List Byte) : Option BoxNode :=
  let count := fieldOf b 15 1
  let refs := (List.range 8).map fun i => brefOf (fieldOf b (64 + 8 * i) 8)
  let ok := 1 ≤ count && count ≤ 8 && finiteVec (vec3At b 0) && refs.zipIdx.all fun r =>
    match r.1 with
    | none => false
    | some .empty => count ≤ r.2
    | some _ => r.2 < count
  if ok then some
    { o := vec3At b 0
      e := [12, 13, 14].map fun i => toSigned 8 (fieldOf b i 1)
      kids := ((refs.filterMap id).take count).zipIdx.map fun r => (r.1, (List.range 6).map fun j => fieldOf b (16 + 6 * r.2 + j) 1) }
  else none

/-- The interval of a child box on one axis: `none` admits no t. -/
def slab (r : Ray) (n : BoxNode) (q : List Nat) (a : Nat) : Option (QVal × QVal) :=
  let o := (comp n.o a).v.toRat
  let unit := ratOf 1 (n.e.getD a 0)
  let lo := o + (q.getD (2 * a) 0 : Nat) * unit
  let hi := o + ((q.getD (2 * a + 1) 0 : Nat) + 1) * unit
  let ro := (comp r.o a).v.toRat
  let d := (comp r.d a).v.toRat
  if d = 0 then (if lo ≤ ro ∧ ro ≤ hi then some (.inf true, .inf false) else none)
  else
    let x := (lo - ro) / d
    let y := (hi - ro) / d
    let qv (z : Rat) : QVal := (Q.ofRat z).v
    some (if x ≤ y then (qv x, qv y) else (qv y, qv x))

/-- The entry distance of a child that is entered (R245). -/
def enterOf (r : Ray) (n : BoxNode) (tcur : Word) (q : List Nat) : Option QVal :=
  let xs := [0, 1, 2].map (slab r n q)
  if [0, 1, 2].any (fun a => q.getD (2 * a + 1) 0 < q.getD (2 * a) 0) || xs.any (·.isNone) then none
  else
    let ys := xs.filterMap id
    let enter := ys.foldl (fun m y => if m.lt y.1 then y.1 else m) (Q.f32 r.tmin).v
    let exit := ys.foldl (fun m y => if y.2.lt m then y.2 else m) (Q.f32 tcur).v
    if enter.le exit then some enter else none

/-- Insert by ascending entry distance, after equal ones. -/
def insertBy (x : QVal × BRef) : List (QVal × BRef) → List (QVal × BRef)
  | [] => [x]
  | y :: t => if x.1.lt y.1 then x :: y :: t else y :: insertBy x t

/-- The best hit so far. -/
structure Best where
  h : TriHit
  prim : Nat
  leaf : DWord
deriving DecidableEq, Repr

/-- What ends a traversal early: a fault, a malformed node, too many levels, or the first hit of `.any`. -/
inductive TEnd where
  | fail (f : RFail)
  | malformed
  | depth
  | found (b : Best)
deriving DecidableEq, Repr

def liftR {α : Type} (r : Except RFail α) : Except TEnd α :=
  match r with
  | .ok x => .ok x
  | .error f => .error (.fail f)

/-- A hit replaces the best one: smaller t, then smaller PRIM, then smaller address. -/
def Best.better (x y : Best) : Bool :=
  let a := (Q.f32 x.h.t).v
  let b := (Q.f32 y.h.t).v
  a.lt b || (!b.lt a && (x.prim < y.prim || (x.prim == y.prim && x.leaf.toNat < y.leaf.toNat)))

/-- A run of leaves in address order. -/
def leafRun (s : State) (r : Ray) (any cullb : Bool) (a : DWord) : Nat → Option Best → Except TEnd (Option Best)
  | 0, best => .ok best
  | n + 1, best => do
    let b ← liftR (readUnits s a 1)
    if fieldOf b 36 4 / 2 ≠ 0 ∨ fieldOf b 48 16 ≠ 0 then .error .malformed
    else match triTest r cullb (fieldOf b 36 4 = 1) [vec3At b 0, vec3At b 12, vec3At b 24] with
      | none => leafRun s r any cullb (a + 64) n best
      | some h =>
        let x : Best := ⟨h, fieldOf b 40 8, a⟩
        if any then .error (.found x)
        else leafRun s r any cullb (a + 64) n (match best with
          | none => some x
          | some y => if x.better y then some x else some y)

/-- Traversal from a reference; `fuel` levels may still be opened (R243, R245). DEDUCED, unsafe: assumption 34. -/
def traverse (s : State) (r : Ray) (any cullb : Bool) : Nat → BRef → Option Best → Except TEnd (Option Best)
  | _, .empty, best => .ok best
  | _, .leaf a n, best => leafRun s r any cullb a n best
  | 0, .box _, _ => .error .depth
  | fuel + 1, .box a, best => do
    let b ← liftR (readUnits s a 2)
    match boxNode b with
    | none => .error .malformed
    | some n =>
      let tcur := match best with
        | some x => x.h.t
        | none => r.tmax
      let order := n.kids.foldl (fun l k => match enterOf r n tcur k.2 with
        | some e => insertBy (e, k.1) l
        | none => l) []
      order.foldlM (fun best k => traverse s r any cullb fuel k.2 best) best

/-! ### TRACE -/

/-- The no-hit block with its status (R243). -/
def noHit (status : Nat) : List Word := [0x7F800000, 0, 0, BitVec.ofNat 32 status, 0xFFFFFFFF, 0xFFFFFFFF, 0, 0]
def lohi (x : Nat) : List Word := [BitVec.ofNat 32 x, BitVec.ofNat 32 (x / 2 ^ 32)]
def hitBlock (b : Best) : List Word :=
  [b.h.t, b.h.b1, b.h.b2, if b.h.back then 3 else 1] ++ lohi b.prim ++ lohi b.leaf.toNat

/-- The ray block of a lane. -/
def rayOf (b : List Word) : Ray := ⟨b.take 3, (b.drop 3).take 3, b.getD 6 0, b.getD 7 0⟩
def Ray.invalid (r : Ray) : Bool :=
  !finiteVec r.o || !finiteVec r.d || r.d.all (fun w => magOf w == 0) || (Q.f32 r.tmin).v == .nan || (Q.f32 r.tmax).v == .nan

/-- The BVH descriptor is well formed (R240). -/
def bvhOk (b : List Byte) : Bool := fieldOf b 8 1 ≤ 15 && fieldOf b 9 55 == 0 && (brefOf (fieldOf b 0 8)).isSome

/-- TRACE in one lane. -/
def traceLane (o : LRen) (any cullb : Bool) : LaneSem := fun s l _ desc _ =>
  let r := rayOf (s.g.block o.va l 8)
  if r.invalid then .ok { ws := noHit 4 }
  else if (Q.f32 r.tmax).v.lt (Q.f32 r.tmin).v then .ok { ws := noHit 8 }
  else match traverse s r any cullb 64 ((brefOf (fieldOf desc 0 8)).getD .empty) none with
    | .ok none => .ok { ws := noHit 0 }
    | .ok (some b) | .error (.found b) => .ok { ws := hitBlock b }
    | .error .malformed => .ok { ws := noHit 32 }
    | .error .depth => .ok { ws := noHit 16 }
    | .error (.fail f) => .error f

def traceDesc (x : LIn) (s : State) : Res (List Byte × State) := do
  let (b, t) ← readDesc s (x.b 0) 64
  require (bvhOk b) (trapP .reservedField)
  .ok (b, t)
def execTrace (r : LRen) (any cullb : Bool) (s : State) : Out :=
  render (Forms.trace r) (.trace r any cullb) traceDesc (traceLane r any cullb) false s

/-! ### HIT.ADJ -/

def det3 (a b c : List Q) : Q :=
  let z : Q := ⟨.zero false, 0⟩
  let x (v : List Q) (i : Nat) : Q := v.getD i z
  let m (i j : Nat) : Q := ((x b i).mul (x c j)).sub ((x b j).mul (x c i))
  (((x a 0).mul (m 1 2)).add ((x a 1).mul (m 2 0))).add ((x a 2).mul (m 0 1))
/-- The cross product. -/
def cross3 (a b : List Q) : List Q :=
  let z : Q := ⟨.zero false, 0⟩
  let x (v : List Q) (i : Nat) : Q := v.getD i z
  let m (i j : Nat) : Q := ((x a i).mul (x b j)).sub ((x a j).mul (x b i))
  [m 1 2, m 2 0, m 0 1]
def vsub (a b : List Q) : List Q := (a.zip b).map fun p => p.1.sub p.2

/-- The outputs of HIT.ADJ for a leaf's vertices (R247). With the columns c0, c1, c2 of M, the solution of transpose(M) × λ = g is
(g0·(c1×c2) + g1·(c2×c0) + g2·(c0×c1)) / det(M). -/
def hitGrad (d : List Word) (vs : List (List Word)) (t b1 b2 : Word) (gs : List Word) : LaneVal :=
  let q (v : List Word) : List Q := v.map Q.f32
  let v (i : Nat) : List Q := q (vs.getD i [])
  let c0 := (q d).map Q.neg
  let c1 := vsub (v 1) (v 0)
  let c2 := vsub (v 2) (v 0)
  let det := det3 c0 c1 c2
  if det.v.isZero then { ws := List.replicate 15 0x7FC00000, fl := fNV }
  else
    let g (i : Nat) : Q := Q.f32 (gs.getD i 0)
    let x := cross3 c1 c2
    let y := cross3 c2 c0
    let z := cross3 c0 c1
    let lam := (x.zip (y.zip z)).map fun p => ((((g 0).mul p.1).add ((g 1).mul p.2.1)).add ((g 2).mul p.2.2)).div det
    let b0 := ((Q.ofRat 1).sub (Q.f32 b1)).sub (Q.f32 b2)
    let scale (k : Q) : List Q := lam.map fun c => k.mul c
    let outs := (scale b0.neg ++ scale (Q.f32 b1).neg ++ scale (Q.f32 b2).neg ++ lam ++ scale (Q.f32 t)).map Q.round
    { ws := outs.map (·.1), fl := outs.foldl (fun f o => f ||| o.2) 0 }

/-- HIT.ADJ in one lane. -/
def hitAdjLane (o : LRen) : LaneSem := fun s l _ _ _ =>
  let h := s.g.block o.vb l 8
  if !(h.getD 3 0).getLsbD 0 then .ok { ws := List.replicate 15 0 }
  else do
    let b ← readUnits s (h.getD 7 0 ++ h.getD 6 0) 1
    .ok (hitGrad (rayOf (s.g.block o.va l 8)).d [vec3At b 0, vec3At b 12, vec3At b 24] (h.getD 0 0) (h.getD 1 0) (h.getD 2 0)
      (s.g.block o.vc l 3))
def execHitAdj (r : LRen) (s : State) : Out := render (Forms.hitAdj r) (.hitAdj r) noDesc (hitAdjLane r) false s

end Sys2Proof.Machine
end

