-- ==== Sys2Proof/Machine/Sampler.lean ====
section
/-!
DEFINITION. The visibility buffer as programs read it (R251, R252), barycentrics and their adjoint (R253) and edge samples (R254).
-/
namespace Sys2Proof.Machine

/-! ### The visibility buffer -/

/-- A visibility buffer descriptor (R251). -/
structure Vbd where
  base : Nat
  w : Nat
  h : Nat
  scode : Nat
deriving DecidableEq, Repr

def vbdOf (b : List Byte) : Vbd := ⟨fieldOf b 0 8, fieldOf b 8 4, fieldOf b 12 4, fieldOf b 16 1⟩
def vbdOk (b : List Byte) : Bool :=
  let d := vbdOf b
  d.base % 128 == 0 && 1 ≤ d.w && d.w ≤ 32768 && 1 ≤ d.h && d.h ≤ 32768 && d.scode ≤ 3 && fieldOf b 17 15 == 0
/-- The address of a sample's record. -/
def Vbd.addr (d : Vbd) (x y smp : Nat) : DWord := BitVec.ofNat 64 (d.base + 16 * (2 ^ d.scode * (y * d.w + x) + smp))

/-- A sample: its id, its depth, and whether it lies outside the buffer. -/
structure VbSample where
  id : Nat
  z : Word
  outside : Bool
deriving DecidableEq, Repr
def emptyId : Nat := 2 ^ 64 - 1
def emptySample (outside : Bool) : VbSample := ⟨emptyId, 0x7F800000, outside⟩

/-- A sample as R252 reads it. -/
def readSample (s : State) (d : Vbd) (x y : Int) (smp : Nat) (fresh : Bool := false) : Except RFail VbSample :=
  if x < 0 ∨ y < 0 ∨ d.w ≤ x ∨ d.h ≤ y ∨ 2 ^ d.scode ≤ smp then .ok (emptySample true)
  else match renderRead s (d.addr x.toNat y.toNat smp) 16 fresh with
    | .ok v => .ok ⟨bitsOf v 0 64, BitVec.ofNat 32 (bitsOf v 64 32), false⟩
    | .error e => .error e

/-- The descriptor in a uniform register that the mod field names, read as the run sees it. -/
def vbDesc (k : SReg) (_ : LIn) (s : State) : Res (List Byte × State) := do
  require (!s.g.waits k) (.stall .scoreboard)
  let (b, t) ← readDesc s (snapS s.g.run k) 32
  require (vbdOk b) (trapP .reservedField)
  .ok (b, t)

/-- VB.RD in one lane. -/
def vbRdLane (fresh : Bool) : LaneSem := fun s _ o desc _ => do
  let v ← readSample s (vbdOf desc) (toSigned 32 o.1.toNat) (toSigned 32 o.2.1.toNat) (o.2.2.toNat % 2 ^ 32) fresh
  .ok { ws := lohi v.id ++ [v.z] }
/-- VB.RD. -/
def execVbRd (r : LRen) (fresh : Bool) (k : SReg) (s : State) : Out := render (Forms.vbRd r) (.vbRd r) (vbDesc k) (vbRdLane fresh) false s

/-! ### Barycentrics (R253) -/

/-- Entry i modulo 3. -/
def at3 (xs : List Q) (i : Nat) : Q := xs.getD (i % 3) ⟨.nan, 0⟩

/-- The vertex block as x, y and w, and the terms c_i. -/
structure BaryIn where
  x : List Q
  y : List Q
  w : List Q
  px : Q
  py : Q
  c : List Q
  sum : Q
def baryIn (vb sb : List Word) (lin : Bool) : BaryIn :=
  let q (b : List Word) (i : Nat) : Q := Q.f32 (b.getD i 0)
  let xs := [0, 3, 6].map (q vb)
  let ys := [1, 4, 7].map (q vb)
  let ws := [2, 5, 8].map (q vb)
  let px := q sb 0
  let py := q sb 1
  let e (i : Nat) : Q := (((at3 xs (i + 1)).sub px).mul ((at3 ys (i + 2)).sub py)).sub
    (((at3 xs (i + 2)).sub px).mul ((at3 ys (i + 1)).sub py))
  let c := [0, 1, 2].map fun i => if lin then e i else (e i).div (at3 ws i)
  { x := xs, y := ys, w := ws, px := px, py := py, c := c, sum := Q.sum c }
/-- C = 0, or some w_i = 0 without `.lin`. -/
def BaryIn.bad (b : BaryIn) (lin : Bool) : Bool := b.sum.v.isZero || (!lin && b.w.any fun w => w.v.isZero)

/-- A NaN among the operands: every output is NaN, and a signalling one raises NV. -/
def nanInputs (ws : List Word) : Option Nat :=
  let qs := ws.map Q.f32
  if qs.any fun x => x.v == .nan then some (qs.foldl (fun f x => f ||| x.fl) 0) else none

/-- Rounded outputs with their flags. -/
def rounded (qs : List Q) : LaneVal :=
  let o := qs.map Q.round
  { ws := o.map (·.1), fl := o.foldl (fun f x => f ||| x.2) 0 }
def allNan (n fl : Nat) : LaneVal := { ws := List.replicate n 0x7FC00000, fl := fl }

def baryVal (vb sb : List Word) (lin : Bool) : LaneVal :=
  match nanInputs (vb ++ sb) with
  | some fl => allNan 2 fl
  | none =>
    let b := baryIn vb sb lin
    if b.bad lin then allNan 2 fNV else rounded [(at3 b.c 1).div b.sum, (at3 b.c 2).div b.sum]

def baryAdjVal (vb sb gb : List Word) (lin : Bool) : LaneVal :=
  match nanInputs (vb ++ sb ++ gb) with
  | some fl => allNan 9 fl
  | none =>
    let b := baryIn vb sb lin
    if b.bad lin then allNan 9 fNV
    else
      let beta (i : Nat) : Q := (at3 b.c i).div b.sum
      let g1 := Q.f32 (gb.getD 0 0)
      let g2 := Q.f32 (gb.getD 1 0)
      let mean := (g1.mul (beta 1)).add (g2.mul (beta 2))
      let g (i : Nat) : Q := ((at3 [Q.ofRat 0, g1, g2] i).sub mean).div b.sum
      let e (i : Nat) : Q := if lin then g (i % 3) else (g (i % 3)).div (at3 b.w i)
      let outs (i : Nat) : List Q :=
        [((e (i + 2)).mul ((at3 b.y (i + 1)).sub b.py)).sub ((e (i + 1)).mul ((at3 b.y (i + 2)).sub b.py)),
         ((e (i + 1)).mul ((at3 b.x (i + 2)).sub b.px)).sub ((e (i + 2)).mul ((at3 b.x (i + 1)).sub b.px)),
         if lin then Q.ofRat 0 else ((g i).neg.mul (at3 b.c i)).div (at3 b.w i)]
      rounded ([0, 1, 2].map outs).flatten

/-- An instruction that reads blocks alone and parks no lane. -/
def blockOp (v : Forms.LView) (f : Group → Nat → LaneVal) (s : State) : Out :=
  finishL s (do
    let (x, t) ← laneIssue v s
    let first := ParkOp.dest.reg v.vd
    let g := (lanesOf x.act).foldl (fun g l => g.putBlock first l (f t.g l).ws) t.g
    .ok (laneDone v ({ t with g := g }.raise x.act fun l => (f t.g l).fl)))

def execBary (r : LRen) (lin : Bool) (s : State) : Out :=
  blockOp (Forms.bary r) (fun g l => baryVal (g.block r.va l 9) (g.block r.vb l 2) lin) s
def execBaryAdj (r : LRen) (lin : Bool) (s : State) : Out :=
  blockOp (Forms.baryAdj r) (fun g l => baryAdjVal (g.block r.va l 9) (g.block r.vb l 2) (g.block r.vc l 2) lin) s

/-! ### Edge samples (R254) -/

/-- δ = 2^−6. -/
def edgeDelta : Q := Q.ofRat (mkRat 1 64)

/-- The floor of a finite f32 value. -/
def floorW (w : Word) : Option Int :=
  let x := (Q.f32 w).v
  if x.finite then some (floorR x.toRat) else none

/-- A sample of a resumed EDGE.SAMP: as it was read, or empty (R258, DISP 3). -/
def takenSample (rs : SampleReads) (k : Nat) : VbSample :=
  match rs[k]? with
  | some (some (id, z, out)) => ⟨id, z, out⟩
  | _ => emptySample false
/-- Both samples; when a read parks the lane, its record keeps what the other read (R258). -/
def bothSamples (i e : Except RFail VbSample) : Except RFail (VbSample × VbSample) :=
  let kept (r : Except RFail VbSample) : Option (Nat × Word × Bool) := match r with
    | .ok v => some (v.id, v.z, v.outside)
    | .error _ => none
  match i, e with
  | .ok a, .ok b => .ok (a, b)
  | .error (.park t _), .error (.park _ _) | .error (.park t _), .ok _ | .ok _, .error (.park t _) => .error (.park t [kept i, kept e])
  | .error (.park _ _), .error f | .error f, _ | .ok _, .error f => .error f

/-- EDGE.SAMP in one lane, for a stratum count. DEDUCED, unsafe: assumption 34. -/
def edgeLane (o : LRen) (n : Nat) : LaneSem := fun s l opds desc given =>
  let b := s.g.block o.va l 4
  let p0x := comp b 0
  let p0y := comp b 1
  let plus (e : Q) : Q := if e.v.isZero then Q.ofRat 0 else e
  let ex := plus ((comp b 2).sub p0x)
  let ey := plus ((comp b 3).sub p0y)
  let len2 := (ex.mul ex).add (ey.mul ey)
  if !finiteVec b || len2.v.isZero then
    .ok { ws := [b.getD 0 0, b.getD 1 0, 0, 0, 0, 4, 0xFFFFFFFF, 0xFFFFFFFF, 0xFFFFFFFF, 0xFFFFFFFF] }
  else
    let c : Word := opds.2.1.setWidth 32
    let key : Word := opds.2.2.setWidth 32
    let u : Rat := mkRat ((sow32 c key >>> 8).toNat : Int) (2 ^ 24)
    let tau := Q.ofRat ((((c.toNat % n : Nat) : Rat) + u) / (n : Rat))
    let px := (p0x.add (tau.mul ex)).rne
    let py := (p0y.add (tau.mul ey)).rne
    let q := len2.v.toRat
    let unit (e : Q) : Word := if e.v.isZero then (if e.v.isNeg then 0x80000000 else 0)
      else rneSqrt e.isNeg (e.v.toRat * e.v.toRat / q)
    let nx := unit ey
    let ny := unit ex.neg
    let weight := rneSqrt false (q / ((n * n : Nat) : Rat))
    let side (sg : Bool) : Except RFail VbSample :=
      let pt (p n : Word) : Option Int :=
        let d := edgeDelta.mul (Q.f32 n)
        floorW (if sg then (Q.f32 p).add d else (Q.f32 p).sub d).rne
      match pt px nx, pt py ny with
      | some x, some y => readSample s (vbdOf desc) x y 0
      | _, _ => .ok (emptySample true)
    do
      let (i, e) ← match given with
        | some rs => .ok (takenSample rs 0, takenSample rs 1)
        | none => bothSamples (side false) (side true)
      let status := (if i.id = e.id then 0 else 1) + (if i.outside || e.outside then 2 else 0)
      .ok { ws := [px, py, nx, ny, weight, BitVec.ofNat 32 status] ++ lohi i.id ++ lohi e.id }
def execEdgeSamp (r : LRen) (k : SReg) (n1 : BitVec 8) (s : State) : Out :=
  render (Forms.edgeSamp r) (.edgeSamp r n1) (vbDesc k) (edgeLane r (n1.toNat + 1)) false s

end Sys2Proof.Machine
end

