-- ==== Sys2Proof/Machine/ScalarAlu.lean ====
section
/-!
DEFINITION. Scalar integer arithmetic, logic, immediates, compares and select (R80 to R87). Every one waits for the registers
it names (R80), writes one register or condition bit, and moves on.
-/
namespace Sys2Proof.Machine

/-- `rd := f ra rb` (R80, R81). -/
def scalar2 (d a b : SReg) (f : DWord → DWord → DWord) (s : State) : Out :=
  finishS s (do ready s [d] [a, b]; .ok (s.wrS d (f (s.rdS a) (s.rdS b))).next)
/-- `rd := f ra` (R80, R81, R83). -/
def scalar1 (d a : SReg) (f : DWord → DWord) (s : State) : Out :=
  finishS s (do ready s [d] [a]; .ok (s.wrS d (f (s.rdS a))).next)
/-- `c[k] := f ra rb` (R86). -/
def compare2 (k : CReg) (a b : SReg) (f : DWord → DWord → Bool) (s : State) : Out :=
  finishS s (do ready s [] [a, b]; .ok (s.wrC k (f (s.rdS a) (s.rdS b))).next)
/-- `c[k] := f ra` (R86). -/
def compare1 (k : CReg) (a : SReg) (f : DWord → Bool) (s : State) : Out :=
  finishS s (do ready s [] [a]; .ok (s.wrC k (f (s.rdS a))).next)

/-- A double word from a number modulo 2^64. -/
def dw (n : Nat) : DWord := BitVec.ofNat 64 n
/-- `imm14` sign-extended (R83). -/
def simm (imm : BitVec 14) : DWord := imm.signExtend 64
/-- A shift count: the low six bits of a register (R81). -/
def cnt (x : DWord) : Nat := x.toNat % 64

/-! ### R81 -/

def execSadd (d a b : SReg) (s : State) : Out := scalar2 d a b (fun x y => x + y) s
def execSsub (d a b : SReg) (s : State) : Out := scalar2 d a b (fun x y => x - y) s
def execSmul (d a b : SReg) (s : State) : Out := scalar2 d a b (fun x y => x * y) s
def execSmulh (d a b : SReg) (s : State) : Out := scalar2 d a b (fun x y => BitVec.ofInt 64 (x.toInt * y.toInt / 2 ^ 64)) s
def execSmulhn (d a b : SReg) (s : State) : Out := scalar2 d a b (fun x y => dw (x.toNat * y.toNat / 2 ^ 64)) s
def execSdiv (d a b : SReg) (s : State) : Out := scalar2 d a b (fun x y => dw (divRem 64 true x.toNat y.toNat).1) s
def execSdivn (d a b : SReg) (s : State) : Out := scalar2 d a b (fun x y => dw (divRem 64 false x.toNat y.toNat).1) s
def execSrem (d a b : SReg) (s : State) : Out := scalar2 d a b (fun x y => dw (divRem 64 true x.toNat y.toNat).2) s
def execSremn (d a b : SReg) (s : State) : Out := scalar2 d a b (fun x y => dw (divRem 64 false x.toNat y.toNat).2) s
def execSand (d a b : SReg) (s : State) : Out := scalar2 d a b (fun x y => x &&& y) s
def execSor (d a b : SReg) (s : State) : Out := scalar2 d a b (fun x y => x ||| y) s
def execSxor (d a b : SReg) (s : State) : Out := scalar2 d a b (fun x y => x ^^^ y) s
def execSandn (d a b : SReg) (s : State) : Out := scalar2 d a b (fun x y => x &&& ~~~y) s
def execSshl (d a b : SReg) (s : State) : Out := scalar2 d a b (fun x y => x <<< cnt y) s
def execSshr (d a b : SReg) (s : State) : Out := scalar2 d a b (fun x y => x >>> cnt y) s
def execSsra (d a b : SReg) (s : State) : Out := scalar2 d a b (fun x y => x.sshiftRight (cnt y)) s
def execSmin (d a b : SReg) (s : State) : Out := scalar2 d a b (fun x y => if x.slt y then x else y) s
def execSmax (d a b : SReg) (s : State) : Out := scalar2 d a b (fun x y => if x.slt y then y else x) s
def execSminn (d a b : SReg) (s : State) : Out := scalar2 d a b (fun x y => if x.ult y then x else y) s
def execSmaxn (d a b : SReg) (s : State) : Out := scalar2 d a b (fun x y => if x.ult y then y else x) s
def execSclz (d a : SReg) (s : State) : Out := scalar1 d a (fun x => dw (clzNat 64 x.toNat)) s
def execSpopc (d a : SReg) (s : State) : Out := scalar1 d a (fun x => dw (popNat 64 x.toNat)) s
def execSbrev (d a : SReg) (s : State) : Out := scalar1 d a (fun x => dw (revNat 64 x.toNat)) s
/-- R84. -/
def execSsow (d a b : SReg) (s : State) : Out :=
  scalar2 d a b (fun x y => (sow32 (x.setWidth 32) (y.setWidth 32)).setWidth 64) s

/-! ### R83, R85 -/

def execSaddi (d a : SReg) (imm : BitVec 14) (s : State) : Out := scalar1 d a (fun x => x + simm imm) s
def execSandi (d a : SReg) (imm : BitVec 12) (s : State) : Out := scalar1 d a (fun x => x &&& imm.setWidth 64) s
def execSori (d a : SReg) (imm : BitVec 12) (s : State) : Out := scalar1 d a (fun x => x ||| imm.setWidth 64) s
def execSxori (d a : SReg) (imm : BitVec 12) (s : State) : Out := scalar1 d a (fun x => x ^^^ imm.setWidth 64) s
def execSshli (d a : SReg) (n : BitVec 6) (s : State) : Out := scalar1 d a (fun x => x <<< n.toNat) s
def execSshri (d a : SReg) (n : BitVec 6) (s : State) : Out := scalar1 d a (fun x => x >>> n.toNat) s
def execSsrai (d a : SReg) (n : BitVec 6) (s : State) : Out := scalar1 d a (fun x => x.sshiftRight n.toNat) s
/-- `rd := sext64(off20 × 2^12)`. -/
def execSlui (d : SReg) (imm : BitVec 20) (s : State) : Out :=
  finishS s (do ready s [d] []; .ok (s.wrS d ((imm ++ (0 : BitVec 12)).signExtend 64)).next)
/-- The upper half of `rd` replaced; its lower half kept. -/
def execSlhi (d : SReg) (imm : BitVec 20) (s : State) : Out :=
  scalar1 d d (fun x => imm.signExtend 32 ++ x.setWidth 32) s

/-! ### R86, R87 -/

def execScmpEq (k : CReg) (a b : SReg) (s : State) : Out := compare2 k a b (fun x y => x == y) s
def execScmpNe (k : CReg) (a b : SReg) (s : State) : Out := compare2 k a b (fun x y => x != y) s
def execScmpLt (k : CReg) (a b : SReg) (s : State) : Out := compare2 k a b (fun x y => x.slt y) s
def execScmpLe (k : CReg) (a b : SReg) (s : State) : Out := compare2 k a b (fun x y => x.sle y) s
def execScmpLtn (k : CReg) (a b : SReg) (s : State) : Out := compare2 k a b (fun x y => x.ult y) s
def execScmpLen (k : CReg) (a b : SReg) (s : State) : Out := compare2 k a b (fun x y => x.ule y) s
def execScmpiEq (k : CReg) (a : SReg) (imm : BitVec 14) (s : State) : Out := compare1 k a (fun x => x == simm imm) s
def execScmpiNe (k : CReg) (a : SReg) (imm : BitVec 14) (s : State) : Out := compare1 k a (fun x => x != simm imm) s
def execScmpiLt (k : CReg) (a : SReg) (imm : BitVec 14) (s : State) : Out := compare1 k a (fun x => x.slt (simm imm)) s
def execScmpiLe (k : CReg) (a : SReg) (imm : BitVec 14) (s : State) : Out := compare1 k a (fun x => x.sle (simm imm)) s
def execScmpiLtn (k : CReg) (a : SReg) (imm : BitVec 14) (s : State) : Out := compare1 k a (fun x => x.ult (simm imm)) s
def execScmpiLen (k : CReg) (a : SReg) (imm : BitVec 14) (s : State) : Out := compare1 k a (fun x => x.ule (simm imm)) s
def execSsel (d a b : SReg) (k : CReg) (s : State) : Out :=
  finishS s (do ready s [d] [a, b]; .ok (s.wrS d (if s.rdC k then s.rdS a else s.rdS b)).next)

end Sys2Proof.Machine
end

