-- ==== Sys2Proof/Machine/ScalarCtl.lean ====
section
/-!
DEFINITION. Branches, calls and jumps, lane runs, drains and regions, system calls and breakpoints (R88 to R102).
-/
namespace Sys2Proof.Machine

/-- The target of a branch, call or jump: bits 63:57 copy bit 56 (R89). -/
def target (a : DWord) : Res DWord := if canonical a then .ok a else .error (trapP .protection 4 a)

/-- PC + 4 × a signed word offset. -/
def relTarget (s : State) (off : Int) : DWord := s.pc + BitVec.ofInt 64 (4 * off)

def execSbr (neg : Bool) (k : CReg) (off : BitVec 22) (s : State) : Out :=
  finishS s (if s.rdC k != neg then do
      let a ← target (relTarget s off.toInt)
      .ok (s.setPc a)
    else .ok s.next)

def execScall (d : SReg) (off : BitVec 20) (s : State) : Out :=
  finishS s (do
    ready s [d] []
    let a ← target (relTarget s off.toInt)
    .ok ((s.wrS d (s.pc + 4)).setPc a))

/-- SJR (R89). A target that is misaligned and no canonical address gives MISALIGNED: DESIGN CHOICE, unsafe: assumption 61. -/
def execSjr (d a : SReg) (s : State) : Out :=
  finishS s (do
    ready s [d] [a]
    let t := s.rdS a
    require (t.toNat % 4 = 0) (trapP .misaligned 0 t)
    let t ← target t
    .ok ((s.wrS d (s.pc + 4)).setPc t))

/-- Enqueue a lane run (R91, R92): the first place is the active run. -/
def enqueue (s : State) (idx : Nat) : Res State :=
  let l := s.g.lane
  if 8 ≤ l.runs then .error (.stall .runQueueFull)
  else
    let r : Run := { lpc := idx, snap := s.g.sc.sreg, wait := s.g.sc.tok, num := l.count, bad := s.g.sc.bad }
    let l := { l with count := l.count + 1 }
    let l := if l.active.isNone then { l with active := some r } else { l with queue := l.queue ++ [r] }
    .ok { s with g := { s.g with lane := l } }

/-- RUN (R90); a policy core has no lane stream (R102). -/
def execRun (idx : BitVec 20) (s : State) : Out :=
  finishS s (match s.party with
    | .policy _ => .error (trapP .illegalOpcode)
    | .group => do
      let t ← enqueue s idx.toNat
      .ok t.next)

/-- RUNR (R90). -/
def execRunr (k : SReg) (s : State) : Out :=
  finishS s (match s.party with
    | .policy _ => .error (trapP .illegalOpcode)
    | .group => do
      ready s [] [k]
      require ((s.rdS k).toNat < 2 ^ 20) (trapP .bounds)
      let t ← enqueue s (s.rdS k).toNat
      .ok t.next)

/-- SYNC.L (R93). -/
def execSyncL (s : State) : Out := finishS s (do drain s; .ok s.next)

/-- REGION (R94); on a policy core a no-operation (R102). -/
def execRegion (s : State) : Out := finishS s (do drain s; .ok s.endRegion.next)

/-- The words of a syscall request: for each lane of `em` ascending, NREQ registers (R99). -/
def requestWords (g : Group) (vreq nreq : Nat) : List Byte :=
  ((lanesOf g.em).map fun l => ((List.range nreq).map fun j => leBytes 4 (SMap.get 0 g.vreg (32 * (vreq + j) + l)).toNat).flatten).flatten

/-- The slot a syscall record occupies (R99). -/
def syscallSlot (s : State) (d seq : Nat) : Nat := dcbScqBase s d + 4096 * slotOf seq (dcbScqLog2 s d)

/-- SYSCALL (R98, R99): drain, record, end of the region, suspension. A descriptor with a reserved bit set and with registers past the
window gives RESERVED_FIELD: DESIGN CHOICE, unsafe: assumption 61. -/
def execSyscall (d a b : SReg) (s : State) : Out :=
  finishS s (match s.party with
    | .policy _ => .error (trapP .illegalOpcode)
    | .group => do
      ready s [d] [a, b]
      drain s
      let x := (s.rdS a).toNat
      require (bitsOf x 49 15 = 0 ∧ bitsOf x 43 5 = 0 ∧ bitsOf x 18 14 = 0 ∧ bitsOf x 11 5 = 0) (trapP .reservedField)
      let rep := bitsOf x 48 1 == 1
      let vrep := bitsOf x 32 11
      let nreq := bitsOf x 16 2 + 1
      let vreq := bitsOf x 0 11
      require (vreq + nreq ≤ s.g.winsz ∧ (!rep ∨ vrep < s.g.winsz)) (trapP .bounds)
      require (!s.g.badV.any fun k => vreq ≤ k / 32 && k / 32 < vreq + nreq && s.g.em.getLsbD (k % 32)) (registerError s [])
      let dn := s.gdom
      let dm := s.dom dn
      let seq := dm.scSeq + 1
      let log2 := dcbScqLog2 s dn
      require (!dm.scLive.any fun q => slotOf q log2 == slotOf seq log2) (.stall .syscallFull)
      let words := requestWords s.g vreq nreq
      let len := (64 + words.length + 63) / 64 * 64
      let head := leBytes 8 (s.rdS b).toNat ++ leBytes 4 s.gteam.teamlin ++ leBytes 2 (gslotOf s.gteam s.g) ++
        leBytes 1 nreq ++ leBytes 1 Config.W ++ leBytes 16 s.g.em.toNat ++ leBytes 8 s.pc.toNat ++
        leBytes 8 s.g.regcnt.toNat ++ leBytes 8 seq ++ leBytes 4 len ++ leBytes 4 0
      let body := head ++ words
      let slot := syscallSlot s dn seq
      let s1 := (s.putRecord dn slot (body ++ List.replicate (3072 - body.length) 0)).putRecord dn (slot + 3080) (leBytes 8 0)
      let s2 := (s1.setDom dn { dm with scSeq := seq, scLive := dm.scLive ++ [seq] }).notify dn 0x20 (dcbScqVec s dn)
      let s3 := s2.endRegion.setTok d
      .ok { s3 with
        g := { s3.g with lastTrap := 0x20, phase := .suspended seq d rep vrep s.g.em }
        engineQ := s3.engineQ ++ [.syscallReply s.g.gid] })

/-- BREAK (R101): drain, then the trap; on a policy core EPC takes PC + 4 (R102). -/
def execBrk (code : BitVec 6) (s : State) : Out :=
  finishS s (do drain s; .error (trapP .brk code.toNat))

/-- A word that is no instruction (R60, R62). -/
def execIllegalOpcode (_w : Word) (s : State) : Out := finishS s (.error (trapP .illegalOpcode))
/-- A lane word that is no instruction (R65, R67). -/
def execIllegalLaneOpcode (_w : LaneWord) (s : State) : Out := finishL s (.error (trapP .illegalOpcode))

end Sys2Proof.Machine
end

