-- ==== Sys2Proof/Machine/ScalarMem.lean ====
section
/-!
DEFINITION. Scalar loads, stores, atomics and fences (R172 to R175).
-/
namespace Sys2Proof.Machine

/-- A loaded value sign-extended, or zero-extended (R172). -/
def extend (n : Nat) (zero : Bool) (v : Nat) : DWord :=
  if zero then BitVec.ofNat 64 v else BitVec.ofInt 64 (toSigned (8 * n) v)

/-- SLD (R172). -/
def execSld (d a : SReg) (size : MSize) (n : Bool) (off : BitVec 10) (s : State) : Out :=
  finishS s (do
    ready s [d] [a]
    let w := sizeBytes size
    let (v, t) ← loadS s (s.rdS a + BitVec.ofInt 64 (off.toInt * w)) w false
    .ok (t.wrS d (extend w n v)).next)

/-- SST (R172): the low bytes of `sd`. -/
def execSst (d a : SReg) (size : MSize) (off : BitVec 10) (s : State) : Out :=
  finishS s (do
    ready s [d] [a]
    let w := sizeBytes size
    let t ← storeS s (s.rdS a + BitVec.ofInt 64 (off.toInt * w)) w ((s.rdS d).toNat % 256 ^ w)
    .ok t.next)

/-- SLD.ACQ (R173): after the group's earlier release stores in the one order of R306. -/
def execSldAcq (d a : SReg) (scope : Scope) (size : MSize) (s : State) : Out :=
  finishS s (do
    ready s [d] [a]
    s.inOrder scope
    let w := sizeBytes size
    let (v, t) ← loadS s (s.rdS a) w true
    .ok ((t.acquire scope).wrS d (extend w true v)).next)

/-- SST.REL (R173): every earlier memory operation of the stream stands performed at the scope before the store. -/
def execSstRel (a b : SReg) (scope : Scope) (size : MSize) (s : State) : Out :=
  finishS s (do
    ready s [] [a, b]
    s.inOrder scope
    let w := sizeBytes size
    let t ← storeS s (s.rdS a) w ((s.rdS b).toNat % 256 ^ w) (scope == .sys) true
    .ok t.next)

/-- SATOM (R171, R174): drain, read-modify-write, the end of the region, and the old value in `sd`. -/
def satom (op : AtomOp) (d a b : SReg) (scope : Scope) (size : MSize) (s : State) : Out :=
  finishS s (do
    ready s [d] (if op == .cas then [a, b, d] else [a, b])
    drain s
    s.inOrder scope
    let (old, t) ← atomS s (s.rdS a) (sizeBytes size) op (s.rdS b).toNat (s.rdS d).toNat
    .ok ((t.acquire scope).endRegion.wrS d (BitVec.ofNat 64 old)).next)

def execSatomAdd (d a b : SReg) (scope : Scope) (size : MSize) (s : State) : Out := satom .add d a b scope size s
def execSatomExch (d a b : SReg) (scope : Scope) (size : MSize) (s : State) : Out := satom .exch d a b scope size s
def execSatomCas (d a b : SReg) (scope : Scope) (size : MSize) (s : State) : Out := satom .cas d a b scope size s
def execSatomMin (d a b : SReg) (scope : Scope) (size : MSize) (s : State) : Out := satom .min d a b scope size s
def execSatomMax (d a b : SReg) (scope : Scope) (size : MSize) (s : State) : Out := satom .max d a b scope size s

/-- SFENCE (R175): this model performs each access in its step, so an acquire has nothing to wait for and only empties L1 (R288, R307), and
a release waits for the fabric's acknowledgements alone (R452); after one at `.sys` every store of the stream is a release's (R305, R443). -/
def execSfenceAcq (scope : Scope) (s : State) : Out := finishS s (.ok (s.acquire scope).next)
def execSfenceRel (scope : Scope) (s : State) : Out := finishS s (do s.release scope; .ok (s.fenced false scope).next)
def execSfenceAr (scope : Scope) (s : State) : Out := finishS s (do s.release scope; .ok ((s.acquire scope).fenced false scope).next)

end Sys2Proof.Machine
end

