-- ==== Sys2Proof/Machine/Seal.lean ====
section
/-!
DEFINITION. GRAD.SEAL and its end (R188, R189).
-/
namespace Sys2Proof.Machine

/-- The physical ranges of a virtual range that a seal folds, 64 KiB by 64 KiB: pages that are present, readable and carry G. -/
def sealRanges (s : State) (hi : Nat) : Nat → Nat → List (Nat × Nat)
  | 0, _ => []
  | n + 1, a =>
    let stop := min hi ((a / 65536 + 1) * 65536)
    let rest := if stop < hi then sealRanges s hi n stop else []
    match translate s (BitVec.ofNat 64 a) .load with
    | .ok l => if l.g then (l.key, stop - a) :: rest else rest
    | .error _ => rest

/-- GRAD.SEAL. -/
def execGradSeal (d a b : SReg) (s : State) : Out :=
  finishS s (do
    ready s [d] [a, b]
    drain s
    let va := s.rdS a
    let n := s.rdS b
    require (va.toNat % 512 = 0) (trapP .misaligned 0 va)
    require (n.toNat % 512 = 0) (trapP .misaligned)
    let lo := va.toNat
    let rs := if n = 0 then none else some (sealRanges s (lo + n.toNat) (n.toNat / 65536 + 2) lo)
    .ok (s.startJob d (.seal rs) 0).next)

/-- A word (address, domain) lies in the ranges of a seal. -/
def sealSel (dom : Nat) (rs : Option (List (Nat × Nat))) (k : Nat × Nat) : Bool :=
  k.2 == dom && match rs with
    | none => true
    | some l => l.any fun r => r.1 ≤ k.1 && k.1 < r.1 + r.2

/-- GRAD_SEAL_COMPLETE: the folds, and their number in the register. -/
def execGradSealComplete (job : Nat) (s : State) : Out :=
  .next (match s.job? job with
    | none => s
    | some j => match j.kind with
      | .seal rs =>
        let (t, n) := foldThr s (sealSel j.dom rs)
        t.dropL1.finishJob j (BitVec.ofNat 64 n)
      | _ => s)

end Sys2Proof.Machine
end

