-- ==== Sys2Proof/Machine/Texture.lean ====
section
/-!
DEFINITION. Textures: the descriptor, the levels and the wrap modes (R248), TEX (R249) and TEX.ADJ (R250).
-/
namespace Sys2Proof.Machine

/-- A texture descriptor (R248). -/
structure Tex where
  base : Nat
  gbase : Nat
  w : Nat
  h : Nat
  levels : Nat
  kind : Nat
  linear : Bool
  mip : Bool
  wrapU : Nat
  wrapV : Nat
  border : List Word
deriving DecidableEq, Repr

def texOf (b : List Byte) : Tex :=
  { base := fieldOf b 0 8, gbase := fieldOf b 8 8, w := fieldOf b 16 2, h := fieldOf b 18 2, levels := fieldOf b 20 1
    kind := fieldOf b 21 1, linear := bitsOf (fieldOf b 22 1) 0 1 = 1, mip := bitsOf (fieldOf b 22 1) 1 1 = 1
    wrapU := bitsOf (fieldOf b 23 1) 0 2, wrapV := bitsOf (fieldOf b 23 1) 2 2
    border := [24, 28, 32, 36].map (f32At b) }
def texOk (b : List Byte) : Bool :=
  let t := texOf b
  t.base % 512 == 0 && t.gbase % 512 == 0 && 1 ≤ t.w && t.w ≤ 16384 && 1 ≤ t.h && t.h ≤ 16384 && 1 ≤ t.levels && t.levels ≤ 15 &&
  t.kind ≤ 2 && fieldOf b 22 1 < 4 && fieldOf b 23 1 < 16 && fieldOf b 40 24 == 0

/-- Bytes of a texel. -/
def Tex.size (t : Tex) : Nat := if t.kind = 0 then 16 else if t.kind = 1 then 8 else 4
def Tex.width (t : Tex) (m : Nat) : Nat := max 1 (t.w / 2 ^ m)
def Tex.height (t : Tex) (m : Nat) : Nat := max 1 (t.h / 2 ^ m)
def roundUp (x n : Nat) : Nat := (x + n - 1) / n * n
/-- The offset of a level for texels of a size. -/
def Tex.off (t : Tex) (size : Nat) : Nat → Nat
  | 0 => 0
  | m + 1 => roundUp (t.off size m + roundUp (t.width m * size) 16 * t.height m) 512
/-- The address of a texel. -/
def Tex.addr (t : Tex) (base size m i j : Nat) : DWord :=
  BitVec.ofNat 64 (base + t.off size m + j * roundUp (t.width m * size) 16 + i * size)

/-- An index mapped into 0..w − 1; `none` is the border. -/
def wrapIdx (mode w : Nat) (i : Int) : Option Nat :=
  match mode with
  | 0 => some (i % w).toNat
  | 1 => some (min (max i 0) (w - 1)).toNat
  | 2 => let k := (i % (2 * w : Nat)).toNat; some (if w ≤ k then 2 * w - 1 - k else k)
  | _ => if 0 ≤ i ∧ i < w then some i.toNat else none

/-- A texel of a level, or the border colour. -/
abbrev Texel := Nat × Option (Nat × Nat)
def Tex.texel (t : Tex) (m : Nat) (i j : Int) : Texel :=
  (m, match wrapIdx t.wrapU (t.width m) i, wrapIdx t.wrapV (t.height m) j with
    | some a, some b => some (a, b)
    | _, _ => none)

/-- The channels of a texel. -/
def readTexel (s : State) (t : Tex) (x : Texel) : Except RFail (List Q) :=
  match x with
  | (_, none) => .ok (t.border.map Q.f32)
  | (m, some (i, j)) => do
    let v ← renderRead s (t.addr t.base t.size m i j) t.size
    let b := leBytes t.size v
    .ok ((List.range 4).map fun c =>
      if t.kind = 0 then Q.f32 (f32At b (4 * c))
      else if t.kind = 1 then Q.ofX (f16.decode false (fieldOf b (2 * c) 2))
      else Q.ofRat (mkRat (fieldOf b c 1) 255))

/-- The taps of a level at coordinates u and v, with their weights (R249). -/
structure Taps where
  m : Nat
  fx : Rat
  fy : Rat
  t00 : Texel
  t10 : Texel
  t01 : Texel
  t11 : Texel
def Tex.tapsAt (t : Tex) (u v : Rat) (m : Nat) : Taps :=
  let h : Rat := if t.linear then mkRat 1 2 else 0
  let x := u * (t.width m : Nat) - h
  let y := v * (t.height m : Nat) - h
  let i := floorR x
  let j := floorR y
  { m := m, fx := if t.linear then x - i else 0, fy := if t.linear then y - j else 0
    t00 := t.texel m i j, t10 := t.texel m (i + 1) j, t01 := t.texel m i (j + 1), t11 := t.texel m (i + 1) (j + 1) }
def Taps.weights (p : Taps) : List (Texel × Rat) :=
  [(p.t00, (1 - p.fx) * (1 - p.fy)), (p.t10, p.fx * (1 - p.fy)), (p.t01, (1 - p.fx) * p.fy), (p.t11, p.fx * p.fy)]

/-- The levels that take part, with their weights, for a clamped λ. -/
def Tex.mips (t : Tex) (lam : Rat) : List (Nat × Rat) :=
  if t.mip then
    let m := floorR lam
    let f := lam - m
    (m.toNat, 1 - f) :: (if 0 < f then [(m.toNat + 1, f)] else [])
  else [((floorR (lam + mkRat 1 2)).toNat, 1)]

/-- Every texel that takes part, once, with its total weight. DEDUCED, unsafe: assumption 34. -/
def mergeTaps : List (Texel × Rat) → List (Texel × Rat) → List (Texel × Rat)
  | [], acc => acc.reverse
  | (x, w) :: t, acc =>
    if acc.any fun a => a.1 == x then mergeTaps t (acc.map fun a => if a.1 == x then (x, a.2 + w) else a)
    else mergeTaps t ((x, w) :: acc)
def Tex.weights (t : Tex) (u v lam : Rat) : List (Texel × Rat) :=
  mergeTaps (((t.mips lam).map fun m => ((t.tapsAt u v m.1).weights).map fun x => (x.1, m.2 * x.2)).flatten.filter fun x => x.2 != 0) []

/-- The weighted sum of texels, by channel. -/
def filtered (s : State) (t : Tex) (ws : List (Texel × Rat)) : Except RFail (List Q) := do
  let xs ← ws.mapM fun w => (readTexel s t w.1).map fun c => (c, w.2)
  .ok ((List.range 4).map fun c => Q.sum (xs.map fun x => (x.1.getD c ⟨.nan, 0⟩).mul (Q.ofRat x.2)))

/-- The coordinates of a lane: u, v and the clamped λ, unless one is not usable. -/
def Tex.coords (t : Tex) (b : List Word) : Option (Rat × Rat × Rat) :=
  let u := (comp b 0).v
  let v := (comp b 1).v
  let l := (comp b 2).v
  let hi : Rat := ((t.levels - 1 : Nat) : Rat)
  if !u.finite || !v.finite || l == .nan then none
  else
    let lam : Rat := match l with
      | .inf n => if n then 0 else hi
      | x => min (max x.toRat 0) hi
    some (u.toRat, v.toRat, lam)

def nan4 : List Word := List.replicate 4 0x7FC00000

/-- TEX in one lane. -/
def texLane (o : LRen) : LaneSem := fun s l _ desc _ =>
  let t := texOf desc
  match t.coords (s.g.block o.va l 3) with
  | none => .ok { ws := nan4 }
  | some (u, v, lam) => do
    let cs ← filtered s t (t.weights u v lam)
    .ok { ws := cs.map Q.rne }

def texDesc (adj : Bool) (x : LIn) (s : State) : Res (List Byte × State) := do
  let (b, t) ← readDesc s (x.b 0) 64
  require (texOk b && (!adj || (texOf b).gbase != 0)) (trapP .reservedField)
  .ok (b, t)
def execTex (r : LRen) (s : State) : Out := render (Forms.tex r) (.tex r) (texDesc false) (texLane r) false s

/-! ### TEX.ADJ -/

/-- The channels of a level's four taps. -/
structure TapVals where
  c00 : List Q
  c10 : List Q
  c01 : List Q
  c11 : List Q
def Taps.read (s : State) (t : Tex) (p : Taps) : Except RFail TapVals := do
  let a ← readTexel s t p.t00
  let b ← readTexel s t p.t10
  let c ← readTexel s t p.t01
  let d ← readTexel s t p.t11
  .ok ⟨a, b, c, d⟩

/-- n·((1 − w)(b − a) + w(d − c)), by channel: every term takes part, so that a NaN in one gives a NaN (R250). -/
def slope (n w : Rat) (a b c d : List Q) : List Q :=
  (List.range 4).map fun i =>
    let ch (x : List Q) : Q := x.getD i ⟨.nan, 0⟩
    (Q.ofRat n).mul (((Q.ofRat (1 - w)).mul ((ch b).sub (ch a))).add ((Q.ofRat w).mul ((ch d).sub (ch c))))
/-- ∂channel/∂u and ∂channel/∂v at a level of weight `k`. -/
def Taps.du (t : Tex) (p : Taps) (k : Rat) (x : TapVals) : List Q :=
  ((slope (t.width p.m : Nat) p.fy x.c00 x.c10 x.c01 x.c11)).map (Q.ofRat k).mul
def Taps.dv (t : Tex) (p : Taps) (k : Rat) (x : TapVals) : List Q :=
  ((slope (t.height p.m : Nat) p.fx x.c00 x.c01 x.c10 x.c11)).map (Q.ofRat k).mul
/-- The channels that TEX would filter at one level. -/
def atLevel (s : State) (t : Tex) (u v : Rat) (m : Nat) : Except RFail (List Q) :=
  filtered s t (mergeTaps ((t.tapsAt u v m).weights.filter fun x => x.2 != 0) [])

/-- Σ over the channels of g_c times a value. -/
def dotG (gs : List Word) (cs : List Q) : Q := Q.sum ((gs.zip cs).map fun x => (Q.f32 x.1).mul x.2)

/-- The place of a contribution: a store to a page that carries G, or the lane parks (R250, R170). -/
def gradLoc (s : State) (va : DWord) : Except RFail Loc :=
  if !canonical va then .error (.fault (preciseAt .protection va 4))
  else match translate s va .store with
    | .error t => .error (.park t)
    | .ok l => if !Admit.gradAdd.ok l then .error (.park (preciseAt .format va))
               else if isHost l.key then .error (.park (restartAt .protection va 3)) else .ok l

/-- TEX.ADJ in one lane. DEDUCED, unsafe: assumption 34. -/
def texAdjLane (o : LRen) : LaneSem := fun s l _ desc _ =>
  let t := texOf desc
  let b := s.g.block o.va l 3
  let gs := s.g.block o.vc l 4
  match t.coords b with
  | none => .ok { ws := List.replicate 3 0x7FC00000, fl := (b.foldl (fun f w => f ||| (Q.f32 w).fl) 0) }
  | some (u, v, lam) => do
    let ws := t.weights u v lam
    let adds ← (ws.filterMap fun w => w.1.2.map fun ij => (w.1.1, ij, w.2)).mapM fun w =>
      (List.range 4).mapM fun c => do
        let va := t.addr t.gbase 16 w.1 w.2.1.1 w.2.1.2 + BitVec.ofNat 64 (4 * c)
        let loc ← gradLoc s va
        .ok (va, loc, ((Q.f32 (gs.getD c 0)).mul (Q.ofRat w.2.2)).rne)
    let taps := (t.mips lam).map fun m => (t.tapsAt u v m.1, m.2)
    let at_ ← if t.linear then taps.mapM fun p => (p.1.read s t).map fun x => (p, x) else .ok []
    let m := (floorR lam).toNat
    let inside := t.mip && 0 < lam && lam < ((t.levels - 1 : Nat) : Rat)
    let hi ← if inside then atLevel s t u v (m + 1) else .ok []
    let lo ← if inside then atLevel s t u v m else .ok []
    let zero : Word × Nat := (0, 0)
    let du := if t.linear then (Q.sum (at_.map fun p => dotG gs (p.1.1.du t p.1.2 p.2))).round else zero
    let dv := if t.linear then (Q.sum (at_.map fun p => dotG gs (p.1.1.dv t p.1.2 p.2))).round else zero
    let dl := if inside then (dotG gs ((hi.zip lo).map fun x => x.1.sub x.2)).round else zero
    .ok { ws := [du.1, dv.1, dl.1], fl := du.2 ||| dv.2 ||| dl.2, adds := adds.flatten }
def execTexAdj (r : LRen) (s : State) : Out := render (Forms.texAdj r) (.texAdj r) (texDesc true) (texAdjLane r) true s

end Sys2Proof.Machine
end

