-- ==== Sys2Proof/Machine/Visibility.lean ====
section
/-!
DEFINITION. The visibility pass (R318 to R333): its descriptor, primitive setup, coverage, the depth test, coverage programs with
DISCARD and VDEPTH (R255, R256), survivors and status, and its faults.
-/
namespace Sys2Proof.Machine

/-! ### Accesses of the rasteriser -/

/-- What stops a step of the pass: a fault of an access, or a wait: for a line that an engine owns or a request under way, or for a read of
the host or peer window that is still to be asked for. -/
inductive PassStop where
  | fault (t : Trap)
  | wait (ask : Option (Nat × Nat))
deriving DecidableEq, Repr
/-- It is a fault. -/
def PassStop.isFault : PassStop → Bool
  | .fault _ => true
  | .wait _ => false
/-- What a step of the pass ends in. -/
abbrev PassRes := Except PassStop State

/-- The progress of a launch's pass. -/
def State.setPass (s : State) (n : Nat) (p : Pass) : State := s.setLaunch { s.launch n with pass := p }
/-- The channel of the pass's own reads of the host and peer windows. -/
def Launch.passCh (l : Launch) : Nat := 2 ^ 16 + 2 * l.pass.rid
/-- The completions that the pass has used are forgotten. -/
def passClear (s : State) (l : Launch) : State :=
  if s.remote.isEmpty then s else { s with remote := s.remote.filter fun r => r.ch != l.passCh }

/-- An access of a pass in its launch's address space (R332). -/
def passAt (s : State) (l : Launch) (va : DWord) (k : Access) : Except PassStop Loc :=
  match translatePt s l.dom l.asn true va k with
  | .error t => .error (.fault t)
  | .ok p => if p.h || p.pfd != 0 then .error (.fault (preciseAt .format va)) else .ok p
/-- The request of a read of the host or peer window. -/
def passAsk (s : State) (l : Launch) : Option (Nat × Nat) → State
  | none => s
  | some (key, n) =>
  let c := { s with ch := l.passCh }.askOne (key, n) (some l.dom)
  { c with ch := s.ch }
/-- A read with its data (R332). -/
def passRead (s : State) (l : Launch) (va : DWord) (n : Nat) : Except PassStop Nat := do
  let p ← passAt s l va .load
  if s.owned p.key n then .error (.wait none)
  else if isRemote p.key then
    let t : State := { s with ch := l.passCh }
    match t.rem? p.key n with
    | none => .error (.wait (some (p.key, n)))
    | some r =>
      if !r.isDone then .error (.wait none)
      else if r.status = 0 then .ok (t.fetched p.key n) else .error (.fault (remFault r.status va))
  else if poisoned s p.key n then .error (.fault (flawed va p.key p.home))
  else .ok (s.read p.key n)
def passWrite (s : State) (l : Launch) (va : DWord) (n v : Nat) : PassRes := do
  let p ← passAt s l va .store
  if s.owned p.key n then .error (.wait none) else .ok (s.placeAt l.dom p.key n v false (some l.num))
/-- Units of 8 bytes. -/
def passBytes (s : State) (l : Launch) (va : DWord) : Nat → Except PassStop (List Byte)
  | 0 => .ok []
  | n + 1 => do
    let v ← passRead s l va 8
    let b ← passBytes s l (va + 8) n
    .ok (leBytes 8 v ++ b)

/-! ### The descriptor (R319, R320) -/

/-- A pass descriptor. -/
structure PassDesc where
  vbd : DWord
  index : DWord
  posbuf : DWord
  primcnt : Nat
  drawid : Nat
  view : List Word
  covlcb : DWord
  covidx : Nat
  covregs : Nat
  covpreds : Nat
  zfunc : Nat
  zwrite : Bool
  cullBack : Bool
  cullFront : Bool
  noDiscard : Bool
  binbuf : DWord
  binsz : Nat
  surv : DWord
  survcap : Nat
  status : DWord

def passDesc (b : List Byte) : PassDesc :=
  let a (o : Nat) : DWord := BitVec.ofNat 64 (fieldOf b o 8)
  let fl := fieldOf b 63 1
  let bit (i : Nat) : Bool := bitsOf fl i 1 == 1
  { vbd := a 0, index := a 8, posbuf := a 16, primcnt := fieldOf b 24 4, drawid := fieldOf b 28 4
    view := [32, 36, 40, 44].map (f32At b)
    covlcb := a 48, covidx := fieldOf b 56 4, covregs := fieldOf b 60 2, covpreds := fieldOf b 62 1
    zfunc := bitsOf fl 0 2, zwrite := bit 2, cullBack := bit 3, cullFront := bit 4, noDiscard := bit 5
    binbuf := a 64, binsz := fieldOf b 72 4, surv := a 80, survcap := fieldOf b 88 4, status := a 96 }
/-- The rules of R319 but those of STATUS. -/
def passDescOk (b : List Byte) : Bool :=
  let d := passDesc b
  let cov := d.covlcb != 0
  d.vbd.toNat % 32 == 0 && d.index.toNat % 4 == 0 && d.posbuf.toNat % 16 == 0 && 1 ≤ d.primcnt && d.primcnt ≤ 2 ^ 31 &&
  finiteVec d.view && d.covlcb.toNat % 64 == 0 &&
  (if cov then d.covidx < 2 ^ 20 && 64 ≤ d.covregs && d.covregs ≤ 2048 && d.covregs % 64 == 0 && 16 ≤ d.covpreds && d.covpreds ≤ 128 &&
      d.covpreds % 16 == 0
    else d.covidx == 0 && d.covregs == 0 && d.covpreds == 0) &&
  d.zfunc != 3 && fieldOf b 63 1 < 64 && fieldOf b 64 8 % 4096 == 0 && 65536 ≤ fieldOf b 72 4 && fieldOf b 72 4 % 65536 == 0 &&
  fieldOf b 76 4 == 0 && d.surv.toNat % 8 == 0 && fieldOf b 92 4 == 0 && fieldOf b 104 24 == 0

/-! ### Setup of a primitive (R321) -/

/-- A surviving primitive: projected vertices. -/
structure Prim where
  xs : List Q
  ys : List Q
  zs : List Q
/-- What setup decides. -/
inductive Setup where
  | cullW | cullArea | cullFace
  | keep (p : Prim)

def Prim.det (p : Prim) : Q :=
  let d (v : List Q) (i : Nat) : Q := (at3 v i).sub (at3 v 0)
  ((d p.xs 1).mul (d p.ys 2)).sub ((d p.xs 2).mul (d p.ys 1))
def setup (d : PassDesc) (vs : List (List Word)) : Setup :=
  let w (v : List Word) : Q := comp v 3
  if !vs.all finiteVec || vs.any fun v => (w v).v.le (.zero false) then .cullW
  else
    let k (i : Nat) : Q := comp d.view i
    let p : Prim :=
      { xs := vs.map fun v => ((k 1).add (((k 0).mul (comp v 0)).div (w v))).step
        ys := vs.map fun v => ((k 3).add (((k 2).mul (comp v 1)).div (w v))).step
        zs := vs.map fun v => ((comp v 2).div (w v)).step }
    let det := p.det
    if det.v.isZero then .cullArea
    else if (d.cullBack && det.isNeg) || (d.cullFront && (QVal.zero false).lt det.v) then .cullFace
    else .keep p

/-- The clip positions of a primitive. -/
def primVerts (s : State) (l : Launch) (d : PassDesc) (i : Nat) : Except PassStop (List (List Word)) :=
  [0, 1, 2].mapM fun k => do
    let ix ← passRead s l (d.index + BitVec.ofNat 64 (12 * i + 4 * k)) 4
    let v ← passRead s l (d.posbuf + BitVec.ofNat 64 (16 * ix)) 16
    .ok ((List.range 4).map fun j => BitVec.ofNat 32 (v / 2 ^ (32 * j)))

/-! ### Coverage (R322, R323) -/

def sampleOffs : Nat → List (Nat × Nat)
  | 0 => [(8, 8)]
  | 1 => [(4, 4), (12, 12)]
  | 2 => [(6, 2), (14, 6), (2, 10), (10, 14)]
  | _ => [(9, 5), (7, 11), (13, 9), (5, 3), (3, 13), (1, 7), (11, 15), (15, 1)]

/-- A covered sample: b1, b2 and z. -/
structure Hit2 where
  b1 : Word
  b2 : Word
  z : Word
/-- The test of one sample point. -/
def sampleTest (p : Prim) (x y : Nat) (off : Nat × Nat) : Option Hit2 :=
  let px := Q.ofRat ((x : Rat) + mkRat off.1 16)
  let py := Q.ofRat ((y : Rat) + mkRat off.2 16)
  let v (i : Nat) : Q × Q := ((at3 p.xs i).sub px, (at3 p.ys i).sub py)
  if !(p.xs ++ p.ys).all (fun q => q.v.finite) then none
  else
    let e := edgesOf (v 0) (v 1) (v 2)
    if e.det.v.isZero || !insideTri e (v 0) (v 1) (v 2) then none
    else
      let z := ((((e.u.mul (at3 p.zs 0)).add (e.v.mul (at3 p.zs 1))).add (e.w.mul (at3 p.zs 2))).div e.det).rne
      if (QVal.zero false).le (Q.f32 z).v && (Q.f32 z).v.le (Q.ofRat 1).v then some ⟨(e.v.div e.det).rne, (e.w.div e.det).rne, z⟩
      else none
/-- The covered samples of a pixel, ascending. -/
def coverage (p : Prim) (scode x y : Nat) : List (Nat × Hit2) :=
  ((sampleOffs scode).zipIdx.map fun o => (o.2, sampleTest p x y o.1)).filterMap fun o => o.2.map fun h => (o.1, h)

/-- The pixels that a primitive's bounding box touches, clipped to the buffer: first column, first row, columns, rows. -/
def boxOf (p : Prim) (d : Vbd) : Nat × Nat × Nat × Nat :=
  let span (v : List Q) (n : Nat) : Nat × Nat :=
    let rs := v.map fun q => floorR q.v.toRat
    let lo := max 0 (rs.foldl min (rs.getD 0 0))
    let hi := min ((n : Int) - 1) (rs.foldl max (rs.getD 0 0))
    (lo.toNat, (hi - lo + 1).toNat)
  if !(p.xs ++ p.ys).all (fun q => q.v.finite) then (0, 0, 0, 0)
  else
    let x := span p.xs d.w
    let y := span p.ys d.h
    (x.1, y.1, x.2, y.2)
def pixelAt (b : Nat × Nat × Nat × Nat) (i : Nat) : Nat × Nat := (b.1 + i % b.2.2.1, b.2.1 + i / b.2.2.1)

/-! ### The depth test (R324) -/

def depthPass (zfunc : Nat) (z old : Word) : Bool :=
  let a := (Q.f32 z).v
  let b := (Q.f32 old).v
  if zfunc = 2 then true else if zfunc = 0 then a.lt b else a.le b

/-- The record of a sample: id and depth. -/
def passSample (s : State) (l : Launch) (d : Vbd) (x y k : Nat) : Except PassStop Nat := passRead s l (d.addr x y k) 16
def oldDepth (rec_ : Nat) : Word := BitVec.ofNat 32 (bitsOf rec_ 64 32)

/-- Write the samples of a kept fragment that pass, in ascending order: (sample, depth, old record). -/
def putSamples (l : Launch) (d : PassDesc) (b : Vbd) (x y prim : Nat) : List (Nat × Word × Nat) → State → PassRes
  | [], s => .ok s
  | (k, z, r) :: t, s => do
    let s ← if depthPass d.zfunc z (oldDepth r) then do
        let s ← passWrite s l (b.addr x y k) 8 (d.drawid * 2 ^ 32 + prim)
        if d.zwrite then passWrite s l (b.addr x y k + 8) 4 z.toNat else .ok s
      else .ok s
    putSamples l d b x y prim t s
/-- Apply a kept fragment: its samples' records are read, then those that pass are written. DESIGN CHOICE, unsafe: assumption 35. -/
def applyFrag (s : State) (l : Launch) (d : PassDesc) (b : Vbd) (x y prim : Nat) (zs : List (Nat × Word)) : PassRes := do
  let rs ← zs.mapM fun z => (passSample s l b x y z.1).map fun r => (z.1, z.2, r)
  putSamples l d b x y prim rs s

/-- The first fault of an access to a covered sample of a primitive, from a pixel on: the pass stops before the primitive (R332). -/
def primFault (s : State) (l : Launch) (b : Vbd) (p : Prim) : Nat → Nat → Except PassStop Unit
  | 0, _ => .ok ()
  | n + 1, i => do
    let xy := pixelAt (boxOf p b) i
    for h in coverage p b.scode xy.1 xy.2 do
      let _ ← passSample s l b xy.1 xy.2 h.1
      let _ ← passAt s l (b.addr xy.1 xy.2 h.1) .store
    primFault s l b p n (i + 1)

/-! ### The binning buffer (R325) -/

/-- The bins of 64 × 64 pixels that a box touches. DESIGN CHOICE, unsafe: assumption 36. -/
def binsOf (box : Nat × Nat × Nat × Nat) : Nat :=
  if box.2.2.1 * box.2.2.2 = 0 then 0
  else ((box.1 + box.2.2.1 - 1) / 64 - box.1 / 64 + 1) * ((box.2.1 + box.2.2.2 - 1) / 64 - box.2.1 / 64 + 1)
/-- Copy a primitive into a number of bins: no rule gives a record's layout, so each copy is a free 64-byte unit with free bytes, and how
often the buffer fills is free too. DESIGN CHOICE, unsafe: assumption 36. -/
def putBins (l : Launch) (d : PassDesc) : Nat → State → List DWord → Except PassStop (State × List DWord)
  | 0, s, us => .ok (s, us)
  | k + 1, s, us => do
    let free (i : Nat) : Nat := (Config.freeWord (s.fresh + i)).toNat
    let u := d.binbuf + BitVec.ofNat 64 (64 * (free 0 % (d.binsz / 64)))
    let t ← passWrite { s with fresh := s.fresh + 9 } l u 64 (ofBytes (((List.range 8).map fun i => leBytes 8 (free (i + 1))).flatten))
    let _ ← passAt t l u .load
    putBins l d k t (u :: us)

/-! ### Coverage groups (R327) -/

/-- The scalar stream that the device supplies to a coverage group: RUN of COVIDX, SYNC.L, EXIT. -/
def coverScalar (launch : Nat) (s : State) : Out :=
  match s.g.sc.pc.toNat with
  | 0 => execRun (BitVec.ofNat 20 (passDesc (s.launch launch).pass.desc).covidx) s
  | 4 => execSyncL s
  | _ => execExit s

/-- The registers preloaded for a fragment. -/
def fragRegs (d : PassDesc) (f : Frag) : List Word :=
  [BitVec.ofNat 32 f.x, BitVec.ofNat 32 f.y, BitVec.ofNat 32 f.prim, BitVec.ofNat 32 d.drawid, BitVec.ofNat 32 f.mask, f.b1, f.b2,
   SMap.get 0 f.zs ((f.zs.head?.map (·.1)).getD 0)]
/-- A coverage group for fragments on a core: lane l holds the l-th. -/
def coverGroup (l : Launch) (d : PassDesc) (fs : List Frag) (gid tid slot : Nat) : Group :=
  let vals := (fs.zipIdx.map fun f => (fragRegs d f.1).zipIdx.map fun x => (32 * x.2 + f.2, x.1)).flatten
  { gid := gid, team := tid, slot := slot, live := true, phase := .running, prog := .coverage l.num d.noDiscard
    em := BitVec.ofNat 32 (2 ^ fs.length - 1), winsz := d.covregs, predsz := d.covpreds, lcb := d.covlcb
    vreg := vals.foldl (fun m x => SMap.set 0 m x.1 x.2) [] }

/-- Start a coverage group where one fits; `none` while none does. DESIGN CHOICE, safe: assumption 3.
DESIGN CHOICE, unsafe: assumption 35. -/
def startCover (s : State) (l : Launch) (d : PassDesc) (fs : List Frag) : Option State :=
  let need (q : Nat) : Need := { idx := [0], regs := d.covregs, q0 := q, sram := 0 }
  let spots := ((List.range Config.cores).map fun c => (List.range 4).map fun q => (c, q)).flatten
  (spots.find? fun p => (s.core p.1).owner == l.dom && fits s p.1 (need p.2)).map fun p =>
    let cid := s.nextId
    let lin := (Config.freeWord s.fresh).toNat % 2 ^ 32
    let c : Cluster := { cid := cid, launch := l.num, die := dieOf p.1, x0 := meshXof p.1, y0 := meshYof p.1 }
    let t : Team :=
      { tid := cid + 1, launch := l.num, cluster := cid, core := p.1, q0 := p.2, teamlin := lin, tx := lin, ngroups := 1
        committed := true, filled := true }
    let g := coverGroup l d fs (cid + 2) (cid + 1) (((freeSlots s p.1 p.2).head?).getD 0)
    let q := l.pass
    let mine (f : Frag) : Option Nat := fs.findIdx? fun x => x.id == f.id
    ({ s.dropSectors p.1 with clusters := s.clusters ++ [c], teams := s.teams ++ [t], others := s.others ++ [g], nextId := cid + 3, fresh := s.fresh + 1 } :
      State).setPass l.num { q with
        frags := q.frags + fs.length
        held := q.held.map fun f => match mine f with
          | some i => { f with gid := some (cid + 2), lane := i }
          | none => f }

/-! ### The pass -/

/-- The start (R320): the descriptors are read and checked. A pass whose STATUS is misaligned or cannot be translated completes without a
record and reports to firmware. DESIGN CHOICE, unsafe: assumption 35. -/
def passStart (s : State) (l : Launch) : State :=
  let n := l.num
  let refused (s : State) : State := (s.setPass n { l.pass with done := true, code := 4 }).irq 1 |>.post (.launchComplete n)
  if l.pass.rid = 0 then ({ s with nextId := s.nextId + 1 }.setPass n { l.pass with rid := s.nextId }).post (.visibilityPass n)
  else match passBytes s l l.rcd.scb 16 with
  | .error (.wait x) => (passAsk s l x).post (.visibilityPass n)
  | .error (.fault _) => refused s
  | .ok b =>
    let d := passDesc b
    if d.status.toNat % 64 ≠ 0 || (passAt s l d.status .store).toOption.isNone then refused s
    else
      let vb := if d.vbd.toNat % 32 = 0 then passBytes s l d.vbd 4 else .ok []
      match vb with
      | .error (.wait x) => (passAsk s l x).post (.visibilityPass n)
      | _ =>
        let vb := vb.toOption.getD []
        let s := passClear s l
        if passDescOk b && vbdOk vb then
          (s.setPass n { l.pass with started := true, desc := b, vbd := vb }).post (.visibilityPass n)
        else (s.setPass n { l.pass with started := true, desc := b, code := 4 }).post (.passComplete n)

/-- Two fragments share a covered sample. -/
def Frag.meets (f g : Frag) : Bool := f.x == g.x && f.y == g.y && (f.mask &&& g.mask) != 0
/-- The bin of a fragment (R325). -/
def Frag.bin (f : Frag) : Nat × Nat := (f.x / 64, f.y / 64)
/-- The depths that decide a fragment. -/
def Frag.depths (f : Frag) : List (Nat × Word) := f.zs.map fun z => (z.1, f.newZ.getD z.2)

/-- The fragments whose verdict is given leave in order, a kept one applied (R327, R328), up to the first that is stopped. -/
def settleFrags (n : Nat) (d : PassDesc) (b : Vbd) : List Frag → State → State × Option (Nat × PassStop)
  | [], s => (s, none)
  | f :: fs, s => match f.verdict with
    | none => settleFrags n d b fs s
    | some keep =>
      let l := s.launch n
      match if keep then applyFrag s l d b f.x f.y f.prim f.depths else .ok s with
      | .error e => (s, some (f.prim, e))
      | .ok t =>
        let q := (t.launch n).pass
        settleFrags n d b fs ((passClear t l).setPass n { q with
          held := q.held.filter fun g => g.id != f.id, discards := if keep then q.discards else q.discards + 1 })

/-- Of the fragments without a group that no earlier one holds, those that pass the depth test at a covered sample; the others are
rejected (R327, R328). They come in order, up to the first whose samples cannot be read. -/
def tested (s : State) (l : Launch) (d : PassDesc) (b : Vbd) : List Frag → List Frag → List Frag × List Frag × Option (Nat × PassStop)
  | _, [] => ([], [], none)
  | before, f :: fs =>
    if f.gid.isSome || before.any f.meets then tested s l d b (before ++ [f]) fs
    else match f.zs.mapM fun z => (passSample s l b f.x f.y z.1).map fun r => (z.2, oldDepth r) with
      | .error e => ([], [], some (f.prim, e))
      | .ok olds =>
        let (ready, out, e) := tested s l d b (before ++ [f]) fs
        if olds.any fun o => depthPass d.zfunc o.1 o.2 then ({ f with old := (olds.head?.map (·.2)).getD 0 } :: ready, out, e)
        else (ready, f :: out, e)
/-- Coverage groups for the fragments that are ready, up to W of one bin to a group, in order. DESIGN CHOICE, unsafe: assumption 35. -/
def startAll (n : Nat) (d : PassDesc) : Nat → List Frag → State → State
  | 0, _, s => s
  | _, [], s => s
  | k + 1, f :: fs, s =>
    let mates := (f :: fs.filter fun g => g.bin == f.bin).take Config.W
    match startCover s (s.launch n) d mates with
    | none => s
    | some t => startAll n d k (fs.filter fun g => !mates.any fun m => m.id == g.id) t
/-- The held fragments: verdicts, tests and groups; with the primitive of the first fragment that is stopped, and why. -/
def passHeld (s : State) (n : Nat) (d : PassDesc) (b : Vbd) : State × Option (Nat × PassStop) :=
  let (t, e) := settleFrags n d b (s.launch n).pass.held s
  let l := t.launch n
  let prims := (e.map (·.1)).getD (2 ^ 32)
  let (ready, out, e') := tested t l d b [] (l.pass.held.filter fun f => decide (f.prim < prims))
  let held := (l.pass.held.filter fun f => !out.any fun g => g.id == f.id).map fun f => (ready.find? fun g => g.id == f.id).getD f
  let t := if ready.isEmpty && out.isEmpty then t else passClear t l
  (startAll n d ready.length ready (t.setPass n { l.pass with held := held }), e'.or e)

/-- The pixels of a primitive: without a coverage program each fragment is applied, with one it joins those that await their verdict. -/
def passPixels (n : Nat) (d : PassDesc) (b : Vbd) (p : Prim) : Nat → Nat → State → PassRes
  | 0, _, s => .ok s
  | k + 1, i, s => do
    let l := s.launch n
    let xy := pixelAt (boxOf p b) i
    match coverage p b.scode xy.1 xy.2 with
    | [] => passPixels n d b p k (i + 1) s
    | (s0, h0) :: hs =>
      let cov := (s0, h0) :: hs
      if d.covlcb = 0 then do
        let t ← applyFrag s l d b xy.1 xy.2 l.pass.prim (cov.map fun c => (c.1, c.2.z))
        let l := t.launch n
        passPixels n d b p k (i + 1) (t.setPass n { l.pass with frags := l.pass.frags + 1 })
      else
        let f : Frag :=
          { id := l.pass.nextFrag, x := xy.1, y := xy.2, prim := l.pass.prim, mask := cov.foldl (fun m c => m + 2 ^ c.1) 0
            zs := cov.foldl (fun m c => SMap.insert m c.1 c.2.z) []
            b1 := h0.b1, b2 := h0.b2, old := 0 }
        passPixels n d b p k (i + 1) (s.setPass n { l.pass with held := l.pass.held ++ [f], nextFrag := l.pass.nextFrag + 1 })

/-- The next primitive: it is read, culled or copied into its bins, then rasterised from them (R321 to R325). DESIGN CHOICE, unsafe: assumption 36. -/
def passPrim (s : State) (n : Nat) (d : PassDesc) (b : Vbd) : PassRes := do
  let l := s.launch n
  let q := l.pass
  let vs ← primVerts s l d q.prim
  let skip (q : Pass) : PassRes := .ok (((passClear s l).setPass n { q with prim := q.prim + 1 }).post (.visibilityPass n))
  match setup d vs with
  | .cullW => skip { q with cullW := q.cullW + 1 }
  | .cullArea => skip { q with cullArea := q.cullArea + 1 }
  | .cullFace => skip { q with cullFace := q.cullFace + 1 }
  | .keep p =>
    let box := boxOf p b
    let total := box.2.2.1 * box.2.2.2
    match q.bins with
    | none => do
      let k := binsOf box
      let (t, us) ← putBins l d k s []
      let more := (Config.freeWord t.fresh).toNat % (k + 1)
      .ok (({ t with fresh := t.fresh + 1 }.setPass n { q with bins := some us, flushes := q.flushes + more }).post (.visibilityPass n))
    | some us => do
      let _ ← us.mapM fun u => passRead s l u 64
      primFault s l b p total 0
      let t ← passPixels n d b p total 0 s
      let u := t.launch n
      .ok (((passClear t l).setPass n { u.pass with prim := u.pass.prim + 1, bins := none }).post (.visibilityPass n))

/-- One stretch of the pass: the held fragments, and the next primitive. A fault stops the pass once every fragment of an earlier primitive has
its verdict and has been applied (R332). DESIGN CHOICE, unsafe: assumption 35. -/
def passStep (s : State) (l : Launch) : PassRes :=
  let n := l.num
  let d := passDesc l.pass.desc
  let b := vbdOf l.pass.vbd
  let (t, e) := passHeld s n d b
  let q := (t.launch n).pass
  let again (t : State) : State := if q.held.any fun f => f.gid.isNone then t.post (.visibilityPass n) else t
  match e with
  | some (p, e) =>
    if q.held != l.pass.held then .ok (t.post (.visibilityPass n))
    else if e.isFault && q.held.any fun f => decide (f.prim < p) then .ok (again t)
    else .error e
  | none =>
    if d.primcnt ≤ q.prim then .ok (if q.held.isEmpty then t.post (.passComplete n) else again t)
    else match passPrim t n d b with
      | .error (.fault f) => if q.held.isEmpty then .error (.fault f) else .ok (again t)
      | .error (.wait x) => if q.held != l.pass.held then .ok (t.post (.visibilityPass n)) else .error (.wait x)
      | r => r

/-- VISIBILITY_PASS. -/
def execVisibilityPass (launch : Nat) (s : State) : Out :=
  .next (match s.launch? launch with
    | none => s
    | some l =>
      if !l.rcd.pass || l.pass.done || l.pass.faulted.isSome then s
      else if !l.pass.started then passStart s l
      else match passStep s l with
        | .ok t => t
        | .error (.wait x) => (passAsk s l x).post (.visibilityPass launch)
        | .error (.fault _) => s.post (.passFault launch))

/-! ### Survivors and status (R330, R331) -/

/-- Insert into an ascending list without repeats. -/
def insertId (x : Nat) : List Nat → List Nat
  | [] => [x]
  | y :: t => if x < y then x :: y :: t else if x = y then y :: t else y :: insertId x t

/-- The distinct ids of a buffer. -/
def scanIds (s : State) (l : Launch) (b : Vbd) : Except PassStop (List Nat) :=
  (List.range (2 ^ b.scode * b.w * b.h)).foldlM (fun ids i => do
    let r ← passRead s l (BitVec.ofNat 64 (b.base + 16 * i)) 16
    .ok (if bitsOf r 0 64 = emptyId then ids else insertId (bitsOf r 0 64) ids)) []

/-- Write the status record and end the pass. `ids` is the count of survivors; a count nobody took is free. DESIGN CHOICE, safe: assumption 3. -/
def passEnd (s : State) (l : Launch) (code : Nat) (ids : Option Nat) : PassRes :=
  let q := l.pass
  let d := passDesc q.desc
  let free (k : Nat) : Nat := (Config.freeWord (s.fresh + k)).toNat % 2 ^ 32
  let refused := code = 4
  let surv := match ids with
    | some n => n
    | none => if refused then 0 else free 1
  let prims := if refused then 0 else min d.primcnt (q.prim + (if q.bins.isSome then 1 else 0))
  let b := leBytes 4 prims ++ leBytes 4 q.cullW ++ leBytes 4 q.cullArea ++ leBytes 4 q.cullFace ++ leBytes 8 q.frags ++
    leBytes 8 q.discards ++ leBytes 4 surv ++ leBytes 4 (if refused then 0 else q.flushes) ++ leBytes 4 code ++ leBytes 20 0
  (passWrite s l d.status 64 (ofBytes b)).map fun t =>
    ({ t.setPass l.num { q with done := true, code := code } with fresh := t.fresh + 2 }).post (.launchComplete l.num)

/-- PASS_COMPLETE: the scan, the list and the status record; a refused descriptor has its record alone. DESIGN CHOICE, safe: assumption 3. DESIGN CHOICE, unsafe: assumption 35. -/
def passFinish (s : State) (l : Launch) : PassRes :=
  let d := passDesc l.pass.desc
  if l.pass.code = 4 then passEnd s l 4 none
  else do
    let ids ← scanIds s l (vbdOf l.pass.vbd)
    let t ← (ids.take d.survcap).zipIdx.foldlM (fun t x => passWrite t l (d.surv + BitVec.ofNat 64 (8 * x.2)) 8 x.1) s
    passEnd (passClear t l) l (if d.survcap < ids.length then 1 else 0) (some ids.length)

def execPassComplete (launch : Nat) (s : State) : Out :=
  .next (match s.launch? launch with
    | none => s
    | some l =>
      if !l.rcd.pass || l.pass.done || !l.pass.started || l.pass.faulted.isSome then s
      else match passFinish s l with
        | .ok t => t
        | .error (.wait x) => (passAsk s l x).post (.passComplete launch)
        | .error (.fault _) => s.post (.passFault launch))

/-! ### Faults of a pass (R332) -/

/-- The fault that the pass meets now, if it meets one. -/
def passFaultNow (s : State) (l : Launch) : Option Trap :=
  let d := passDesc l.pass.desc
  match if l.pass.held.isEmpty && d.primcnt ≤ l.pass.prim || l.pass.code = 4 then passFinish s l else passStep s l with
  | .error (.fault t) => some t
  | _ => none

/-- The pass's fault record (R332, R400): the fields that only a group has are free. DESIGN CHOICE, safe: assumption 3. -/
def passRecord (s : State) (l : Launch) (t : Trap) (seq : Nat) : List Byte :=
  let free (k n : Nat) : List Byte := leBytes n (Config.freeWord (s.fresh + k)).toNat
  leBytes 8 seq ++ free 0 2 ++ leBytes 1 t.code.num ++ leBytes 1 TrapKind.restart.num ++ free 1 1 ++ leBytes 1 0xFF ++ leBytes 1 t.sub ++
  leBytes 1 0 ++ free 2 8 ++ leBytes 8 t.addr.toNat ++ free 3 8 ++ free 4 4 ++ leBytes 4 l.num ++ leBytes 2 l.asn ++
  leBytes 2 0 ++ leBytes 4 0 ++ leBytes 16 0 ++ free 5 8 ++ free 6 4 ++ leBytes 4 0

/-- PASS_FAULT: the record, when the group fault queue has a slot; a pass that no longer meets its fault goes on. -/
def execPassFault (launch : Nat) (s : State) : Out :=
  .next (match s.launch? launch with
    | none => s
    | some l =>
      if !l.rcd.pass || l.pass.done || !l.pass.started || l.pass.faulted.isSome then s
      else match passFaultNow s l with
        | none => s.post (.visibilityPass launch)
        | some t =>
          let d := l.dom
          let s := (s.note t).readBlock d
          let seq := (s.dom d).gfSeq + 1
          if gfFull s d then s.post (.passFault launch)
          else
            let code := if t.code == .uncorrectableData then 3 else 2
            let u := { gfAppend s d t.code.num (passRecord s l t seq) none (some launch) with fresh := s.fresh + 7 }
            -- the pass stands before the faulting primitive (R332)
            let first := l.pass.held.foldl (fun p f => min p f.prim) l.pass.prim
            u.setPass launch { l.pass with faulted := some seq, code := code, prim := first, held := [], bins := none })

/-! ### DISCARD and VDEPTH -/

/-- DISCARD (R255). -/
def execDiscard (r : LRen) (s : State) : Out :=
  laneDo (Forms.bare r) (fun x t =>
    match t.g.prog with
    | .kernel => .error (trapP .reservedField)
    | .coverage _ true =>
      parkLanes t .discard ((lanesOf x.act).map fun l => { lane := l, t := { code := .protection, sub := 1 }, sub := 1 })
    | .coverage n false =>
      -- a discarded fragment stays so, whatever `em` becomes (R255)
      let held := (t.launch n).pass.held.map fun f => if f.gid == some t.g.gid && x.act.getLsbD f.lane then { f with dropped := true } else f
      .ok ({ t with g := { t.g with em := t.g.em &&& ~~~x.act } }.setPass n { (t.launch n).pass with held := held })
    | .resolve => .ok { t with g := { t.g with em := t.g.em &&& ~~~x.act } }) s

/-- A depth clamped to 0..1. -/
def clampZ (w : Word) : Word :=
  let v := (Q.f32 w).v
  if v.lt (.zero false) then 0 else if (Q.ofRat 1).v.lt v then 0x3F800000 else w

/-- The depth that a fragment's first covered sample holds now (R256). DESIGN CHOICE, unsafe: assumption 35. -/
def nowDepth (s : State) (l : Launch) (f : Frag) : Word :=
  match passRead s l ((vbdOf l.pass.vbd).addr f.x f.y ((f.zs.head?.map (·.1)).getD 0)) 16 with
  | .ok r => oldDepth r
  | .error _ => f.old
/-- VDEPTH (R256): in each active lane a new depth for its fragment; a NaN discards the fragment. DESIGN CHOICE, unsafe: assumption 35. -/
def execVdepth (r : LRen) (pd : PReg) (s : State) : Out :=
  laneDo (Forms.vdepth r pd) (fun x t =>
    match t.g.prog with
    | .coverage n _ =>
      let l := t.launch n
      let z (i : Nat) : Word := (x.a i).setWidth 32
      let nan (i : Nat) : Bool := (Q.f32 (z i)).v == .nan
      let mine (f : Frag) : Bool := f.gid == some t.g.gid && x.act.getLsbD f.lane
      let ok (i : Nat) : Bool := !nan i && l.pass.held.any fun f => mine f && f.lane == i &&
        depthPass (passDesc l.pass.desc).zfunc (clampZ (z i)) (nowDepth t l f)
      let held := l.pass.held.map fun f =>
        if !mine f then f else if nan f.lane then { f with dropped := true } else { f with newZ := some (clampZ (z f.lane)) }
      .ok ({ t with g := t.g.putPred pd x.act (maskOf ok) }.setPass n { l.pass with held := held })
    | _ => .error (trapP .reservedField)) s

end Sys2Proof.Machine
end

