-- ==== Sys2Proof/Machine/Service.lean ====
section
/-!
DEFINITION. What an agent's answer does: a parked lane's resumption (R258), a fault's disposition (R401), a system call's reply (R100),
and the close of a core's floating-point trap window (R398).
-/
namespace Sys2Proof.Machine

/-! ### Parked lanes -/

/-- The address of a record in a core's lane fault queue. -/
def lfqSlot (s : State) (c seq : Nat) : Nat :=
  let d := (s.core c).owner
  let log2 := dcbLfqLog2 s d
  dcbLfqBase s d + c * 128 * 2 ^ log2 + 128 * slotOf seq log2

/-- The work of a parked instruction: its resumption acquires first, so that L1 serves none of its reads (R258, R288). -/
def ParkOp.sem : ParkOp → LaneSem
  | .trace r any cullb => traceLane r any cullb
  | .hitAdj r => hitAdjLane r
  | .tex r => texLane r
  | .texAdj r => texAdjLane r
  | .vbRd _ => vbRdLane true
  | .edgeSamp r n1 => edgeLane r (n1.toNat + 1)
  | .park | .discard => fun _ _ _ _ _ => .ok { ws := [] }

/-- The no-result value (R258, DISP 3); EDGE.SAMP computes its record. -/
def ParkOp.empty : ParkOp → Option (List Word)
  | .trace .. => some (noHit 0)
  | .hitAdj _ => some (List.replicate 15 0)
  | .tex _ => some (List.replicate 4 0)
  | .texAdj _ => some (List.replicate 3 0)
  | .vbRd _ => some (lohi emptyId ++ [0x7F800000])
  | .edgeSamp .. => none
  | .park | .discard => some []

/-- The slot of a record is free. -/
def freeLf (s : State) (c seq : Nat) : State :=
  let x := s.core c
  s.setCore c { x with lfLive := x.lfLive.filter fun r => r.seq != seq }

/-- What a lane that parks again has read. -/
def ParkOp.readsOf (op : ParkOp) (s : State) (p : ParkRec) : SampleReads :=
  match op.sem s p.lane p.opds p.desc none with
  | .error (.park _ rs) => rs
  | _ => []

/-- A lane's work done again, or for DISP 3: its results, a new record, or the group's fault when the queue has no room. A read to await
or a contribution that cannot leave yet changes nothing but what has been asked. DEDUCED, unsafe: assumption 37. -/
def resumeWork (s : State) (p : ParkRec) (given : Option SampleReads) : Except State State :=
  match p.op.sem s p.lane p.opds p.desc given with
  | .ok v => .ok (((s.laneVal p.op p.lane v).raise (maskOf fun l => l == p.lane) (fun _ => v.fl) p.lpc).remClear)
  | .error (.ask pa n) => .error (s.askReads true [(pa, n)])
  | .error .recall => .error s
  | .error (.park t _) | .error (.fault t) =>
    let again := parkLanes { s with g := { s.g with lane := { s.g.lane with active := some { lpc := p.lpc, snap := [] } } } } p.op
      [{ lane := p.lane, t := t, opds := p.opds, desc := p.desc, reads := p.op.readsOf s p }]
    match again with
    | .ok u => .ok { u with g := { u.g with lane := s.g.lane, parkNew := s.g.parkNew } }
    | .error _ =>
      let t := { t with kind := .restart, lane := some p.lane, pcAt := some p.lpc }
      match s.g.phase with
      | .running | .stopping .. => .ok (groupTrap s true t)
      | _ => .error s

/-- The disposition of a parked lane of the group in focus. DEDUCED, unsafe: assumption 37. -/
def resumeLane (s : State) (p : ParkRec) (disp nval : Nat) (vals : List Word) : Except State State :=
  let disp := if nval > p.op.dest.2 then 4 else disp
  let bare := p.op == .park || p.op == .discard
  let s := s.acquire .sys
  match disp with
  | 1 => if bare then .ok s else resumeWork s p none
  | 2 => .ok { s with g := s.g.putBlock p.op.dest.1 p.lane (vals.take nval) }
  | 3 => match p.op.empty with
    | some ws => .ok { s with g := s.g.putBlock p.op.dest.1 p.lane ws }
    | none => resumeWork s p (some p.reads)
  | _ => .ok { s with g := { s.g with killMask := putBit s.g.killMask p.lane true } }

/-- LANE_RESUME: a record whose DONE is written frees its slot and its lane goes on; until then, and while its group is not resident, the
device looks again. DEDUCED, unsafe: assumption 37. -/
def execLaneResume (core seq : Nat) (s : State) : Out :=
  .next (
    if !(s.core core).lfLive.any fun r => r.seq == seq then s
    else
      let a := lfqSlot s core seq
      let again (t : State) : State := t.post (.laneResume core seq)
      match s.look (2 ^ 64 + 2 ^ 32 * core + seq) ((a + 56, 8) :: (List.range 10).map fun i => (a + 48 + 8 * i, 8)) with
      | .error t | .ok (t, none) => again t
      | .ok (s, some val) =>
      if val (a + 56) 8 = 0 then again s
      else
        let is (g : Group) : Bool := g.parked.any fun p => p.core == core && p.seq == seq
        match s.groups.find? is with
        | none => if s.saved.any fun x => x.groups.any is then again s else freeLf s core seq
        | some g => match g.parked.find? fun p => p.core == core && p.seq == seq with
          | none => s
          | some p => match s.focus g.gid with
            | none => s
            | some s =>
              let s0 := freeLf s core seq
              let s0 := { s0 with ch := 2 + p.lane, g := { s0.g with parked := s0.g.parked.filter fun q => !(q.core == core && q.seq == seq) } }
              match resumeLane s0 p (val (a + 48) 4) (val (a + 52) 4)
                  ((List.range 16).map fun i => BitVec.ofNat 32 (val (a + 64 + 4 * i) 4)) with
              | .ok t => { t with ch := s.ch }
              | .error t => again { t with g := { t.g with parked := s.g.parked }, coreTab := s.coreTab, ch := s.ch })

/-! ### Fault dispositions (R401) -/

/-- Every group of a launch is killed, saved ones with their images, and the launch completes with CODE 2. DESIGN CHOICE, unsafe: assumption 38. -/
def abortLaunch (s : State) (n : Nat) : State :=
  let l := s.launch n
  let s := s.setLaunch { l with aborted := true, pass := { l.pass with done := true, held := [] } }
  let s := if s.placing = some n then { s with placing := none } else s
  let mine (g : Group) : Bool := (s.team g.team).launch == n
  let gids := (s.groups.filter mine).map (·.gid)
  let s := gids.foldl (fun s i => onGroup s i fun s => s.leave true) s
  let away := s.saved.filter fun x => (s.team x.tid).launch == n
  let dead := away.map (·.tid)
  let gone := (away.map fun x => x.groups.map (·.gid)).flatten
  let s := { s with
    pairMarks := s.pairMarks.filter fun m => !gone.contains m.gid
    saved := s.saved.filter fun x => !dead.contains x.tid
    teams := (s.teams.map fun (t : Team) => if dead.contains t.tid then { t with exited := List.range t.ngroups } else t).filter
      fun t => !(dead.contains t.tid && !l.rcd.det) }
  (s.post (.ticketPass n)).post (.launchComplete n)

/-- The hazard state past a skipped instruction, which takes the issue position it would have taken and leaves no result: LOOP, LOOPW,
ENDL and VRET take none; LOOPW, VSTAT, REJOIN and S = 1 are markers (R68 to R70, R401). DEDUCED, unsafe: assumption 40. -/
def skippedHaz (w : LaneWord) (h : Hazard) : Hazard :=
  let o := opcodeOf w
  if o = 0x071 then h.cover
  else if o = 0x070 ∨ o = 0x072 ∨ o = 0x074 then h
  else if (Decode.header w).sw || o == 0x0EA || o == 0x16A then h.mark
  else h.tick

/-- The group in focus goes on past its faulting instruction (DISP 2 of a precise fault). -/
def skipInsn (s : State) (lane : Bool) : State :=
  if !lane then s.next
  else
    let h := match laneWordAt s s.g.run.lpc with
      | .ok w => skippedHaz w s.g.haz
      | .error _ => s.g.haz.tick
    { s with g := { s.g with haz := h }.laneStep (s.g.run.lpc + 1) }

/-- The disposition of a stopped group in focus. -/
def disposeGroup (s : State) (t : Trap) (lane : Bool) (disp : Nat) : State :=
  let go (s : State) : State := { s.acquire .sys with g := s.g.goOn }
  match disp with
  | 1 | 2 => match t.kind with
    | .restart => let t := go { s with g := s.g.restart }; t.g.refills.foldl State.post t
    | .collected => go s
    | .precise => if t.code == .brk then go s.next else if disp = 1 then go s else go (skipInsn s lane)
  | 3 => let cid := s.gteam.cluster; tryLeave (s.leave true) cid
  | _ => abortLaunch s s.gteam.launch

/-- The disposition of a faulted pass (R332). DESIGN CHOICE, unsafe: assumption 35. -/
def disposePass (s : State) (n disp : Nat) : State :=
  match s.launch? n with
  | none => s
  | some l =>
    if disp = 1 ∨ disp = 2 then ((passClear s l).setPass n { l.pass with faulted := none, code := 0, bins := none }).post (.visibilityPass n)
    else
      let q := { l.pass with faulted := none }
      match passEnd (s.setPass n q) { l with pass := q } q.code none with
      | .ok t => t.setLaunch { t.launch n with aborted := true }
      | .error _ => ((s.setLaunch { l with aborted := true, pass := { q with done := true } }).irq 1).post (.launchComplete n)

/-- A slot of the group fault queue is free (R399). -/
def freeGf (s : State) (d seq : Nat) : State :=
  let dm := s.dom d
  writeWaiting (s.setDom d { dm with gfLive := dm.gfLive.filter fun r => r.seq != seq }) d

/-- FAULT_DISPOSITION: until DONE is written the device looks again; a DONE on a withdrawn record is ignored (R402). -/
def execFaultDisposition (dom seq : Nat) (s : State) : Out :=
  .next (match (s.dom dom).gfLive.find? fun r => r.seq == seq with
    | none => s
    | some r =>
      let a := gfSlot s dom seq
      match s.look (2 ^ 62 + 2 * seq + dom) [(a + 96, 8), (a + 88, 4)] with
      | .error t | .ok (t, none) => t.post (.faultDisposition dom seq)
      | .ok (s, some val) =>
      if val (a + 96) 8 = 0 then s.post (.faultDisposition dom seq)
      else
        let disp := val (a + 88) 4
        let focus := s.g.gid
        let t := freeGf s dom seq
        if r.withdrawn then t
        else match r.pass, r.gid with
          | some n, _ => disposePass t n disp
          | none, some gid => onGroup ((t.focus focus).getD t) gid fun t => match t.g.phase with
            | .stopped (some k) tr lane => if k = seq then disposeGroup t tr lane disp else t
            | _ => t
          | none, none => t)

/-! ### System calls (R100) -/

/-- SYSCALL_REPLY: the status, the reply vector, the slot, and the group goes on. -/
def execSyscallReply (gid : Nat) (s : State) : Out :=
  .next (onGroup s gid fun s => match s.g.call.getD s.g.phase with
    | .suspended seq d rep vrep em =>
      let dn := s.gdom
      let a := syscallSlot s dn seq
      match s.look (2 ^ 63 + 2 * seq + dn) ((a + 3080, 8) :: (a + 3072, 8) :: (List.range 32).map fun l => (a + 3088 + 4 * l, 4)) with
      | .error t | .ok (t, none) => t.post (.syscallReply gid)
      | .ok (s, some val) =>
      if val (a + 3080) 8 = 0 || s.g.leave != .stay then s.post (.syscallReply gid)
      else
        let dm := s.dom dn
        let g := s.g.deliver d (BitVec.ofNat 64 (val (a + 3072) 8))
        let g := if rep then g.putVec vrep em fun l => BitVec.ofNat 32 (val (a + 3088 + 4 * l) 4) else g
        ({ (s.acquire .sys).setDom dn { dm with scLive := dm.scLive.filter (· != seq) } with
          party := .group, g := { g with call := none, phase := if g.call.isSome then g.phase else .running } } : State).next
    | _ => s)

/-! ### Floating-point traps (R398) -/

/-- A group that FP_TRAP can name: resident on the core, not stopped, and not saved (R398). -/
def fpEligible (s : State) (core : Nat) (g : Group) : Bool :=
  (s.team g.team).core == core && g.leave != .light && g.leave != .forced &&
    match g.phase with
    | .running | .suspended .. => true
    | _ => false

/-- The window of a core is over: its 64 ck, from the ck that opened it, have passed. -/
def fpOver (s : State) (core : Nat) : Bool := (s.core core).fpWin.head?.any fun c => decide (c.ck + 64 ≤ s.clock)
/-- Issued earlier, or in the same ck at a lower slot. -/
def FpCand.before (a b : FpCand) : Bool := a.ck < b.ck || (a.ck == b.ck && a.slot < b.slot)
/-- The candidate that is named. -/
def fpNamed (cs : List FpCand) : Option FpCand :=
  cs.foldl (fun b a => match b with
    | none => some a
    | some x => if a.before x then some a else b) none

/-- The window closes, and the first eligible group is named and stops; one that awaits a system call's reply stops before it issues
again. A group that is already stopping on another fault is passed over. DEDUCED, unsafe: assumption 28. -/
def fpClose (core : Nat) (s : State) : State :=
  let x := s.core core
  let t := s.setCore core { x with fpWin := [] }
  let eligible (c : FpCand) : Bool := s.groups.any fun g => g.gid == c.gid && fpEligible s core g
  match fpNamed (x.fpWin.filter eligible) with
  | none => t
  | some c =>
    let others := ((x.fpWin.map (·.gid)).eraseDups.filter fun i => i != c.gid).length
    let keep (g : Group) : Group := if g.phase == .running then g else { g with call := some g.phase }
    onGroup t c.gid fun t => groupTrap { t with g := keep t.g } true
      { code := .fpTrap, kind := .collected, lane := some c.lane, mask := c.mask, flags := c.flags.setWidth 16, others := others
        pcAt := some c.lpc }

/-- FP_TRAP_COLLECT: a window that is over closes; the ck's end closes it too. DESIGN CHOICE, safe: assumption 22. -/
def execFpTrapCollect (core : Nat) (s : State) : Out := .next (if fpOver s core then fpClose core s else s)

end Sys2Proof.Machine
end

