-- ==== Sys2Proof/Machine/Streams.lean ====
section
/-!
DEFINITION. Stream descriptors and their engines (R176 to R180, R278): the STRM family, the prefetch of a load port and the writes of
a store port.
-/
namespace Sys2Proof.Machine

def Group.stream (g : Group) (k : Nat) : Stream := SMap.get {} g.streams k

/-- A descriptor record, if it breaks no rule (R176). -/
def streamOf (b : List Byte) : Option Stream :=
  let base := fieldOf b 0 8
  let ctrl := fieldOf b 8 1
  let esz := bitsOf ctrl 1 1 == 1
  let store := bitsOf ctrl 0 1 == 1
  let nd := bitsOf ctrl 2 2 + 1
  let counts := (List.range 4).map fun i => fieldOf b (16 + 4 * i) 4
  let strides := (List.range 4).map fun i => toSigned 64 (fieldOf b (32 + 8 * i) 8)
  let above := (counts.drop nd).all (· == 0) && (strides.drop nd).all (· == 0)
  if bitsOf ctrl 5 3 ≠ 0 ∨ fieldOf b 9 7 ≠ 0 ∨ (esz ∧ store) ∨ (!esz ∧ (base % 4 ≠ 0 ∨ strides.any fun k => k % 4 != 0)) ∨
      (counts.take nd).any (· == 0) ∨ !above ∨ 2 ^ 48 ≤ (counts.take nd).foldl (· * ·) 1 then none
  else some { defined := true, base := BitVec.ofNat 64 base, store := store, esz := esz, fresh := bitsOf ctrl 4 1 == 1,
              ndim := nd, counts := counts.take nd, strides := strides.take nd }

/-- Prefetch begins for a bound load descriptor. -/
def startPrefetch (s : State) (x : Stream) : State :=
  match x.port with
  | some j => if x.store then s else s.post (.streamPrefetch s.g.gid j)
  | none => s

/-- What every member does first (R178), and the descriptor it names where it must be defined. -/
def strmStart (s : State) (dst src : List SReg) : Res Unit := do
  ready s dst src
  drain s
def defined (s : State) (k : BitVec 4) : Res Stream :=
  let x := s.g.stream k.toNat
  if x.defined then .ok x else .error (trapP .queueUnbound)

def execStrmDef (k : BitVec 4) (a : SReg) (s : State) : Out :=
  finishS s (do
    strmStart s [] [a]
    let va := s.rdS a
    recordCheck va 64
    let (b, t) ← recordAt s va 8
    let t := t.remClear
    match streamOf b with
    | none => .error (trapP .reservedField)
    | some x =>
      let old := t.g.stream k.toNat
      let x := { x with port := old.port }
      .ok (startPrefetch { t with g := t.g.setStream k.toNat x } x).next)

def execStrmBind (j k : BitVec 4) (s : State) : Out :=
  finishS s (do
    strmStart s [] []
    let _ ← defined s k
    let g := { s.g with streams := s.g.streams.map fun (y : Nat × Stream) =>
      if y.2.port == some j.toNat then (y.1, { y.2 with port := none, loadQ := [] }) else y }
    let x := { g.stream k.toNat with port := some j.toNat, loadQ := [] }
    .ok (startPrefetch { s with g := g.setStream k.toNat x } x).next)

def execStrmPos (d : SReg) (k : BitVec 4) (s : State) : Out :=
  finishS s (do
    strmStart s [d] []
    let x ← defined s k
    .ok (s.wrS d (BitVec.ofNat 64 x.pos)).next)

def execStrmSeek (k : BitVec 4) (a : SReg) (s : State) : Out :=
  finishS s (do
    strmStart s [] [a]
    let x ← defined s k
    let n := (s.rdS a).toNat
    require (n ≤ x.total) (trapP .bounds)
    let x := { x with pos := n, loadQ := [] }
    .ok (startPrefetch { s with g := s.g.setStream k.toNat x } x).next)

def execStrmClose (k : BitVec 4) (s : State) : Out :=
  finishS s (do
    strmStart s [] []
    let _ ← defined s k
    .ok { s with g := s.g.setStream k.toNat {} }.next)

/-! ### The address engine -/

/-- A fault found while prefetching, as the pop will raise it (R179). -/
def heldOf (t : Trap) : QElem := .held { t with kind := if t.code = .format then .precise else .restart }

/-- Fetch one element of a load stream, which L1 may serve unless FRESH is set (R287): `none` while a remote read is outstanding. -/
def fetchElem (s : State) (x : Stream) (n : Nat) : State × Option QElem :=
  let off := x.offset n
  let r : Res (Nat × State) :=
    if x.esz then
      if off < 0 then .error (.trap (preciseAt .format x.base))
      else match elemWords s x.base [(0, off.toNat)] x.fresh false with
        | .ok (ws, t) => .ok ((byLane ws 0).toNat, t)
        | .error e => .error e
    else do
      let va := x.base + BitVec.ofInt 64 off
      let l ← lift (access s va 4 .load .streamLoad)
      arrive s l va 4
      .ok (s.serve x.fresh l 4, (if x.fresh then s else s.usedL1 s [l]).touch va)
  match r with
  | .ok (v, t) => (t, some (.val (BitVec.ofNat 32 v)))
  | .error (.trap t) => (s, some (heldOf t))
  | .error (.trapIn u t) => (u, some (heldOf t))
  | .error (.stallIn u _) => (u, none)
  | .error _ => (s, none)

/-- Fetch the elements n, n + 1, … of one vector; past the count a lane receives zero. -/
def fetchVec (s : State) (x : Stream) : Nat → Nat → State × Option (List QElem)
  | 0, _ => (s, some [])
  | k + 1, n =>
    let (s1, e) := if n < x.total then fetchElem s x n else (s, some (.val 0))
    let (s2, rest) := fetchVec s1 x k (n + 1)
    (s2, match e, rest with
      | some e, some r => some (e :: r)
      | _, _ => none)

/-- A load port has room, and elements to come (R278). -/
def Stream.room (x : Stream) : Bool := !x.store && decide (x.loadQ.length < 8) && decide (x.pos + 32 * x.loadQ.length < x.total)
/-- How far a port of a slot is from the engine's turn. -/
def turnDist (turn slot port : Nat) : Nat := (16 * slot + port + 1024 - turn) % 1024
/-- Another port of the core that waits for the engine comes before this one of the group in focus (R278). -/
def earlierPort (s : State) (port : Nat) : Bool :=
  let c := s.gteam.core
  let turn := (s.core c).strmTurn
  s.engineQ.any fun e => match e with
    | .streamPrefetch g p => (s.groups.find? fun y => y.gid == g).any fun y =>
        (s.team y.team).core == c && (y.portOf p).any (fun x => x.2.room) &&
        decide (turnDist turn y.slot p < turnDist turn s.g.slot port)
    | _ => false

/-- STREAM_PREFETCH: one vector for a port with room, none at or past the element count; the ports of a core take turns (R278). -/
def execStreamPrefetch (gid port : Nat) (s : State) : Out :=
  .next (onGroup s gid fun s =>
    match s.g.portOf port with
    | none => s
    | some (k, x) =>
      let n := x.pos + 32 * x.loadQ.length
      if !x.room then s
      else if earlierPort s port then s.post (.streamPrefetch gid port)
      else
        let c := s.gteam.core
        let s := s.setCore c { s.core c with strmTurn := (16 * s.g.slot + port + 1) % 1024 }
        match fetchVec { s with ch := 34 + port } x 32 n with
        | (t, none) => { t with ch := s.ch }.post (.streamPrefetch gid port)
        | (t, some v) =>
          let t := t.remClear
          { t with g := t.g.setStream k { x with loadQ := x.loadQ ++ [v] }, ch := s.ch }.post (.streamPrefetch gid port))

/-! ### The store engine -/

/-- STORE_ENGINE_WRITE: the group's oldest pushed vector, in lane order (R179, R312). A vector that has no way out yet stands until the
engine tries again. DESIGN CHOICE, unsafe: assumption 38. -/
def execStoreEngineWrite (gid port : Nat) (s : State) : Out :=
  .next (onGroup s gid fun s =>
    match s.g.pushes with
    | [] => s
    | v :: q =>
      match v.elems.foldlM (fun t (y : QStore) => t.put y.loc y.va 4 y.w.toNat s.g.relL) { s with ch := 34 + port } with
      | .error _ => s.post (.storeEngineWrite gid port)
      | .ok t =>
        let t := { t.dropSectors t.gteam.core with g := { t.g with pushes := q }, ch := s.ch }
        if q.isEmpty then t else t.post (.storeEngineWrite gid port))

end Sys2Proof.Machine
end

