-- ==== Sys2Proof/Machine/TapeLane.lean ====
section
/-!
DEFINITION. TAPE.PUSH and TAPE.POP (R263, R265, R267).
-/
namespace Sys2Proof.Machine

/-- The words of a record but its descriptor: the zero bitmap and the values that are not zero, for values lane-major. -/
def recordWords (vals : List Word) : List Word :=
  let bits := vals.zipIdx.foldl (fun b x => if x.1 = 0 then b + 2 ^ x.2 else b) 0
  ((List.range ((vals.length + 31) / 32)).map fun i => BitVec.ofNat 32 (bits / 2 ^ (32 * i))) ++ vals.filter fun v => v != 0

/-- The values of a record, lane-major, from its bitmap and the words that follow. -/
def recordVals (bits : Nat) : Nat → Nat → List Word → List Word
  | 0, _, _ => []
  | n + 1, i, ws =>
    if bits / 2 ^ i % 2 = 1 then 0 :: recordVals bits n (i + 1) ws
    else match ws with
      | w :: t => w :: recordVals bits n (i + 1) t
      | [] => 0 :: recordVals bits n (i + 1) []

/-- TAPE.PUSH. -/
def execTapePush (r : LRen) (n1 : BitVec 3) (s : State) : Out :=
  laneDoRegion (Forms.tapePush r n1.toNat) (fun x t => do
    require t.g.tape.opened (trapP .reservedField)
    let k := match r.va with
      | .v n => n.toNat
      | _ => 0
    let vals := ((lanesOf x.act).map fun l => (List.range (n1.toNat + 1)).map fun j => t.g.vr (k + j) l).flatten
    tapeAppend t (n1.toNat + 1) [x.act] (recordWords vals)) s

/-- TAPE.POP: its checks in their order, the event of R268, or the record's values in the lanes that are in its mask and active. -/
def execTapePop (r : LRen) (n1 : BitVec 3) (s : State) : Out :=
  let v := Forms.tapePop r n1.toNat
  finishL s (do
    let (x, t) ← laneIssue v s
    require t.g.tape.opened (trapP .reservedField)
    require (!t.g.tape.recomp) (trapP .bounds)
    match t.g.tape.top with
    | none => .error (trapP .bounds)
    | some p => match needsRecompute t.g.tape p with
      | some y => .ok (holdPop s y)
      | none => do
        let t ← refillTo s p (t.g.tape.stack.length + 1) t
        require (!t.g.tape.bad.any fun w => p ≤ w && w < t.g.tape.wpos) (sramError s)
        require (!t.g.tape.crcFails p) (crcMismatch s 0)
        let w (i : Nat) : Word := SMap.get 0 t.g.tape.words (p + i)
        let desc := w 1
        let n := n1.toNat + 1
        require (bitsOf desc.toNat 0 3 = n1.toNat) (trapP .bounds)
        let lanes := lanesOf (w 0)
        let count := lanes.length * n
        let bw := (count + 31) / 32
        let bits := ofBytes (((List.range bw).map fun i => leBytes 4 (w (2 + i)).toNat).flatten)
        let vals := recordVals bits count 0 ((List.range count).map fun i => w (2 + bw + i))
        let val (j l : Nat) : Word := vals.getD (lanes.findIdx (· == l) * n + j) 0
        let k := match r.vd with
          | .v n => n.toNat
          | _ => 0
        let g := (List.range n).foldl (fun g j => g.putVec (k + j) (w 0 &&& x.act) (val j)) t.g
        .ok (laneDone v { (t.setTape (tapeDrop t.g.tape p desc)).remClear with
          g := { g with tape := tapeDrop t.g.tape p desc } }))

end Sys2Proof.Machine
end

