-- ==== Sys2Proof/Machine/Dispatch.lean ====
section
/-!
DEFINITION. The meaning of each instruction: one arm per constructor of Instr.
-/
namespace Sys2Proof.Machine

/-- One instruction or event at a state. -/
def exec (i : Instr) (s : State) : Host.Outcome State Fault Refusal :=
  match i with
  | .sadd d a b => Sys2Proof.Machine.execSadd d a b s
  | .ssub d a b => Sys2Proof.Machine.execSsub d a b s
  | .smul d a b => Sys2Proof.Machine.execSmul d a b s
  | .smulh d a b => Sys2Proof.Machine.execSmulh d a b s
  | .smulhn d a b => Sys2Proof.Machine.execSmulhn d a b s
  | .sdiv d a b => Sys2Proof.Machine.execSdiv d a b s
  | .sdivn d a b => Sys2Proof.Machine.execSdivn d a b s
  | .srem d a b => Sys2Proof.Machine.execSrem d a b s
  | .sremn d a b => Sys2Proof.Machine.execSremn d a b s
  | .sand d a b => Sys2Proof.Machine.execSand d a b s
  | .sor d a b => Sys2Proof.Machine.execSor d a b s
  | .sxor d a b => Sys2Proof.Machine.execSxor d a b s
  | .sandn d a b => Sys2Proof.Machine.execSandn d a b s
  | .sshl d a b => Sys2Proof.Machine.execSshl d a b s
  | .sshr d a b => Sys2Proof.Machine.execSshr d a b s
  | .ssra d a b => Sys2Proof.Machine.execSsra d a b s
  | .smin d a b => Sys2Proof.Machine.execSmin d a b s
  | .smax d a b => Sys2Proof.Machine.execSmax d a b s
  | .sminn d a b => Sys2Proof.Machine.execSminn d a b s
  | .smaxn d a b => Sys2Proof.Machine.execSmaxn d a b s
  | .sclz d a => Sys2Proof.Machine.execSclz d a s
  | .spopc d a => Sys2Proof.Machine.execSpopc d a s
  | .sbrev d a => Sys2Proof.Machine.execSbrev d a s
  | .ssow d a b => Sys2Proof.Machine.execSsow d a b s
  | .saddi d a imm => Sys2Proof.Machine.execSaddi d a imm s
  | .sandi d a imm => Sys2Proof.Machine.execSandi d a imm s
  | .sori d a imm => Sys2Proof.Machine.execSori d a imm s
  | .sxori d a imm => Sys2Proof.Machine.execSxori d a imm s
  | .sshli d a n => Sys2Proof.Machine.execSshli d a n s
  | .sshri d a n => Sys2Proof.Machine.execSshri d a n s
  | .ssrai d a n => Sys2Proof.Machine.execSsrai d a n s
  | .slui d imm => Sys2Proof.Machine.execSlui d imm s
  | .slhi d imm => Sys2Proof.Machine.execSlhi d imm s
  | .scmpEq k a b => Sys2Proof.Machine.execScmpEq k a b s
  | .scmpNe k a b => Sys2Proof.Machine.execScmpNe k a b s
  | .scmpLt k a b => Sys2Proof.Machine.execScmpLt k a b s
  | .scmpLe k a b => Sys2Proof.Machine.execScmpLe k a b s
  | .scmpLtn k a b => Sys2Proof.Machine.execScmpLtn k a b s
  | .scmpLen k a b => Sys2Proof.Machine.execScmpLen k a b s
  | .scmpiEq k a imm => Sys2Proof.Machine.execScmpiEq k a imm s
  | .scmpiNe k a imm => Sys2Proof.Machine.execScmpiNe k a imm s
  | .scmpiLt k a imm => Sys2Proof.Machine.execScmpiLt k a imm s
  | .scmpiLe k a imm => Sys2Proof.Machine.execScmpiLe k a imm s
  | .scmpiLtn k a imm => Sys2Proof.Machine.execScmpiLtn k a imm s
  | .scmpiLen k a imm => Sys2Proof.Machine.execScmpiLen k a imm s
  | .ssel d a b k => Sys2Proof.Machine.execSsel d a b k s
  | .sld d a size n off => Sys2Proof.Machine.execSld d a size n off s
  | .sst d a size off => Sys2Proof.Machine.execSst d a size off s
  | .sldAcq d a scope size => Sys2Proof.Machine.execSldAcq d a scope size s
  | .sstRel a b scope size => Sys2Proof.Machine.execSstRel a b scope size s
  | .satomAdd d a b scope size => Sys2Proof.Machine.execSatomAdd d a b scope size s
  | .satomExch d a b scope size => Sys2Proof.Machine.execSatomExch d a b scope size s
  | .satomCas d a b scope size => Sys2Proof.Machine.execSatomCas d a b scope size s
  | .satomMin d a b scope size => Sys2Proof.Machine.execSatomMin d a b scope size s
  | .satomMax d a b scope size => Sys2Proof.Machine.execSatomMax d a b scope size s
  | .sfenceAcq scope => Sys2Proof.Machine.execSfenceAcq scope s
  | .sfenceRel scope => Sys2Proof.Machine.execSfenceRel scope s
  | .sfenceAr scope => Sys2Proof.Machine.execSfenceAr scope s
  | .sbr neg k off => Sys2Proof.Machine.execSbr neg k off s
  | .scall d off => Sys2Proof.Machine.execScall d off s
  | .sjr d a => Sys2Proof.Machine.execSjr d a s
  | .run idx => Sys2Proof.Machine.execRun idx s
  | .runr k => Sys2Proof.Machine.execRunr k s
  | .sget d num => Sys2Proof.Machine.execSget d num s
  | .sgetView k num => Sys2Proof.Machine.execSgetView k num s
  | .sset num a => Sys2Proof.Machine.execSset num a s
  | .strmDef k a => Sys2Proof.Machine.execStrmDef k a s
  | .strmBind j k => Sys2Proof.Machine.execStrmBind j k s
  | .strmPos d k => Sys2Proof.Machine.execStrmPos d k s
  | .strmSeek k a => Sys2Proof.Machine.execStrmSeek k a s
  | .strmClose k => Sys2Proof.Machine.execStrmClose k s
  | .cpTensTile t l c p => Sys2Proof.Machine.execCpTensTile t l c p s
  | .cpTensConv t l c p => Sys2Proof.Machine.execCpTensConv t l c p s
  | .cpTensGather t l c p => Sys2Proof.Machine.execCpTensGather t l c p s
  | .cpTry k t imm => Sys2Proof.Machine.execCpTry k t imm s
  | .cluArrive d b => Sys2Proof.Machine.execCluArrive d b s
  | .cluWait a b => Sys2Proof.Machine.execCluWait a b s
  | .arrSet a b => Sys2Proof.Machine.execArrSet a b s
  | .arrWait a => Sys2Proof.Machine.execArrWait a s
  | .send a ch => Sys2Proof.Machine.execSend a ch s
  | .recv d ch => Sys2Proof.Machine.execRecv d ch s
  | .sendTry k a ch => Sys2Proof.Machine.execSendTry k a ch s
  | .recvTry d k ch => Sys2Proof.Machine.execRecvTry d k ch s
  | .launchQ a b => Sys2Proof.Machine.execLaunchQ a b s
  | .launchTry k a b => Sys2Proof.Machine.execLaunchTry k a b s
  | .syscall d a b => Sys2Proof.Machine.execSyscall d a b s
  | .brk code => Sys2Proof.Machine.execBrk code s
  | .xfer d a => Sys2Proof.Machine.execXfer d a s
  | .gridBind g a => Sys2Proof.Machine.execGridBind g a s
  | .gridPub g a => Sys2Proof.Machine.execGridPub g a s
  | .gridStat d g => Sys2Proof.Machine.execGridStat d g s
  | .tapeOpen a => Sys2Proof.Machine.execTapeOpen a s
  | .tapeMark a => Sys2Proof.Machine.execTapeMark a s
  | .tapeStat d => Sys2Proof.Machine.execTapeStat d s
  | .gradSeal d a b => Sys2Proof.Machine.execGradSeal d a b s
  | .collAr d a => Sys2Proof.Machine.execCollAr d a s
  | .collAg d a => Sys2Proof.Machine.execCollAg d a s
  | .collRs d a => Sys2Proof.Machine.execCollRs d a s
  | .collBc d a => Sys2Proof.Machine.execCollBc d a s
  | .replayRec a b => Sys2Proof.Machine.execReplayRec a b s
  | .replayPlay a b => Sys2Proof.Machine.execReplayPlay a b s
  | .replayChk d => Sys2Proof.Machine.execReplayChk d s
  | .tlbinvPage a b => Sys2Proof.Machine.execTlbinvPage a b s
  | .tlbinvSpace b => Sys2Proof.Machine.execTlbinvSpace b s
  | .tlbinvDom b => Sys2Proof.Machine.execTlbinvDom b s
  | .ctxSave d a b => Sys2Proof.Machine.execCtxSave d a b s
  | .ctxLoad d a b => Sys2Proof.Machine.execCtxLoad d a b s
  | .domSet d a b => Sys2Proof.Machine.execDomSet d a b s
  | .wdt a => Sys2Proof.Machine.execWdt a s
  | .vnop o => Sys2Proof.Machine.execVnop o s
  | .vmov o => Sys2Proof.Machine.execVmov o s
  | .vmovi i_ => Sys2Proof.Machine.execVmovi i_ s
  | .vadd o => Sys2Proof.Machine.execVadd o s
  | .vsub o => Sys2Proof.Machine.execVsub o s
  | .vaddc o => Sys2Proof.Machine.execVaddc o s
  | .vsubb o => Sys2Proof.Machine.execVsubb o s
  | .vmul o => Sys2Proof.Machine.execVmul o s
  | .vmulh o => Sys2Proof.Machine.execVmulh o s
  | .vmad o => Sys2Proof.Machine.execVmad o s
  | .vmadw o => Sys2Proof.Machine.execVmadw o s
  | .vdiv o => Sys2Proof.Machine.execVdiv o s
  | .vrem o => Sys2Proof.Machine.execVrem o s
  | .vmin o => Sys2Proof.Machine.execVmin o s
  | .vmax o => Sys2Proof.Machine.execVmax o s
  | .vabs o => Sys2Proof.Machine.execVabs o s
  | .vneg o => Sys2Proof.Machine.execVneg o s
  | .vand o => Sys2Proof.Machine.execVand o s
  | .vor o => Sys2Proof.Machine.execVor o s
  | .vxor o => Sys2Proof.Machine.execVxor o s
  | .vandn o => Sys2Proof.Machine.execVandn o s
  | .vnot o => Sys2Proof.Machine.execVnot o s
  | .vlop3 o => Sys2Proof.Machine.execVlop3 o s
  | .vshl o => Sys2Proof.Machine.execVshl o s
  | .vshr o => Sys2Proof.Machine.execVshr o s
  | .vsar o => Sys2Proof.Machine.execVsar o s
  | .vrot o => Sys2Proof.Machine.execVrot o s
  | .vfshl o => Sys2Proof.Machine.execVfshl o s
  | .vclz o => Sys2Proof.Machine.execVclz o s
  | .vpopc o => Sys2Proof.Machine.execVpopc o s
  | .vbrev o => Sys2Proof.Machine.execVbrev o s
  | .vbfx o => Sys2Proof.Machine.execVbfx o s
  | .vbfi o => Sys2Proof.Machine.execVbfi o s
  | .vpermb o => Sys2Proof.Machine.execVpermb o s
  | .vaddi i_ => Sys2Proof.Machine.execVaddi i_ s
  | .vmuli i_ => Sys2Proof.Machine.execVmuli i_ s
  | .vandi i_ => Sys2Proof.Machine.execVandi i_ s
  | .vori i_ => Sys2Proof.Machine.execVori i_ s
  | .vxori i_ => Sys2Proof.Machine.execVxori i_ s
  | .vshfi i_ => Sys2Proof.Machine.execVshfi i_ s
  | .vsad o => Sys2Proof.Machine.execVsad o s
  | .vdot4 o => Sys2Proof.Machine.execVdot4 o s
  | .vcmp o => Sys2Proof.Machine.execVcmp o s
  | .vcmpi i_ => Sys2Proof.Machine.execVcmpi i_ s
  | .vfcmp o => Sys2Proof.Machine.execVfcmp o s
  | .vsel o => Sys2Proof.Machine.execVsel o s
  | .vclass o => Sys2Proof.Machine.execVclass o s
  | .plog o => Sys2Proof.Machine.execPlog o s
  | .psetRange o => Sys2Proof.Machine.execPsetRange o s
  | .psetMask o => Sys2Proof.Machine.execPsetMask o s
  | .p2v o => Sys2Proof.Machine.execP2v o s
  | .v2p o => Sys2Proof.Machine.execV2p o s
  | .vshfl o => Sys2Proof.Machine.execVshfl o s
  | .vlogstep o => Sys2Proof.Machine.execVlogstep o s
  | .vreduce o => Sys2Proof.Machine.execVreduce o s
  | .vscan o => Sys2Proof.Machine.execVscan o s
  | .vballot o => Sys2Proof.Machine.execVballot o s
  | .vtopk o => Sys2Proof.Machine.execVtopk o s
  | .loopImm cnt n => Sys2Proof.Machine.execLoopImm cnt n s
  | .loopReg va n => Sys2Proof.Machine.execLoopReg va n s
  | .loopw pa cap n => Sys2Proof.Machine.execLoopw pa cap n s
  | .emsetAnd o => Sys2Proof.Machine.execEmsetAnd o s
  | .emsetAndn o => Sys2Proof.Machine.execEmsetAndn o s
  | .emsetOr o => Sys2Proof.Machine.execEmsetOr o s
  | .emsetSet o => Sys2Proof.Machine.execEmsetSet o s
  | .emsetSetHi o => Sys2Proof.Machine.execEmsetSetHi o s
  | .vfadd o => Sys2Proof.Machine.execVfadd o s
  | .vfsub o => Sys2Proof.Machine.execVfsub o s
  | .vfmul o => Sys2Proof.Machine.execVfmul o s
  | .vfma o => Sys2Proof.Machine.execVfma o s
  | .vfmin o => Sys2Proof.Machine.execVfmin o s
  | .vfmax o => Sys2Proof.Machine.execVfmax o s
  | .vfdiv o => Sys2Proof.Machine.execVfdiv o s
  | .vfsqrt o => Sys2Proof.Machine.execVfsqrt o s
  | .vfrcp o => Sys2Proof.Machine.execVfrcp o s
  | .vfrsq o => Sys2Proof.Machine.execVfrsq o s
  | .vfexp2 o => Sys2Proof.Machine.execVfexp2 o s
  | .vflog2 o => Sys2Proof.Machine.execVflog2 o s
  | .vfsin o => Sys2Proof.Machine.execVfsin o s
  | .vfcos o => Sys2Proof.Machine.execVfcos o s
  | .vftanh o => Sys2Proof.Machine.execVftanh o s
  | .vffrc o => Sys2Proof.Machine.execVffrc o s
  | .vfrnd o => Sys2Proof.Machine.execVfrnd o s
  | .vfscale o => Sys2Proof.Machine.execVfscale o s
  | .vfdot2 o => Sys2Proof.Machine.execVfdot2 o s
  | .vcvt o => Sys2Proof.Machine.execVcvt o s
  | .vpack o => Sys2Proof.Machine.execVpack o s
  | .vunpack o => Sys2Proof.Machine.execVunpack o s
  | .vq4encSuper o => Sys2Proof.Machine.execVq4encSuper o s
  | .vq4encScale o => Sys2Proof.Machine.execVq4encScale o s
  | .vq4encCode o => Sys2Proof.Machine.execVq4encCode o s
  | .vq4dec o => Sys2Proof.Machine.execVq4dec o s
  | .ladd o => Sys2Proof.Machine.execLadd o s
  | .lsub o => Sys2Proof.Machine.execLsub o s
  | .lmul o => Sys2Proof.Machine.execLmul o s
  | .ldiv o => Sys2Proof.Machine.execLdiv o s
  | .lcmp o => Sys2Proof.Machine.execLcmp o s
  | .lcvt o => Sys2Proof.Machine.execLcvt o s
  | .lrcp o => Sys2Proof.Machine.execLrcp o s
  | .lneg o => Sys2Proof.Machine.execLneg o s
  | .vstatGet o => Sys2Proof.Machine.execVstatGet o s
  | .vstatSet o => Sys2Proof.Machine.execVstatSet o s
  | .vstatClr o => Sys2Proof.Machine.execVstatClr o s
  | .vsow o => Sys2Proof.Machine.execVsow o s
  | .vunit o => Sys2Proof.Machine.execVunit o s
  | .vld m => Sys2Proof.Machine.execVld m s
  | .vst m => Sys2Proof.Machine.execVst m s
  | .vatom m => Sys2Proof.Machine.execVatom m s
  | .gradAdd m => Sys2Proof.Machine.execGradAdd m s
  | .gld m => Sys2Proof.Machine.execGld m s
  | .gst m => Sys2Proof.Machine.execGst m s
  | .vfence h kind scope => Sys2Proof.Machine.execVfence h kind scope s
  | .mxLdb m => Sys2Proof.Machine.execMxLdb m s
  | .mxMma m => Sys2Proof.Machine.execMxMma m s
  | .mxMma16 m => Sys2Proof.Machine.execMxMma16 m s
  | .mxPairW m => Sys2Proof.Machine.execMxPairW m s
  | .mxPairE m => Sys2Proof.Machine.execMxPairE m s
  | .mxZero m => Sys2Proof.Machine.execMxZero m s
  | .trace r any cullb => Sys2Proof.Machine.execTrace r any cullb s
  | .hitAdj r => Sys2Proof.Machine.execHitAdj r s
  | .tex r => Sys2Proof.Machine.execTex r s
  | .texAdj r => Sys2Proof.Machine.execTexAdj r s
  | .vbRd r fresh k => Sys2Proof.Machine.execVbRd r fresh k s
  | .bary r lin => Sys2Proof.Machine.execBary r lin s
  | .baryAdj r lin => Sys2Proof.Machine.execBaryAdj r lin s
  | .edgeSamp r k n1 => Sys2Proof.Machine.execEdgeSamp r k n1 s
  | .discard r => Sys2Proof.Machine.execDiscard r s
  | .park r code => Sys2Proof.Machine.execPark r code s
  | .rejoin r => Sys2Proof.Machine.execRejoin r s
  | .vdepth r pd => Sys2Proof.Machine.execVdepth r pd s
  | .tapePush r n1 => Sys2Proof.Machine.execTapePush r n1 s
  | .tapePop r n1 => Sys2Proof.Machine.execTapePop r n1 s
  | .illegalOpcode w => Sys2Proof.Machine.execIllegalOpcode w s
  | .illegalLaneOpcode w => Sys2Proof.Machine.execIllegalLaneOpcode w s
  | .syncL => Sys2Proof.Machine.execSyncL s
  | .region => Sys2Proof.Machine.execRegion s
  | .barTeam => Sys2Proof.Machine.execBarTeam s
  | .trigger => Sys2Proof.Machine.execTrigger s
  | .exit => Sys2Proof.Machine.execExit s
  | .yield => Sys2Proof.Machine.execYield s
  | .icinvTeam => Sys2Proof.Machine.execIcinvTeam s
  | .icinvClu => Sys2Proof.Machine.execIcinvClu s
  | .icinvDev => Sys2Proof.Machine.execIcinvDev s
  | .icinvFab => Sys2Proof.Machine.execIcinvFab s
  | .icinvSys => Sys2Proof.Machine.execIcinvSys s
  | .tapeClose => Sys2Proof.Machine.execTapeClose s
  | .replayOff => Sys2Proof.Machine.execReplayOff s
  | .eret => Sys2Proof.Machine.execEret s
  | .tlbinvAll => Sys2Proof.Machine.execTlbinvAll s
  | .endl => Sys2Proof.Machine.execEndl s
  | .vret => Sys2Proof.Machine.execVret s
  | .perfctlClear v => Sys2Proof.Machine.execPerfctlClear v s
  | .cpTryTimeout gid => Sys2Proof.Machine.execCpTryTimeout gid s
  | .tapeMarkRet a => Sys2Proof.Machine.execTapeMarkRet a s
  | .thresherContribution pa val => Sys2Proof.Machine.execThresherContribution pa val s
  | .pairTimeout gid => Sys2Proof.Machine.execPairTimeout gid s
  | .recompute gid => Sys2Proof.Machine.execRecompute gid s
  | .streamPrefetch gid port => Sys2Proof.Machine.execStreamPrefetch gid port s
  | .storeEngineWrite gid port => Sys2Proof.Machine.execStoreEngineWrite gid port s
  | .copyComplete job => Sys2Proof.Machine.execCopyComplete job s
  | .xferComplete job => Sys2Proof.Machine.execXferComplete job s
  | .collComplete job => Sys2Proof.Machine.execCollComplete job s
  | .headlandDelivery n => Sys2Proof.Machine.execHeadlandDelivery n s
  | .staleHaloTimeout gid => Sys2Proof.Machine.execStaleHaloTimeout gid s
  | .syscallReply gid => Sys2Proof.Machine.execSyscallReply gid s
  | .laneResume core seq => Sys2Proof.Machine.execLaneResume core seq s
  | .faultDisposition dom seq => Sys2Proof.Machine.execFaultDisposition dom seq s
  | .fpTrapCollect core => Sys2Proof.Machine.execFpTrapCollect core s
  | .launchPush queue offset bytes => Sys2Proof.Machine.execLaunchPush queue offset bytes s
  | .launchTake src => Sys2Proof.Machine.execLaunchTake src s
  | .gangPlace launch die x y quads => Sys2Proof.Machine.execGangPlace launch die x y quads s
  | .gangCommit launch => Sys2Proof.Machine.execGangCommit launch s
  | .teamReady team => Sys2Proof.Machine.execTeamReady team s
  | .launchComplete launch => Sys2Proof.Machine.execLaunchComplete launch s
  | .yieldRequest cluster req deadline areas => Sys2Proof.Machine.execYieldRequest cluster req deadline areas s
  | .deadlineExpiry cluster areas => Sys2Proof.Machine.execDeadlineExpiry cluster areas s
  | .forcedPreemption cluster areas => Sys2Proof.Machine.execForcedPreemption cluster areas s
  | .saveComplete area => Sys2Proof.Machine.execSaveComplete area s
  | .contextRestore area core => Sys2Proof.Machine.execContextRestore area core s
  | .ticketPass launch => Sys2Proof.Machine.execTicketPass launch s
  | .stileTimeout gid => Sys2Proof.Machine.execStileTimeout gid s
  | .gleanerSample => Sys2Proof.Machine.execGleanerSample s
  | .visibilityPass launch => Sys2Proof.Machine.execVisibilityPass launch s
  | .passComplete launch => Sys2Proof.Machine.execPassComplete launch s
  | .passFault launch => Sys2Proof.Machine.execPassFault launch s
  | .peerTimeout gid => Sys2Proof.Machine.execPeerTimeout gid s
  | .fabricRead p => Sys2Proof.Machine.execFabricRead p s
  | .fabricWrite p => Sys2Proof.Machine.execFabricWrite p s
  | .fabricAtomic p => Sys2Proof.Machine.execFabricAtomic p s
  | .fabricVectorRead p => Sys2Proof.Machine.execFabricVectorRead p s
  | .fabricVectorWrite p => Sys2Proof.Machine.execFabricVectorWrite p s
  | .fabricXferData p => Sys2Proof.Machine.execFabricXferData p s
  | .fabricCollSegment p => Sys2Proof.Machine.execFabricCollSegment p s
  | .fabricHeadlandPacket p => Sys2Proof.Machine.execFabricHeadlandPacket p s
  | .fabricResponse p => Sys2Proof.Machine.execFabricResponse p s
  | .fabricBadPacket p => Sys2Proof.Machine.execFabricBadPacket p s
  | .rateRecovery pkg => Sys2Proof.Machine.execRateRecovery pkg s
  | .fabricPlaneDown plane => Sys2Proof.Machine.execFabricPlaneDown plane s
  | .meshNarrow link quarter => Sys2Proof.Machine.execMeshNarrow link quarter s
  | .meshWiden link => Sys2Proof.Machine.execMeshWiden link s
  | .pcieLinkDown loss => Sys2Proof.Machine.execPcieLinkDown loss s
  | .hostBar2Access dom off write len => Sys2Proof.Machine.execHostBar2Access dom off write len s
  | .hostRegisterWrite dom off v => Sys2Proof.Machine.execHostRegisterWrite dom off v s
  | .attestCmd dom v => Sys2Proof.Machine.execAttestCmd dom v s
  | .attestDone dom => Sys2Proof.Machine.execAttestDone dom s
  | .privRegisterWrite num v => Sys2Proof.Machine.execPrivRegisterWrite num v s
  | .qfcfgWrite v => Sys2Proof.Machine.execQfcfgWrite v s
  | .qfbaseWrite v => Sys2Proof.Machine.execQfbaseWrite v s
  | .pinsizeWrite v => Sys2Proof.Machine.execPinsizeWrite v s
  | .l2pqWrite die v => Sys2Proof.Machine.execL2pqWrite die v s
  | .quotaWrite num v => Sys2Proof.Machine.execQuotaWrite num v s
  | .dcfgWrite dom v => Sys2Proof.Machine.execDcfgWrite dom v s
  | .ssctlWrite v => Sys2Proof.Machine.execSsctlWrite v s
  | .fabctlWrite v => Sys2Proof.Machine.execFabctlWrite v s
  | .svnfloorWrite v => Sys2Proof.Machine.execSvnfloorWrite v s
  | .warmrst env => Sys2Proof.Machine.execWarmrst env s
  | .ready => Sys2Proof.Machine.execReady s
  | .policyInterrupt => Sys2Proof.Machine.execPolicyInterrupt s
  | .watchdogExpiry core env => Sys2Proof.Machine.execWatchdogExpiry core env s
  | .coldStart env => Sys2Proof.Machine.execColdStart env s
  | .perst port env => Sys2Proof.Machine.execPerst port env s
  | .scrubPass pa find => Sys2Proof.Machine.execScrubPass pa find s
  | .rowSpare stack channel row => Sys2Proof.Machine.execRowSpare stack channel row s
  | .wayDisable die slice way granary => Sys2Proof.Machine.execWayDisable die slice way granary s
  | .powerCapThrottle => Sys2Proof.Machine.execPowerCapThrottle s
  | .thermalThrottle => Sys2Proof.Machine.execThermalThrottle s
  | .thermalTrip => Sys2Proof.Machine.execThermalTrip s
  | .gradSealComplete job => Sys2Proof.Machine.execGradSealComplete job s
  | .powerLoss => Sys2Proof.Machine.execPowerLoss s
  | .pcieLinkUp port => Sys2Proof.Machine.execPcieLinkUp port s
  | .pcieCompletion tag ok data => Sys2Proof.Machine.execPcieCompletion tag ok data s
  | .issuePromotion gid lane => Sys2Proof.Machine.execIssuePromotion gid lane s
  | .throttleRelease => Sys2Proof.Machine.execThrottleRelease s

end Sys2Proof.Machine
end

