-- ==== Sys2Proof/Machine/Events.lean ====
section
/-!
DEFINITION. The engines' pending events: each performs the meaning of its row.
-/
namespace Sys2Proof.Machine

/-- Perform an engine's event. -/
def perform (e : Ev) (s : State) : Out :=
  match e with
  | .copyComplete j => execCopyComplete j s
  | .xferComplete j => execXferComplete j s
  | .collComplete j => execCollComplete j s
  | .gradSealComplete j => execGradSealComplete j s
  | .streamPrefetch g p => execStreamPrefetch g p s
  | .storeEngineWrite g p => execStoreEngineWrite g p s
  | .recompute g => execRecompute g s
  | .syscallReply g => execSyscallReply g s
  | .headlandDelivery n => execHeadlandDelivery n s
  | .launchTake x => execLaunchTake x s
  | .gangCommit l => execGangCommit l s
  | .teamReady t => execTeamReady t s
  | .launchComplete l => execLaunchComplete l s
  | .ticketPass l => execTicketPass l s
  | .saveComplete a => execSaveComplete a s
  | .visibilityPass l => execVisibilityPass l s
  | .passComplete l => execPassComplete l s
  | .passFault l => execPassFault l s
  | .laneResume c q => execLaneResume c q s
  | .faultDisposition d q => execFaultDisposition d q s
  | .attestDone d => execAttestDone d s
  | .contextRestore a c => execContextRestore a c s
  | .startStep => .next (startStep s)
  | .flashWrite => .next (flashLands s)

end Sys2Proof.Machine
end

