-- ==== Sys2Proof/Machine/Sched.lean ====
section
/-!
DEFINITION. Who moves next and what moving is: the quadrants' schedulers, ck by ck (R276, R373, R432), the two streams of a group (R277),
the policy cores (R102), the engines' events and the events from outside, with the time and the counters that a ck advances (R49, R52,
R54). The plan in the state names the parties to move; without a plan a fixed rule takes them in turn. How long anything takes that the
spec does not time is free (DESIGN CHOICE, safe: assumption 1).
-/
namespace Sys2Proof.Machine

/-! ### Fetch, decode, perform -/

/-- A scalar word is decoded and performed (R62): a reserved field of a privileged instruction on a group is PRIVILEGE first. -/
def runScalar (w : Word) (s : State) : Out :=
  match Decode.scalar w with
  | .ok i => exec i s
  | .error .illegalOpcode => execIllegalOpcode w s
  | .error .reservedField =>
    .next (takeTrap s false { code := if s.party == .group && 0x30 ≤ w.toNat / 2 ^ 26 && w.toNat / 2 ^ 26 ≤ 0x35 then .privilege
                                      else .reservedField })
/-- A lane word is decoded and performed (R67). -/
def runLane (w : LaneWord) (s : State) : Out :=
  match Decode.lane w with
  | .ok i => exec i s
  | .error .illegalOpcode => execIllegalLaneOpcode w s
  | .error .reservedField => .next (takeTrap s true { code := .reservedField })

/-- The scalar stream of the group in focus: a coverage group's is the device's own (R327). -/
def issueScalar (s : State) : Out :=
  match s.g.prog with
  | .coverage l _ => coverScalar l s
  | _ => match fetchWord s s.g.sc.pc with
    | .error t => .next (takeTrap s false t)
    | .ok w => runScalar w s
/-- Its lane stream: the active run's next instruction. -/
def issueLane (s : State) : Out :=
  match s.g.lane.active with
  | none => .next s
  | some r => match laneWordAt s r.lpc with
    | .error t => .next (takeTrap s true t)
    | .ok w => runLane w s

/-- Apply to an outcome's next state. -/
def Out.map (f : State → State) (o : Out) : Out :=
  match o with
  | .next t => .next (f t)
  | .fault e => .fault e
  | .refused r => .refused r

/-- A policy core takes an interrupt that is enabled (R467), or its next instruction. -/
def issuePolicy (k : Nat) (s : State) : Out :=
  let s := { s.enterPolicy k with ch := 2 ^ 17 + k }
  if (s.pol k).halted then .next (s.leavePolicy k)
  else if k = 0 && s.priv.irqpend != 0 && s.pol0.ie then .next ((interrupt0 s).leavePolicy k)
  else match s.pcode.find? fun x => x.1 == (s.pol k).sc.pc.toNat with
    | none => .fault .noFirmware
    | some (_, w) => Out.map (State.leavePolicy · k) (runScalar w s)

/-! ### A group's streams -/

/-- The groups of a saved gang's cluster do not issue (R376). -/
def saving (s : State) (g : Group) : Bool := s.saved.any fun x => x.cid == (s.team g.team).cluster
/-- The group issues: it is resident and neither stopped, suspended, leaving, nor saved. -/
def issues (s : State) (g : Group) : Bool :=
  g.phase == .running && (g.leave == .stay || g.leave == .yielding) && !saving s g
/-- A stream that may move: one whose group issues, or one whose instruction is in flight and completes (R375). A pop that the recompute
event holds keeps the scalar stream from the event on (R268). -/
def can (s : State) (g : Group) (lane : Bool) : Bool :=
  g.live && (inFlight s g lane || issues s g && (if lane then g.lane.active.isSome else !(g.tape.held && !g.tape.recomp)))

/-- What a lane word's class says: LOOP, LOOPW and ENDL take no issue ck (R142); the matrix instructions; the integer and FMA classes
(R71). -/
def takesNoCk (w : LaneWord) : Bool := decide (0x070 ≤ opcodeOf w ∧ opcodeOf w ≤ 0x072)
def isMatrix (w : LaneWord) : Bool := decide (0x140 ≤ opcodeOf w ∧ opcodeOf w < 0x150)
def isPlain (w : LaneWord) : Bool :=
  let o := opcodeOf w
  decide (0x001 ≤ o ∧ o ≤ 0x039 ∧ o ≠ 0x010 ∧ o ≠ 0x011) || decide (0x040 ≤ o ∧ o ≤ 0x04B) || decide (0x080 ≤ o ∧ o ≤ 0x085) ||
    decide (0x0C0 ≤ o ∧ o ≤ 0x0C2) || [0x075, 0x08F, 0x090, 0x091, 0x093, 0x0E4, 0x0E6, 0x0E7, 0x0F0, 0x0F1].contains o
/-- The lane stream's next word. -/
def nextWord (s : State) : Option LaneWord := s.g.lane.active.bind fun r => match laneWordAt s r.lpc with
  | .ok w => some w
  | .error _ => none

/-! ### Counters (R54) -/

/-- Add to the counters that count an event. DESIGN CHOICE, unsafe: assumption 2. -/
def Group.count (g : Group) (ev n : Nat) : Group :=
  let c := g.perfctl.toNat
  if bitsOf c 8 1 = 0 then g
  else
    { g with
      pcnt0 := if bitsOf c 0 4 = ev then g.pcnt0 + BitVec.ofNat 64 n else g.pcnt0
      pcnt1 := if bitsOf c 4 4 = ev then g.pcnt1 + BitVec.ofNat 64 n else g.pcnt1 }
/-- The event that counts the ck of a wait. -/
def Stall.event : Stall → Option Nat
  | .rejoin => some 2
  | .queueEmpty | .queueFull => some 3
  | .staleHalo => some 6
  | .barrier | .cluWait | .arrWait => some 7
  | .pairWait | .chanFull | .chanEmpty | .launchFull => none
  | _ => some 4
/-- The event of a wait that is timing's, by its reason code. -/
def restEvent (reason : Nat) : Option Nat := if reason = 2 ∨ reason = 4 then some reason else none

/-- The event that counts a ck of a stream that is not ready: a stop awaiting disposition and a system call among the causes of
reason 4. -/
def Group.waitEvent (g : Group) (lane : Bool) : Option Nat :=
  match g.phase with
  | .stopped .. | .stopping .. | .suspended .. => some 4
  | _ => match g.restOf lane with
    | some (_ + 1, r) => restEvent r
    | _ => (g.stallOf lane).bind Stall.event

/-- After a stream has moved: an instruction that issued counts once, begins a new ready age, and ends the stream's promotion (R373,
R432). The loop instructions take no issue ck and count as none. A write of PERFCTL counts as the new value says. DESIGN CHOICE, unsafe: assumption 2. -/
def counted (lane mx free : Bool) (gid : Nat) (s : State) : State :=
  let g := s.g
  if !(g.live && g.gid == gid) || (g.stallOf lane).isSome then s
  else match g.phase with
    | .stopped .. | .stopping .. => s
    | _ =>
      let g := g.setRest lane none
      if free then { s with g := g }
      else
        let g := g.count (if lane then 1 else 0) 1
        let g := if mx then g.count 5 1 else g
        { s with g := if lane then { g with promoL := false, ageL := 0 } else { g with promoS := false, ageS := 0 } }

/-! ### Moving a stream -/

/-- Move a stream of the group in focus, if it may. -/
def moveStream (lane : Bool) (s : State) : Out :=
  let s := { s with party := .group, ch := if lane then 1 else 0 }
  if !can s s.g lane then .next s
  else if s.sourceWaits s.g.gid s.ch then .next (s.wait lane .fabricRate)
  else
    let w := if lane then nextWord s else none
    Out.map (counted lane (w.any isMatrix) (w.any takesNoCk) s.g.gid)
      ((if lane then issueLane else issueScalar) { s with g := s.g.clearStall lane })

/-- What a stream's next instruction may wait for beside what this model decides: its fetch (8), a marker (2), the matrix engine or the
SLI pipe (6), the Binder (10), the scoreboard (4). An unmarked instruction of a loop's buffer in the integer and FMA classes waits for
nothing. DESIGN CHOICE, safe: assumption 1. -/
def waitCauses (s : State) (lane : Bool) : List Nat :=
  if !lane then [8, 4]
  else match nextWord s with
    | none => [8]
    | some w =>
      let o := opcodeOf w
      let buffered := (s.g.lane.loopBuf.lookup s.g.run.lpc).isSome
      let marker := (Decode.header w).sw || o == 0x0EA || o == 0x16A || o == 0x071 ||
        (o == 0x072 && s.g.lane.frames.head?.any fun f => f.isW)
      let uniform := [17, 29, 41, 53, 65].any fun i => (w.extractLsb' (i + 6) 6).toNat == 0x20
      (if buffered then [] else [8]) ++ (if marker then [2] else []) ++ (if isMatrix w || (0x0E0 ≤ o && o ≤ 0x0E5 && o != 0x0E4) then [6] else []) ++
        (if o == 0x180 || o == 0x181 then [10] else []) ++ (if uniform then [4] else [])

/-- How long it waits, and for which of them, once for each instruction. DESIGN CHOICE, safe: assumption 1. -/
def drawRest (s : State) (lane : Bool) : State :=
  match s.g.restOf lane with
  | some _ => s
  | none => match waitCauses s lane with
    | [] => { s with g := s.g.setRest lane (some (0, 0)) }
    | cs => { s with
      fresh := s.fresh + 1
      g := s.g.setRest lane (some (Config.freeStallCk s.fresh, cs.getD ((Config.freeWord s.fresh).toNat % cs.length) 8)) }

/-- The start of a ck for a stream of the group in focus: its wait goes on, or it is ready. An instruction that would wait asks for what it
waits for; one that takes no issue ck moves by itself. -/
def readyStream (lane : Bool) (s : State) : State × Bool :=
  if !can s s.g lane then (s, false)
  else
    let s := if (s.g.stallOf lane).isSome then s else drawRest { s with party := .group } lane
    match s.g.restOf lane with
    | some (_ + 1, _) => (s, false)
    | _ => match moveStream lane s with
      | .next t =>
        if t.g.live && t.g.gid == s.g.gid && t.g.phase == s.g.phase && (t.g.stallOf lane).isSome then (t, false)
        else ({ s with g := s.g.clearStall lane }, !(lane && (nextWord s).any takesNoCk))
      | _ => (s, true)

/-! ### The schedulers (R276, R373) -/

/-- A ready stream as its quadrant ranks it. -/
structure Chosen where
  gid : Nat
  lane : Bool
  quad : Nat
  slot : Nat
  rank : Nat
  age : Nat
  plain : Bool
deriving DecidableEq, Repr

/-- The group's stream as a candidate. -/
def candOf (s : State) (p : Nat × Bool) : Option Chosen :=
  (s.focus p.1).map fun t =>
    let g := t.g
    { gid := p.1, lane := p.2, quad := 4 * t.gteam.core + g.slot / Config.slotsPerQuadrant, slot := g.slot
      rank := if (if p.2 then g.promoL else g.promoS) then 8 else t.glaunch.prio
      age := g.ageOf p.2, plain := !p.2 || (nextWord t).all isPlain }
/-- Rank, then the longest ready, then the lower slot. -/
def Chosen.before (a b : Chosen) : Bool :=
  a.rank > b.rank || (a.rank == b.rank && (a.age > b.age || (a.age == b.age && a.slot < b.slot)))
def bestOf (cs : List Chosen) : Option Chosen :=
  cs.foldl (fun b a => match b with
    | none => some a
    | some x => if a.before x then some a else b) none
/-- A quadrant's choice: one scalar instruction, and two lane instructions of which one at most lies outside the integer and FMA
classes. DESIGN CHOICE, safe: assumption 21. -/
def chooseQuad (cs : List Chosen) : List Chosen :=
  let lanes := cs.filter (·.lane)
  let l1 := bestOf lanes
  let l2 := l1.bind fun a => bestOf (lanes.filter fun b => b.gid != a.gid && (a.plain || b.plain))
  (bestOf (cs.filter fun c => !c.lane)).toList ++ l1.toList ++ l2.toList
/-- Every quadrant's choice. -/
def choose (s : State) (ready : List (Nat × Bool)) : List (Nat × Bool) :=
  let cs := ready.filterMap (candOf s)
  let quads := (cs.map (·.quad)).eraseDups
  ((quads.map fun q => chooseQuad (cs.filter fun c => c.quad == q)).flatten).map fun c => (c.gid, c.lane)

/-! ### A ck -/

/-- Every stream's start of the ck, and those that are ready. -/
def readyAll (s : State) : State × List (Nat × Bool) :=
  ((s.groups.map fun g => [(g.gid, false), (g.gid, true)]).flatten).foldl (fun (a : State × List (Nat × Bool)) p =>
    match a.1.focus p.1 with
    | none => a
    | some t =>
      let (u, r) := readyStream p.2 t
      (u, if r then a.2 ++ [p] else a.2)) (s, [])

/-- While power or heat throttles, a quadrant issues on every other ck (R474). -/
def throttled (s : State) : Bool := s.start.throttlePower || s.start.throttleHeat

/-- The ck that pass: one when a stream could issue; otherwise a free number, up to the next point of time that something waits for.
DESIGN CHOICE, safe: assumption 1. -/
def ckSpan (s : State) (busy : Bool) : Nat :=
  if busy then 1
  else
    let rests := (s.groups.map fun g => [g.restS, g.restL].filterMap fun r => r.map (·.1)).flatten
    let windows := (s.coreTab.filterMap fun x => x.2.fpWin.head?).map fun c => c.ck + 64 - s.clock
    let ends := rests ++ windows ++ (s.groups.map fun g => g.deadline.toNat) ++ (if s.priv.ssctl.getLsbD 16 then [s.sampAt - s.clock] else [])
    (ends.filter (0 < ·)).foldl min (1 + Config.freeTicks s.fresh)

/-- What `n` ck change in a group: the waits, the ages and promotions, the deadline, the counters (R52, R54, R373, R432). DESIGN CHOICE, unsafe: assumption 2. -/
def Group.passCk (g : Group) (n : Nat) (readyS readyL : Bool) : Group :=
  let lanes := g.lane.active.isSome || g.tape.heldLane.active.isSome
  let evs := ((if readyS then [] else (g.waitEvent false).toList) ++ (if readyL || !lanes then [] else (g.waitEvent true).toList)).eraseDups
  let g := evs.foldl (fun g e => g.count e n) g
  let rest (r : Option (Nat × Nat)) : Option (Nat × Nat) := r.map fun x => (x.1 - n, x.2)
  let g := { g with
    restS := rest g.restS, restL := rest g.restL
    ageS := if readyS then g.ageS + n else 0, ageL := if readyL then g.ageL + n else 0
    deadline := BitVec.ofNat 32 (g.deadline.toNat - n) }
  (g.promote false).promote true

/-- The floating-point trap windows that are over close (R398). -/
def closeWindows (s : State) : State :=
  (s.coreTab.map (·.1)).foldl (fun s c => if fpOver s c then fpClose c s else s) s

/-- The next ck (R373): the ready streams, the schedulers' choice, the passing of time with what it ends, the requests that wait at their
source or their target, and the Gleaner's sample when its time has come (R421). DESIGN CHOICE, safe: assumption 1. -/
def newCk (s : State) : Out :=
  let (s, ready) := readyAll (ripen s)
  let n := ckSpan s (!ready.isEmpty)
  let s := { s.mapGroups fun g => if g.live then g.passCk n (ready.contains (g.gid, false)) (ready.contains (g.gid, true)) else g with
    clock := s.clock + n, fresh := s.fresh + 1 }
  let s := reserve (closeWindows s).pump.retryIn
  let s := { s with issueQ := if throttled s && s.clock % 2 = 0 then [] else choose s ready }
  if s.priv.ssctl.getLsbD 16 && s.sampAt ≤ s.clock then execGleanerSample s else .next s

/-- A stream that the ck's choice lets issue. -/
def issuePick (p : Nat × Bool) (rest : List (Nat × Bool)) (s : State) : Out :=
  match ({ s with issueQ := rest } : State).focus p.1 with
  | none => .next { s with issueQ := rest }
  | some t => moveStream p.2 t
/-- The fault that an outcome has stopped the group with. -/
def faultOf (gid : Nat) (o : Out) : Option (Trap × Bool) :=
  match o with
  | .next t => (t.groups.find? fun g => g.gid == gid).bind fun g => match g.phase with
    | .stopped _ u l | .stopping u l => some (u, l)
    | _ => none
  | _ => none
/-- The k-th of the streams still to issue. When both streams of a group issue in this ck and one finds a fault, the other issues as well,
and of two faults one is reported (R395). -/
def issueAt (k : Nat) (s : State) : Out :=
  match s.issueQ[k]? with
  | none => .next s
  | some p =>
    let rest := s.issueQ.eraseIdx k
    let q := (p.1, !p.2)
    let o := issuePick p rest s
    match if rest.contains q then faultOf p.1 o else none with
    | none => o
    | some (t, l) =>
      let o2 := issuePick q (rest.erase q) s
      match faultOf p.1 o2 with
      | none => Out.map (fun u => { u with issueQ := p :: u.issueQ }) o2
      | some (u, m) => if t.rank l ≤ u.rank m then issuePick p (rest.erase q) s else o2

/-- A fault whose group has nothing more in flight stops it (R395). -/
def settleStop (s : State) : State :=
  match s.g.phase with
  | .stopping t lane => stopGroup s lane t
  | _ => s
/-- A group takes the fault that it owes for a posted access, at its next issue slot or before it has stopped for another (R395, R441). -/
def owes (s : State) (g : Group) : Bool :=
  g.live && g.owed.isSome && (issues s g || match g.phase with
    | .stopping .. => true
    | _ => false)
def takeOwed (s : State) : State :=
  match s.g.owed with
  | none => s
  | some t => takeTrap { s with party := .group, g := { s.g with owed := none } } false t
/-- A group with nothing in flight. -/
def quiet (s : State) (g : Group) : Bool := !inFlight s g false && !inFlight s g true
/-- A gang whose deadline has come for a group that has not yielded (R374). -/
def expired (s : State) : Option Cluster :=
  s.clusters.find? fun c => gangAreas s c.cid c.areas &&
    s.groups.any fun g => g.live && (s.team g.team).cluster == c.cid && g.yieldReq && g.deadline == 0 && g.leave == .stay
/-- A group whose lane stream stands at an instruction that takes no issue ck. -/
def loopGroup (s : State) : Option State :=
  (s.groups.filterMap fun g => s.focus g.gid).find? fun t =>
    can t t.g true && t.g.lStall.isNone && (nextWord t).any takesNoCk && (t.g.restL.all fun r => r.1 == 0)

/-- The parts of a ck in their order: what was chosen issues, what a stop or a pre-emption has waited for is done, the loop instructions
run, and then the next ck begins. DESIGN CHOICE, safe: assumption 21. -/
def ck (s : State) : Out :=
  if s.issueQ ≠ [] then issueAt 0 s
  else match s.groups.find? (owes s) with
  | some g => .next (onGroup s g.gid takeOwed)
  | none => match s.groups.find? fun g => quiet s g && (match g.phase with
    | .stopping .. => true
    | _ => false) with
  | some g => .next (onGroup s g.gid settleStop)
  | none => match expired s with
    | some c => execDeadlineExpiry c.cid c.areas s
    | none => match s.groups.find? fun g => g.leave == .forcing && quiet s g && g.pushes.isEmpty with
      | some g => .next (forceGang s (s.team g.team).cluster fun _ => false)
      | none => match loopGroup s with
        | some t =>
          let t := drawRest t true
          if t.g.restL.any fun r => r.1 != 0 then .next t else moveStream true t
        | none => newCk s

/-! ### Who moves -/

/-- A policy core with code at its pc; without any group, policy core 0 whether or not it has. -/
def nextPolicy (s : State) : Option Nat :=
  match ((List.range 4).map fun i => (i + s.turn / 3) % 4).find? fun k => !(s.pol k).halted && s.pcode.any fun x => x.1 == (s.pol k).sc.pc.toNat with
  | some k => some k
  | none => if s.groups = [] && !s.pol0.halted then some 0 else none

/-- The party that moves when the plan names none: what the ck has chosen, then what comes from outside, then the next ck, the engines and
the policy cores in turn. DESIGN CHOICE, safe: assumption 21. -/
def defaultAgent (s : State) : Agent :=
  if s.issueQ ≠ [] then .issue 0
  else if s.inbox ≠ [] then .external
  else match s.turn % 3 with
    | 0 => .ck
    | 1 => if s.engineQ = [] then .ck else .engine 0
    | _ => match nextPolicy s with
      | some k => .policy k
      | none => .ck

/-- The one event that a device without power answers (R2, R468). -/
def powersUp : Instr → Bool
  | .coldStart _ => true
  | _ => false
/-- Without power nothing moves, and what comes from outside finds nothing, until power is applied (R2). DESIGN CHOICE, safe: assumption 21. -/
def moveOff (a : Agent) (s : State) : Out :=
  match a, s.inbox with
  | .external, i :: rest => if powersUp i then exec i { s with inbox := rest } else .next { s with inbox := rest }
  | _, _ => .next s

/-- The party's move, while the device has power. DESIGN CHOICE, safe: assumption 21. -/
def moveOn (a : Agent) (s : State) : Out :=
  match a with
  | .issue k => issueAt k s
  | .ck => ck s
  | .policy k => issuePolicy k s
  | .engine k => match s.engineQ[k]? with
    | none => .next s
    | some e => perform e { s with engineQ := s.engineQ.eraseIdx k }
  | .external => match s.inbox with
    | [] => .next s
    | i :: rest => exec i { s with inbox := rest }

/-- The party's move. -/
def move (a : Agent) (s : State) : Out := if s.start.on then moveOn a s else moveOff a s

/-- The machine's next move: the plan's first party, or the default rule's. DESIGN CHOICE, safe: assumption 21. -/
def advance (s : State) : Out :=
  match s.plan with
  | a :: rest => move a { s with plan := rest }
  | [] => move (defaultAgent s) { s with turn := if s.issueQ = [] then s.turn + 1 else s.turn }

/-! ### Placing an instruction -/

/-- A page table entry that names a table, and a leaf that a group may use for everything (R390). -/
def tableEntry (a : Nat) : Nat := a + 1
def leafAll : Nat := 0x9F

/-- A group of one team, running at 0x100000 with its lane code at 0x200000, and the page tables that map the first GiB of its address
space onto main memory. DESIGN CHOICE, safe: assumption 17. -/
def placed (s : State) : State :=
  let m := Memory.write s.mem 0x1000 8 0x2000
  let m := Memory.write m 0x1008 4 1
  let m := Memory.write m 0x2000 8 (tableEntry 0x3000)
  let m := Memory.write m 0x3000 8 (tableEntry 0x4000)
  let m := Memory.write m 0x4000 8 (tableEntry 0x5000)
  let m := Memory.write m 0x5000 8 leafAll
  let g : Group := { gid := 1, team := 1, live := true, phase := .running, sc := { pc := 0x100000 }, scb := 0x100000, lcb := 0x200000
                     region := { pc := 0x100000 } }
  { s with
    mem := m
    dom0 := { s.dom0 with dcfg := 0x1000, block := Memory.read m 0x1000 256 }
    g := g
    party := .group
    teams := [{ tid := 1, launch := 1, cluster := 1 }]
    clusters := [{ cid := 1, launch := 1 }]
    launches := [{ num := 1, gangs := 1, rcd := { scb := 0x100000, lcb := 0x200000 } }]
    nextLaunch := 2
    nextId := 2 }

/-- A privileged scalar word's major opcode (R104). -/
def privMajor (w : Nat) : Bool := decide (0x30 ≤ w / 2 ^ 26 ∧ w / 2 ^ 26 ≤ 0x35)

/-- The state whose next move runs the instruction: a privileged one on policy core 0, another scalar one or a lane instruction on a
group. DESIGN CHOICE, safe: assumption 17. -/
def placeWord (s : State) (nbits w : Nat) : State :=
  if nbits = 96 then
    let t := placed s
    { t with
      mem := Memory.write t.mem 0x200000 12 w
      g := { t.g with lane := { active := some { lpc := 0, snap := [] } } }
      issueQ := [(1, true)]
      plan := [.issue 0] }
  else if privMajor w then
    { s with pcode := [(s.pol0.sc.pc.toNat, BitVec.ofNat 32 w)], party := .policy 0, pol0 := { s.pol0 with halted := false }
             plan := [.policy 0] }
  else
    let t := placed s
    { t with mem := Memory.write t.mem 0x100000 4 w, issueQ := [(1, false)], plan := [.issue 0] }

end Sys2Proof.Machine
end

