-- ==== Sys2Proof/Machine/Step.lean ====
section
/-!
DEFINITION. One step of the machine: the next party moves.
-/
namespace Sys2Proof.Machine

/-- DESIGN CHOICE, safe: assumption 21. -/
def step (s : State) : Host.Outcome State Fault Refusal := advance s

/-- A state whose next step fetches and runs the word; it stands for the launch, or the firmware, that brings a program
(DESIGN CHOICE, safe: assumption 17). -/
def State.withFetchWord (s : State) (nbits w : Nat) : State := placeWord s nbits w

end Sys2Proof.Machine
end

