-- ==== Sys2Proof/Safety.lean ====
section
/-!
DEFINITION. What counts as a safe step, and the vocabulary of the statements: when an instruction may complete, and what it leaves
unchanged.
-/
namespace Sys2Proof.Machine
open Forms (LView Use)

/-- A step that neither stops nor refuses. -/
def goes (o : Host.Outcome State Fault Refusal) : Prop := ∃ t, o = .next t

/-! ### Scalar instructions -/

/-- The register holds an uncorrectable error (R56, R458); `s0` never does. -/
def State.flawed (s : State) (r : SReg) : Bool := r != 0 && s.sc.bad.getLsbD r.toNat
/-- The destinations and the sources await no pending write (R80), and no source holds an uncorrectable error (R458). -/
abbrev Settled (s : State) (dst src : List SReg) : Prop := (∀ r ∈ dst ++ src, s.pending r = false) ∧ ∀ r ∈ src, s.flawed r = false

/-- `t` is `s` but for the general registers, their errors and the PC of the scalar context. -/
def OnlyRegs (s t : State) : Prop := t = s.setSc { s.sc with sreg := t.sc.sreg, pc := t.sc.pc, bad := t.sc.bad }
/-- `t` is `s` but for the condition bits and the PC of the scalar context. -/
def OnlyConds (s t : State) : Prop := t = s.setSc { s.sc with cond := t.sc.cond, pc := t.sc.pc }

/-- The step from `s` to `t` writes `v` to `d`, moves to the next word, and leaves everything else. -/
structure WritesReg (s t : State) (d : SReg) (v : DWord) : Prop where
  dest : d ≠ 0 → t.rdS d = v
  others : ∀ r, r ≠ d → t.rdS r = s.rdS r
  errors : ∀ r, t.flawed r = (r != d && s.flawed r)
  zero : t.rdS 0 = 0
  pc : t.pc = s.pc + 4
  frame : OnlyRegs s t

/-- The step from `s` to `t` writes `b` to condition bit `k`, moves to the next word, and leaves everything else. -/
structure WritesCond (s t : State) (k : CReg) (b : Bool) : Prop where
  dest : k ≠ 0 → t.rdC k = b
  others : ∀ j, j ≠ k → t.rdC j = s.rdC j
  zero : t.rdC 0 = true
  pc : t.pc = s.pc + 4
  frame : OnlyConds s t

/-- Every byte outside `n` bytes from `a` reads as before. -/
def SameBytesOutside (s t : State) (a n : Nat) : Prop := ∀ b, b < a ∨ a + n ≤ b → Memory.byte t.mem b = Memory.byte s.mem b
/-- Every byte of memory reads as before. -/
def SameBytes (s t : State) : Prop := ∀ b, Memory.byte t.mem b = Memory.byte s.mem b

/-- Every byte reads as before, but for records in the error queue, and those only where the group's core has a sector in L1 that may hold an
error (R459). -/
def SameBytesButL1 (s t : State) : Prop :=
  (∀ b, b < s.priv.errbase.toNat ∨ s.priv.errbase.toNat + s.priv.errsize.toNat ≤ b → Memory.byte t.mem b = Memory.byte s.mem b) ∧
    ((∀ x ∈ s.l1, x.core ≠ s.gteam.core) → SameBytes s t)

/-- Every earlier memory operation of the group stands performed at the scope: what another package must acknowledge has been
acknowledged (R452). -/
abbrev Released (s : State) (sc : Scope) : Prop := s.party = .group → (sc = .fab ∨ sc = .sys) → s.fabDone = true
/-- A synchronising access may be performed: a release at its scope, and its place in the one order of such accesses, behind the group's
earlier ones that another package performs (R306). -/
abbrev InOrder (s : State) (sc : Scope) : Prop := Released s sc ∧ (s.party = .group → s.syncDone = true)
/-- No lane run is outstanding and every push stands written (R93, R312); a policy core has no lane stream (R102). -/
abbrev Drained (s : State) : Prop := s.party = .group → s.g.lane.active = none ∧ s.g.lane.queue = [] ∧ s.g.pushes = []

/-! ### Lane instructions -/

/-- A field that names no queue port. -/
def notPort : Opd → Bool
  | .q _ => false
  | _ => true

/-- The hazard state as an instruction takes its issue position; `sw` is the marker (R69, R70). -/
def Hazard.at (h : Hazard) (sw : Bool) : Hazard := if sw then h.mark else h.tick

/-- The source fields of an instruction, with their uses. -/
def sourcesOf (v : LView) : List (Use × Opd) :=
  [(v.ua, v.va), (v.ub, v.vb), (v.uc, v.vc)] ++ if v.vdSrc || v.vdRead then [(v.ud, v.vd)] else []

/-- An instruction without a queue port may issue: the checks of R67 pass, its uniform registers await nothing (R92), no word that it
reads, in every lane where a shuffle reads (R131), holds an uncorrectable error (R458), and an instruction of the memory classes has no push before it (R312). -/
structure LaneReady (v : LView) (sw : Bool) (s : State) : Prop where
  group : s.party = .group
  window : ∀ x ∈ LView.spans v, x.1 + x.2 ≤ s.g.winsz
  preds : ∀ p ∈ LView.predNums v, p < s.g.predsz
  ports : ∀ o ∈ [v.vd, v.va, v.vb, v.vc], notPort o = true
  hazard : (s.g.haz.at sw).conflict v = false
  settled : ∀ r ∈ uniforms v, s.g.waits r = false
  uniform : ∀ r ∈ uniforms v, r = 0 ∨ s.g.run.bad.getLsbD r.toNat = false
  vector : ∀ x ∈ sourcesOf v, s.g.badLanes (s.g.active v.h) x.1 v.wide x.2 = []
  every : v.every = true → s.g.badLanes (BitVec.allOnes 32) v.ua v.wide v.va = []
  pushed : v.mem = true → s.g.pushes = []

/-- A source field's value in each lane, a field without a port. -/
def srcOf (v : LView) (s : State) (u : Use) (o : Opd) : Nat → DWord := s.g.rdOpd s.gteam.teamlin (use64 u v.wide) o

/-- What an instruction without a queue port reads at issue (R68). -/
def laneIn (v : LView) (s : State) : LIn :=
  { act := s.g.active v.h
    d := if v.vdSrc || v.vdRead then srcOf v s v.ud v.vd else fun _ => 0
    a := srcOf v s v.ua v.va
    b := srcOf v s v.ub v.vb
    c := srcOf v s v.uc v.vc }

/-- The state after the issue position is taken. -/
def laneStart (sw : Bool) (s : State) : State := { s with g := { s.g with haz := s.g.haz.at sw } }

/-- The instruction writes register `k` in lane `l`: an active lane of a destination register. -/
def writesLane (v : LView) (s : State) (k l : Nat) : Prop :=
  (∃ x ∈ LView.dst v, x.1 ≤ k ∧ k < x.1 + x.2) ∧ (s.g.active v.h).getLsbD l = true

/-- The step from `s` to `t` is a lane instruction that has issued and completed: its run stands at the next lane index, its results
are pending by the hazard rule, and nothing has changed but vd and pd in the active lanes, flags that the active lanes have raised,
and, where a raised flag is enabled to trap, the core's collection window and the event that ends it. -/
structure LaneFrame (v : LView) (sw : Bool) (s t : State) : Prop where
  whole : t = { s with g := t.g, coreTab := t.coreTab, engineQ := t.engineQ }
  group : t.g = { s.g with vreg := t.g.vreg, badV := t.g.badV, preds := t.g.preds, lstat := t.g.lstat, haz := (s.g.haz.at sw).add v,
                           lane := t.g.lane, grantL := none }
  run : t.g.lane = { s.g.lane with active := s.g.lane.active.map fun r => { r with lpc := s.g.run.lpc + 1 } }
  vectors : ∀ k l, l < 32 → ¬ writesLane v s k l → t.g.vr k l = s.g.vr k l
  errors : ∀ k l, l < 32 → (32 * k + l ∈ t.g.badV → 32 * k + l ∈ s.g.badV) ∧
    (32 * k + l ∈ s.g.badV → ¬ writesLane v s k l → 32 * k + l ∈ t.g.badV)
  preds : ∀ p l, (p ≠ v.pd ∨ (s.g.active v.h).getLsbD l = false) → (t.g.pr p).getLsbD l = (s.g.pr p).getLsbD l
  flags : ∀ l, (s.g.active v.h).getLsbD l = false → t.g.lst l = s.g.lst l
  sticky : ∀ l, s.g.lst l &&& t.g.lst l = s.g.lst l
  quiet : s.g.fpte = 0 → t.coreTab = s.coreTab ∧ t.engineQ = s.engineQ

end Sys2Proof.Machine
end

