-- ==== Sys2Proof/Certificates/Slice0/Obligations.lean ====
section
/-!
DEFINITION. The statements for the provers. Before the statements of a family stand the functions that say what the rules of spec/
give its members, written from the rules and not from the model.
-/
open Sys2Proof Sys2Proof.Machine

namespace Sys2Proof.Spec

/-! ### Scalar arithmetic -/

/-- SOW32(c, k), as R39 writes it. -/
def sow (c k : Word) : Word :=
  let m (x : Word) : Word := BitVec.ofNat 32 ((x ^^^ (x >>> 16)).toNat * 0x2C9EB3A5)
  let x := m (m (m (c ^^^ k)))
  x ^^^ (x >>> 15)

/-- The members of major 0x01: destination, sources, and the value that the table of R81 gives. -/
def arith : Instr → Option (SReg × SReg × SReg × (DWord → DWord → DWord))
  | .sadd d a b => some (d, a, b, fun x y => BitVec.ofNat 64 (x.toNat + y.toNat))
  | .ssub d a b => some (d, a, b, fun x y => BitVec.ofInt 64 (x.toInt - y.toInt))
  | .smul d a b => some (d, a, b, fun x y => BitVec.ofNat 64 (x.toNat * y.toNat))
  | .smulh d a b => some (d, a, b, fun x y => (x.signExtend 128 * y.signExtend 128).extractLsb' 64 64)
  | .smulhn d a b => some (d, a, b, fun x y => (x.setWidth 128 * y.setWidth 128).extractLsb' 64 64)
  | .sdiv d a b => some (d, a, b, fun x y => if y = 0 then BitVec.allOnes 64 else x.sdiv y)
  | .sdivn d a b => some (d, a, b, fun x y => if y = 0 then BitVec.allOnes 64 else x / y)
  | .srem d a b => some (d, a, b, fun x y => if y = 0 then x else x.srem y)
  | .sremn d a b => some (d, a, b, fun x y => if y = 0 then x else x % y)
  | .sand d a b => some (d, a, b, fun x y => x &&& y)
  | .sor d a b => some (d, a, b, fun x y => x ||| y)
  | .sxor d a b => some (d, a, b, fun x y => x ^^^ y)
  | .sandn d a b => some (d, a, b, fun x y => x &&& ~~~y)
  | .sshl d a b => some (d, a, b, fun x y => BitVec.ofNat 64 (x.toNat * 2 ^ (y.toNat % 64)))
  | .sshr d a b => some (d, a, b, fun x y => BitVec.ofNat 64 (x.toNat / 2 ^ (y.toNat % 64)))
  | .ssra d a b => some (d, a, b, fun x y => BitVec.ofInt 64 (x.toInt / 2 ^ (y.toNat % 64)))
  | .smin d a b => some (d, a, b, fun x y => if x.toInt ≤ y.toInt then x else y)
  | .smax d a b => some (d, a, b, fun x y => if x.toInt ≤ y.toInt then y else x)
  | .sminn d a b => some (d, a, b, fun x y => if x.toNat ≤ y.toNat then x else y)
  | .smaxn d a b => some (d, a, b, fun x y => if x.toNat ≤ y.toNat then y else x)
  | .sclz d a => some (d, a, 0, fun x _ => BitVec.ofNat 64 (if x = 0 then 64 else 63 - Nat.log2 x.toNat))
  | .spopc d a => some (d, a, 0, fun x _ => BitVec.ofNat 64 ((List.range 64).countP fun i => x.getLsbD i))
  | .sbrev d a => some (d, a, 0, fun x _ => x.reverse)
  | .ssow d a b => some (d, a, b, fun x y => (sow (x.extractLsb' 0 32) (y.extractLsb' 0 32)).setWidth 64)
  | _ => none

/-- The immediate forms of R83 and R85: destination, source, and value. -/
def arithImm : Instr → Option (SReg × SReg × (DWord → DWord))
  | .saddi d a imm => some (d, a, fun x => BitVec.ofInt 64 (x.toInt + imm.toInt))
  | .sandi d a imm => some (d, a, fun x => x &&& BitVec.ofNat 64 imm.toNat)
  | .sori d a imm => some (d, a, fun x => x ||| BitVec.ofNat 64 imm.toNat)
  | .sxori d a imm => some (d, a, fun x => x ^^^ BitVec.ofNat 64 imm.toNat)
  | .sshli d a n => some (d, a, fun x => BitVec.ofNat 64 (x.toNat * 2 ^ n.toNat))
  | .sshri d a n => some (d, a, fun x => BitVec.ofNat 64 (x.toNat / 2 ^ n.toNat))
  | .ssrai d a n => some (d, a, fun x => BitVec.ofInt 64 (x.toInt / 2 ^ n.toNat))
  | .slui d imm => some (d, 0, fun _ => BitVec.ofInt 64 (imm.toInt * 2 ^ 12))
  | .slhi d imm => some (d, d, fun x => BitVec.ofInt 64 ((x.toNat % 2 ^ 32 : Nat) + imm.toInt * 2 ^ 32))
  | _ => none

/-- The compares of R86: the condition bit, the sources, and the test. -/
def compares : Instr → Option (CReg × SReg × SReg × (DWord → DWord → Bool))
  | .scmpEq k a b => some (k, a, b, fun x y => decide (x = y))
  | .scmpNe k a b => some (k, a, b, fun x y => decide (x ≠ y))
  | .scmpLt k a b => some (k, a, b, fun x y => decide (x.toInt < y.toInt))
  | .scmpLe k a b => some (k, a, b, fun x y => decide (x.toInt ≤ y.toInt))
  | .scmpLtn k a b => some (k, a, b, fun x y => decide (x.toNat < y.toNat))
  | .scmpLen k a b => some (k, a, b, fun x y => decide (x.toNat ≤ y.toNat))
  | .scmpiEq k a imm => some (k, a, 0, fun x _ => decide (x = imm.signExtend 64))
  | .scmpiNe k a imm => some (k, a, 0, fun x _ => decide (x ≠ imm.signExtend 64))
  | .scmpiLt k a imm => some (k, a, 0, fun x _ => decide (x.toInt < imm.toInt))
  | .scmpiLe k a imm => some (k, a, 0, fun x _ => decide (x.toInt ≤ imm.toInt))
  | .scmpiLtn k a imm => some (k, a, 0, fun x _ => decide (x.toNat < (imm.signExtend 64).toNat))
  | .scmpiLen k a imm => some (k, a, 0, fun x _ => decide (x.toNat ≤ (imm.signExtend 64).toNat))
  | _ => none

/-- The scalar registers of an instruction of R81 to R87, R172, R173 and R174: those it writes and those it reads. -/
def registers (i : Instr) : Option (List SReg × List SReg) :=
  match arith i, arithImm i, compares i with
  | some (d, a, b, _), _, _ => some ([d], [a, b])
  | _, some (d, a, _), _ => some ([d], [a])
  | _, _, some (_, a, b, _) => some ([], [a, b])
  | _, _, _ => match i with
    | .ssel d a b _ => some ([d], [a, b])
    | .sld d a _ _ _ => some ([d], [a])
    | .sldAcq d a _ _ => some ([d], [a])
    | .sst b a _ _ => some ([], [a, b])
    | .sstRel a b _ _ => some ([], [a, b])
    | .satomAdd d a b _ _ | .satomExch d a b _ _ | .satomMin d a b _ _ | .satomMax d a b _ _ => some ([d], [a, b])
    | .satomCas d a b _ _ => some ([d], [a, b, d])
    | _ => none

end Sys2Proof.Spec

/-- R81 (table), R80, R41: every member of major 0x01 writes its value, a write of s0 is discarded, and nothing else changes. -/
def Sys2Proof.Spec.ScalarArithmeticWritesItsValue : Prop :=
  ∀ (i : Instr) (d a b : SReg) (f : DWord → DWord → DWord) (s : State), Spec.arith i = some (d, a, b, f) → Settled s [d] [a, b] →
    ∃ t, exec i s = .next t ∧ WritesReg s t d (f (s.rdS a) (s.rdS b))

/-- R83, R85: the immediate forms. -/
def Sys2Proof.Spec.ScalarImmediatesWriteTheirValue : Prop :=
  ∀ (i : Instr) (d a : SReg) (f : DWord → DWord) (s : State), Spec.arithImm i = some (d, a, f) → Settled s [d] [a] →
    ∃ t, exec i s = .next t ∧ WritesReg s t d (f (s.rdS a))

/-- R86: the compares write one condition bit, and a write of c0 is discarded. -/
def Sys2Proof.Spec.ScalarComparesWriteTheirCondition : Prop :=
  ∀ (i : Instr) (k : CReg) (a b : SReg) (f : DWord → DWord → Bool) (s : State), Spec.compares i = some (k, a, b, f) →
    Settled s [] [a, b] → ∃ t, exec i s = .next t ∧ WritesCond s t k (f (s.rdS a) (s.rdS b))

/-- R87: SSEL copies `ra` when c[k] = 1 and `rb` otherwise; with k = 0 it copies `ra`. -/
def Sys2Proof.Spec.SelectCopiesByItsCondition : Prop :=
  ∀ (d a b : SReg) (k : CReg) (s : State), Settled s [d] [a, b] →
    ∃ t, exec (.ssel d a b k) s = .next t ∧ WritesReg s t d (if s.rdC k then s.rdS a else s.rdS b) ∧
      (k = 0 → WritesReg s t d (s.rdS a))

/-- R80, R81, R83, R85 to R87: the scalar register instructions complete, write their values and change nothing else. -/
def Obligations.ScalarRegisterInstructionsWriteTheirValues : Prop :=
  Sys2Proof.Spec.ScalarArithmeticWritesItsValue ∧
  Sys2Proof.Spec.ScalarImmediatesWriteTheirValue ∧
  Sys2Proof.Spec.ScalarComparesWriteTheirCondition ∧
  Sys2Proof.Spec.SelectCopiesByItsCondition

/-- R82, whole: R12 with w = 64; no saturation, no flag, no FP_TRAP: the outcome is the write of `rd` and nothing else, whatever FPTE
holds. -/
def Obligations.ScalarDivisionFollowsR82 : Prop :=
  ∀ (d a b : SReg) (s : State), Settled s [d] [a, b] →
    let x := s.rdS a
    let y := s.rdS b
    ∃ q r qn rn tq tr tqn trn,
      exec (.sdiv d a b) s = .next tq ∧ WritesReg s tq d q ∧ exec (.srem d a b) s = .next tr ∧ WritesReg s tr d r ∧
      exec (.sdivn d a b) s = .next tqn ∧ WritesReg s tqn d qn ∧ exec (.sremn d a b) s = .next trn ∧ WritesReg s trn d rn ∧
      (y = 0 → q = 0xFFFFFFFFFFFFFFFF ∧ qn = 0xFFFFFFFFFFFFFFFF ∧ r = x ∧ rn = x) ∧
      (x.toInt = -2 ^ 63 ∧ y.toInt = -1 → q.toInt = -2 ^ 63 ∧ r = 0) ∧
      (y ≠ 0 ∧ ¬(x.toInt = -2 ^ 63 ∧ y.toInt = -1) → q.toInt = x.toInt.tdiv y.toInt ∧ x.toInt = q.toInt * y.toInt + r.toInt ∧
        r.toInt.natAbs < y.toInt.natAbs ∧ (r ≠ 0 → r.toInt.sign = x.toInt.sign)) ∧
      (y ≠ 0 → x.toNat = qn.toNat * y.toNat + rn.toNat ∧ rn.toNat < y.toNat)

/-- A register that awaits its result stalls the scalar stream: nothing is performed, on a group the wait is noted, and the PC stays
(R80, R41). A source that holds an uncorrectable error raises UNCORRECTABLE_DATA with its error record (R56, R458, R461). It holds of
the arithmetic, the compares, SSEL, the scalar loads and stores, and SATOM. -/
def Sys2Proof.Spec.ScalarStreamWaitsForItsRegisters : Prop :=
  ∀ (i : Instr) (dst src : List SReg) (s : State), Spec.registers i = some (dst, src) →
    ((∃ r ∈ dst ++ src, s.pending r = true) →
      exec i s = .next (match s.party with
        | .group => { s with g := { s.g with sStall := some .scoreboard } }
        | .policy _ => s)) ∧
    ((∀ r ∈ dst ++ src, s.pending r = false) → (∃ r ∈ src, s.flawed r = true) →
      exec i s = .next (takeTrap (s.errRecord 1 0 s.gteam.core 0 0) false (restartAt .uncorrectableData 0)))


namespace Sys2Proof.Spec

/-! ### Scalar memory instructions, fences and drains -/

/-- Bytes of a size field (R61). -/
def bytes : MSize → Nat
  | .byte => 1 | .half => 2 | .word => 4 | .dword => 8

/-- A load: destination, address, bytes, whether it zero-extends, the scope of an acquire (R172, R173). -/
def loads (s : State) : Instr → Option (SReg × SReg × DWord × Nat × Bool × Option Scope)
  | .sld d a sz z off => some (d, a, s.rdS a + BitVec.ofInt 64 (off.toInt * bytes sz), bytes sz, z, none)
  | .sldAcq d a sc sz => some (d, a, s.rdS a, bytes sz, true, some sc)
  | _ => none
/-- The value a load writes, from the number its bytes give. -/
def extended (n : Nat) (zero : Bool) (v : Nat) : DWord :=
  if zero then BitVec.ofNat 64 v else (BitVec.ofNat (8 * n) v).signExtend 64

/-- A store: the address register, the data register, the address, the bytes, the release scope (R172, R173). -/
def stores (s : State) : Instr → Option (SReg × SReg × DWord × Nat × Option Scope)
  | .sst d a sz off => some (a, d, s.rdS a + BitVec.ofInt 64 (off.toInt * bytes sz), bytes sz, none)
  | .sstRel a b sc sz => some (a, b, s.rdS a, bytes sz, some sc)
  | _ => none

/-- An atomic: operation, registers, scope and bytes (R174). -/
def atoms : Instr → Option (AtomOp × SReg × SReg × SReg × Scope × Nat)
  | .satomAdd d a b sc sz => some (.add, d, a, b, sc, bytes sz)
  | .satomExch d a b sc sz => some (.exch, d, a, b, sc, bytes sz)
  | .satomCas d a b sc sz => some (.cas, d, a, b, sc, bytes sz)
  | .satomMin d a b sc sz => some (.min, d, a, b, sc, bytes sz)
  | .satomMax d a b sc sz => some (.max, d, a, b, sc, bytes sz)
  | _ => none
/-- The new value of R174's table on w-bit patterns. -/
def atomValue {w : Nat} (op : AtomOp) (old x e : BitVec w) : BitVec w :=
  match op with
  | .add => old + x
  | .exch => x
  | .cas => if old = e then x else old
  | .min => if old.toInt < x.toInt then old else x
  | .max => if old.toInt < x.toInt then x else old
  | .and => old &&& x
  | .or => old ||| x
  | .xor => old ^^^ x

/-- The instructions that wait as SYNC.L does and then only move on (R93, R213). -/
def drains : Instr → Bool
  | .syncL | .icinvTeam | .icinvClu | .icinvDev | .icinvFab | .icinvSys => true
  | _ => false
/-- The fences: the scope that a release among them has, and that of an acquire (R175). -/
def fences : Instr → Option (Option Scope × Option Scope)
  | .sfenceAcq sc => some (none, some sc)
  | .sfenceRel sc => some (some sc, none)
  | .sfenceAr sc => some (some sc, some sc)
  | _ => none
/-- The core of the group loses its L1 sectors at an acquire of scope .clu or wider (R288). -/
def afterAcquire (s : State) : Option Scope → State
  | none | some .team => s
  | some _ => match s.party with
    | .group => { s with l1 := s.l1.filter fun x => x.core != s.gteam.core }
    | .policy _ => s
/-- After a fence release at `.sys` the stores of the stream to the host are ordered after the earlier ones (R305, R443). -/
def afterFence (s : State) (rel acq : Option Scope) : State :=
  let u := afterAcquire s acq
  if s.party = .group ∧ rel = some .sys then { u with g := { u.g with relS := true } } else u

end Sys2Proof.Spec

/-- R172, R173, R168: a load whose checks pass reads the bytes little-endian at the place the address reaches, sign- or
zero-extended, and changes no memory; an acquire of scope .clu or wider leaves no L1 sector to its core (R288). -/
def Obligations.LoadsReadMemory : Prop :=
  ∀ (i : Instr) (s : State) (d a : SReg) (va : DWord) (n : Nat) (z : Bool) (acq : Option Scope) (l : Loc),
    Spec.loads s i = some (d, a, va, n, z, acq) → Settled s [d] [a] → (∀ sc, acq = some sc → InOrder s sc) →
    access s va n .load .scalarLoad = .ok l → arrive s l va n = .ok () → (acq ≠ none → s.member? = none) →
    ∃ t, exec i s = .next t ∧ (d ≠ 0 → t.rdS d = Spec.extended n z (s.readOwn l n)) ∧ (∀ r, r ≠ d → t.rdS r = s.rdS r) ∧
      t.pc = s.pc + 4 ∧ SameBytes s t ∧ OnlyRegs { s with tlb := t.tlb, remote := t.remote, l1 := t.l1, l2 := t.l2, granary := t.granary } t ∧
      (s.party = .group → ∀ sc, acq = some sc → sc ≠ .team → ∀ x ∈ t.l1, x.core ≠ s.gteam.core) ∧
      (s.gteam.staged = [] → isRemote l.key = false → s.readOwn l n = Memory.read s.mem l.key n)

/-- R172, R173, R168: a store whose checks pass, in a place of this package and outside deterministic staging and replay, writes its
low bytes little-endian at the place its address reaches, and no other byte. -/
def Sys2Proof.Spec.StoresWriteTheirBytes : Prop :=
  ∀ (i : Instr) (s : State) (a b : SReg) (va : DWord) (n : Nat) (sc : Option Scope) (l : Loc),
    Spec.stores s i = some (a, b, va, n, sc) → Settled s [] [a, b] → (∀ k, sc = some k → InOrder s k) →
    access s va n .store .plainStore = .ok l → s.member? = none → s.stages l = false → isRemote l.key = false →
    s.owned l.key n = false → poisoned s l.key n = false →
    ∃ t, exec i s = .next t ∧ Memory.read t.mem l.key n = (s.rdS b).toNat % 256 ^ n ∧ SameBytesOutside s t l.key n ∧
      t = { s with mem := t.mem, tlb := t.tlb, l1 := t.l1, l2 := t.l2, granary := t.granary }.setPc (s.pc + 4)

/-- R404, R441, R443: elsewhere a store is staged in its team, in order, or leaves as a write of the host window; memory and the
registers stay as they are. A store to a line that a collective owns waits (R201). -/
def Sys2Proof.Spec.StoresThatDoNotReachMemoryNow : Prop :=
  ∀ (i : Instr) (s : State) (a b : SReg) (va : DWord) (n : Nat) (sc : Option Scope) (l : Loc),
    Spec.stores s i = some (a, b, va, n, sc) → Settled s [] [a, b] → (∀ k, sc = some k → InOrder s k) →
    access s va n .store .plainStore = .ok l → s.member? = none →
    (s.stages l = true → s.gteam.staged.length < 2048 → s.team? s.g.team = some s.gteam → s.g.replay = none →
      ∃ t e, exec i s = .next t ∧ t.gteam.staged = s.gteam.staged ++ [e] ∧ e.pa = l.key ∧ e.size = n ∧
        e.data.toNat % 256 ^ n = (s.rdS b).toNat % 256 ^ n ∧
        t = { s with teams := t.teams, tlb := t.tlb, l1 := t.l1, l2 := t.l2, granary := t.granary }.setPc (s.pc + 4)) ∧
    (s.stages l = false → s.owned l.key n = false → isHost l.key = true →
      exec i s = .next (((s.touch va true).toHost
        (.write (s.hostPort s.gdom) (l.key - hostBase) (leBytes n ((s.rdS b).toNat % 256 ^ n)) (sc != some .sys && !s.g.relS))).setPc (s.pc + 4))) ∧
    (s.stages l = false → isRemote l.key = false → s.owned l.key n = true →
      exec i s = .next (match s.party with
        | .group => { s with g := { s.g with sStall := some .recall } }
        | .policy _ => s))

/-- R172, R173, R404, R441: a store writes its bytes in memory, is staged, or leaves by the host window. -/
def Obligations.StoresGoWhereTheirAddressReaches : Prop :=
  Sys2Proof.Spec.StoresWriteTheirBytes ∧ Sys2Proof.Spec.StoresThatDoNotReachMemoryNow

/-- R168, R394 to R396: where a check of the access fails, a scalar load, store or atomic raises that fault with nothing performed; a
load or an atomic of a word that holds an uncorrectable error, in this package, raises UNCORRECTABLE_DATA with its error record
(R458, R461). -/
def Sys2Proof.Spec.ScalarMemoryFaults : Prop :=
  ∀ (i : Instr) (s : State),
    (∀ d a va n z acq, Spec.loads s i = some (d, a, va, n, z, acq) → Settled s [d] [a] → (∀ sc, acq = some sc → InOrder s sc) →
      (∀ e, access s va n .load .scalarLoad = .error e → exec i s = .next (takeTrap s false e)) ∧
      (∀ l, access s va n .load .scalarLoad = .ok l → isRemote l.key = false → s.owned l.key n = false → poisoned s l.key n = true →
        exec i s = .next (takeTrap (s.errRecord 1 (unitOf s l.key l.home).1 (unitOf s l.key l.home).2 0 l.key) false
          (restartAt .uncorrectableData va)))) ∧
    (∀ a b va n sc, Spec.stores s i = some (a, b, va, n, sc) → Settled s [] [a, b] → (∀ k, sc = some k → InOrder s k) →
      ∀ e, access s va n .store .plainStore = .error e → exec i s = .next (takeTrap s false e)) ∧
    (∀ op d a b sc n, Spec.atoms i = some (op, d, a, b, sc, n) → Settled s [d] (if op = .cas then [a, b, d] else [a, b]) → Drained s →
      InOrder s sc →
      (∀ e, access s (s.rdS a) n .atomic .atomic = .error e → exec i s = .next (takeTrap s false e)) ∧
      (∀ l, access s (s.rdS a) n .atomic .atomic = .ok l → isRemote l.key = false → s.owned l.key n = false → poisoned s l.key n = true →
        exec i s = .next (takeTrap (s.errRecord 1 (unitOf s l.key l.home).1 (unitOf s l.key l.home).2 0 l.key) false
          (restartAt .uncorrectableData (s.rdS a)))))

/-- R80, R168, R394 to R396, R458: when the scalar stream waits for its registers, and when it faults. -/
def Obligations.ScalarMemoryWaitsAndFaults : Prop :=
  Sys2Proof.Spec.ScalarStreamWaitsForItsRegisters ∧ Sys2Proof.Spec.ScalarMemoryFaults

/-- R174, R171: an atomic whose checks pass replaces the word or doubleword by the table's value, returns the old one zero-extended,
and ends the region. -/
def Obligations.AtomicsReadModifyWrite : Prop :=
  ∀ (i : Instr) (s : State) (op : AtomOp) (d a b : SReg) (sc : Scope) (n : Nat) (l : Loc),
    Spec.atoms i = some (op, d, a, b, sc, n) → Settled s [d] (if op = .cas then [a, b, d] else [a, b]) → Drained s → InOrder s sc →
    access s (s.rdS a) n .atomic .atomic = .ok l → isRemote l.key = false → s.owned l.key n = false →
    poisoned s l.key n = false → s.stages l = false → s.member? = none →
    ∃ t, exec i s = .next t ∧
      (d ≠ 0 → t.rdS d = BitVec.ofNat 64 (Memory.read s.mem l.key n)) ∧ (∀ r, r ≠ d → t.rdS r = s.rdS r) ∧ t.pc = s.pc + 4 ∧
      Memory.read t.mem l.key n = (Spec.atomValue op (BitVec.ofNat (8 * n) (Memory.read s.mem l.key n))
        (BitVec.ofNat (8 * n) (s.rdS b).toNat) (BitVec.ofNat (8 * n) (s.rdS d).toNat)).toNat ∧
      SameBytesOutside s t l.key n ∧
      (s.party = .group → t.g.regcnt = s.g.regcnt + 1 ∧ t.g.region.pc = s.pc + 4 ∧ t.g.region.regcnt = s.g.regcnt + 1) ∧
      OnlyRegs { s with mem := t.mem, tlb := t.tlb, l1 := t.l1, l2 := t.l2, granary := t.granary,
                        g := { s.g with regcnt := t.g.regcnt, region := t.g.region, parkNew := t.g.parkNew } } t

/-- R93, R213, R175, R94, R102: with no run outstanding SYNC.L and ICINV only move on; a fence moves on, a release among them when the
fabric's acknowledgements have come (one at .sys orders the stream's later stores to the host, R443); that ICINV changes nothing is the
model's choice (assumption 51); REGION opens a region on a group and is a no-operation on a policy core. While a run is
outstanding SYNC.L, ICINV and REGION wait. -/
def Obligations.DrainsFencesAndRegions : Prop :=
  (∀ (i : Instr) (s : State), Spec.drains i = true → Drained s → exec i s = .next (s.setPc (s.pc + 4))) ∧
  (∀ (i : Instr) (s : State) (rel acq : Option Scope), Spec.fences i = some (rel, acq) → (∀ k, rel = some k → Released s k) →
    exec i s = .next ((Spec.afterFence s rel acq).setPc (s.pc + 4))) ∧
  (∀ (i : Instr) (s : State) (sc : Scope) (acq : Option Scope), Spec.fences i = some (some sc, acq) → s.party = .group →
    (sc = .fab ∨ sc = .sys) → s.fabDone = false → exec i s = .next { s with g := { s.g with sStall := some .peer } }) ∧
  (∀ s : State, s.party = .group → Drained s →
    ∃ t, exec .region s = .next t ∧ t.g.regcnt = s.g.regcnt + 1 ∧ t.g.region = { (s.g.entryAt (s.pc + 4)) with regcnt := s.g.regcnt + 1 } ∧
      t = { s with g := { s.g with regcnt := t.g.regcnt, region := t.g.region, parkNew := 0 } }.setPc (s.pc + 4)) ∧
  (∀ (k : Nat) (s : State), s.party = .policy k → exec .region s = .next (s.setPc (s.pc + 4))) ∧
  (∀ (i : Instr) (s : State), (Spec.drains i = true ∨ i = .region) → s.party = .group →
    (s.g.lane.active.isSome = true ∨ s.g.lane.queue ≠ [] ∨ s.g.pushes ≠ []) →
    exec i s = .next { s with g := { s.g with sStall := some .drain } })

/-- R88, R89: branches, calls and jumps. A target whose bits 63:57 do not copy bit 56 raises PROTECTION, and a target of SJR with a
non-zero bit 1:0 raises MISALIGNED, which comes first where both hold (the model's choice, assumption 61); nothing is written then. -/
def Sys2Proof.Spec.BranchesCallsAndJumps : Prop :=
  (∀ (neg : Bool) (k : CReg) (off : BitVec 22) (s : State),
    let dst := s.pc + BitVec.ofInt 64 (4 * off.toInt)
    (s.rdC k = neg → exec (.sbr neg k off) s = .next (s.setPc (s.pc + 4))) ∧
    (s.rdC k ≠ neg → canonical dst = true → exec (.sbr neg k off) s = .next (s.setPc dst)) ∧
    (s.rdC k ≠ neg → canonical dst = false →
      exec (.sbr neg k off) s = .next (takeTrap s false { code := .protection, sub := 4, addr := dst }))) ∧
  (∀ (d : SReg) (off : BitVec 20) (s : State), Settled s [d] [] →
    let dst := s.pc + BitVec.ofInt 64 (4 * off.toInt)
    (canonical dst = true → exec (.scall d off) s = .next ((s.wrS d (s.pc + 4)).setPc dst)) ∧
    (canonical dst = false → exec (.scall d off) s = .next (takeTrap s false { code := .protection, sub := 4, addr := dst }))) ∧
  (∀ (d a : SReg) (s : State), Settled s [d] [a] →
    let dst := s.rdS a
    (dst.toNat % 4 = 0 → canonical dst = true → exec (.sjr d a) s = .next ((s.wrS d (s.pc + 4)).setPc dst)) ∧
    (dst.toNat % 4 ≠ 0 → exec (.sjr d a) s = .next (takeTrap s false { code := .misaligned, addr := dst })) ∧
    (dst.toNat % 4 = 0 → canonical dst = false →
      exec (.sjr d a) s = .next (takeTrap s false { code := .protection, sub := 4, addr := dst })))

/-- R90 to R92: RUN and RUNR enqueue a run with the scalar registers as they stand, those that await a write marked; the ninth waits; a RUNR index of 2^20 or more
raises BOUNDS; on a policy core both raise ILLEGAL_OPCODE (R102). -/
def Sys2Proof.Spec.RunsAreEnqueued : Prop :=
  (∀ (i : Instr) (n : Nat) (s : State), s.party = .group →
    ((∃ idx, i = .run idx ∧ n = idx.toNat) ∨ (∃ k, i = .runr k ∧ n = (s.rdS k).toNat ∧ Settled s [] [k] ∧ n < 2 ^ 20)) →
    let r : Run := { lpc := n, snap := s.g.sc.sreg, wait := s.g.sc.tok, num := s.g.lane.count, bad := s.g.sc.bad }
    let l := { s.g.lane with count := s.g.lane.count + 1 }
    (s.g.lane.runs < 8 →
      exec i s = .next ({ s with g := { s.g with lane :=
        if s.g.lane.active.isNone then { l with active := some r } else { l with queue := l.queue ++ [r] } } }.setPc (s.pc + 4))) ∧
    (8 ≤ s.g.lane.runs → exec i s = .next { s with g := { s.g with sStall := some .runQueueFull } })) ∧
  (∀ (k : SReg) (s : State), s.party = .group → Settled s [] [k] → 2 ^ 20 ≤ (s.rdS k).toNat →
    exec (.runr k) s = .next (takeTrap s false { code := .bounds })) ∧
  (∀ (k : Nat) (i : Instr) (s : State), s.party = .policy k → ((∃ n, i = .run n) ∨ ∃ r, i = .runr r) →
    exec i s = .next (takeTrap s false { code := .illegalOpcode }))


/-- R88 to R92: branches, calls, jumps and runs. -/
def Obligations.ScalarControlFlow : Prop :=
  Sys2Proof.Spec.BranchesCallsAndJumps ∧ Sys2Proof.Spec.RunsAreEnqueued

namespace Sys2Proof.Spec

/-! ### System registers -/

/-- What SGET gives a group for a register of R49 (R50, R52, R53 for the packed ones). -/
def sysReg (s : State) : Nat → Option DWord
  | 0x000 => some 32
  | 0x001 => some (s.g.em.setWidth 64)
  | 0x002 => some (0#48 ++ s.g.lastTrap ++ 0#5 ++ BitVec.ofBool (s.g.parkMask != 0) ++ BitVec.ofBool s.g.det ++
      BitVec.ofBool s.g.copyTrap)
  | 0x003 => some s.g.fpte
  | 0x004 => some s.g.haloWait
  | 0x005 => some (s.g.deadline ++ 0#31 ++ BitVec.ofBool s.g.yieldReq)
  | 0x006 => some (tapeStat s.g.tape)
  | 0x007 => some s.g.laneSel
  | 0x008 => some ((s.g.lst s.g.laneSel.toNat).setWidth 64)
  | 0x009 => some s.g.perfctl
  | 0x00A => some s.g.pcnt0
  | 0x00B => some s.g.pcnt1
  | 0x00C => some 0
  | 0x010 => some (BitVec.ofNat 64 (256 * s.gteam.core + s.g.slot))
  | 0x011 => some (BitVec.ofNat 64 (256 * (s.gteam.ngroups - 1) + 16 * s.gteam.k + s.g.gidx))
  | 0x012 => some (BitVec.ofNat 64 s.gteam.tx)
  | 0x013 => some (BitVec.ofNat 64 s.gteam.ty)
  | 0x014 => some (BitVec.ofNat 64 s.gteam.tz)
  | 0x015 => some (BitVec.ofNat 64 s.gteam.teamlin)
  | 0x018 => some (BitVec.ofNat 64 s.g.winsz)
  | 0x019 => some (BitVec.ofNat 64 s.g.predsz)
  | 0x01A => some (BitVec.ofNat 64 s.gteam.scrsz)
  | 0x01B => some s.g.lcb
  | 0x01C => some s.g.regcnt
  | 0x01D => some (BitVec.ofNat 64 s.clock)
  | _ => none
/-- EM, FPTE, LSTATL and EMHI wait for the lane runs enqueued before (R55). -/
def laneSeen (n : Nat) : Prop := n = 0x001 ∨ n = 0x003 ∨ n = 0x008 ∨ n = 0x00C

/-- The group after SSET of a register with a writable field; `none`: the value is refused (R49, R50, R51, R54, R96). -/
def sysWrite (g : Group) (v : DWord) : Nat → Option Group
  | 0x001 => some { g with em := v.extractLsb' 0 32 }
  | 0x002 => if v.toNat / 2 ^ 16 = 0 ∧ v.toNat / 8 % 32 = 0 then some { g with copyTrap := v.getLsbD 0 } else none
  | 0x003 => if v.toNat < 2 ^ 12 ∧ v.toNat / 64 % 4 = 0 then some { g with fpte := v } else none
  | 0x004 => some { g with haloWait := (v.extractLsb' 0 32).setWidth 64 }
  | 0x007 => if v.toNat < 32 then some { g with laneSel := v } else none
  | 0x008 => some { g with lstat := SMap.set 0 g.lstat g.laneSel.toNat (v.extractLsb' 0 32 &&& 0xF3F) }
  | 0x009 =>
    if v.toNat % 16 < 8 ∧ v.toNat / 16 % 16 < 8 then
      some (if v.getLsbD 9 then { g with perfctl := (v.extractLsb' 0 9).setWidth 64, pcnt0 := 0, pcnt1 := 0 }
            else { g with perfctl := (v.extractLsb' 0 9).setWidth 64 })
    else none
  | 0x00A => some { g with pcnt0 := v }
  | 0x00B => some { g with pcnt1 := v }
  | _ => some g

/-- The condition views of R97: number, register, bit. -/
def views : List (Nat × Nat × Nat) := [(0x020, 0x005, 0), (0x021, 0x002, 2), (0x022, 0x002, 1), (0x023, 0x006, 0), (0x024, 0x006, 1)]

end Sys2Proof.Spec

/-- R49, R55, R96: SGET of every assigned number writes the register's value; the four registers that lane instructions read wait for
the runs enqueued before; an unassigned number raises RESERVED_FIELD and a privileged one PRIVILEGE. -/
def Sys2Proof.Spec.SystemRegisterReads : Prop :=
  ∀ (d : SReg) (num : BitVec 12) (s : State), s.party = .group → Settled s [d] [] →
    (∀ v, Spec.sysReg s num.toNat = some v → (Spec.laneSeen num.toNat → Drained s) →
      ∃ t, exec (.sget d num) s = .next t ∧ WritesReg s t d v) ∧
    (Spec.laneSeen num.toNat → s.g.drained = false →
      exec (.sget d num) s = .next { s with g := { s.g with sStall := some .drain } }) ∧
    (num.toNat < 0x800 → Spec.sysReg s num.toNat = none → exec (.sget d num) s = .next (takeTrap s false { code := .reservedField })) ∧
    (0x800 ≤ num.toNat → exec (.sget d num) s = .next (takeTrap s false { code := .privilege }))

/-- R49 to R51, R54, R96: SSET writes the writable fields, ignores the read-only registers, refuses the values the rules refuse with
RESERVED_FIELD, and raises PRIVILEGE for a privileged number. -/
def Sys2Proof.Spec.SystemRegisterWrites : Prop :=
  ∀ (num : BitVec 12) (a : SReg) (s : State), s.party = .group → Settled s [] [a] →
    ((Spec.sysReg s num.toNat).isSome = true → (Spec.laneSeen num.toNat → Drained s) →
      (∀ g, Spec.sysWrite s.g (s.rdS a) num.toNat = some g → exec (.sset num a) s = .next ({ s with g := g }.setPc (s.pc + 4))) ∧
      (Spec.sysWrite s.g (s.rdS a) num.toNat = none →
        exec (.sset num a) s = .next (takeTrap s false { code := .reservedField }))) ∧
    (num.toNat < 0x800 → Spec.sysReg s num.toNat = none → exec (.sset num a) s = .next (takeTrap s false { code := .reservedField })) ∧
    (0x800 ≤ num.toNat → exec (.sset num a) s = .next (takeTrap s false { code := .privilege }))

/-- R97, whole: the five views copy their bits into c[k], the word's rd[5:3] must be zero, SSET of a view raises RESERVED_FIELD, and a
view is read when the whole register is (none of the three waits for the lane stream). -/
def Obligations.ConditionViewsFollowR97 : Prop :=
  (∀ (x : Nat × Nat × Nat) (k : CReg) (s : State), x ∈ Spec.views → s.party = .group →
    ∃ t v, Spec.sysReg s x.2.1 = some v ∧ exec (.sgetView k (BitVec.ofNat 12 x.1)) s = .next t ∧
      WritesCond s t k (v.getLsbD x.2.2) ∧
      ∀ d, Settled s [d] [] → ∃ u, exec (.sget d (BitVec.ofNat 12 x.2.1)) s = .next u ∧ WritesReg s u d v) ∧
  (∀ (x : Nat × Nat × Nat) (a : SReg) (s : State), x ∈ Spec.views → s.party = .group → Settled s [] [a] →
    exec (.sset (BitVec.ofNat 12 x.1) a) s = .next (takeTrap s false { code := .reservedField })) ∧
  (∀ (x : Nat × Nat × Nat) (d : BitVec 6), x ∈ Spec.views →
    Decode.scalar (0x17#6 ++ d ++ 0#6 ++ 0#2 ++ BitVec.ofNat 12 x.1) =
      if d.extractLsb' 3 3 = 0 then .ok (.sgetView (d.extractLsb' 0 3) (BitVec.ofNat 12 x.1)) else .error .reservedField)

namespace Sys2Proof.Spec

/-- The privileged registers' numbers (R103, R467). -/
def privNumber (k n : Nat) : Prop :=
  (0x800 ≤ n ∧ n ≤ 0x803) ∨ (0x810 ≤ n ∧ n ≤ 0x812) ∨ (0x820 ≤ n ∧ n ≤ 0x825) ∨ (0x830 ≤ n ∧ n ≤ 0x837) ∨ (0x840 ≤ n ∧ n ≤ 0x841) ∨
  (0x850 ≤ n ∧ n ≤ 0x856) ∨ (0x860 ≤ n ∧ n ≤ 0x86E ∧ (n = 0x861 ∨ n = 0x865 → k = 0))

end Sys2Proof.Spec

/-- R102, R103, R467, R469: a policy core reads CLOCK and the privileged registers, writes the privileged registers it may, and gets
RESERVED_FIELD for every other number, below 0x800 or above, and for a value that the register refuses. A write of CLOCK changes nothing.
WARMRST with bit 0 starts the device again; while a warm start is in progress, and with bit 0 clear, it only moves on: the first is the
model's choice (assumption 54). -/
def Sys2Proof.Spec.PolicyCoreSystemRegisters : Prop :=
  ∀ (k : Nat) (s : State), s.party = .policy k →
    (∀ (d : SReg) (num : BitVec 12) (v : DWord), Settled s [d] [] →
      (num.toNat = 0x01D ∧ v = BitVec.ofNat 64 s.clock ∨ 0x800 ≤ num.toNat ∧ privRead s k num.toNat = some v) →
      ∃ t, exec (.sget d num) s = .next t ∧ WritesReg s t d v) ∧
    (∀ (d : SReg) (num : BitVec 12), Settled s [d] [] → num.toNat < 0x800 → num.toNat ≠ 0x01D →
      exec (.sget d num) s = .next (takeTrap s false { code := .reservedField })) ∧
    (∀ (num : BitVec 12) (a : SReg) (t : State), Settled s [] [a] → 0x800 ≤ num.toNat → num.toNat ≠ 0x862 →
      privWrite s k num.toNat (s.rdS a) = .ok t → exec (.sset num a) s = .next (t.setPc (t.pc + 4))) ∧
    (∀ (num : BitVec 12) (a : SReg), Settled s [] [a] → num.toNat < 0x800 → num.toNat ≠ 0x01D →
      exec (.sset num a) s = .next (takeTrap s false { code := .reservedField })) ∧
    (∀ (num : BitVec 12) (a d : SReg), 0x800 ≤ num.toNat → ¬ Spec.privNumber k num.toNat →
      (Settled s [d] [] → exec (.sget d num) s = .next (takeTrap s false { code := .reservedField })) ∧
      (Settled s [] [a] → exec (.sset num a) s = .next (takeTrap s false { code := .reservedField }))) ∧
    (∀ (num : BitVec 12), Spec.privNumber k num.toNat → (privRead s k num.toNat).isSome = true) ∧
    (∀ (num : BitVec 12) (a : SReg), Settled s [] [a] → 0x800 ≤ num.toNat → (∀ t, privWrite s k num.toNat (s.rdS a) ≠ .ok t) →
      exec (.sset num a) s = .next (takeTrap s false { code := .reservedField })) ∧
    (∀ a : SReg, Settled s [] [a] →
      exec (.sset 0x01D a) s = .next (s.setPc (s.pc + 4)) ∧
      ((s.rdS a).getLsbD 0 = false ∨ warming s = true → exec (.sset 0x862 a) s = .next (s.setPc (s.pc + 4))) ∧
      ((s.rdS a).getLsbD 0 = true → warming s = false → s.start.on = true →
        exec (.sset 0x862 a) s = .next (started s s.env true 3))) ∧
    privRead s k 0x800 = some (s.pol k).epc ∧ privRead s k 0x801 = some (s.pol k).ecause ∧ privRead s k 0x803 = some (s.pol k).evec ∧
    privRead s k 0x802 = some (BitVec.ofNat 64 (2 * (s.pol k).pie.toNat + (s.pol k).ie.toNat)) ∧
    ∀ v : DWord, privWrite s k 0x800 v = .ok (s.setPol k { s.pol k with epc := v &&& ~~~3 }) ∧
      privWrite s k 0x801 v = .ok s ∧ privWrite s k 0x803 v = .ok (s.setPol k { s.pol k with evec := v &&& ~~~3 }) ∧
      privWrite s k 0x802 v = .ok (s.setPol k { s.pol k with pie := v.getLsbD 1, ie := v.getLsbD 0 })

/-- R96, R54: the counters' clear as the group's own write of PERFCTL with CLR. -/
def Sys2Proof.Spec.PerformanceCountersClear : Prop :=
  ∀ (v : DWord) (s : State), s.party = .group → v.toNat % 16 < 8 → v.toNat / 16 % 16 < 8 →
    ∃ t, exec (.perfctlClear v) s = .next t ∧ (v.getLsbD 9 = true → t.g.pcnt0 = 0 ∧ t.g.pcnt1 = 0) ∧
      (v.getLsbD 9 = false → t.g.pcnt0 = s.g.pcnt0 ∧ t.g.pcnt1 = s.g.pcnt1) ∧
      t = { s with g := { s.g with perfctl := (v.extractLsb' 0 9).setWidth 64, pcnt0 := t.g.pcnt0, pcnt1 := t.g.pcnt1 } }.setPc
        (s.pc + 4)

/-- R49 to R55, R96: SGET and SSET on a group. -/
def Obligations.SystemRegistersOfAGroup : Prop :=
  Sys2Proof.Spec.SystemRegisterReads ∧ Sys2Proof.Spec.SystemRegisterWrites ∧ Sys2Proof.Spec.PerformanceCountersClear

/-! ### Traps -/

/-- R102, R105: a trap on a policy core saves its PC (for BREAK the next one) in EPC and its code in ECAUSE, copies IE into PIE, clears
IE and goes to EVEC; ERET takes all of it back. -/
def Sys2Proof.Spec.PolicyTrapAndReturn : Prop :=
  (∀ (k : Nat) (s : State) (lane : Bool) (t : Trap), s.party = .policy k →
    takeTrap s lane t = s.setPol k { s.pol k with
      epc := if t.code = .brk then (s.pol k).sc.pc + 4 else (s.pol k).sc.pc
      ecause := BitVec.ofNat 64 (if t.code = .brk then 256 * t.sub + t.code.num else t.code.num)
      pie := (s.pol k).ie
      ie := false
      sc := { (s.pol k).sc with pc := (s.pol k).evec } }) ∧
  (∀ (k : Nat) (s : State), s.party = .policy k →
    exec .eret s = .next (s.setPol k { s.pol k with ie := (s.pol k).pie, pie := true, sc := { (s.pol k).sc with pc := (s.pol k).epc } })) ∧
  (∀ (k : Nat) (s : State) (w : Word) (d a b : SReg) (c : BitVec 6), s.party = .policy k →
    exec (.illegalOpcode w) s = .next (takeTrap s false { code := .illegalOpcode }) ∧
    exec (.syscall d a b) s = .next (takeTrap s false { code := .illegalOpcode }) ∧
    exec (.brk c) s = .next (takeTrap s false { code := .brk, sub := c.toNat }))

/-- R102, R103, R105: the system registers of a policy core, its traps and their return. -/
def Obligations.PolicyCoreRegistersAndTraps : Prop :=
  Sys2Proof.Spec.PolicyCoreSystemRegisters ∧ Sys2Proof.Spec.PolicyTrapAndReturn

/-- R388, R395, R399, R400, R461: a group that takes a trap stops, unless an instruction of it is in flight: then it is stopping, and of two
faults found meanwhile one is reported, by the order of R395. A trap that consumes an uncorrectable error leaves its error record first. As
it stops the device reads its domain's configuration block.
With a free slot in the group fault queue its record stands there, with DONE zero, or goes to the host where the queue lies in its window; without one it stays stopped and no record is written.
Either way GSTAT.LASTTRAP takes the code, and its registers, predicates, PC and streams stay. -/
def Sys2Proof.Spec.GroupTrapStopsTheGroup : Prop :=
  ∀ (s : State) (lane : Bool) (tr : Trap), s.party = .group →
    let t := takeTrap s lane tr
    let u := s.readBlock s.gdom
    let busy := inFlight s s.g true = true ∨ inFlight s s.g false = true
    t = takeTrap (s.note tr) lane { tr with errAt := none } ∧ (tr.errAt = none →
    let q := (s.dom s.gdom).gfSeq + 1
    let n := 2 ^ dcbGfqLog2 u s.gdom
    let at_ := dcbGfqBase u s.gdom + 128 * ((q - 1) % n)
    let full := (s.dom s.gdom).gfLive.any fun r => (r.seq - 1) % n == (q - 1) % n
    (busy → (∀ x l, s.g.phase ≠ .stopping x l) → t = { s with g := { s.g with phase := .stopping tr lane } }) ∧
    (∀ x l, s.g.phase = .stopping x l → ¬ busy →
      t = if x.rank l < tr.rank lane then stopGroup s l x else stopGroup s lane tr) ∧
    (∀ x l, s.g.phase = .stopping x l → busy → t = { s with g := { s.g with
      phase := if x.rank l < tr.rank lane then .stopping x l else .stopping tr lane } }) ∧
    (¬ busy → (∀ x l, s.g.phase ≠ .stopping x l) →
    t.g.lastTrap = BitVec.ofNat 8 tr.code.num ∧ t.g.sc = s.g.sc ∧ t.g.vreg = s.g.vreg ∧ t.g.preds = s.g.preds ∧ t.g.em = s.g.em ∧
    t.g.lane = s.g.lane ∧ t.g.streams = s.g.streams ∧ t.g.tape = s.g.tape ∧ t.g.haz = s.g.haz ∧ t.g.region = s.g.region ∧
    t.g.regcnt = s.g.regcnt ∧
    (full = true → t.g.phase = .stopped none tr lane ∧ t.mem = u.mem) ∧
    (full = false → t.g.phase = .stopped (some q) tr lane ∧ SameBytesOutside u t at_ 128 ∧
      (isHost at_ = true → isHost (at_ + 96) = true → SameBytes u t) ∧
      (poisoned u at_ 128 = false → isHost at_ = false → isHost (at_ + 96) = false →
        Memory.read t.mem at_ 8 = q % 2 ^ 64 ∧ Memory.read t.mem (at_ + 10) 1 = tr.code.num ∧
        Memory.read t.mem (at_ + 11) 1 = tr.kind.num ∧
        Memory.read t.mem (at_ + 12) 1 = (if lane then 1 else 0) + (if tr.fetch then 2 else 0) ∧
        Memory.read t.mem (at_ + 13) 1 = tr.lane.getD 0xFF % 256 ∧ Memory.read t.mem (at_ + 14) 1 = tr.sub % 256 ∧
        (lane = false → Memory.read t.mem (at_ + 16) 8 = s.g.sc.pc.toNat) ∧
        Memory.read t.mem (at_ + 24) 8 = tr.addr.toNat ∧ Memory.read t.mem (at_ + 32) 8 = s.g.regcnt.toNat ∧
        Memory.read t.mem (at_ + 40) 4 = s.gteam.teamlin % 2 ^ 32 ∧ Memory.read t.mem (at_ + 44) 4 = s.gteam.launch % 2 ^ 32 ∧
        Memory.read t.mem (at_ + 48) 2 = s.gasn % 2 ^ 16 ∧ Memory.read t.mem (at_ + 96) 8 = 0))))

/-- R60, R66, R98, R101: what makes a group trap by its own effect: no instruction, a breakpoint after its drain, a SYSCALL with a bad
descriptor. -/
def Sys2Proof.Spec.InstructionsThatTrap : Prop :=
  (∀ (w : Word) (s : State), exec (.illegalOpcode w) s = .next (takeTrap s false { code := .illegalOpcode })) ∧
  (∀ (w : LaneWord) (s : State), exec (.illegalLaneOpcode w) s = .next (takeTrap s true { code := .illegalOpcode })) ∧
  (∀ (c : BitVec 6) (s : State), Drained s → exec (.brk c) s = .next (takeTrap s false { code := .brk, sub := c.toNat })) ∧
  (∀ (d a b : SReg) (s : State), s.party = .group → Settled s [d] [a, b] → Drained s →
    let x := (s.rdS a).toNat
    ((x / 2 ^ 49 ≠ 0 ∨ x / 2 ^ 43 % 2 ^ 5 ≠ 0 ∨ x / 2 ^ 18 % 2 ^ 14 ≠ 0 ∨ x / 2 ^ 11 % 2 ^ 5 ≠ 0) →
      exec (.syscall d a b) s = .next (takeTrap s false { code := .reservedField })))

/-- R98, R101, R395, R399, R400: a trap on a group and the instructions whose own effect is one. -/
def Obligations.GroupTraps : Prop :=
  Sys2Proof.Spec.GroupTrapStopsTheGroup ∧ Sys2Proof.Spec.InstructionsThatTrap

/-- R98, R99, R171: SYSCALL on a group with a free slot: its request stands in the slot with DONE zero and the words of every lane of `em`
in ascending order, the group is suspended at the instruction with `sd` pending, its region has ended and LASTTRAP is 0x20. -/
def Obligations.SystemCallsSuspend : Prop :=
  ∀ (d a b : SReg) (s : State), s.party = .group → Settled s [d] [a, b] → Drained s →
    let x := (s.rdS a).toNat
    let vreq := x % 2 ^ 11
    let nreq := x / 2 ^ 16 % 4 + 1
    let vrep := x / 2 ^ 32 % 2 ^ 11
    let rep := x / 2 ^ 48 % 2 = 1
    let q := (s.dom s.gdom).scSeq + 1
    let n := 2 ^ dcbScqLog2 s s.gdom
    let at_ := dcbScqBase s s.gdom + 4096 * ((q - 1) % n)
    x / 2 ^ 49 = 0 → x / 2 ^ 43 % 2 ^ 5 = 0 → x / 2 ^ 18 % 2 ^ 14 = 0 → x / 2 ^ 11 % 2 ^ 5 = 0 →
    vreq + nreq ≤ s.g.winsz → (rep → vrep < s.g.winsz) →
    (∀ k ∈ s.g.badV, ¬ (vreq ≤ k / 32 ∧ k / 32 < vreq + nreq ∧ s.g.em.getLsbD (k % 32) = true)) →
    (∀ m ∈ (s.dom s.gdom).scLive, (m - 1) % n ≠ (q - 1) % n) → poisoned s at_ 4096 = false → isHost at_ = false → isHost (at_ + 3080) = false →
    ∃ t, exec (.syscall d a b) s = .next t ∧ t.g.phase = .suspended q d (decide rep) vrep s.g.em ∧ t.g.lastTrap = 0x20 ∧
      t.g.regcnt = s.g.regcnt + 1 ∧ t.g.region.pc = s.pc + 4 ∧ t.pc = s.pc ∧ (d ≠ 0 → t.pending d = true) ∧
      (s.dom s.gdom).scSeq + 1 = (t.dom s.gdom).scSeq ∧ t.g.vreg = s.g.vreg ∧ t.g.em = s.g.em ∧ SameBytesOutside s t at_ 4096 ∧
      Memory.read t.mem at_ 8 = (s.rdS b).toNat ∧ Memory.read t.mem (at_ + 8) 4 = s.gteam.teamlin % 2 ^ 32 ∧
      Memory.read t.mem (at_ + 12) 2 = (256 * s.gteam.core + s.g.slot) % 2 ^ 16 ∧
      Memory.read t.mem (at_ + 56) 4 = (64 + 4 * nreq * (lanesOf s.g.em).length + 63) / 64 * 64 ∧
      Memory.read t.mem (at_ + 14) 1 = nreq ∧ Memory.read t.mem (at_ + 15) 1 = 32 ∧
      Memory.read t.mem (at_ + 16) 16 = s.g.em.toNat ∧ Memory.read t.mem (at_ + 32) 8 = s.pc.toNat ∧
      Memory.read t.mem (at_ + 40) 8 = s.g.regcnt.toNat ∧ Memory.read t.mem (at_ + 48) 8 = q % 2 ^ 64 ∧
      Memory.read t.mem (at_ + 3080) 8 = 0 ∧
      (∀ j l, j < nreq → l < 32 → s.g.em.getLsbD l = true →
        Memory.read t.mem (at_ + 64 + 4 * (nreq * (lanesOf s.g.em).idxOf l + j)) 4 = (s.g.vr (vreq + j) l).toNat)


/-! ### Synchronisation and channels -/

/-- R202: BAR.TEAM of the last group to arrive begins the barrier's next instance and moves on; of an earlier one waits, its arrival
noted once; a waiting group moves on when its instance has ended. -/
def Sys2Proof.Spec.TeamBarrier : Prop :=
  ∀ s : State, s.party = .group → Drained s →
    let all := ∀ i, i < s.gteam.ngroups → i = s.g.gidx ∨ i ∈ s.gteam.exited ∨ i ∈ s.gteam.barArrived
    (s.g.barJoined = none → all →
      exec .barTeam s = .next ((s.setTeam { s.gteam with barGen := s.gteam.barGen + 1, barArrived := [] }).setPc (s.pc + 4))) ∧
    (s.g.barJoined = none → ¬ all →
      exec .barTeam s = .next { s.setTeam { s.gteam with barArrived := s.g.gidx :: s.gteam.barArrived } with
        g := { s.g with barJoined := some s.gteam.barGen, sStall := some .barrier } }) ∧
    (∀ n, s.g.barJoined = some n →
      (s.gteam.barGen ≠ n → exec .barTeam s = .next ({ s with g := { s.g with barJoined := none } }.setPc (s.pc + 4))) ∧
      (s.gteam.barGen = n → exec .barTeam s = .next { s with g := { s.g with sStall := some .barrier } }))

/-- R202, R203: CLU.ARRIVE writes the phase it arrives at and does not wait, but for a second arrival before the phase completes; the
phase counter advances when every group that has not exited has arrived. CLU.WAIT moves on when the counter less n, modulo 2^32, lies
in 1..2^31, an acquire at .clu, and waits otherwise. -/
def Sys2Proof.Spec.ClusterBarriers : Prop :=
  (∀ (d : SReg) (b : BitVec 4) (s : State), s.party = .group → Settled s [d] [] → Drained s →
    let c := s.gcluster
    let me := cluKey s.gteam.k s.g.gidx
    let phase := SMap.get 0 c.phase b.toNat
    let here := SMap.get [] c.arrived b.toNat
    let done := ∀ x ∈ clusterLive s c, x = me ∨ x ∈ here
    (me ∉ here → ∃ t u, exec (.cluArrive d b) s = .next t ∧ t = ((s.setCluster u).wrS d (phase.setWidth 64)).setPc (s.pc + 4) ∧
      u = { c with phase := u.phase, arrived := u.arrived } ∧
      (done → SMap.get 0 u.phase b.toNat = phase + 1 ∧ SMap.get [] u.arrived b.toNat = []) ∧
      (¬ done → SMap.get 0 u.phase b.toNat = phase ∧ SMap.get [] u.arrived b.toNat = me :: here) ∧
      (∀ j, j ≠ b.toNat → SMap.get 0 u.phase j = SMap.get 0 c.phase j ∧ SMap.get [] u.arrived j = SMap.get [] c.arrived j)) ∧
    (me ∈ here → exec (.cluArrive d b) s = .next { s with g := { s.g with sStall := some .cluWait } })) ∧
  (∀ (a : SReg) (b : BitVec 4) (s : State), s.party = .group → Settled s [] [a] →
    let gone := (SMap.get 0 s.gcluster.phase b.toNat - (s.rdS a).setWidth 32).toNat
    (1 ≤ gone ∧ gone ≤ 2 ^ 31 → exec (.cluWait a b) s = .next ((Spec.afterAcquire s (some .clu)).setPc (s.pc + 4))) ∧
    (¬(1 ≤ gone ∧ gone ≤ 2 ^ 31) → exec (.cluWait a b) s = .next { s with g := { s.g with sStall := some .cluWait } }))

/-- R204: ARR.SET registers or replaces a watch without touching the counter, MISALIGNED, PROTECTION and BOUNDS as the rule says (that
PROTECTION then has SUB 3, and that a page's format must be valid, are the model's choice, assumption 55);
ARR.WAIT moves on when the counter has reached the target, an acquire at .fab, and waits otherwise; an address with no watch raises RESERVED_FIELD. -/
def Sys2Proof.Spec.ArrivalWatches : Prop :=
  (∀ (a b : SReg) (l : Loc) (s : State), s.party = .group → Settled s [] [a, b] → (s.rdS a).toNat % 8 = 0 →
    counterLoc s (s.rdS a) = .ok l →
    let rest := s.gteam.watches.filter fun w => w.1 != s.rdS a
    (rest.length < 8 → ∃ t, exec (.arrSet a b) s = .next t ∧
      t = (({ s with tlb := t.tlb }.setTeam { s.gteam with watches := rest ++ [(s.rdS a, s.rdS b)] }).setPc (s.pc + 4))) ∧
    (8 ≤ rest.length → exec (.arrSet a b) s = .next (takeTrap s false { code := .bounds, addr := s.rdS a }))) ∧
  (∀ (a b : SReg) (s : State), s.party = .group → Settled s [] [a, b] → (s.rdS a).toNat % 8 = 0 →
    let va := s.rdS a
    let refused := exec (.arrSet a b) s = .next (takeTrap s false (preciseAt .protection va 3))
    (∀ t, windowLoc s va = some (.error t) → refused) ∧
    (∀ l, windowLoc s va = some (.ok l) → (l.key - 2 ^ 60) / 2 ^ 21 ≠ s.gteam.tid → refused) ∧
    (∀ l, windowLoc s va = none → translate s va .load = .ok l → l.home ≠ 1 → refused) ∧
    (∀ t, windowLoc s va = none → translate s va .load = .error t → exec (.arrSet a b) s = .next (takeTrap s false t))) ∧
  (∀ (a b : SReg) (s : State), s.party = .group → Settled s [] [a, b] → (s.rdS a).toNat % 8 ≠ 0 →
    exec (.arrSet a b) s = .next (takeTrap s false { code := .misaligned, addr := s.rdS a })) ∧
  (∀ (a : SReg) (s : State), s.party = .group → Settled s [] [a] →
    (∀ (v : DWord) (l : Loc), s.gteam.watches.find? (fun w => w.1 == s.rdS a) = some (s.rdS a, v) → counterLoc s (s.rdS a) = .ok l →
      arrive s l (s.rdS a) 8 = .ok () →
      (v.toNat ≤ Memory.read s.mem l.key 8 → exec (.arrWait a) s = .next ((Spec.afterAcquire s (some .fab)).setPc (s.pc + 4))) ∧
      (Memory.read s.mem l.key 8 < v.toNat → exec (.arrWait a) s = .next { s with g := { s.g with sStall := some .arrWait } })) ∧
    ((∀ w ∈ s.gteam.watches, w.1 ≠ s.rdS a) → exec (.arrWait a) s = .next (takeTrap s false { code := .reservedField })))

/-- R202 to R204: team barriers, cluster barriers and arrival watches. -/
def Obligations.BarriersAndWatches : Prop :=
  Sys2Proof.Spec.TeamBarrier ∧ Sys2Proof.Spec.ClusterBarriers ∧ Sys2Proof.Spec.ArrivalWatches

/-- R205, R171, R281: SEND and SEND.TRY put the value at the end of a channel that has room, RECV and RECV.TRY take the message whose
turn it is; each ends the region when it moves a message. A full or empty channel stalls SEND and RECV, and the TRY forms then only
clear their condition. A message with an uncorrectable error is consumed as one (R456, R458). A channel that is not the team's raises
CHANNEL_UNDECLARED. -/
def Obligations.ChannelsMoveMessages : Prop :=
  ∀ (s : State) (ch : BitVec 5) (a d : SReg) (k : CReg), s.party = .group → Settled s [d] [a] → Drained s →
    let ends (u : State) : State := { u with g := u.g.endRegion (s.pc + 4) }
    (∀ x, channel s ch true = .ok x → teamGone s x.cons = false →
      let sent := ends (setChan s { x with msgs := x.msgs ++ [s.rdS a] })
      (x.msgs.length < x.depth → exec (.send a ch) s = .next (sent.setPc (s.pc + 4)) ∧
        exec (.sendTry k a ch) s = .next ((sent.wrC k true).setPc (s.pc + 4))) ∧
      (x.depth ≤ x.msgs.length → exec (.send a ch) s = .next { s with g := { s.g with sStall := some .chanFull } } ∧
        exec (.sendTry k a ch) s = .next ((s.wrC k false).setPc (s.pc + 4)))) ∧
    (∀ x, channel s ch false = .ok x →
      (∀ v, x.msgs[x.waits.idxOf s.g.gid]? = some v → x.waits.idxOf s.g.gid ∈ x.bad → ∀ i ∈ [.recv d ch, .recvTry d k ch],
        exec i s = .next (takeTrap (s.errRecord 1 1 s.gteam.core 0 0) false (restartAt .uncorrectableData 0))) ∧
      (∀ v, x.msgs[x.waits.idxOf s.g.gid]? = some v → x.waits.idxOf s.g.gid ∉ x.bad →
        let n := x.waits.idxOf s.g.gid
        let got := ends (Spec.afterAcquire (setChan s { x with
          msgs := x.msgs.eraseIdx n, waits := x.waits.filter fun w => w != s.g.gid
          bad := (x.bad.filter (· != n)).map fun j => if n < j then j - 1 else j }) (some .clu))
        exec (.recv d ch) s = .next ((got.wrS d v).setPc (s.pc + 4)) ∧
        exec (.recvTry d k ch) s = .next (((got.wrS d v).wrC k true).setPc (s.pc + 4))) ∧
      (x.msgs[x.waits.idxOf s.g.gid]? = none →
        exec (.recvTry d k ch) s = .next ((s.wrC k false).setPc (s.pc + 4)) ∧
        (x.msgs ≠ [] ∨ teamGone s x.prod = false → ∃ t, exec (.recv d ch) s = .next t ∧ t.g = { s.g with sStall := some .chanEmpty }))) ∧
    ((∀ x ∈ s.gcluster.chans, x.ch ≠ ch.toNat ∨ x.prod ≠ s.gteam.k) →
      exec (.send a ch) s = .next (takeTrap s false { code := .channelUndeclared }) ∧
      exec (.sendTry k a ch) s = .next (takeTrap s false { code := .channelUndeclared })) ∧
    ((∀ x ∈ s.gcluster.chans, x.ch ≠ ch.toNat ∨ x.cons ≠ s.gteam.k) →
      exec (.recv d ch) s = .next (takeTrap s false { code := .channelUndeclared }) ∧
      exec (.recvTry d k ch) s = .next (takeTrap s false { code := .channelUndeclared }))

/-! ### Launch control -/

/-- R209, R171, R368: a push into a graph-edge queue with a free slot ends the region (and sets c[k] for LAUNCH.TRY); with none LAUNCH.Q
waits and LAUNCH.TRY clears c[k] alone, whatever the lane stream still does. The push itself fills the slot that PUSHED names, counts FREE
down and PUSHED up, in this order, each write a store that puts its bytes where its address reaches and no others, has the record taken,
and touches no register. -/
def Sys2Proof.Spec.GraphEdgePushes : Prop :=
  ∀ (s : State) (a b : SReg) (k : CReg), s.party = .group → Settled s [] [a, b] →
    (∀ t, Drained s → edgePush s (s.rdS a) (s.rdS b) = .ok (some t) →
      let u := { t with g := t.g.endRegion (t.pc + 4) }
      exec (.launchQ a b) s = .next (u.setPc (t.pc + 4)) ∧ exec (.launchTry k a b) s = .next ((u.wrC k true).setPc (t.pc + 4)) ∧
      t.g = s.g ∧ .launchTake (.edge s.gdom s.gasn (s.rdS b)) ∈ t.engineQ ∧
      ∃ r u h v w1 w2 w3, recordAt s (s.rdS a) 16 = .ok (r, u) ∧ recordAt u (s.rdS b) 8 = .ok (h, v) ∧ 0 < fieldOf h 16 4 ∧
        putAll v (BitVec.ofNat 64 (fieldOf h 8 8 + 128 * (fieldOf h 24 8 % 2 ^ (fieldOf h 0 4 % 16)))) r 16 = .ok w1 ∧
        putAt w1 (s.rdS b + 16) 4 (fieldOf h 16 4 - 1) = .ok w2 ∧ putAt w2 (s.rdS b + 24) 8 (fieldOf h 24 8 + 1) = .ok w3 ∧ SameBytes w3 t) ∧
    (∀ u va n v w, putAt u va n v = .ok w → ∃ l, access u va n .store .plainStore = .ok l ∧ w.g = u.g ∧
      (isRemote l.key = true → SameBytes u w) ∧ SameBytesOutside u w l.key n ∧
      (isRemote l.key = false → poisoned u l.key n = false → Memory.read w.mem l.key n = v % 256 ^ n)) ∧
    (∀ u va b n w, putAll u va b (n + 1) = .ok w → ∃ w', putAt u va 8 (ofBytes (b.take 8)) = .ok w' ∧ putAll w' (va + 8) (b.drop 8) n = .ok w) ∧
    (edgePush s (s.rdS a) (s.rdS b) = .ok none →
      (Drained s → exec (.launchQ a b) s = .next { s.remClear with g := { s.g with sStall := some .launchFull } }) ∧
      exec (.launchTry k a b) s = .next ((s.remClear.wrC k false).setPc (s.pc + 4))) ∧
    (Drained s → canonical (s.rdS a) = true → (s.rdS a).toNat % 128 ≠ 0 → exec (.launchQ a b) s = .next (takeTrap s false { code := .misaligned, addr := s.rdS a }))

/-- R210, R212: TRIGGER marks the group once and counts it in its launch; YIELD without a request only moves on; with one it
waits for its drain as a YIELD that has issued, and then makes the group's light save at PC + 4, its streams' unpopped contents gone; the
save of one whose request has been withdrawn is complete, with STATE 2, and it goes on; its gang leaves once every group of it has saved or exited (R374, `tryLeave`). -/
def Sys2Proof.Spec.TriggerAndYield : Prop :=
  (∀ s : State, s.party = .group → Drained s →
    (s.g.triggered = true → exec .trigger s = .next (s.setPc (s.pc + 4))) ∧
    (s.g.triggered = false → exec .trigger s = .next
      ({ s.setLaunch { s.glaunch with triggers := s.glaunch.triggers + 1 } with g := { s.g with triggered := true } }.setPc (s.pc + 4)))) ∧
  (∀ s : State, s.party = .group → s.g.yieldReq = false → s.g.leave ≠ .yielding → exec .yield s = .next (s.setPc (s.pc + 4))) ∧
  (∀ s : State, s.party = .group → (s.g.yieldReq = true ∨ s.g.leave = .yielding) → s.g.drained = false →
    exec .yield s = .next { s with g := { s.g with leave := .yielding, sStall := some .drain } }) ∧
  (∀ s : State, s.party = .group → s.g.yieldReq = true → Drained s →
    let t := lightSave (s.setPc (s.pc + 4))
    exec .yield s = .next (tryLeave t s.gteam.cluster) ∧
      t.g = { s.g with leave := .light, sc := { s.g.sc with pc := s.pc + 4 }
                       streams := s.g.streams.map fun y => (y.1, { y.2 with loadQ := [] }) }) ∧
  (∀ s : State, s.party = .group → s.g.yieldReq = false → s.g.leave = .yielding → Drained s →
    let t := lightSave (s.setPc (s.pc + 4))
    exec .yield s = .next (tryLeave t s.gteam.cluster) ∧ t.g.leave = .stay ∧ t.g.sc.pc = s.pc + 4 ∧
    ∀ a, yieldArea s s.gteam = some a → s.poison = [] → Memory.read t.mem (a + 4) 4 = 2 ∧ Memory.read t.mem (a + 4096 * s.g.gidx + 4) 4 = 2)

/-- R211: EXIT of a drained group with no parked lane and no pending token: the group is gone from its slot; while
a lane is parked or a token is pending it waits. -/
def Sys2Proof.Spec.ExitEndsTheGroup : Prop :=
  ∀ s : State, s.party = .group → Drained s →
    (s.g.parked = [] → s.g.sc.tok = 0 →
      exec .exit s = .next (tryLeave (s.leave false) s.gteam.cluster) ∧ (s.leave false).g = ({} : Group)) ∧
    ((s.g.parked ≠ [] ∨ s.g.sc.tok ≠ 0) → exec .exit s = .next { s with g := { s.g with sStall := some .exitWait } })


/-- R209 to R212: pushes to graph edges, TRIGGER, YIELD and EXIT. -/
def Obligations.LaunchControl : Prop :=
  Sys2Proof.Spec.GraphEdgePushes ∧ Sys2Proof.Spec.TriggerAndYield ∧ Sys2Proof.Spec.ExitEndsTheGroup

/-! ### Streams, copies, transfers -/

/-- R176, R178: STRM.DEF defines a descriptor from its record and keeps its port; BIND gives it the port, taken from any other; POS
reads its position; SEEK sets it, and discards what was fetched; CLOSE leaves it undefined.
An undefined descriptor raises QUEUE_UNBOUND. -/
def Obligations.StreamDescriptors : Prop :=
  ∀ (s : State) (k j : BitVec 4) (a d : SReg), s.party = .group → Settled s [d] [a] → Drained s →
    let x := s.g.stream k.toNat
    (∀ b u y, canonical (s.rdS a) = true → (s.rdS a).toNat % 64 = 0 → recordAt s (s.rdS a) 8 = .ok (b, u) → streamOf b = some y →
      ∃ t, exec (.strmDef k a) s = .next t ∧ t.pc = u.pc + 4 ∧ SameBytes u t ∧
        t.g.stream k.toNat = { y with port := (u.remClear.g.stream k.toNat).port }) ∧
    (x.defined = true →
      (∃ t, exec (.strmBind j k) s = .next t ∧ t.pc = s.pc + 4 ∧ SameBytes s t ∧ (t.g.stream k.toNat).port = some j.toNat ∧
        (t.g.stream k.toNat).pos = x.pos ∧ (t.g.stream k.toNat).loadQ = [] ∧
        ∀ m, m ≠ k.toNat → (t.g.stream m).port ≠ some j.toNat) ∧
      exec (.strmPos d k) s = .next ((s.wrS d (BitVec.ofNat 64 x.pos)).next) ∧
      ((s.rdS a).toNat ≤ x.total → ∃ t, exec (.strmSeek k a) s = .next t ∧ t.pc = s.pc + 4 ∧ SameBytes s t ∧
        t.g.stream k.toNat = { x with pos := (s.rdS a).toNat, loadQ := [] }) ∧
      (x.total < (s.rdS a).toNat → exec (.strmSeek k a) s = .next (takeTrap s false { code := .bounds })) ∧
      exec (.strmClose k) s = .next ({ s with g := s.g.setStream k.toNat {} }.next)) ∧
    (x.defined = false → ∀ i ∈ [.strmBind j k, .strmPos d k, .strmSeek k a, .strmClose k],
      exec i s = .next (takeTrap s false { code := .queueUnbound }))

namespace Sys2Proof.Spec

/-- The three tensor copies and their modes. -/
def tensorCopy : Instr → Option (CpMode × SReg × SReg × SReg × SReg)
  | .cpTensTile d l c p => some (.tile, d, l, c, p)
  | .cpTensConv d l c p => some (.conv, d, l, c, p)
  | .cpTensGather d l c p => some (.gather, d, l, c, p)
  | _ => none

/-- The group's state after work begins: one more piece of work, the register pending, a region ended, the next word. -/
structure Started (u t : State) (d : SReg) (k : JobKind) (status : DWord) : Prop where
  jobs : ∃ j, t.jobs = u.jobs ++ [j] ∧ j.id = u.nextId ∧ j.reg = d ∧ j.kind = k ∧ j.status = status ∧ j.gid = u.g.gid
  ident : t.nextId = u.nextId + 1
  awaits : d ≠ 0 → t.pending d = true
  others : ∀ r, r ≠ d → t.pending r = u.pending r
  regs : ∀ r, t.rdS r = u.rdS r
  region : t.g.regcnt = u.g.regcnt + 1
  entry : t.g.region.pc = u.g.sc.pc + 4
  pc : t.pc = u.pc + 4
  bytes : SameBytes u t

end Sys2Proof.Spec

/-- R195, R199, R171: a CP.TENS whose checks pass moves its elements, ends the region and leaves `st` awaiting the status word of
what it moved (of a gather with an uncorrectable index the rows before it, code 4, unless an element has stopped it earlier); an operand that runs past its allocation gives code 1 at once and moves nothing, COPYTRAP clear. The copy's data
are moved when it issues: the model's choice (assumption 9). -/
def Sys2Proof.Spec.TensorCopies : Prop :=
  ∀ (s : State) (i : Instr) (m : CpMode) (d l c p : SReg), Spec.tensorCopy i = some (m, d, l, c, p) → s.party = .group →
    Settled s [d] [l, p] → Drained s →
    (canonical (s.rdS l) = true → (s.rdS l).toNat % 64 ≠ 0 → exec i s = .next (takeTrap s false { code := .misaligned, addr := s.rdS l })) ∧
    ∀ b u t, (s.rdS l).toNat % 64 = 0 → recordAt s (s.rdS l) 8 = .ok (b, u) → tlrOf b m = some t → c.toNat + t.rank ≤ 64 →
      Settled s [] ((List.range t.rank).map fun n => BitVec.ofNat 6 (c.toNat + n)) →
      ∀ xs key room, cpItems s t m c.toNat = .ok xs → windowRoom s (s.rdS p) = some (key, room) → (s.rdS p).toNat % t.esz = 0 →
        ((xs = none ∨ ∃ y, xs = some y ∧ room < t.esz * y.length) → s.g.copyTrap = false →
          exec i s = .next ((u.remClear.endRegion.wrS d (statusWord 1 0)).next)) ∧
        (∀ y w v bytes code, xs = some y → t.esz * y.length ≤ room →
          let bad := badIndex s t m c.toNat
          let ys := (bad.map fun k => y.take (t.box.getD 0 1 * k.1)).getD y
          (∀ e ∈ cpLines u t key (s.rdS p) ys, s.owned e.1.key t.esz = false) → u.grants false (cpLines u t key (s.rdS p) ys) = .ok w →
          cpRun t key w.nextId ys w 0 0 = .ok (v, bytes, code) → v.party = .group →
          let e := if code = 0 ∨ code = 3 then indexEnd v bad code else (v, code)
          ∃ r, exec i s = .next r ∧ Spec.Started e.1.remClear r d .copy (statusWord e.2 bytes))

/-- R200: CP.TRY of a register that awaits nothing sets its condition; with imm 0, or when imm ck have passed, it clears it; before
that it waits. -/
def Sys2Proof.Spec.TokenPolling : Prop :=
  ∀ (s : State) (k : CReg) (r : SReg) (imm : BitVec 14),
    let rest : State := { s with g := { s.g with tryWait := false, tryOver := false } }
    (s.pending r = false → exec (.cpTry k r imm) s = .next ((rest.wrC k true).next)) ∧
    (s.pending r = true → imm = 0 ∨ s.g.tryOver = true → exec (.cpTry k r imm) s = .next ((rest.wrC k false).next)) ∧
    (s.party = .group → s.pending r = true → imm ≠ 0 → s.g.tryOver = false →
      exec (.cpTry k r imm) s = .next { s with g := { s.g with tryWait := true, sStall := some .cpTry } })

/-- R195, R199, R200: copies begin and their tokens are polled. -/
def Obligations.TensorCopiesAndTheirTokens : Prop :=
  Sys2Proof.Spec.TensorCopies ∧ Sys2Proof.Spec.TokenPolling

namespace Sys2Proof.Spec

/-- The four collectives and their numbers. -/
def collective : Instr → Option (Nat × SReg × SReg)
  | .collAr d a => some (0, d, a)
  | .collAg d a => some (1, d, a)
  | .collRs d a => some (2, d, a)
  | .collBc d a => some (3, d, a)
  | _ => none

end Sys2Proof.Spec

/-- R188, R206, R208, R199: GRAD.SEAL, XFER and COLL whose operands obey their rules begin their work and leave `sd` awaiting its
token; the seal folds the pages of its range that are present, readable and carry G, or with a length of 0 all; a misaligned range, or
record at an address that R168 step 1 admits, raises MISALIGNED and a record that breaks its layout RESERVED_FIELD (for COLL the model's
choice, assumption 61). Without a plane that is up XFER's token is code 5 with nothing sent, at once (R448; the model's choice, assumption
25); a communicator that is not there or breaks its rules gives COLL code 6, one that holds an uncorrectable error code 4 (R454, R458).
That XFER and COLL read their data as they issue is the model's choice (assumption 9). -/
def Obligations.TransfersSealsAndCollectives : Prop :=
  ∀ (s : State) (d a b : SReg), s.party = .group → Settled s [d] [a, b] → Drained s →
    ((s.rdS a).toNat % 512 = 0 → (s.rdS b).toNat % 512 = 0 → ∃ t rs, exec (.gradSeal d a b) s = .next t ∧
      t = (s.startJob d (.seal rs) 0).next ∧ (rs = none ↔ s.rdS b = 0) ∧
      let lo := (s.rdS a).toNat
      let hi := lo + (s.rdS b).toNat
      ∀ xs, rs = some xs → ∀ r, r ∈ xs ↔ ∃ x l, lo ≤ x ∧ x < hi ∧ (x = lo ∨ x % 65536 = 0) ∧
        translate s (BitVec.ofNat 64 x) .load = .ok l ∧ l.g = true ∧ r = (l.key, min hi ((x / 65536 + 1) * 65536) - x)) ∧
    ((s.rdS a).toNat % 512 ≠ 0 → exec (.gradSeal d a b) s = .next (takeTrap s false { code := .misaligned, addr := s.rdS a })) ∧
    ((s.rdS a).toNat % 512 = 0 → (s.rdS b).toNat % 512 ≠ 0 → exec (.gradSeal d a b) s = .next (takeTrap s false { code := .misaligned })) ∧
    (∀ i op, Spec.collective i = some (op, d, a) → canonical (s.rdS a) = true → (s.rdS a).toNat % 64 ≠ 0 →
      exec i s = .next (takeTrap s false { code := .misaligned, addr := s.rdS a })) ∧
    (canonical (s.rdS a) = true → (s.rdS a).toNat % 32 ≠ 0 → exec (.xfer d a) s = .next (takeTrap s false { code := .misaligned, addr := s.rdS a })) ∧
    (∀ x u, (s.rdS a).toNat % 32 = 0 → recordAt s (s.rdS a) 4 = .ok (x, u) →
      (xferOf x = none → exec (.xfer d a) s = .next (takeTrap s false { code := .reservedField })) ∧
      (∀ r, xferOf x = some r → Released s .fab →
        (reachable s = false → u.party = .group →
          ∃ t, exec (.xfer d a) s = .next t ∧ Spec.Started u.remClear t d (.xfer 0 0 5) 0) ∧
        (∀ data w, reachable s = true → readRange u r.src (r.len / 8) = (data, none, w) →
          let cs := xferChunks (r.len / 64 + 1) r.dst data
          let v := cs.zipIdx.foldl (sendXfer r w.nextId) w.remClear
          exec (.xfer d a) s = .next ((v.endRegion.startJob d (.xfer cs.length 0 0) 0).next)))) ∧
    (∀ i op x u, Spec.collective i = some (op, d, a) → (s.rdS a).toNat % 64 = 0 → recordAt s (s.rdS a) 8 = .ok (x, u) →
      (collOf op x = none → exec i s = .next (takeTrap s false { code := .reservedField })) ∧
      (∀ c, collOf op x = some c → Released s .fab →
        (∀ w code pkgs, commOf u u.gdom c.comm = .error (w, code, pkgs) → w.party = .group → ∃ t, exec i s = .next t ∧
          Spec.Started w.remClear t d (.coll { c with
            code := code, finished := true, pkgs := pkgs, seq := SMap.get 0 u.fabric.collSeq (2 ^ 32 * u.gdom + c.comm) }) 0 ∧
          SMap.get 0 t.fabric.collSeq (2 ^ 32 * u.gdom + c.comm) = SMap.get 0 u.fabric.collSeq (2 ^ 32 * u.gdom + c.comm) + 1) ∧
        (∀ pkgs key own w, commOf u u.gdom c.comm = .ok (pkgs, key) → c.root < pkgs.length →
          let n := collElem c.ty
          let idx := 2 ^ 32 * u.gdom + c.comm
          let e : Coll := { c with pkgs := pkgs, key := key, rank := pkgs.findIdx (· == u.fabric.pkg), seq := SMap.get 0 u.fabric.collSeq idx }
          collRead u (BitVec.ofNat 64 (fieldOf x 0 8)) n e.reads = .ok (own, w) →
          ∀ ls v, collDest w (BitVec.ofNat 64 (fieldOf x 8 8)) n e.writes = .ok ls → (∀ l ∈ ls, s.owned l.1.key n = false) →
            w.grants false ls = .ok v →
            exec i s = .next (startColl
              { v.remClear with fabric := { v.remClear.fabric with collSeq := SMap.set 0 v.remClear.fabric.collSeq idx (e.seq + 1) } }
              d { e with own := own, keys := ls.map fun l => l.1.key }))))

/-! ### Grids -/

/-- R190 to R192: GRID.BIND binds the slot to the grid of the descriptor and the partition whose entry names the group; GRID.PUB of
the step already published only moves on, of a lower step or 0xFFFFFFFF raises RESERVED_FIELD, of a later step publishes it;
GRID.STAT reads PUBSTEP and RCVSTEP. An unbound slot raises RESERVED_FIELD. -/
def Obligations.GridBindingAndPublication : Prop :=
  ∀ (s : State) (n : BitVec 4) (a d : SReg), s.party = .group → Settled s [d] [a] → Drained s →
    (∀ b t d0 os u part, (s.rdS a).toNat % 256 = 0 → recordAt s (s.rdS a) 32 = .ok (b, t) → gridOf s s.gdom b = some d0 →
      readOwners t (BitVec.ofNat 64 (fieldOf b 72 8)) (d0.p.foldl (· * ·) 1) = .ok (os, u) →
      os.findIdx? (fun o => o.pkg == s.fabric.pkg && o.team == s.gteam.teamlin) = some part →
      (∀ g : Grid, g.d = { d0 with owners := os } → g.dom = s.gdom → g.asn = s.gasn → g.desc = s.rdS a →
        storageOk u.remClear g part = .ok ()) →
      ∃ r, exec (.gridBind n a) s = .next r ∧ r.pc = u.remClear.pc + 4 ∧ SMap.get ⟨0, 0⟩ r.g.grids n.toNat = ⟨s.rdS a, part + 1⟩ ∧
        SameBytes u r ∧ ∃ g ∈ r.grids, g.desc = s.rdS a ∧ s.gteam.launch ∈ g.launches) ∧
    (∀ g part, slotGrid s n = .ok (g, part) →
      let step := (s.rdS a).toNat % 2 ^ 32
      (Released s .fab →
        ((g.partOf part).published = some step → step ≠ 2 ^ 32 - 1 → exec (.gridPub n a) s = .next s.next) ∧
        (((∃ p, (g.partOf part).published = some p ∧ step < p) ∨ step = 2 ^ 32 - 1) →
          exec (.gridPub n a) s = .next (takeTrap s false { code := .reservedField })) ∧
        (∀ u w, (∀ p, (g.partOf part).published = some p → p < step) → step ≠ 2 ^ 32 - 1 →
          (∀ l ∈ pubLines s g part step, s.owned l.1.key 1 = false) → s.grants false (pubLines s g part step) = .ok u → publish u g part step = .ok w → exec (.gridPub n a) s = .next w.next)) ∧
      exec (.gridStat d n) s = .next ((s.wrS d (BitVec.ofNat 64
        (((g.partOf part).published.getD (2 ^ 32 - 1)) * 2 ^ 32 + rcvStep g (g.partOf part)))).next)) ∧
    ((SMap.get ⟨0, 0⟩ s.g.grids n.toNat).part = 0 → ∀ i ∈ [.gridPub n a, .gridStat d n],
      exec i s = .next (takeTrap s false { code := .reservedField }))

/-! ### The tape and replay -/

/-- R264, R266, R269, R270: TAPE.OPEN opens an empty tape; TAPE.MARK closes the segment and begins the next at a span boundary, of a
class and an identifier; class 2 ends the handler of a recompute event; TAPE.STAT; TAPE.CLOSE waits for the
group's writes to other packages and closes the tape. -/
def Obligations.TapeControl : Prop :=
  ∀ (s : State) (a d : SReg), s.party = .group → Settled s [d] [a] → Drained s →
    let x := (s.rdS a).toNat
    (∀ b u, x % 32 = 0 → recordAt s (s.rdS a) 4 = .ok (b, u) → u.party = .group →
      (s.g.tape.opened = false ∧ 256 ≤ s.gteam.tapesz ∧ fieldOf b 0 8 % 128 = 0 ∧ fieldOf b 8 8 % 128 = 0 ∧ fieldOf b 16 8 % 4 = 0 ∧
        fieldOf b 24 8 = 0 → exec (.tapeOpen a) s = .next ((u.remClear.setTape
          { opened := true, spill := BitVec.ofNat 64 (fieldOf b 0 8), spillSz := fieldOf b 8 8
            handler := BitVec.ofNat 64 (fieldOf b 16 8) }).next)) ∧
      (s.g.tape.opened = true → exec (.tapeOpen a) s = .next (takeTrap s false { code := .reservedField }))) ∧
    (s.g.tape.opened = true → s.g.tape.recomp = false → x < 2 ^ 33 → (x / 2 ^ 32 = 1 → s.g.tape.segs.length < 16) →
      ∃ t, exec (.tapeMark a) s = .next t ∧ t.pc = s.pc + 4 ∧ SameBytes s t ∧
        t.g.tape.wpos = 30 * spansAt s.g.tape.wpos ∧ t.g.tape.marked = true ∧ t.g.tape.cls1 = decide (x / 2 ^ 32 = 1) ∧
        (x / 2 ^ 32 = 1 → t.g.tape.segs.getLast? =
          some ⟨30 * spansAt s.g.tape.wpos, BitVec.ofNat 32 x, true, 30 * spansAt s.g.tape.wpos, s.g.tape.top⟩)) ∧
    (s.g.tape.opened = true → s.g.tape.recomp = true → x < 2 ^ 34 → x / 2 ^ 32 = 2 →
      ∃ t, exec (.tapeMarkRet a) s = .next t ∧ exec (.tapeMark a) s = .next t ∧ t.pc = s.g.tape.savedPc ∧ t.rdS 1 = s.g.tape.savedS1 ∧
        t.g.lane = { s.g.tape.heldLane with count := s.g.lane.count } ∧ t.g.tape.recomp = false ∧ t.g.tape.segs = s.g.tape.segs.dropLast ∧
        t.g.regcnt = s.g.regcnt + 1 ∧ (∀ r, r ≠ 1 → t.rdS r = s.rdS r) ∧ SameBytes s t) ∧
    (s.g.tape.opened = true → s.g.tape.recomp = false → x < 2 ^ 34 → x / 2 ^ 32 = 2 →
      exec (.tapeMarkRet a) s = .next (takeTrap s false { code := .reservedField })) ∧
    exec (.tapeStat d) s = .next ((s.wrS d (tapeStat s.g.tape)).next) ∧
    (s.fabDone = true → exec .tapeClose s = .next ((s.setTape {}).next)) ∧
    (s.fabDone = false → exec .tapeClose s = .next { s with g := { s.g with sStall := some .peer } })

/-- R214, R412, R413, R418: REPLAY.REC and REPLAY.PLAY join the session of the descriptor as the participant that `sb` names, with its
seed as G and its index 0; a group in a session, or a participant number at or above the count, raises RESERVED_FIELD; REPLAY.CHK
writes or compares the participant's next entry, delivers G and moves to the next index; REPLAY.OFF leaves the session, and G stays as
it is. -/
def Obligations.ReplaySessions : Prop :=
  ∀ (s : State) (a b d : SReg), s.party = .group → Settled s [d] [a, b] → Drained s →
    let va := s.rdS a
    let x := (s.rdS b).toNat
    (∀ e u play, va.toNat % 64 = 0 → recordAt s va 8 = .ok (e, u) → u.party = .group →
      let i := if play then Instr.replayPlay a b else .replayRec a b
      (x / 2 ^ 56 = 0 → x / 2 ^ 32 < fieldOf e 12 4 → s.g.replay = none →
        (play = true → fieldOf e 40 8 % 2 = 0 ∧ fieldOf e 40 8 / 4 % 2 = 0) →
        ∃ t, exec i s = .next t ∧ t.pc = u.pc + 4 ∧ SameBytes u t ∧ t.g.replay =
          some { sess := va, play := play, pid := x / 2 ^ 32, g := BitVec.ofNat 32 x, idx := 0, pend := [] }) ∧
      (x / 2 ^ 56 ≠ 0 ∨ fieldOf e 12 4 ≤ x / 2 ^ 32 ∨ s.g.replay.isSome = true →
        exec i s = .next (takeTrap s false { code := .reservedField }))) ∧
    (∀ r m, s.g.replay = some r → s.member? = some m → r.idx < sessField s m 24 4 →
      let ea := BitVec.ofNat 64 (sessField s m 16 8 + 8 * (r.pid * sessField s m 24 4 + r.idx))
      (m.play = true → ∀ e u, loadS s ea 8 false = .ok (e, u) → e < 2 ^ 64 → u.party = .group →
        (2 ^ 63 ≤ e → e % 2 ^ 32 = r.g.toNat → ∃ t, exec (.replayChk d) s = .next t ∧ (d ≠ 0 → t.rdS d = r.g.setWidth 64) ∧
          t.pc = u.pc + 4 ∧ t.g.replay = some { r with idx := r.idx + 1 }) ∧
        (e < 2 ^ 63 ∨ e % 2 ^ 32 ≠ r.g.toNat →
          exec (.replayChk d) s = .next (takeTrap (setStatus s m 1) false { code := .replayDiverge }))) ∧
      (m.play = false → ∀ l u, access s ea 8 .store .plainStore = .ok l → (s.touch ea true).put l ea 8 (2 ^ 63 + r.g.toNat) s.g.relS = .ok u →
        u.party = .group → ∃ t, exec (.replayChk d) s = .next t ∧ (d ≠ 0 → t.rdS d = r.g.setWidth 64) ∧ t.pc = u.pc + 4 ∧
          t.g.replay = some { r with idx := r.idx + 1 } ∧ SameBytes u t)) ∧
    exec .replayOff s = .next ({ s with g := { s.g with replay := none, frozen := (s.g.replay.map fun (r : Replay) => r.g).getD s.g.frozen } }.next)

/-! ### Privileged instructions -/

namespace Sys2Proof.Spec

/-- The instructions that R104 calls privileged. -/
def privileged : Instr → Bool
  | .eret | .tlbinvPage .. | .tlbinvSpace .. | .tlbinvDom .. | .tlbinvAll | .ctxSave .. | .ctxLoad .. | .domSet .. | .wdt .. => true
  | _ => false

end Sys2Proof.Spec

/-- R104, R395, R400: on a core every privileged instruction traps with PRIVILEGE (GroupTraps says what that leaves). -/
def Sys2Proof.Spec.PrivilegedInstructionsOnACore : Prop :=
  ∀ (s : State) (i : Instr), Spec.privileged i = true → s.party = .group →
    exec i s = .next (takeTrap s false { code := .privilege })

/-- R106 to R109: on a policy core TLBINV removes the entries it names and no others; CTX.SAVE and CTX.LOAD answer their status and do
what a save or a restore does, the one once nothing of the team is in flight, the other once the area is whole; DOM.SET gives its unit to the domain or answers why not; WDT sets or stops the core's watchdog. A
reserved operand bit, a kind of 3 or more, a domain of 2 to 14 or above 15, and a queue given to the other host domain raise
RESERVED_FIELD. That CTX.SAVE of a slot without a group answers 1 whatever the area, and that it answers as soon as the image stands, are
the model's choice (assumption 61). -/
def Sys2Proof.Spec.PrivilegedInstructionsOnAPolicyCore : Prop :=
  ∀ (s : State) (k : Nat) (a b d : SReg), s.party = .policy k → Settled s [d] [a, b] →
    let x := (s.rdS a).toNat
    let y := (s.rdS b).toNat
    exec .tlbinvAll s = .next ({ s with tlb := [] }.next) ∧
    (y < 2 ^ 18 →
      (∃ t, exec (.tlbinvPage a b) s = .next t ∧ t = { s with tlb := t.tlb }.next ∧ ∀ e, e ∈ t.tlb ↔ e ∈ s.tlb ∧
        ¬ (e.dom = y / 2 ^ 16 ∧ e.asn = y % 2 ^ 16 ∧ e.base = x / pageBytes e.level * pageBytes e.level)) ∧
      (∃ t, exec (.tlbinvSpace b) s = .next t ∧ t = { s with tlb := t.tlb }.next ∧
        ∀ e, e ∈ t.tlb ↔ e ∈ s.tlb ∧ ¬ (e.dom = y / 2 ^ 16 ∧ e.asn = y % 2 ^ 16)) ∧
      (∃ t, exec (.tlbinvDom b) s = .next t ∧ t = { s with tlb := t.tlb }.next ∧ ∀ e, e ∈ t.tlb ↔ e ∈ s.tlb ∧ e.dom ≠ y / 2 ^ 16)) ∧
    (2 ^ 18 ≤ y → ∀ i ∈ [.tlbinvPage a b, .tlbinvSpace b, .tlbinvDom b],
      exec i s = .next (policyTrap s k { code := .reservedField })) ∧
    (s.groups.find? (fun g => g.slot == x % 64 && (s.team g.team).core == x / 2 ^ 8 % 2 ^ 8) = none →
      exec (.ctxSave d a b) s = .next ((s.wrS d 0x8000000000000001).next)) ∧
    (∀ g, s.groups.find? (fun g => g.slot == x % 64 && (s.team g.team).core == x / 2 ^ 8 % 2 ^ 8) = some g →
      (y % 4096 ≠ 0 → exec (.ctxSave d a b) s = .next ((s.wrS d 0x8000000000000003).next)) ∧
      (y % 4096 = 0 → y + areaBytes (geometry s (s.team g.team)).2.2.1 ≤ s.priv.memtop.toNat →
        let u := s.mapGroups fun x => if x.live && x.team == g.team && x.leave == .stay then { x with leave := .forcing } else x
        let t := settleForced u (teamGroups u g.team)
        ((∀ x ∈ teamGroups t g.team, x.left = true) →
          exec (.ctxSave d a b) s = .next ((({ saveTeam t y g.team with party := s.party }).wrS d 0).next)) ∧
        ((∃ x ∈ teamGroups t g.team, x.left = false) → exec (.ctxSave d a b) s = .next { t with party := s.party }))) ∧
    (imageFlaw s y = none →
      (∀ v t, restoreTeam s y (x / 2 ^ 8 % 2 ^ 8) = some (v, t) → exec (.ctxLoad d a b) s = .next ((t.wrS d v).next)) ∧
      (restoreTeam s y (x / 2 ^ 8 % 2 ^ 8) = none → exec (.ctxLoad d a b) s = .next s)) ∧
    (∀ p, imageFlaw s y = some p → exec (.ctxLoad d a b) s = .next (takeTrap s false (flawed (s.rdS b) p 0))) ∧
    (2 < x / 2 ^ 60 ∨ (2 ≤ y ∧ y ≠ 15) ∨ (x / 2 ^ 60 = 1 ∧ x % 2 ^ 16 < 128 ∧ y ≠ 15 ∧ x % 2 ^ 16 / 64 ≠ y) →
      exec (.domSet d a b) s = .next (policyTrap s k { code := .reservedField })) ∧
    (∀ v t, y < 2 ∨ y = 15 → (x / 2 ^ 60 = 0 ∧ domCore s (x % 2 ^ 8) y = (v, t)) ∨
        (x / 2 ^ 60 = 1 ∧ (x % 2 ^ 16 < 128 → y = 15 ∨ x % 2 ^ 16 / 64 = y) ∧ domQueue s (x % 2 ^ 16) y = (v, t)) ∨
        (x / 2 ^ 60 = 2 ∧ domUnit s (x % 2 ^ 10) y = (v, t)) →
      exec (.domSet d a b) s = .next ((t.wrS d v).next)) ∧
    (x / 2 ^ 60 = 2 → y < 2 ∨ y = 15 → (x % 2 ^ 10 + 1) * 2 ^ 30 ≤ capacity s → SMap.get 15 s.units (x % 2 ^ 10) ≠ y →
        s.start.oldUnits = none →
      ∃ t, exec (.domSet d a b) s = .next t ∧ SMap.get 15 t.units (x % 2 ^ 10) = y ∧
        ∀ p, x % 2 ^ 10 * 2 ^ 30 ≤ p → p < (x % 2 ^ 10 + 1) * 2 ^ 30 → Memory.byte t.mem p = 0) ∧
    (x < 2 ^ 32 → exec (.wdt a) s =
      .next ((s.setPol k { s.pol k with wdt := if x = 0 then none else some (BitVec.ofNat 32 x) }).next)) ∧
    (2 ^ 32 ≤ x → exec (.wdt a) s = .next (policyTrap s k { code := .reservedField }))


/-- R104 to R108: the privileged instructions on a core and on a policy core. -/
def Obligations.PrivilegedInstructions : Prop :=
  Sys2Proof.Spec.PrivilegedInstructionsOnACore ∧ Sys2Proof.Spec.PrivilegedInstructionsOnAPolicyCore

/-! ### Lane instructions -/

namespace Sys2Proof.Spec
open Forms

/-- The lane instructions that compute each active lane's result from its operands, with how they use their fields. -/
def elementwise : Instr → Option LView
  | .vnop o => some (Forms.vnop o)
  | .vmovi i => some (Forms.vmovi i)
  | .vmov o | .vabs o | .vneg o | .vnot o | .vclz o | .vpopc o | .vbrev o | .lrcp o | .lneg o | .vunit o => some (alu1 o)
  | .vadd o | .vsub o | .vmul o | .vmulh o | .vmin o | .vmax o | .vand o | .vor o | .vxor o | .vandn o | .vshl o | .vshr o | .vsar o
  | .vrot o | .vbfx o => some (alu2 o)
  | .vmad o | .vlop3 o | .vfshl o | .vbfi o | .vpermb o => some (alu3 o)
  | .vaddc o | .vsubb o => some (carry o)
  | .vmadw o => some (Forms.vmadw o)
  | .vdiv o | .vrem o => some (Forms.vdiv o)
  | .vaddi i | .vmuli i | .vandi i | .vori i | .vxori i | .vshfi i => some (immAlu i)
  | .vsad o | .vdot4 o => some (sum4 o)
  | .vcmp o | .vfcmp o | .lcmp o => some (cmp o)
  | .vcmpi i => some (Forms.vcmpi i)
  | .vsel o => some (Forms.vsel o)
  | .vclass o => some (Forms.vclass o)
  | .plog o => some (Forms.plog o)
  | .psetRange o => some (Forms.psetRange o)
  | .psetMask o => some (Forms.psetMask o)
  | .p2v o => some (Forms.p2v o)
  | .v2p o => some (Forms.v2p o)
  | .vshfl o => some (Forms.vshfl o)
  | .vlogstep o | .vscan o => some (Forms.vlogstep o)
  | .vfadd o | .vfsub o | .vfmul o | .vfmin o | .vfmax o => some (fma2 o)
  | .vfma o => some (fma3 o)
  | .vfdiv o => some (sfu2 o)
  | .vfsqrt o | .vfrcp o | .vfrsq o | .vfexp2 o | .vflog2 o | .vfsin o | .vfcos o | .vftanh o => some (sfu1 o)
  | .vffrc o | .vfrnd o => some (fma1 o)
  | .vfscale o => some (Forms.vfscale o)
  | .vfdot2 o => some (Forms.vfdot2 o)
  | .vcvt o => some (Forms.vcvt o)
  | .vpack o => some (Forms.vpack o)
  | .vq4encSuper o => some (q4super o)
  | .vq4encScale o => some (q4scale o)
  | .vq4encCode o | .vq4dec o => some (q4code o)
  | .ladd o | .lsub o | .lmul o | .ldiv o => some (sli2 o)
  | .lcvt o => some (Forms.lcvt o)
  | _ => none

end Sys2Proof.Spec

/-- R67, R68, R92, R312, R458: the checks of an issuing lane instruction in their order (registers and predicates, bound ports, hazards,
the wait for uniform registers, their errors, and for a memory instruction the pushes before it), and what it has read when they
pass. The order after the hazards is the model's choice (assumption 39). -/
def Obligations.LaneIssueChecksInOrder : Prop :=
  ∀ (v : Forms.LView) (sw : Bool) (s : State), s.party = .group →
    let inside := (∀ x ∈ LView.spans v, x.1 + x.2 ≤ s.g.winsz) ∧ ∀ p ∈ LView.predNums v, p < s.g.predsz
    let bound := (∀ j ∈ sourcePorts v, s.g.bound j false = true) ∧ ∀ j ∈ storePorts v, s.g.bound j true = true
    let clash := (s.g.haz.at sw).conflict v = true
    let waits := ∃ r ∈ uniforms v, s.g.waits r = true
    let bad := ∃ r ∈ uniforms v, r ≠ 0 ∧ s.g.run.bad.getLsbD r.toNat = true
    (¬ inside → laneIssueWith v sw s = .error (.trap { code := .bounds })) ∧
    (inside → ¬ bound → laneIssueWith v sw s = .error (.trap { code := .queueUnbound })) ∧
    (inside → bound → clash → laneIssueWith v sw s = .error (.trap { code := .hazard })) ∧
    (inside → bound → ¬ clash → waits → laneIssueWith v sw s = .error (.stall .scoreboard)) ∧
    (inside → bound → ¬ clash → ¬ waits → bad → laneIssueWith v sw s = .error (registerError s [])) ∧
    (inside → bound → ¬ clash → ¬ waits → ¬ bad → v.mem = true → s.g.pushes ≠ [] →
      laneIssueWith v sw s = .error (.stall .pushWait)) ∧
    (LaneReady v sw s → laneIssueWith v sw s = .ok (laneIn v s, laneStart sw s))

/-- R8, R21, R67 to R72, R458: every element-wise lane instruction that is ready completes; it writes its destinations in the active
lanes, which hold no error then, raises flags there, and changes nothing else. -/
def Obligations.ElementwiseLaneInstructionsComplete : Prop :=
  ∀ (i : Instr) (v : Forms.LView) (s : State), Spec.elementwise i = some v → LaneReady v v.h.sw s →
    ∃ t, exec i s = .next t ∧ LaneFrame v v.h.sw s t ∧ ∀ k l, l < 32 → writesLane v s k l → 32 * k + l ∉ t.g.badV

namespace Sys2Proof.Spec

/-- The value of an unsaturated 32-bit operation with a vector register as its destination. -/
def wordOp : Instr → Option (LOp × (Word → Word → Word → Word))
  | .vmov o => if o.ty = .b32 then some (o, fun a _ _ => a) else none
  | .vadd o => if (o.ty = .s32 ∨ o.ty = .n32) ∧ o.sat = false then some (o, fun a b _ => a + b) else none
  | .vsub o => if (o.ty = .s32 ∨ o.ty = .n32) ∧ o.sat = false then some (o, fun a b _ => a - b) else none
  | .vmul o => if (o.ty = .s32 ∨ o.ty = .n32) ∧ o.sat = false then some (o, fun a b _ => a * b) else none
  | .vmad o => if (o.ty = .s32 ∨ o.ty = .n32) ∧ o.sat = false then some (o, fun a b c => a * b + c) else none
  | .vmin o => if o.ty = .s32 then some (o, fun a b _ => if b.toInt < a.toInt then b else a) else
      if o.ty = .n32 then some (o, fun a b _ => if b.toNat < a.toNat then b else a) else none
  | .vmax o => if o.ty = .s32 then some (o, fun a b _ => if a.toInt < b.toInt then b else a) else
      if o.ty = .n32 then some (o, fun a b _ => if a.toNat < b.toNat then b else a) else none
  | .vand o => if o.ty = .b32 then some (o, fun a b _ => a &&& b) else none
  | .vor o => if o.ty = .b32 then some (o, fun a b _ => a ||| b) else none
  | .vxor o => if o.ty = .b32 then some (o, fun a b _ => a ^^^ b) else none
  | .vandn o => if o.ty = .b32 then some (o, fun a b _ => a &&& ~~~b) else none
  | .vnot o => if o.ty = .b32 then some (o, fun a _ _ => ~~~a) else none
  | .vneg o => if o.ty = .f32 ∨ o.ty = .b32 then some (o, fun a _ _ => a ^^^ 0x80000000) else none
  | .vabs o => if o.ty = .f32 ∨ o.ty = .b32 then some (o, fun a _ _ => a &&& 0x7FFFFFFF) else none
  | .vfshl o => if o.ty = .b32 then some (o, fun a b c => ((a ++ b) <<< (c.toNat % 32)).extractLsb' 32 32) else none
  | _ => none

/-- A source field of 32 bits in a lane. -/
def word (s : State) (o : Opd) (l : Nat) : Word := (s.g.rdOpd s.gteam.teamlin false o l).setWidth 32

end Sys2Proof.Spec

/-- R112, R115, R116, R119: the values of the 32-bit integer and bitwise operations in each active lane; with `.sat` an .s32 sum is clamped
and raises SAT where it was out of range (R11). -/
def Sys2Proof.Spec.LaneIntegerValues : Prop :=
  (∀ (i : Instr) (v : Forms.LView) (o : LOp) f (n : BitVec 11) (s : State), Spec.wordOp i = some (o, f) → Spec.elementwise i = some v →
    o.vd = .v n → LaneReady v v.h.sw s → ∃ t, exec i s = .next t ∧ LaneFrame v v.h.sw s t ∧
      ∀ l, (s.g.active o.h).getLsbD l = true →
        t.g.vr n.toNat l = f (Spec.word s o.va l) (Spec.word s o.vb l) (Spec.word s o.vc l)) ∧
  (∀ (o : LOp) (n : BitVec 11) (s : State), o.ty = .s32 → o.sat = true → o.vd = .v n → LaneReady (Forms.alu2 o) o.h.sw s →
    ∃ t, exec (.vadd o) s = .next t ∧ LaneFrame (Forms.alu2 o) o.h.sw s t ∧ ∀ l, (s.g.active o.h).getLsbD l = true →
      let x := (Spec.word s o.va l).toInt + (Spec.word s o.vb l).toInt
      t.g.vr n.toNat l = BitVec.ofInt 32 (max (-2 ^ 31) (min (2 ^ 31 - 1) x)) ∧
      t.g.lst l = (if x < -2 ^ 31 ∨ 2 ^ 31 ≤ x then s.g.lst l ||| BitVec.ofNat 32 fSAT else s.g.lst l))

namespace Sys2Proof.Spec

/-- The f32 encodings of R13 and R14 that stand for no finite non-zero number. -/
def nan32 (x : Word) : Bool := decide (0x7F800000 < x.toNat % 2 ^ 31)
def snan32 (x : Word) : Bool := nan32 x && !x.getLsbD 22
def inf32 (x : Word) : Bool := decide (x.toNat % 2 ^ 31 = 0x7F800000)
def zero32 (x : Word) : Bool := decide (x.toNat % 2 ^ 31 = 0)
/-- An infinity, and a zero, of the sign that two factors give. -/
def infOf (a b : Word) : Word := ((a ^^^ b) &&& 0x80000000) ||| 0x7F800000
def zeroOf (a b : Word) : Word := (a ^^^ b) &&& 0x80000000

/-- The outcomes of R18 that rest on no rounding, without `.sat` and `.ftz`: rows 1 to 5 and R17's signs of a zero, with their flags. -/
def sum32 (a b : Word) : Option (Word × Nat) :=
  if inf32 a && inf32 b then some (if a = b then (a, 0) else (0x7FC00000, fNV))
  else if inf32 a then some (a, 0) else if inf32 b then some (b, 0) else none
def product32 (a b : Word) : Option (Word × Nat) :=
  if (inf32 a && zero32 b) || (zero32 a && inf32 b) then some (0x7FC00000, fNV)
  else if inf32 a || inf32 b then some (infOf a b, 0) else if zero32 a || zero32 b then some (zeroOf a b, 0) else none
def quotient32 (a b : Word) : Option (Word × Nat) :=
  if (inf32 a && inf32 b) || (zero32 a && zero32 b) then some (0x7FC00000, fNV)
  else if inf32 a then some (infOf a b, 0) else if zero32 a || inf32 b then some (zeroOf a b, 0)
  else if zero32 b then some (infOf a b, fDZ) else none

/-- VFADD, VFSUB, VFMUL and VFDIV with their outcomes on operands other than NaN. -/
def float2 : Instr → Option (LOp × (Word → Word → Option (Word × Nat)))
  | .vfadd o => some (o, sum32)
  | .vfsub o => some (o, fun a b => sum32 a (b ^^^ 0x80000000))
  | .vfmul o => some (o, product32)
  | .vfdiv o => some (o, quotient32)
  | _ => none

/-- R18, rows 1 and 2 before the others. -/
def outcome32 (f : Word → Word → Option (Word × Nat)) (a b : Word) : Option (Word × Nat) :=
  if snan32 a || snan32 b then some (0x7FC00000, fNV)
  else if nan32 a || nan32 b then some (0x7FC00000, 0) else f a b

end Sys2Proof.Spec

/-- R14, R17, R18, R20: VFADD, VFSUB, VFMUL and VFDIV on .f32 operands whose outcome rests on no rounding (a NaN, an infinity, a zero
factor or dividend, a zero divisor): the canonical NaN, the infinity or the zero with its sign, and the flags of the row. -/
def Sys2Proof.Spec.FloatsWithoutRounding : Prop :=
  ∀ (i : Instr) (v : Forms.LView) (o : LOp) f (n : BitVec 11) (s : State), Spec.float2 i = some (o, f) → Spec.elementwise i = some v →
    o.ty = .f32 → o.sat = false → o.ftz = false → o.vd = .v n → LaneReady v v.h.sw s →
    ∃ t, exec i s = .next t ∧ LaneFrame v v.h.sw s t ∧ ∀ l, (s.g.active o.h).getLsbD l = true →
      ∀ r, Spec.outcome32 f (Spec.word s o.va l) (Spec.word s o.vb l) = some r →
        t.g.vr n.toNat l = r.1 ∧ t.g.lst l = s.g.lst l ||| BitVec.ofNat 32 r.2

/-- R14, R18, R112, R115, R116, R119: values of lane integer, bitwise and floating-point operations. -/
def Obligations.LaneValues : Prop :=
  Sys2Proof.Spec.LaneIntegerValues ∧ Sys2Proof.Spec.FloatsWithoutRounding

/-- R113, R124, R126, R128, R130: the carry chain and its predicate, the 32-bit compares, VSEL, PLOG, P2V and V2P in each active lane. -/
def Obligations.PredicatesAndSelects : Prop :=
  ∀ (o : LOp) (s : State),
    let act (l : Nat) : Prop := (s.g.active o.h).getLsbD l = true
    let a := Spec.word s o.va
    let b := Spec.word s o.vb
    let p (l : Nat) : Bool := (s.g.pr (o.x.setWidth 7)).getLsbD l
    (∀ n, o.ty = .n32 → o.vd = .v n → LaneReady (Forms.carry o) o.h.sw s →
      (∃ t, exec (.vaddc o) s = .next t ∧ ∀ l, act l →
        t.g.vr n.toNat l = a l + b l + (if p l then 1 else 0) ∧
        (o.pd ≠ 0 → (t.g.pr o.pd).getLsbD l = decide (2 ^ 32 ≤ (a l).toNat + (b l).toNat + (if p l then 1 else 0)))) ∧
      (∃ t, exec (.vsubb o) s = .next t ∧ ∀ l, act l →
        t.g.vr n.toNat l = a l - b l - (if p l then 1 else 0) ∧
        (o.pd ≠ 0 → (t.g.pr o.pd).getLsbD l = decide ((a l).toNat < (b l).toNat + (if p l then 1 else 0))))) ∧
    (o.pd ≠ 0 → LaneReady (Forms.cmp o) o.h.sw s → ∃ t, exec (.vcmp o) s = .next t ∧ ∀ l, act l →
      (o.ty = .s32 → (t.g.pr o.pd).getLsbD l = match o.x.toNat % 16 with
        | 0 => a l == b l | 1 => a l != b l | 2 => decide ((a l).toInt < (b l).toInt) | 3 => decide ((a l).toInt ≤ (b l).toInt)
        | 4 => decide ((b l).toInt < (a l).toInt) | _ => decide ((b l).toInt ≤ (a l).toInt)) ∧
      (o.ty = .n32 ∨ o.ty = .b32 → (t.g.pr o.pd).getLsbD l = match o.x.toNat % 16 with
        | 0 => a l == b l | 1 => a l != b l | 2 => decide ((a l).toNat < (b l).toNat) | 3 => decide ((a l).toNat ≤ (b l).toNat)
        | 4 => decide ((b l).toNat < (a l).toNat) | _ => decide ((b l).toNat ≤ (a l).toNat))) ∧
    (∀ n, o.ty.wide = false → o.vd = .v n → LaneReady (Forms.vsel o) o.h.sw s → ∃ t, exec (.vsel o) s = .next t ∧ ∀ l, act l →
      t.g.vr n.toNat l = if p l then a l else b l) ∧
    (∀ x y z : BitVec 11, o.va = .v x → o.vb = .v y → o.vc = .v z → o.pd ≠ 0 → LaneReady (Forms.plog o) o.h.sw s →
      ∃ t, exec (.plog o) s = .next t ∧ ∀ l, act l →
        let bit (n : BitVec 11) : Nat := if (s.g.pr (n.setWidth 7)).getLsbD l then 1 else 0
        (t.g.pr o.pd).getLsbD l = o.x.getLsbD (4 * bit x + 2 * bit y + bit z)) ∧
    (∀ n, o.vd = .v n → LaneReady (Forms.p2v o) o.h.sw s → ∃ t, exec (.p2v o) s = .next t ∧ ∀ l, act l →
      t.g.vr n.toNat l = if p l then (if o.x.getLsbD 7 then BitVec.allOnes 32 else 1) else 0) ∧
    (o.pd ≠ 0 → LaneReady (Forms.v2p o) o.h.sw s → ∃ t, exec (.v2p o) s = .next t ∧ ∀ l, act l →
      (t.g.pr o.pd).getLsbD l = (a l != 0))

/-- R84: SSOW writes the generator's word of (sa, sb) with a zero upper half; VSOW.b32 writes the same word of each active lane's
operands, and `.x2` the second word beside it; of (1, 0) the word is 0x3E5A2973. -/
def Obligations.TheGeneratorsWord : Prop :=
  Spec.sow 1 0 = 0x3E5A2973 ∧
  (∀ (d a b : SReg) (s : State), Settled s [d] [a, b] → ∃ t, exec (.ssow d a b) s = .next t ∧
    WritesReg s t d ((Spec.sow ((s.rdS a).setWidth 32) ((s.rdS b).setWidth 32)).setWidth 64)) ∧
  (∀ (o : LOp) (n : BitVec 11) (s : State), o.vd = .v n → LaneReady (Forms.vsow o) o.h.sw s →
    ∃ t, exec (.vsow o) s = .next t ∧ LaneFrame (Forms.vsow o) o.h.sw s t ∧ ∀ l, (s.g.active o.h).getLsbD l = true →
      t.g.vr n.toNat l = Spec.sow (Spec.word s o.va l) (Spec.word s o.vb l) ∧
      (o.x.getLsbD 0 = true → t.g.vr (n.toNat + 1) l = Spec.sow (Spec.word s o.va l) (Spec.word s o.vb l ^^^ 0x5A5A5A5A)))

/-- R138, R139, R157: VTOPK and VUNPACK write their blocks of registers in active lanes and change nothing else; VTOPK gives each of the
lowest active lanes one of at most k candidates, the value and the index of an active lane, and the first lane the greatest value. -/
def Sys2Proof.Spec.BlockResults : Prop :=
  (∀ (o : LOp) (n : BitVec 11) (s : State), o.vd = .v n → LaneReady (Forms.vtopk o) o.h.sw s →
    ∃ t, exec (.vtopk o) s = .next t ∧ LaneFrame (Forms.vtopk o) o.h.sw s t ∧
      ∀ l, (s.g.active o.h).getLsbD l = true →
        let rank := (lanesOf (s.g.active o.h)).idxOf l
        (o.x.toNat % 128 ≤ rank → t.g.vr n.toNat l = s.g.vr n.toNat l) ∧
        (rank < o.x.toNat % 128 → ∃ m, (s.g.active o.h).getLsbD m = true ∧ t.g.vr n.toNat l = Spec.word s o.va m ∧
          t.g.vr (n.toNat + 1) l = (s.g.rdOpd s.gteam.teamlin true o.vb m).setWidth 32 ∧
          t.g.vr (n.toNat + 2) l = (s.g.rdOpd s.gteam.teamlin true o.vb m).extractLsb' 32 32) ∧
        (o.ty = .n32 → o.x.getLsbD 7 = false → rank = 0 → 0 < o.x.toNat % 128 →
          ∀ m, (s.g.active o.h).getLsbD m = true → (Spec.word s o.va m).toNat ≤ (t.g.vr n.toNat l).toNat)) ∧
  (∀ (o : LOp) (n : BitVec 11) (s : State), o.vd = .v n → LaneReady (Forms.vunpack o) o.h.sw s →
    ∃ t, exec (.vunpack o) s = .next t ∧ LaneFrame (Forms.vunpack o) o.h.sw s t)

/-- R47, R48, R131, R179: VMOV from a load-bound port takes the vector at its head and moves the stream 32 elements on; at the end of the
stream it raises BOUNDS, with nothing fetched it waits, and with an unbound port it raises QUEUE_UNBOUND. To a shuffle the port supplies
zero for the element of an inactive lane, which the pop has discarded. -/
def Sys2Proof.Spec.QueuePortsPop : Prop :=
  ∀ (o : LOp) (n : BitVec 11) (j : BitVec 4) (s : State), o.va = .q j → o.vd = .v n → o.ty = .b32 →
    (Instr.vmov o).WellFormed → s.party = .group → n.toNat < s.g.winsz → 0 < s.g.predsz → o.h.guard.toNat < s.g.predsz → o.pd = 0 → (s.g.haz.at o.h.sw).conflict (Forms.alu1 o) = false →
    (s.g.bound j.toNat false = false → exec (.vmov o) s = .next (takeTrap s true { code := .queueUnbound })) ∧
    (∀ k x, s.g.portOf j.toNat = some (k, x) → x.store = false →
      (x.total ≤ x.pos → exec (.vmov o) s = .next (takeTrap s true { code := .bounds })) ∧
      (x.pos < x.total → x.loadQ = [] → ∃ t, exec (.vmov o) s = .next t ∧ t.g = { s.g with lStall := some .queueEmpty } ∧
        .streamPrefetch s.g.gid j.toNat ∈ t.engineQ) ∧
      (∀ v q, x.pos < x.total → x.loadQ = v :: q → (∀ e ∈ v, ∃ w, e = .val w) → v.length = 32 →
        ∃ t, exec (.vmov o) s = .next t ∧ SameBytes s t ∧ t.g.stream k = { x with pos := x.pos + 32, loadQ := q } ∧
          (∀ l w, (s.g.active o.h).getLsbD l = true → v[l]? = some (.val w) → t.g.vr n.toNat l = w) ∧
          ∀ m l, l < 32 → (m ≠ n.toNat ∨ (s.g.active o.h).getLsbD l = false) → t.g.vr m l = s.g.vr m l) ∧
      (∀ v q (b : BitVec 11), o.vb = .v b → o.x.toNat % 8 = 0 → b.toNat < s.g.winsz → x.pos < x.total → x.loadQ = v :: q →
        (∀ e ∈ v, ∃ w, e = .val w) → v.length = 32 → (s.g.haz.at o.h.sw).conflict (Forms.vshfl o) = false →
        s.g.badLanes (s.g.active o.h) .w32 false o.vb = [] →
        ∃ t, exec (.vshfl o) s = .next t ∧ SameBytes s t ∧ t.g.stream k = { x with pos := x.pos + 32, loadQ := q } ∧
          ∀ l m w, (s.g.active o.h).getLsbD l = true → (s.g.vr b.toNat l).toNat = m → v[m]? = some (.val w) →
            t.g.vr n.toNat l = if (s.g.active o.h).getLsbD m = true then w else 0))

/-- R47, R48, R179, R312: VMOV to a store-bound port gives the store engine the elements of the active lanes within the count, in lane
order with their addresses, and moves the stream 32 elements on; memory and every vector register stay as they are until the engine
writes. At the end of the stream it raises BOUNDS, with eight vectors waiting at the port it waits, with an unbound port it raises
QUEUE_UNBOUND, and where an element's checks fail it raises that fault. -/
def Sys2Proof.Spec.QueuePortsPush : Prop :=
  ∀ (o : LOp) (n : BitVec 11) (j : BitVec 4) (s : State), o.vd = .q j → o.va = .v n → o.ty = .b32 →
    (Instr.vmov o).WellFormed → s.party = .group → n.toNat < s.g.winsz → o.h.guard.toNat < s.g.predsz → 0 < s.g.predsz → o.pd = 0 →
    (s.g.haz.at o.h.sw).conflict (Forms.alu1 o) = false → s.g.badLanes (s.g.active o.h) .el false o.va = [] →
    (s.g.bound j.toNat true = false → exec (.vmov o) s = .next (takeTrap s true { code := .queueUnbound })) ∧
    (∀ k x, s.g.portOf j.toNat = some (k, x) → x.store = true →
      let full := 8 ≤ (s.g.pushes.filter fun v => v.port == j.toNat).length
      let elements := ((lanesOf (s.g.active o.h)).filter fun l => x.pos + l < x.total).map fun l =>
        (l, x.base + BitVec.ofInt 64 (x.offset (x.pos + l)))
      (x.total ≤ x.pos → exec (.vmov o) s = .next (takeTrap s true { code := .bounds })) ∧
      (x.pos < x.total → full → ∃ t, exec (.vmov o) s = .next t ∧ t.g = { s.g with lStall := some .queueFull } ∧
        .storeEngineWrite s.g.gid j.toNat ∈ t.engineQ) ∧
      (x.pos < x.total → ¬ full → s.g.replay = none → ∀ e, laneLocs (laneStart o.h.sw s) elements 4 .store .plainStore = .error (.trap e) →
        exec (.vmov o) s = .next (takeTrap s true e)) ∧
      (x.pos < x.total → ¬ full → s.g.replay = none → ∀ ls, laneLocs (laneStart o.h.sw s) elements 4 .store .plainStore = .ok ls →
        ∃ t, exec (.vmov o) s = .next t ∧ SameBytes s t ∧ t.g.stream k = { x with pos := x.pos + 32 } ∧
          t.g.pushes = s.g.pushes ++ [⟨j.toNat, ls.map fun y => ⟨y.loc, s.g.vr n.toNat y.lane, y.va⟩⟩] ∧
          .storeEngineWrite s.g.gid j.toNat ∈ t.engineQ ∧ (∀ l, t.g.lst l = s.g.lst l) ∧
          t.g.lane = { s.g.lane with active := s.g.lane.active.map fun r => { r with lpc := s.g.run.lpc + 1 } } ∧
          t.g = { s.g with streams := t.g.streams, pushes := t.g.pushes, haz := t.g.haz, lane := t.g.lane, lstat := t.g.lstat, grantL := none }))

/-- R47, R48, R179, R312: queue ports as operands. -/
def Obligations.QueuePorts : Prop :=
  Sys2Proof.Spec.QueuePortsPop ∧ Sys2Proof.Spec.QueuePortsPush

/-- R135, R137: VREDUCE writes its scalar register from the active lanes and no other register; `.add` of .n32 is their sum modulo
2^32, zero-extended; with no active lane nothing is written. VBALLOT writes the mask of the active lanes where the predicate holds. -/
def Sys2Proof.Spec.ReductionsAndBallots : Prop :=
  (∀ (o : LOp) (r : SReg) (s : State), o.vd = .s r → LaneReady (Forms.vreduce o) o.h.sw s →
    ∃ t, exec (.vreduce o) s = .next t ∧ SameBytes s t ∧ t.g.vreg = s.g.vreg ∧ t.g.preds = s.g.preds ∧
      (∀ q, q ≠ r → t.rdS q = s.rdS q) ∧ (s.g.active o.h = 0 → t.g.sc = s.g.sc ∧ t.g.lstat = s.g.lstat) ∧
      (o.ty = .n32 → o.x.toNat % 16 = 0 → o.sat = false → r ≠ 0 → s.g.active o.h ≠ 0 →
        t.rdS r = BitVec.ofNat 64 (((lanesOf (s.g.active o.h)).map fun l => (Spec.word s o.va l).toNat).sum % 2 ^ 32))) ∧
  (∀ (o : LOp) (s : State), LaneReady (Forms.vballot o) o.h.sw s →
    let mask := s.g.active o.h &&& s.g.pr (o.x.setWidth 7)
    (∀ r, o.vd = .s r → ∃ t, exec (.vballot o) s = .next t ∧ SameBytes s t ∧ (∀ q, q ≠ r → t.rdS q = s.rdS q) ∧
      (r ≠ 0 → s.g.active o.h ≠ 0 → t.rdS r = mask.setWidth 64) ∧ (s.g.active o.h = 0 → t.g.sc = s.g.sc)) ∧
    (∀ n, o.vd = .v n → ∃ t, exec (.vballot o) s = .next t ∧ LaneFrame (Forms.vballot o) o.h.sw s t ∧
      ∀ l, (s.g.active o.h).getLsbD l = true → t.g.vr n.toNat l = mask))

/-- R135, R137 to R139, R157: the cross-lane results. -/
def Obligations.BlocksReductionsAndBallots : Prop :=
  Sys2Proof.Spec.BlockResults ∧ Sys2Proof.Spec.ReductionsAndBallots

/-- R165: VSTAT issues as a marked instruction; get reads LSTAT of the active lanes, set writes and clr clears its defined bits there. -/
def Sys2Proof.Spec.LaneStatusInstructions : Prop :=
  ∀ (o : LOp) (s : State),
    let act (l : Nat) : Prop := (s.g.active o.h).getLsbD l = true
    (∀ n, o.vd = .v n → LaneReady (Forms.vstatGet o) true s → ∃ t, exec (.vstatGet o) s = .next t ∧
      LaneFrame (Forms.vstatGet o) true s t ∧ ∀ l, act l → t.g.vr n.toNat l = s.g.lst l) ∧
    (LaneReady (Forms.vstatPut o) true s →
      (∃ t, exec (.vstatSet o) s = .next t ∧ SameBytes s t ∧ t.g.vreg = s.g.vreg ∧
        (∀ l, act l → t.g.lst l = Spec.word s o.va l &&& 0xF3F) ∧ ∀ l, ¬ act l → t.g.lst l = s.g.lst l) ∧
      (∃ t, exec (.vstatClr o) s = .next t ∧ SameBytes s t ∧ t.g.vreg = s.g.vreg ∧
        (∀ l, act l → t.g.lst l = s.g.lst l &&& ~~~(Spec.word s o.va l &&& 0xF3F)) ∧ ∀ l, ¬ act l → t.g.lst l = s.g.lst l))

/-- R140 to R143: LOOP and LOOPW whose body ends in ENDL begin its first pass with their count, or step past it; ENDL counts down and
repeats or leaves; VRET ends the run and the next queued one begins. None of them takes an issue position: the hazard state stays, but
for LOOPW and its ENDL, which leave it empty. That an outermost loop takes its whole body when it opens is the model's choice
(assumption 51). -/
def Obligations.LoopsAndTheEndOfARun : Prop :=
  (∀ (s : State) (r : Run) (n : BitVec 8) w, s.party = .group → s.g.lane.active = some r → 1 ≤ n.toNat → n.toNat ≤ 254 →
    let e := r.lpc + n.toNat + 1
    s.g.lane.frames.length < 3 → laneWordAt s e = .ok w → isEndl w = true → (∀ f ∈ s.g.lane.frames.head?, e < f.stop) →
    (s.g.lane.frames = [] → ∀ k, r.lpc < k → k ≤ e → ∃ x, fetchLane s k = .ok x) →
    let entered (t : State) (isW : Bool) (pa : PReg) (cnt : Word) : Prop :=
      t.g.lane.active = some { r with lpc := r.lpc + 1 } ∧ t.g.lane.frames = ⟨r.lpc + 1, e, isW, pa⟩ :: s.g.lane.frames ∧
      SMap.get 0 t.g.lane.lc s.g.lane.frames.length = cnt ∧ t.g.vreg = s.g.vreg ∧ t.g.sc = s.g.sc ∧ SameBytes s t
    let skipped (t : State) : Prop :=
      t.g.lane = { s.g.lane with active := some { r with lpc := e + 1 } } ∧ t.g.vreg = s.g.vreg ∧ t.g.sc = s.g.sc ∧ SameBytes s t
    (∀ cnt, ∃ t, exec (.loopImm cnt n) s = .next t ∧ t.g.haz = s.g.haz ∧
      (cnt ≠ 0 → entered t false 0 (cnt.setWidth 32)) ∧ (cnt = 0 → skipped t)) ∧
    (∀ a, (∀ q, a = .s q → s.g.waits q = false ∧ (q = 0 ∨ s.g.run.bad.getLsbD q.toNat = false)) →
      let cnt := (s.g.rdOpd s.gteam.teamlin true a 0).setWidth 32
      ∃ t, exec (.loopReg a n) s = .next t ∧ t.g.haz = s.g.haz ∧ (cnt ≠ 0 → entered t false 0 cnt) ∧ (cnt = 0 → skipped t)) ∧
    (∀ pa cap, pa.toNat < s.g.predsz → cap ≠ 0 → ∃ t, exec (.loopw pa cap n) s = .next t ∧ t.g.haz = {} ∧
      (anyLane s.g pa = true → entered t true pa (cap.setWidth 32)) ∧ (anyLane s.g pa = false → skipped t))) ∧
  (∀ (s : State) (r : Run) f rest, s.party = .group → s.g.lane.active = some r → s.g.lane.frames = f :: rest → f.stop = r.lpc →
    let c := SMap.get 0 s.g.lane.lc rest.length - 1
    let again := c ≠ 0 ∧ (f.isW = true → anyLane s.g f.pa = true)
    ∃ t, exec .endl s = .next t ∧ SameBytes s t ∧ t.g.vreg = s.g.vreg ∧ t.g.sc = s.g.sc ∧ SMap.get 0 t.g.lane.lc rest.length = c ∧
      (f.isW = false → t.g.haz = s.g.haz) ∧ (f.isW = true → t.g.haz = {}) ∧
      (again → t.g.lane.active = some { r with lpc := f.start } ∧ t.g.lane.frames = f :: rest) ∧
      (¬ again → t.g.lane.active = some { r with lpc := r.lpc + 1 } ∧ t.g.lane.frames = rest)) ∧
  (∀ s : State, s.party = .group → s.g.lane.frames = [] → ∃ t, exec .vret s = .next t ∧ SameBytes s t ∧ t.g.vreg = s.g.vreg ∧
    t.g.haz = s.g.haz ∧ t.g.sc = s.g.sc ∧ t.g.lane = { s.g.lane with active := s.g.lane.queue.head?, queue := s.g.lane.queue.tail }) ∧
  (∀ s : State, s.party = .group → s.g.lane.frames ≠ [] → exec .vret s = .next (takeTrap s true { code := .reservedField }))

/-- R144: the members of EMSET give `em` its new value and change nothing else but the run's position and the hazard state. -/
def Sys2Proof.Spec.ExecutionMask : Prop :=
  ∀ (o : LOp) (s : State),
    let sets (i : Instr) (v : Forms.LView) (m : Word) : Prop :=
      exec i s = .next (laneDone v { s with g := { s.g with haz := s.g.haz.at o.h.sw, em := m } })
    let p := s.g.pr (o.x.setWidth 7)
    (LaneReady (Forms.emset o) o.h.sw s →
      sets (.emsetAnd o) (Forms.emset o) (s.g.em &&& p) ∧ sets (.emsetAndn o) (Forms.emset o) (s.g.em &&& ~~~p) ∧
      sets (.emsetOr o) (Forms.emset o) (s.g.em ||| p)) ∧
    (LaneReady (Forms.emsetSet o) o.h.sw s →
      sets (.emsetSetHi o) (Forms.emsetSet o) s.g.em ∧
      ∀ r, o.va = .s r → sets (.emsetSet o) (Forms.emsetSet o) ((snapS s.g.run r).setWidth 32))


/-! ### Lane memory -/

/-- The step from `s` to `t` is a lane instruction that has performed its accesses: its run stands at the next index, its results are
pending, its destinations alone have changed, and no predicate, flag, mask or scalar register has. -/
structure Sys2Proof.Spec.LaneMoves (v : Forms.LView) (sw : Bool) (s t : State) : Prop where
  party : t.party = .group
  run : t.g.lane = { s.g.lane with active := s.g.lane.active.map fun r => { r with lpc := s.g.run.lpc + 1 } }
  haz : t.g.haz = (s.g.haz.at sw).add v
  vectors : ∀ k l, l < 32 → ¬ writesLane v s k l → t.g.vr k l = s.g.vr k l
  preds : t.g.preds = s.g.preds
  flags : t.g.lstat = s.g.lstat
  mask : t.g.em = s.g.em
  scalars : t.g.sc = s.g.sc

/-- R168, R182, R183, R287, R288: VLD whose lanes all pass their checks delivers each active lane the value at its address, as its type
extends it: the bytes in memory, or for a load that is not `.fresh` those of its sector in the core's L1 (assumption 20). Memory stays as
it was, but for the error queue where L1 holds an error (R459). -/
def Sys2Proof.Spec.LaneLoadsReadMemory : Prop :=
  ∀ (m : LMem) (n : BitVec 11) (ls : List LaneLoc) (s : State), m.vd = .v n → m.elem = false → LaneReady (Forms.vld m) m.h.sw s →
    let x := laneIn (Forms.vld m) s
    let u := laneStart m.h.sw s
    let sz := sizeBytes m.size
    laneLocs u (laneAddrs m.form1 x) sz .load (.laneLoad m.raw) = .ok ls →
    (∀ y ∈ ls, isRemote y.loc.key = false ∧ s.owned y.loc.key sz = false ∧ poisoned s y.loc.key sz = false) →
    let direct (y : LaneLoc) : Prop := m.fresh = true ∨ s.sector? s.gteam.core y.loc.key = none
    ∃ t, exec (.vld m) s = .next t ∧ Spec.LaneMoves (Forms.vld m) m.h.sw s t ∧
      SameBytesButL1 s t ∧ ((∀ y ∈ ls, direct y) → SameBytes s t) ∧
      ∀ y ∈ ls, ∃ w, (w = u.serve m.fresh y.loc sz) ∧ (direct y → s.gteam.staged = [] → w = Memory.read s.mem y.loc.key sz) ∧
        t.g.vr n.toNat y.lane = (loadVal m.ty sz w).setWidth 32 ∧
        (m.ty.wide = true → t.g.vr (n.toNat + 1) y.lane = (loadVal m.ty sz w).extractLsb' 32 32)

/-- R26, R27, R183, R459: VLD.elem delivers each active lane the decoded element that its index names in the region of the base's page.
Memory stays as it was, but for the error queue where L1 holds an error (assumption 20). -/
def Sys2Proof.Spec.ElementLoadsDecode : Prop :=
  ∀ (m : LMem) (n : BitVec 11) (s : State), m.vd = .v n → m.elem = true → m.ty = .f32 → LaneReady (Forms.vld m) m.h.sw s →
    let x := laneIn (Forms.vld m) s
    ∀ ws u, elemWords (laneStart m.h.sw s) (x.b 0) ((lanesOf x.act).map fun l => (l, (x.a l).toNat % 2 ^ 32)) m.fresh = .ok (ws, u) →
      ∃ t, exec (.vld m) s = .next t ∧ Spec.LaneMoves (Forms.vld m) m.h.sw s t ∧ SameBytesButL1 s t ∧ (m.fresh = true → SameBytes s t) ∧
        ∀ l, x.act.getLsbD l = true → t.g.vr n.toNat l = (byLane ws l).setWidth 32

/-- R182, R183: VLD in both its forms. -/
def Obligations.LaneLoadsDeliver : Prop :=
  Sys2Proof.Spec.LaneLoadsReadMemory ∧ Sys2Proof.Spec.ElementLoadsDecode

/-- R184: VST stores the low bytes of its data in the active lanes; of lanes that name one byte the highest remains; every other byte,
and every register, is unchanged. -/
def Obligations.LaneStoresWriteTheirBytes : Prop :=
  ∀ (m : LMem) (ls : List LaneLoc) (s : State), LaneReady (Forms.vst m) m.h.sw s → s.g.replay = none → s.poison = [] →
    let x := laneIn (Forms.vst m) s
    let sz := sizeBytes m.size
    laneLocs (laneStart m.h.sw s) (laneAddrs m.form1 x) sz .store (.laneStore m.raw) = .ok ls →
    (∀ y ∈ ls, isRemote y.loc.key = false ∧ s.stages y.loc = false ∧ s.owned y.loc.key sz = false) →
    ∃ t, exec (.vst m) s = .next t ∧ Spec.LaneMoves (Forms.vst m) m.h.sw s t ∧ t.g.vreg = s.g.vreg ∧
      ∀ a, Memory.byte t.mem a = match (ls.filter fun y => y.loc.key ≤ a && a < y.loc.key + sz).getLast? with
        | some y => BitVec.ofNat 8 ((x.c y.lane).toNat / 256 ^ (a - y.loc.key))
        | none => Memory.byte s.mem a

/-- R185, R171: VATOM performs its active lanes' operations in ascending order, each on what the one before it left, delivers each
lane the value it found, and ends a region. -/
def Sys2Proof.Spec.LaneAtomicsInLaneOrder : Prop :=
  ∀ (m : LAtom) (n : BitVec 11) (ls : List LaneLoc) (s : State), m.vd = .v n → LaneReady (Forms.vatom m) m.h.sw s →
    s.g.replay = none → (m.order = .rel ∨ m.order = .ar → InOrder s m.scope) → (m.order = .acq → InOrder s .team) →
    let x := laneIn (Forms.vatom m) s
    let u := laneStart m.h.sw s
    let sz := LType.ew m.ty / 8
    laneLocs u (laneAddrs m.form1 x) sz .atomic .atomic = .ok ls →
    (∀ y ∈ ls, isRemote y.loc.key = false ∧ s.owned y.loc.key sz = false ∧ poisoned s y.loc.key sz = false ∧
      s.stages y.loc = false) →
    let done := localAtoms u m.ty m.op sz x.c x.d ls
    ∃ t, exec (.vatom m) s = .next t ∧ t.mem = done.1.mem ∧ t.g.regcnt = s.g.regcnt + 1 ∧ t.g.sc = s.g.sc ∧ t.g.preds = s.g.preds ∧
      t.g.lstat = s.g.lstat ∧
      (∀ l, x.act.getLsbD l = true → t.g.vr n.toNat l = (byLane done.2 l).setWidth 32 ∧
        (m.ty.wide = true → t.g.vr (n.toNat + 1) l = (byLane done.2 l).extractLsb' 32 32)) ∧
      (∀ k l, l < 32 → ¬ writesLane (Forms.vatom m) s k l → t.g.vr k l = s.g.vr k l) ∧
      (∀ y rest, ls = y :: rest → s.poison = [] → rest = [] → ∀ a, Memory.byte t.mem a =
        if y.loc.key ≤ a ∧ a < y.loc.key + sz then
          BitVec.ofNat 8 (laneAtom m.ty m.op (s.read y.loc.key sz) ((x.c y.lane).toNat % 256 ^ sz) ((x.d y.lane).toNat % 256 ^ sz) /
            256 ^ (a - y.loc.key))
        else Memory.byte s.mem a)

/-- R187, R171: GRAD.ADD sends each active lane's value to its word's Thresher, on this package or in the peer window, leaves memory and
every register as they were and ends a region; a lane whose word lies in the host window raises PROTECTION with SUB 3. -/
def Sys2Proof.Spec.GradientContributions : Prop :=
  (∀ (m : LMem) (ls : List LaneLoc) (s : State), LaneReady (Forms.vst m) m.h.sw s →
    let x := laneIn (Forms.vst m) s
    laneLocs (laneStart m.h.sw s) (laneAddrs m.form1 x) 4 .store .gradAdd = .ok ls →
    ((∃ y ∈ ls, isHost y.loc.key = true) → ∃ e, exec (.gradAdd m) s = .next (takeTrap s true e) ∧ e.code = .protection ∧ e.sub = 3 ∧
      e.kind = .restart) ∧
    ((∀ y ∈ ls, isHost y.loc.key = false) → ∃ t, exec (.gradAdd m) s = .next t ∧ SameBytes s t ∧ t.g.vreg = s.g.vreg ∧ t.g.sc = s.g.sc ∧ t.g.lstat = s.g.lstat ∧
      t.g.regcnt = s.g.regcnt + 1 ∧
      let all := (ls.filter fun y => !isPeer y.loc.key).foldl (fun w y => contribute w w.gdom y.loc.key ((x.c y.lane).setWidth 32 : Word).toNat) s
      t.threshers = all.threshers ∧ t.spills = all.spills)) ∧
  (∀ (s : State) (pa : Nat) (v : Word), exec (.thresherContribution pa v) s = .next (contribute s s.gdom pa v.toNat)) ∧
  (∀ (s : State) (dom pa w : Nat), SameBytes s (contribute s dom pa w) ∧ (contribute s dom pa w).g = s.g)

/-- R185, R187: VATOM and GRAD.ADD. -/
def Obligations.LaneAtomicsAndContributions : Prop :=
  Sys2Proof.Spec.LaneAtomicsInLaneOrder ∧ Sys2Proof.Spec.GradientContributions

/-- R186, R288, R305: VFENCE performs once what it orders stands performed, and changes nothing but the run's position, the hazard state,
where it acquires the core's L1, and where it releases at `.sys` the order of the lane stream's later stores to the host. -/
def Sys2Proof.Spec.LaneFences : Prop :=
  ∀ (h : LHdr) (kind : FenceKind) (scope : Scope) (s : State),
    let v : Forms.LView := { h := h, lat := .none, mem := true }
    LaneReady v h.sw s → (kind ≠ .acq → Released s scope) → exec (.vfence h kind scope) s =
      .next (laneDone v
        (let u := Spec.afterAcquire (laneStart h.sw s) (if kind = .rel then none else some scope);
         if kind ≠ .acq ∧ scope = .sys then { u with g := { u.g with relL := true } } else u))

/-- R144, R165, R186: LSTAT, the execution mask and the fence. -/
def Obligations.LaneStateInstructions : Prop :=
  Sys2Proof.Spec.LaneStatusInstructions ∧ Sys2Proof.Spec.ExecutionMask ∧ Sys2Proof.Spec.LaneFences

/-- R193, R300 to R302: GLD whose cells are all current delivers their values and leaves memory as it was; GST whose cells may all be
written writes each active lane's cell, of ghost cells with its step's tag, and no register. -/
def Obligations.GridCellsAreReadAndWritten : Prop :=
  (∀ (m : LGrid) (n : BitVec 11) (s : State), m.vd = .v n → LaneReady (Forms.gld m) m.h.sw s →
    let x := laneIn (Forms.gld m) s
    let u := laneStart m.h.sw s
    ∀ gr part cs step ls, gridCells u m x = .ok (gr, part, cs) → stepTag u m.k = .ok step →
      (∀ c ∈ cs, current gr (gr.partOf part) c.2 step = true) → gridLocs u gr part step .load cs = .ok ls →
      (∀ y ∈ ls, ∀ l ∈ y.2.2, poisoned u l.key 1 = false) →
      ∃ t, exec (.gld m) s = .next t ∧ Spec.LaneMoves (Forms.gld m) m.h.sw s t ∧ SameBytes s t ∧
        ∀ y ∈ ls, t.g.vr n.toNat y.1 =
          BitVec.ofNat 32 (gr.d.load m.ty (rawAt u gr.d part (step % gr.d.nbuf) y.2.1 y.2.2))) ∧
  (∀ (m : LGrid) (s : State), LaneReady (Forms.gst m) m.h.sw s → s.g.replay = none →
    let x := laneIn (Forms.gst m) s
    let u := laneStart m.h.sw s
    ∀ gr part cs step ls, gridCells u m x = .ok (gr, part, cs) → stepTag u m.k = .ok step →
      (∀ c ∈ cs, gstCase u gr (gr.partOf part) c.2 step = .write) → gridLocs u gr part step .store cs = .ok ls →
      ∃ t, exec (.gst m) s = .next t ∧ t.g.vreg = s.g.vreg ∧ t.g.sc = s.g.sc ∧ t.g.preds = s.g.preds ∧
        t.mem = (ls.foldl (fun w y =>
          putRaw w gr.d part (step % gr.d.nbuf) y.2.1 (gr.d.store m.ty ((x.d y.1).toNat % 2 ^ 32)) y.2.2) u).mem ∧
        ∃ g ∈ t.grids, g.desc = gr.desc ∧ ∀ c ∈ cs, gr.d.interior c.2 = false →
          tagAt g (g.partOf part) c.2 step = some ⟨step, true⟩)

/-! ### Matrix instructions -/

/-- R223, R228 to R230, R234: MX.LDB loads the tile that D names; MX.MMA and MX.MMA16 give every accumulator element they update its new
value from the A row and the tile's column, MX.ZERO zero; no other register, flag or byte of memory changes, but for the error queue where
L1 holds an error that MX.LDB meets (R459, assumption 20). -/
def Obligations.MatrixProducts : Prop :=
  ∀ (m : LMx) (s : State), s.g.em = BitVec.allOnes 32 → s.g.parkMask = 0 →
    let u := laneStart m.h.sw s
    let keep (t : State) : Prop := t.g.sc = s.g.sc ∧ t.g.preds = s.g.preds ∧ t.g.lstat = s.g.lstat
    let outside (t : State) (n : Nat) : Prop := ∀ k l, l < 32 → k < n ∨ n + 256 ≤ k → t.g.vr k l = s.g.vr k l
    (LaneReady (Forms.mxLdb m) m.h.sw s → ∀ q, mxSource u (laneIn (Forms.mxLdb m) s) m m.bf.toNat 96 128 true = .ok q →
      Forms.desigOk q.kind m.d.toNat = true → mxArrive u q = .ok () →
      ∃ t, exec (.mxLdb m) s = .next t ∧ keep t ∧ SameBytesButL1 s t ∧ t.g.vreg = s.g.vreg ∧ ∃ y, t.tileOf m.d.toNat = some y ∧ y.kind = q.kind ∧
        y.owner = s.g.team ∧ ∀ c, c < 128 → y.column c = (List.range 96).map fun k => ((q.values u 128).getD k []).getD c (.zero false)) ∧
    (LaneReady (Forms.mxMma m) m.h.sw s → ∀ q y n, m.vd = .v n →
      mxSource u (laneIn (Forms.mxMma m) s) m m.af.toNat 64 96 false = .ok q → mxTile u m (some q.kind) = .ok y → mxArrive u q = .ok () →
      accReadable u m (fun _ _ => true) = .ok () →
      let new (r c : Nat) (x : Word) : Word := mxElem (q.kind == 8) m.sat x ((q.values u 96).getD r []) (y.column c)
      let old (r c : Nat) : Word := s.g.vr (n.toNat + 4 * r + c / 32) (c % 32)
      (∃ t, exec (.mxMma m) s = .next t ∧ keep t ∧ SameBytes s t ∧ outside t n.toNat ∧ ∀ r c, r < 64 → c < 128 →
        t.g.vr (n.toNat + 4 * r + c / 32) (c % 32) = new r c (old r c)) ∧
      (∃ t, exec (.mxMma16 m) s = .next t ∧ keep t ∧ SameBytes s t ∧ outside t n.toNat ∧ ∀ r c, r < 64 → c < 128 →
        t.g.vr (n.toNat + 4 * r + c / 32) (c % 32) = if r / 4 = c / 8 then new r c (old r c) else old r c)) ∧
    (LaneReady (Forms.mxZero m) m.h.sw s → ∀ n, m.vd = .v n → ∃ t, exec (.mxZero m) s = .next t ∧ keep t ∧ SameBytes s t ∧
      ∀ k l, l < 32 → t.g.vr k l = if n.toNat ≤ k ∧ k < n.toNat + 256 then 0 else s.g.vr k l)

namespace Sys2Proof.Spec

/-- The two sides of MX.PAIR. -/
def pairSide : Instr → Option (LMx × Bool)
  | .mxPairW m => some (m, true)
  | .mxPairE m => some (m, false)
  | _ => none

end Sys2Proof.Spec

/-- R226, R231 to R233: a side of MX.PAIR that is ready and finds its partner's group waiting completes, with the one that has waited
longest: each side's accumulator takes the product of the west side's rows with its own tile, both runs move on, and neither group waits
any more; without a partner it waits behind those that wait already; a failure mark for it raises PAIR_TIMEOUT. -/
def Obligations.PairedProducts : Prop :=
  ∀ (i : Instr) (m : LMx) (west : Bool) (s : State), Spec.pairSide i = some (m, west) → s.party = .group → s.g.live = true →
    ∀ own core, pairPrep west m s = .ok own → pairCore s west = some core →
      let here (p : PairWait) (w : Bool) : Bool := p.core == core && p.west == w && p.tag == m.tag.toNat
      (∀ k, s.pairMarks.find? (fun p => here p west) = some k →
        exec i s = .next (takeTrap { s with pairMarks := s.pairMarks.erase k } true { code := .pairTimeout })) ∧
      (s.pairMarks.find? (fun p => here p west) = none → s.pairs.find? (fun p => here p !west) = none →
        ∃ t, exec i s = .next t ∧ t.g = { s.g with lStall := some .pairWait } ∧
          t.pairs = if s.pairs.any (fun p => p.gid == s.g.gid) then s.pairs else s.pairs ++ [⟨core, west, m.tag.toNat, s.g.gid, m⟩]) ∧
      (∀ p o far n, s.pairMarks.find? (fun p => here p west) = none → s.pairs.find? (fun p => here p !west) = some p → p.gid ≠ s.g.gid →
        ((s.unpair s.g.gid).unpair p.gid).focus p.gid = some o → o.g.live = true → pairPrep p.west p.m o = .ok far → m.vd = .v n →
        let a := if west then own else far
        let b := if west then far else own
        (a.kind == 8) = (b.tile.kind == 8) →
        ∃ t, exec i s = .next t ∧ (∀ q ∈ t.pairs, q.gid ≠ s.g.gid ∧ q.gid ≠ p.gid) ∧ t.g.gid = s.g.gid ∧ t.g.sc = s.g.sc ∧
          t.g.lane = { s.g.lane with active := s.g.lane.active.map fun r => { r with lpc := s.g.run.lpc + 1 } } ∧
          (∀ r c, r < 64 → c < 128 → t.g.vr (n.toNat + 4 * r + c / 32) (c % 32) =
            mxElem (a.kind == 8) m.sat (s.g.vr (n.toNat + 4 * r + c / 32) (c % 32)) (a.rows.getD r []) (own.tile.column c)) ∧
          ∃ h ∈ t.others, h.gid = p.gid ∧ h.lStall = none ∧ h.sc = o.g.sc ∧
            h.lane = { o.g.lane with active := o.g.lane.active.map fun r => { r with lpc := o.g.run.lpc + 1 } } ∧
            ∀ n', p.m.vd = .v n' → ∀ r c, r < 64 → c < 128 → h.vr (n'.toNat + 4 * r + c / 32) (c % 32) =
              mxElem (a.kind == 8) p.m.sat (o.g.vr (n'.toNat + 4 * r + c / 32) (c % 32)) (a.rows.getD r []) (far.tile.column c))

/-! ### Rendering, adjoints and the tape -/

namespace Sys2Proof.Spec

/-- The instructions that read memory lane by lane and may park a lane. -/
def rendering : Instr → Option (Forms.LView × ParkOp × (LIn → State → Res (List Byte × State)) × LaneSem × Bool)
  | .trace r any cullb => some (Forms.trace r, .trace r any cullb, traceDesc, traceLane r any cullb, false)
  | .hitAdj r => some (Forms.hitAdj r, .hitAdj r, noDesc, hitAdjLane r, false)
  | .tex r => some (Forms.tex r, .tex r, texDesc false, texLane r, false)
  | .texAdj r => some (Forms.texAdj r, .texAdj r, texDesc true, texAdjLane r, true)
  | .edgeSamp r k n1 => some (Forms.edgeSamp r, .edgeSamp r n1, vbDesc k, edgeLane r (n1.toNat + 1), false)
  | .vbRd r fresh k => some (Forms.vbRd r, .vbRd r, vbDesc k, vbRdLane fresh, false)
  | _ => none

end Sys2Proof.Spec

/-- R238 to R250, R254, R258: a rendering instruction completes when each active lane has its values or parks, the queue having room: a lane
with values receives its block, a parking lane keeps its registers and is parked; where no lane parks, memory is unchanged but for the
error queue where L1 holds an error (R459, assumption 20). -/
def Sys2Proof.Spec.RenderingInstructions : Prop :=
  ∀ (i : Instr) v op desc sem region (s : State), Spec.rendering i = some (v, op, desc, sem, region) → LaneReady v v.h.sw s →
    let x := laneIn v s
    ∀ b u, desc x (laneStart v.h.sw s) = .ok (b, u) →
      let out (l : Nat) := sem u l (x.a l, x.b l, x.c l) b none
      let parks (l : Nat) : Prop := ∃ f rs, out l = .error (.park f rs)
      (∀ l, x.act.getLsbD l = true → (∃ w, out l = .ok w) ∨ parks l) →
      ((∀ l, x.act.getLsbD l = true → ¬ parks l) ∨ 32 ≤ lfqRoom (u.metCore.readBlock u.gdom) u.gteam.core) →
      ∃ t, exec i s = .next t ∧
        (∀ l w k, x.act.getLsbD l = true → out l = .ok w → k < w.ws.length → t.g.vr (op.dest.1 + k) l = w.ws.getD k 0) ∧
        (∀ l k, l < 32 → (x.act.getLsbD l = false ∨ parks l) → t.g.vr k l = s.g.vr k l) ∧
        (∀ l, l < 32 → (t.g.parkMask.getLsbD l = true ↔ s.g.parkMask.getLsbD l = true ∨ (x.act.getLsbD l = true ∧ parks l))) ∧
        ((∀ l, x.act.getLsbD l = true → ¬ parks l) → SameBytesButL1 s t)

/-- R252, R253: BARY and BARY.ADJ write their blocks from the vertex and screen blocks in the active lanes and read no memory. -/
def Sys2Proof.Spec.BarycentricCoordinates : Prop :=
  ∀ (r : LRen) (lin : Bool) (n : BitVec 11) (s : State), r.vd = .v n →
    let act (l : Nat) : Prop := (s.g.active r.h).getLsbD l = true
    (LaneReady (Forms.bary r) r.h.sw s → ∃ t, exec (.bary r lin) s = .next t ∧ LaneFrame (Forms.bary r) r.h.sw s t ∧ ∀ l k, act l →
      k < 2 → t.g.vr (n.toNat + k) l = (baryVal (s.g.block r.va l 9) (s.g.block r.vb l 2) lin).ws.getD k 0) ∧
    (LaneReady (Forms.baryAdj r) r.h.sw s → ∃ t, exec (.baryAdj r lin) s = .next t ∧ LaneFrame (Forms.baryAdj r) r.h.sw s t ∧
      ∀ l k, act l → k < 9 →
        t.g.vr (n.toNat + k) l = (baryAdjVal (s.g.block r.va l 9) (s.g.block r.vb l 2) (s.g.block r.vc l 2) lin).ws.getD k 0)

/-- R238 to R254: the rendering instructions. -/
def Obligations.RenderingAndBarycentrics : Prop :=
  Sys2Proof.Spec.RenderingInstructions ∧ Sys2Proof.Spec.BarycentricCoordinates

/-- R255 to R260: DISCARD of a fragment drops it and takes its lanes out of `em`, and of a kernel raises RESERVED_FIELD; VDEPTH gives each active lane's
fragment its new depth, or with a NaN drops it, and answers the test; PARK parks every active lane; REJOIN waits for every parked lane and then takes the killed lanes
out of `em`. How a fragment's verdict is kept for its pass is the model's choice (assumption 35). -/
def Obligations.FragmentsAndParking : Prop :=
  ∀ (r : LRen) (s : State),
    (LaneReady (Forms.bare r) r.h.sw s →
      (∀ n, s.g.prog = .coverage n false → exec (.discard r) s = .next (laneDone (Forms.bare r)
        ({ s with g := { s.g with haz := s.g.haz.at r.h.sw, em := s.g.em &&& ~~~s.g.active r.h } }.setPass n { (s.launch n).pass with
          held := (s.launch n).pass.held.map fun f : Frag =>
            if f.gid == some s.g.gid && (s.g.active r.h).getLsbD f.lane then { f with dropped := true } else f }))) ∧
      (s.g.prog = .resolve → exec (.discard r) s =
        .next (laneDone (Forms.bare r) { s with g := { s.g with haz := s.g.haz.at r.h.sw, em := s.g.em &&& ~~~s.g.active r.h } })) ∧
      (s.g.prog = .kernel → exec (.discard r) s = .next (takeTrap s true { code := .reservedField })) ∧
      (∀ code, 32 ≤ lfqRoom (s.readBlock s.gdom) s.gteam.core → ∃ t, exec (.park r code) s = .next t ∧
        t.g.parkMask = s.g.parkMask ||| s.g.active r.h ∧ t.g.vreg = s.g.vreg ∧ t.g.sc = s.g.sc ∧
        ∀ l, (s.g.active r.h).getLsbD l = true → ∃ p ∈ t.g.parked, p.lane = l)) ∧
    (LaneReady (Forms.bare r) true s →
      (s.g.parked = [] → exec (.rejoin r) s = .next (laneDone (Forms.bare r)
        { s with g := { s.g with haz := s.g.haz.at true, em := s.g.em &&& ~~~s.g.killMask, parkMask := 0, killMask := 0 } })) ∧
      (s.g.parked ≠ [] → exec (.rejoin r) s = .next { s with g := { s.g with lStall := some .rejoin } })) ∧
    (∀ pd n dis, LaneReady (Forms.vdepth r pd) r.h.sw s → s.g.prog = .coverage n dis → (s.launch? n).isSome = true →
      let z (i : Nat) : Word := Spec.word s r.va i
      let act := s.g.active r.h
      let l := s.launch n
      ∃ t, exec (.vdepth r pd) s = .next t ∧ t.g.em = s.g.em ∧ t.g.vreg = s.g.vreg ∧ SameBytes s t ∧
        (t.launch n).pass.held = (l.pass.held.map fun f =>
          if f.gid = some s.g.gid ∧ act.getLsbD f.lane = true then
            if f32.decode false (z f.lane).toNat = .nan then { f with dropped := true } else { f with newZ := some (clampZ (z f.lane)) }
          else f) ∧
        ∀ i f, act.getLsbD i = true → pd ≠ 0 → l.pass.held.filter (fun f => f.gid == some s.g.gid && f.lane == i) = [f] →
          (t.g.pr pd).getLsbD i = (f32.decode false (z i).toNat != .nan &&
            depthPass (passDesc l.pass.desc).zfunc (clampZ (z i)) (nowDepth (laneStart r.h.sw s) l f)))

/-- R263, R265, R267, R171: TAPE.PUSH appends the active lanes' values and moves the top of the tape; TAPE.POP of the record that the push
left gives each active lane of it the same values back, its spans being resident; a closed span that does not match its CRC, or a word with
an uncorrectable error, ends the pop (R456, R458). The push ends a region; before TAPE.OPEN both raise
RESERVED_FIELD, and a pop of an empty tape BOUNDS. -/
def Obligations.TapeRecords : Prop :=
  ∀ (r : LRen) (n1 : BitVec 3) (s : State),
    (LaneReady (Forms.tapePush r n1.toNat) r.h.sw s → ∀ k, r.va = .v k →
      let vals := ((lanesOf (s.g.active r.h)).map fun l => (List.range (n1.toNat + 1)).map fun j => s.g.vr (k.toNat + j) l).flatten
      (∀ u, s.g.tape.opened = true →
        tapeAppend (laneStart r.h.sw s) (n1.toNat + 1) [s.g.active r.h] (recordWords vals) = .ok u →
        ∃ t, exec (.tapePush r n1) s = .next t ∧ t.g.tape = u.g.tape ∧ t.g.tape.top = some s.g.tape.wpos ∧ t.g.vreg = s.g.vreg ∧
          t.g.regcnt = s.g.regcnt + 1) ∧
      (s.g.tape.opened = false → exec (.tapePush r n1) s = .next (takeTrap s true { code := .reservedField }))) ∧
    (LaneReady (Forms.tapePop r n1.toNat) r.h.sw s →
      (s.g.tape.opened = false → exec (.tapePop r n1) s = .next (takeTrap s true { code := .reservedField })) ∧
      (s.g.tape.opened = true → s.g.tape.recomp = false → s.g.tape.top = none →
        exec (.tapePop r n1) s = .next (takeTrap s true { code := .bounds })) ∧
      (∀ k p, r.vd = .v k → s.g.tape.opened = true → s.g.tape.recomp = false → s.g.tape.top = some p →
        needsRecompute s.g.tape p = none → s.g.tape.resLo ≤ p / 30 →
        let flaw := ∃ w ∈ s.g.tape.bad, p ≤ w ∧ w < s.g.tape.wpos
        (flaw → exec (.tapePop r n1) s = .next (takeTrap (s.errRecord 1 1 s.gteam.core 0 0) true (restartAt .uncorrectableData 0))) ∧
        (¬ flaw → s.g.tape.crcFails p = true → ∃ t, exec (.tapePop r n1) s = .next (takeTrap t true { code := .tapeCrc }) ∧
          t.g = { s.g with tape := { s.g.tape with crcErr := true } }) ∧
        (¬ flaw → s.g.tape.crcFails p = false → (SMap.get 0 s.g.tape.words (p + 1)).toNat % 8 = n1.toNat →
        let mask := SMap.get 0 s.g.tape.words p
        ∃ t, exec (.tapePop r n1) s = .next t ∧ SameBytes s t ∧
          t.g.tape = tapeDrop s.g.tape p (SMap.get 0 s.g.tape.words (p + 1)) ∧
          (∀ a l, l < 32 → (mask.getLsbD l = false ∨ (s.g.active r.h).getLsbD l = false) → t.g.vr a l = s.g.vr a l) ∧
          ∀ vals : List Word, vals.length = (lanesOf mask).length * (n1.toNat + 1) →
            (∀ j, j < (recordWords vals).length → SMap.get 0 s.g.tape.words (p + 2 + j) = (recordWords vals).getD j 0) →
            ∀ l j, mask.getLsbD l = true → (s.g.active r.h).getLsbD l = true → j ≤ n1.toNat →
              t.g.vr (k.toNat + j) l = vals.getD ((lanesOf mask).idxOf l * (n1.toNat + 1) + j) 0)))


/-! ### Events of the engines -/

namespace Sys2Proof.Spec

/-- The group in focus, as the steps of its own events see the state. -/
abbrev own (s : State) (gid : Nat) : Prop := s.g.live = true ∧ s.g.gid = gid

end Sys2Proof.Spec

/-- R188, R199, R207, R208: a piece of work ends when nothing of it is outstanding and writes its token: a copy and a transfer their
status, a collective, whatever its code, its status after an acquire, after its results, and after the answers of the packages to which
it has written them, a seal the number of entries it has folded; a team that a collective has kept from its release is released. The register of the group then holds the token and awaits nothing; work that is not finished looks again,
and an unknown number does nothing. When a piece of work looks is the model's choice (assumption 38). -/
def Sys2Proof.Spec.WorkEndsWithItsToken : Prop :=
  ∀ (s : State) (n : Nat),
    (s.job? n = none → ∀ e ∈ [.copyComplete n, .xferComplete n, .collComplete n, .gradSealComplete n], exec e s = .next s) ∧
    (∀ j, s.job? n = some j →
      (j.kind = .copy → (s.jobWaits n = false → exec (.copyComplete n) s = .next (s.finishJob j j.status)) ∧
        (s.jobWaits n = true → exec (.copyComplete n) s = .next (s.post (.copyComplete n)))) ∧
      (∀ left acked code, j.kind = .xfer left acked code →
        (left = 0 → exec (.xferComplete n) s = .next (s.finishJob j (statusWord code acked))) ∧
        (left ≠ 0 → exec (.xferComplete n) s = .next (s.post (.xferComplete n)))) ∧
      (∀ c, j.kind = .coll c →
        (c.finished = false ∨ s.jobWaits n = true → exec (.collComplete n) s = .next (s.post (.collComplete n))) ∧
        (c.finished = true → s.jobWaits n = false → c.code ≠ 0 →
          exec (.collComplete n) s = .next (releaseGone (s.dropL1.finishJob j (statusWord c.code 0)))) ∧
        (c.finished = true → s.jobWaits n = false → c.code = 0 → c.written = true →
          exec (.collComplete n) s = .next (releaseGone (s.dropL1.finishJob j (statusWord 0 (collElem c.ty * c.writes))))) ∧
        (c.finished = true → s.jobWaits n = false → c.code = 0 → c.written = false →
          ((∀ k ∈ c.keys, isPeer k = false) → ∃ t, exec (.collComplete n) s =
            .next (releaseGone (t.dropL1.finishJob j (statusWord 0 (collElem c.ty * c.writes)))) ∧ t.g = s.g ∧
            ((∀ k ∈ c.keys, isRemote k = false) → t = c.keys.zipIdx.foldl (fun w k => w.write k.1 (collElem c.ty) (c.result c.stream k.2)) s)) ∧
          ((∃ k ∈ c.keys, isPeer k = true) → ∃ t, exec (.collComplete n) s = .next t ∧ t.g = s.g ∧ .collComplete n ∈ t.engineQ ∧
            t.job? n = some { j with kind := .coll { c with written := true } }))) ∧
      (∀ rs, j.kind = .seal rs → exec (.gradSealComplete n) s =
        .next ((foldThr s (sealSel j.dom rs)).1.dropL1.finishJob j (BitVec.ofNat 64 (foldThr s (sealSel j.dom rs)).2))) ∧
      (∀ v, Spec.own s j.gid → j.gid < polId 0 → s.party = .group → j.area = none → j.reg ≠ 0 →
        (s.finishJob j v).rdS j.reg = v ∧ (s.finishJob j v).pending j.reg = false ∧ (s.finishJob j v).job? n = none ∧
        ∀ r, r ≠ j.reg → (s.finishJob j v).rdS r = s.rdS r ∧ (s.finishJob j v).pending r = s.pending r))

/-- R178, R179, R268, R278, R298, R398: what the engines do for a resident group: a prefetched vector joins its port's queue when the port's
turn has come, a pushed one is written or tried again, a held pop starts its handler with the segment's identifier in s1, a core's window
of floating-point traps, once its 64 ck are over, stops the group of the candidate that issued first, of several in one ck the one at the
lowest slot, among those that are running or await a reply, and a delivery that the receiver is ready for is written. When each engine
moves, and that its writes stand in this order, are the model's choice (assumptions 22 and 38). -/
def Obligations.EnginesServeTheirGroups : Prop :=
  ∀ (s : State) (gid port : Nat), Spec.own s gid → s.party = .group →
    (∀ k x, s.g.portOf port = some (k, x) →
      let n := x.pos + 32 * x.loadQ.length
      let c := s.gteam.core
      let u := { s.setCore c { s.core c with strmTurn := (16 * s.g.slot + port + 1) % 1024 } with ch := 34 + port }
      (x.room = false → exec (.streamPrefetch gid port) s = .next s) ∧
      (x.room = true → earlierPort s port = true → exec (.streamPrefetch gid port) s = .next (s.post (.streamPrefetch gid port))) ∧
      (x.room = true → earlierPort s port = false →
        (∀ t v, fetchVec u x 32 n = (t, some v) → exec (.streamPrefetch gid port) s =
          .next ({ t.remClear with g := t.remClear.g.setStream k { x with loadQ := x.loadQ ++ [v] }, ch := s.ch }.post
            (.streamPrefetch gid port))) ∧
        (∀ t, fetchVec u x 32 n = (t, none) → exec (.streamPrefetch gid port) s =
          .next ({ t with ch := s.ch }.post (.streamPrefetch gid port))))) ∧
    (∀ v q, s.g.pushes = v :: q →
      let write := v.elems.foldlM (fun t (y : QStore) => t.put y.loc y.va 4 y.w.toNat s.g.relL) { s with ch := 34 + port }
      (∀ t, write = .ok t → ∃ u, exec (.storeEngineWrite gid port) s = .next u ∧ u.g = { t.g with pushes := q } ∧ SameBytes t u) ∧
      (∀ e, write = .error e → exec (.storeEngineWrite gid port) s = .next (s.post (.storeEngineWrite gid port)))) ∧
    (s.g.tape.held = true → s.g.tape.recomp = false → ∀ x, s.g.tape.segs.getLast? = some x →
      ∃ t, exec (.recompute gid) s = .next t ∧ t.rdS 1 = x.id.setWidth 64 ∧ t.pc = s.g.tape.handler ∧ t.g.tape.recomp = true ∧
        t.g.tape.savedPc = s.pc ∧ t.g.tape.savedS1 = s.rdS 1 ∧ t.g.regcnt = s.g.regcnt + 1 ∧ SameBytes s t ∧
        ∀ r, r ≠ 1 → t.rdS r = s.rdS r) ∧
    (let k := s.gteam.core;
      (∀ c rest, (s.core k).fpWin = c :: rest → s.clock < c.ck + 64 → exec (.fpTrapCollect k) s = .next s) ∧
      ∀ h rest c, (s.core k).fpWin = h :: rest → h.ck + 64 ≤ s.clock → c ∈ (s.core k).fpWin → c.gid = gid → fpEligible s k s.g = true →
        (∀ x ∈ (s.core k).fpWin, x = c ∨ c.ck < x.ck ∨ (c.ck = x.ck ∧ c.slot < x.slot) ∨
          ∀ g ∈ s.groups, g.gid = x.gid → fpEligible s k g = false) →
        inFlight s s.g true = false → inFlight s s.g false = false →
        ∃ t, exec (.fpTrapCollect k) s = .next t ∧ (t.core k).fpWin = [] ∧
          ∃ q tr, t.g.phase = .stopped q tr true ∧ tr.code = .fpTrap ∧ tr.kind = .collected ∧ tr.lane = some c.lane ∧
            tr.pcAt = some c.lpc ∧ tr.mask = c.mask) ∧
    (∀ x gr, s.deliveries.find? (fun y => y.id == x.id) = some x → x.sent = false → x.packet = none →
      s.grid? x.dom x.asn x.desc = some gr → gr.asn = x.asn → gr.desc = x.desc →
      let u := { s with deliveries := s.deliveries.map fun y => if y.id == x.id then x else y }
      (deliverable u gr x = true → exec (.headlandDelivery x.id) s = .next (deliver u gr x)) ∧
      (deliverable u gr x = false → exec (.headlandDelivery x.id) s = .next (u.post (.headlandDelivery x.id))))

/-- R200, R233, R301, R416, R441: a limit that expires ends its wait: CP.TRY answers, MX.PAIR faults, waits no more and leaves a mark for its
partner, a stale cell and a held request fault on their next try, and requests older than 1 ms are given up: a window read is lost, and
of a posted store the group owes the fault (assumption 28); a limit of a group that is not there does nothing but to release a staged
entry of it. -/
def Sys2Proof.Spec.LimitsEndTheirWaits : Prop :=
  ∀ (s : State) (gid : Nat), gid < polId 0 →
    (s.focus gid = none →
      (∀ e ∈ [.cpTryTimeout gid, .pairTimeout gid, .staleHaloTimeout gid], exec e s = .next s) ∧
      ((∀ t ∈ s.teams, ∀ e ∈ t.staged.head?, e.gid ≠ gid) → exec (.stileTimeout gid) s = .next s)) ∧
    (Spec.own s gid → s.party = .group →
      exec (.cpTryTimeout gid) s = .next (if s.g.tryWait then { s with g := { s.g with tryOver := true, sStall := none } } else s) ∧
      (∀ p, s.pairs.find? (fun p => p.gid == gid) = some p → exec (.pairTimeout gid) s =
        .next (takeTrap { s.unpair gid with pairMarks := s.pairMarks ++ [{ p with west := !p.west }] } true { code := .pairTimeout })) ∧
      (s.g.lStall = some .staleHalo →
        exec (.staleHaloTimeout gid) s = .next { s with g := { s.g with haloOver := true, lStall := none } }) ∧
      (s.g.lStall ≠ some .staleHalo → exec (.staleHaloTimeout gid) s = .next s) ∧
      (let u := { s with teams := s.teams.map (releaseStaged s gid) }
        ∀ m, u.member? = some m → sessField u m 28 4 ≠ 0 → s.g.sStall = some .stile ∨ s.g.lStall = some .stile →
          exec (.stileTimeout gid) s = .next { u with g := { s.g with stileOver := true, sStall := none, lStall := none } })) ∧
    ((∀ r ∈ s.fabric.reqs, s.clock < r.sent + 1250000) → exec (.peerTimeout gid) s = .next s) ∧
    (∀ r, s.fabric.reqs = [r] → r.gid = some gid → r.sent + 1250000 ≤ s.clock → ∃ t, exec (.peerTimeout gid) s = .next t ∧
      t.fabric.reqs = [] ∧ SameBytes s t ∧
      (r.job = none → r.deliv = none →
        (∀ x ∈ s.remote, isPeer x.pa = true → x.isDone = false → x.tag = r.tag →
          ∃ y ∈ t.remote, y.pa = x.pa ∧ y.gid = x.gid ∧ y.ch = x.ch ∧ y.isDone = true ∧ y.status = 5) ∧
        (r.write = true → r.compl = false → (∀ x ∈ s.remote, x.tag ≠ r.tag) → Spec.own s gid → s.g.owed = none →
          t.g.owed = some (restartAt .uncorrectableData 0))))

/-- R199, R200, R206 to R208, R233, R301, R441: how work and waits end. -/
def Obligations.WorkAndWaitsEnd : Prop :=
  Sys2Proof.Spec.WorkEndsWithItsToken ∧ Sys2Proof.Spec.LimitsEndTheirWaits

/-! ### Launches and pre-emption -/

/-- R364, R365, R369 to R373: a push fills the queue's tail slot or is counted as dropped; the head of a queue is taken when it is
eligible and the device holds fewer than 1,024 launches; a gang is placed, committed and started team by team, its reservation ended; a
finished launch writes its completion record, CVAL and the code, and is gone; the ticket goes on to the next team once the one that holds
it is released and its staged stores are performed (R405); a stream that has been ready for 4,096 ck is promoted. When each of these
happens is the model's choice (assumptions 38 and 46). -/
def Obligations.LaunchesArePushedPlacedAndCompleted : Prop :=
  (∀ (s : State) (i off : Nat) (b : List Byte),
    let q := s.queue i
    let bad := q.owner = 15 ∨ q.en = false ∨ b.length ≠ 128 ∨ off ≠ 0x80
    (bad ∨ q.free = 0 → ∃ t, exec (.launchPush i off b) s = .next t ∧ SameBytes s t ∧ (t.queue i).tail = q.tail ∧
      (t.queue i).dropped = min (q.dropped + 1) (2 ^ 32 - 1) ∧ (bad → (t.queue i).malf = true) ∧ (¬ bad → (t.queue i).ovf = true)) ∧
    (¬ bad → q.free ≠ 0 → ∃ t, exec (.launchPush i off b) s = .next t ∧
      SameBytesOutside s t (q.base + 128 * (q.tail % 2 ^ q.log2)) 128 ∧
      (s.poison = [] → ∀ k, k < 128 → Memory.byte t.mem (q.base + 128 * (q.tail % 2 ^ q.log2) + k) = b.getD k 0) ∧
      (t.queue i).tail = q.tail + 1 ∧ (t.queue i).free = q.free - 1 ∧ .launchTake (.queue i) ∈ t.engineQ)) ∧
  (∀ (s : State) (src : LaunchSrc),
    (headOf s src = .empty → exec (.launchTake src) s = .next s) ∧
    (headOf s src = .lost → exec (.launchTake src) s = .next (s.irq 1)) ∧
    (headOf s src = .waits → exec (.launchTake src) s = .next (s.post (.launchTake src))) ∧
    (∀ seq dom asn prio cls b parent, headOf s src = .ready seq dom asn prio cls b parent →
      (1024 ≤ s.launches.length → exec (.launchTake src) s = .next (s.post (.launchTake src))) ∧
      (let found := s.look (2 ^ 65 + s.nextLaunch) (tableCells s dom asn b);
        s.launches.length < 1024 →
        (∀ t, found = .error t → exec (.launchTake src) s = .next (t.post (.launchTake src))) ∧
        ∀ i w val, src = .queue i → found = .ok (w, val) → ∃ t, exec (.launchTake src) s = .next t ∧ (t.queue i).head = (s.queue i).head + 1 ∧
          (t.queue i).free = (s.queue i).free + 1 ∧ (t.queue i).last = some s.nextLaunch ∧ t.nextLaunch = s.nextLaunch + 1 ∧
          .launchTake src ∈ t.engineQ ∧
          (let u := ({ w.setQueue i { w.queue i with
              head := (w.queue i).head + 1, free := (w.queue i).free + 1, last := some w.nextLaunch } with
              nextLaunch := w.nextLaunch + 1 } : State).readBlock dom;
            ∀ r, launchRec (wordAt u dom asn val) cls b = some r → t.launches.length = s.launches.length + 1 ∧
              ∃ l ∈ t.launches, l.num = s.nextLaunch ∧ l.rcd = r ∧ l.dom = dom ∧ l.asn = asn ∧ l.prio = prio ∧ l.cls = cls ∧ l.parent = parent)))) ∧
  (∀ (s : State) (n die x y : Nat) (quads : List Nat) (l : Launch), s.launch? n = some l →
    let c : Cluster :=
      { cid := s.nextId, launch := n, w := l.rcd.cw, h := l.rcd.ch, die := die, x0 := x, y0 := y, chans := l.rcd.chans }
    let u := reserve s
    mayPlace u l = true → c.inDie = true →
    (∀ k, k < c.w * c.h → openTo u l (c.coreOf k) = true ∧ (u.core (c.coreOf k)).owner = l.dom ∧
      fits u (c.coreOf k) (l.need k (quads.getD k 0 % 4)) = true) →
    ∃ t, exec (.gangPlace n die x y quads) s = .next t ∧ t.placing = some n ∧ t.teams.length = s.teams.length + c.w * c.h ∧
      (t.launch n).gangs = l.gangs + 1 ∧ .gangCommit n ∈ t.engineQ ∧ ∀ r ∈ t.resv, r.1 ≠ n) ∧
  (∀ (s : State) (n : Nat),
    (s.placing = some n → ∃ t, exec (.gangCommit n) s = .next t ∧ t.placing = none ∧ ∀ x ∈ t.teams, x.launch = n → x.committed = true) ∧
    (s.placing ≠ some n → exec (.gangCommit n) s = .next s) ∧
    (∀ x, s.team? n = some x → ∃ t, exec (.teamReady n) s = .next t ∧ (t.team n).filled = true ∧
      (x.committed = true → ∀ g ∈ t.groups, g.live = true → g.team = n → g.phase ≠ .placed)) ∧
    (∀ l, s.launch? n = some l →
      (launchDone s l = true → ∃ t, exec (.launchComplete n) s = .next t ∧ t.launch? n = none ∧ t.g = s.g ∧
        let code := if l.aborted then 2 else 0
        (l.rcd.compl = 0 → SameBytes s t ∧ t.hostOut = s.hostOut ∧ t.fabric = s.fabric) ∧
        (l.rcd.compl ≠ 0 → l.rcd.compl.toNat % 16 = 0 →
          (∀ e, translatePt s l.dom l.asn true l.rcd.compl .store = .error e → SameBytes s t ∧ t.priv.irqpend.getLsbD 1 = true) ∧
          ∀ p, translatePt s l.dom l.asn true l.rcd.compl .store = .ok p →
            (isRemote p.key = false → p.h = false → s.poison = [] → SameBytesOutside s t p.key 16 ∧
              Memory.read t.mem p.key 8 = l.rcd.cval.toNat ∧ Memory.read t.mem (p.key + 8) 8 = code) ∧
            (isHost p.key = true → SameBytes s t ∧ t.hostOut =
              .write (s.hostPort l.dom) (p.key - hostBase) (leBytes 8 l.rcd.cval.toNat ++ leBytes 8 code) false :: s.hostOut))) ∧
      (launchDone s l = false → exec (.launchComplete n) s = .next (s.post (.launchComplete n)))) ∧
    (∀ l, s.launch? n = some l → l.aborted = false →
      ((∀ x ∈ s.teams, x.launch = n → x.teamlin ≠ l.ticket) → exec (.ticketPass n) s = .next s) ∧
      ∀ x, s.teams.find? (fun y => y.launch == n && y.teamlin == l.ticket) = some x →
        let done := performStaged s l.dom l.asn x.tid x.staged
        (done.2 = false → exec (.ticketPass n) s = .next (done.1.post (.ticketPass n))) ∧
        (done.2 = true → x.resident = true ∨ x.gone = false → exec (.ticketPass n) s = .next done.1) ∧
        (done.2 = true → x.resident = false → x.gone = true → done.1.launch? n = some l →
          (∀ y ∈ done.1.teams, y.tid ≠ x.tid → y.launch = n → y.teamlin ≠ l.ticket + 1) → exec (.ticketPass n) s =
          .next ({ done.1 with teams := done.1.teams.filter fun y => y.tid != x.tid }.setLaunch { l with ticket := l.ticket + 1 })) ∧
        (∀ e, x.staged = [e] → e.sess = none → isRemote e.pa = false → s.owned e.pa e.size = false → s.team? x.tid = some x →
          done.2 = true ∧ done.1.mem = (s.write e.pa e.size e.data.toNat).mem ∧ (done.1.team x.tid).staged = [])) ∧
    (∀ lane, Spec.own s n → ∃ t, exec (.issuePromotion n lane) s = .next t ∧ t.g.sc = s.g.sc ∧
      (lane = true → t.g.promoS = s.g.promoS ∧ t.g.promoL = (s.g.promoL || decide (4096 ≤ s.g.ageL))) ∧
      (lane = false → t.g.promoL = s.g.promoL ∧ t.g.promoS = (s.g.promoS || decide (4096 ≤ s.g.ageS)))))

/-- R374 to R380: a yield request reaches every group of its gang with its deadline, and the gang leaves once all have saved; its
withdrawal takes back the request, and a group that has made its light save goes on, its save complete; an expired deadline and a forced
pre-emption have the groups they name saved, when each team has an area; a save is complete when nothing late is outstanding, and STATE is
then 2 in every header; a restore waits for it, for the ticket holder's gang, for a gang being placed and for what ranks before it, and puts
the team back or changes nothing but to tell firmware. What of an image is flawed, which results are late and when a withdrawal counts are
the model's choice (assumptions 11, 56 and 63). -/
def Obligations.GangsAreSavedAndRestored : Prop :=
  (∀ (s : State) (cid : Nat) (dl : Word) (areas : List (Nat × Nat)),
    ∃ u, exec (.yieldRequest cid true dl areas) s = .next (tryLeave u cid) ∧ SameBytes s u ∧ u.groups.length = s.groups.length ∧
      ((∃ c ∈ s.clusters, c.cid = cid) → (u.cluster cid).areas = areas) ∧ (∀ g ∈ s.groups, (s.team g.team).cluster ≠ cid → g ∈ u.groups) ∧
      ∀ g ∈ u.groups, g.live = true → (u.team g.team).cluster = cid → g.yieldReq = true ∧ g.deadline = dl) ∧
  (∀ (s : State) (cid : Nat) (dl : Word) (areas : List (Nat × Nat)), ∃ t, exec (.yieldRequest cid false dl areas) s = .next t ∧
    ((∀ g ∈ gangGroups s cid, g.leave ≠ .light) → SameBytes s t) ∧ t.groups.length = s.groups.length ∧
    (∀ g ∈ gangGroups s cid, g.leave = .light → (∀ e ∈ g.refills, e ∈ t.engineQ) ∧ ∀ a, yieldArea s (s.team g.team) = some a → s.poison = [] →
      Memory.read t.mem (a + 4096 * g.gidx + 4) 4 = 2 ∧ Memory.read t.mem (a + 4) 4 = 2) ∧ (∀ g ∈ s.groups, (s.team g.team).cluster ≠ cid → g ∈ t.groups) ∧
      ∀ g ∈ t.groups, g.live = true → (t.team g.team).cluster = cid → g.yieldReq = false ∧ g.leave ≠ .light) ∧
  (∀ (s : State) (cid : Nat) (areas : List (Nat × Nat)),
    let u := s.setCluster { s.cluster cid with areas := areas }
    (gangAreas s cid areas = true → exec (.forcedPreemption cid areas) s = .next (forceGang u cid fun _ => true) ∧
      exec (.deadlineExpiry cid areas) s = .next (forceGang u cid fun g => g.yieldReq && g.deadline == 0)) ∧
    (gangAreas s cid areas = false → exec (.forcedPreemption cid areas) s = .next s ∧ exec (.deadlineExpiry cid areas) s = .next s)) ∧
  (∀ (s : State) (a : Nat),
    (savedAt s a = none → exec (.saveComplete a) s = .next s) ∧
    (∀ x, savedAt s a = some x → (x.complete = true → exec (.saveComplete a) s = .next s) ∧
      (x.complete = false → x.holds = none →
        ((∃ j ∈ s.jobs, j.area.map (·.1) = some a) → ∃ t, exec (.saveComplete a) s = .next t ∧ (x.late = [] → SameBytes s t) ∧
          savedAt t a = some { x with late := [] }) ∧
        ((∀ j ∈ s.jobs, j.area.map (·.1) ≠ some a) → s.poison = [] → ∃ t, exec (.saveComplete a) s = .next t ∧
          savedAt t a = some { x with complete := true, holds := none, late := [] } ∧ Memory.read t.mem (a + 4) 4 = 2 ∧
          (∀ g ∈ x.groups, Memory.read t.mem (a + 4096 * g.gidx + 4) 4 = 2) ∧
          ∀ e ∈ (t.core (s.team x.tid).core).remap, e.2 ≠ a)))) ∧
  (∀ (s : State) (a c : Nat),
    (teamAt s a = none → exec (.contextRestore a c) s = .next s) ∧
    (∀ t x, teamAt s a = some (t, x) →
      let l := s.launch t.launch
      let h := holderSaved s l
      let turn := (h = none ∨ h = some x.cid) ∧ holderUnplaced s l = false ∧ s.placing = none ∧ outranked s l = false
      (¬ turn → exec (.contextRestore a c) s = .next (s.post (.contextRestore a c))) ∧
      (turn → ∀ k, imageFlaw s a = some k → exec (.contextRestore a c) s = .next ((s.note (flawed 0 k 0)).irq 1)) ∧
      (turn → imageFlaw s a = none →
        (restoreTeam s a c = none → exec (.contextRestore a c) s = .next (s.post (.contextRestore a c))) ∧
        (∀ v u, restoreTeam s a c = some (v, u) →
          (v.getLsbD 63 = false → exec (.contextRestore a c) s = .next u) ∧
          (v.getLsbD 63 = true → exec (.contextRestore a c) s =
            .next (if l.rcd.det = true ∧ restorable s x = false then s.irq 1 else s))))))

/-! ### Answers of firmware and of the rendering engines -/

/-- R100, R258, R401, R402, R441: a reply whose DONE is written delivers the status and the vector and the group goes on past its SYSCALL; a
lane's record is looked at again until DONE, then its values or its kill take effect; a stopped group goes on by its disposition. In
local memory the device finds what memory holds; from a queue in the host or peer window it reads what the completions bring. When it
looks is the model's choice (assumptions 37 and 38). -/
def Obligations.AnswersResumeTheirGroups : Prop :=
  (∀ (s : State) (seq : Nat) (d : SReg) (rep : Bool) (vrep : Nat) (em : Word), s.g.live = true → s.party = .group →
    s.g.phase = .suspended seq d rep vrep em → s.g.call = none → s.g.leave = .stay →
    let a := syscallSlot s s.gdom seq
    let found := s.look (2 ^ 63 + 2 * seq + s.gdom)
      ((a + 3080, 8) :: (a + 3072, 8) :: (List.range 32).map fun l => (a + 3088 + 4 * l, 4))
    (∀ u, found = .error u ∨ found = .ok (u, none) → exec (.syscallReply s.g.gid) s = .next (u.post (.syscallReply s.g.gid))) ∧
    (∀ u val, found = .ok (u, some val) →
      (val (a + 3080) 8 = 0 → exec (.syscallReply s.g.gid) s = .next (u.post (.syscallReply s.g.gid))) ∧
      (val (a + 3080) 8 ≠ 0 → ∃ t, exec (.syscallReply s.g.gid) s = .next t ∧ t.g.phase = .running ∧ t.pc = s.pc + 4 ∧ SameBytes s t ∧
        (d ≠ 0 → t.rdS d = BitVec.ofNat 64 (val (a + 3072) 8) ∧ t.pending d = false) ∧ (∀ r, r ≠ d → t.rdS r = s.rdS r) ∧
        (rep = true → ∀ l, em.getLsbD l = true → t.g.vr vrep l = BitVec.ofNat 32 (val (a + 3088 + 4 * l) 4)) ∧
        (∀ k l, l < 32 → (rep = false ∨ k ≠ vrep ∨ em.getLsbD l = false) → t.g.vr k l = s.g.vr k l)))) ∧
  (∀ (s : State) (ch : Nat) (cells : List (Nat × Nat)), (∀ c ∈ cells, isRemote c.1 = false) → ∃ u val, s.look ch cells = .ok (u, some val) ∧
    u.g = s.g ∧ u.mem = s.mem ∧ ∀ key n, isRemote key = false → val key n = s.read key n) ∧
  (∀ (s : State) (c seq : Nat) (p : ParkRec), s.g.live = true → s.party = .group → (∃ r ∈ (s.core c).lfLive, r.seq = seq) →
    s.g.parked.find? (fun q => q.core == c && q.seq == seq) = some p →
    let a := lfqSlot s c seq
    let found := s.look (2 ^ 64 + 2 ^ 32 * c + seq) ((a + 56, 8) :: (List.range 10).map fun i => (a + 48 + 8 * i, 8))
    ∀ u val, found = .ok (u, some val) →
    (val (a + 56) 8 = 0 → exec (.laneResume c seq) s = .next (u.post (.laneResume c seq))) ∧
    (val (a + 56) 8 ≠ 0 →
      (val (a + 52) 4 ≤ p.op.dest.2 → val (a + 48) 4 = 2 → ∃ t, exec (.laneResume c seq) s = .next t ∧
        (∀ q ∈ t.g.parked, q.core ≠ c ∨ q.seq ≠ seq) ∧ SameBytes s t ∧
        (p.lane < 32 → ∀ k, k < val (a + 52) 4 → k < 16 →
          t.g.vr (p.op.dest.1 + k) p.lane = BitVec.ofNat 32 (val (a + 64 + 4 * k) 4))) ∧
      (p.op.dest.2 < val (a + 52) 4 ∨ val (a + 48) 4 = 4 → ∃ t, exec (.laneResume c seq) s = .next t ∧
        (∀ q ∈ t.g.parked, q.core ≠ c ∨ q.seq ≠ seq) ∧ SameBytes s t ∧ (p.lane < 32 → t.g.killMask.getLsbD p.lane = true) ∧
        t.g.vreg = s.g.vreg))) ∧
  (∀ (s : State) (d seq : Nat),
    let a := gfSlot s d seq
    ((∀ r ∈ (s.dom d).gfLive, r.seq ≠ seq) → exec (.faultDisposition d seq) s = .next s) ∧
    (∀ r, (s.dom d).gfLive.find? (fun r => r.seq == seq) = some r →
      ∀ u val, s.look (2 ^ 62 + 2 * seq + d) [(a + 96, 8), (a + 88, 4)] = .ok (u, some val) →
      (val (a + 96) 8 = 0 → exec (.faultDisposition d seq) s = .next (u.post (.faultDisposition d seq))) ∧
      (∀ tr lane, val (a + 96) 8 ≠ 0 → r.withdrawn = false → r.pass = none → r.gid = some s.g.gid → s.g.live = true → s.party = .group → s.g.call = none →
        (∀ g ∈ s.groups, ∀ t l, g.phase ≠ .stopped none t l) → s.g.phase = .stopped (some seq) tr lane →
        let goes (g : Group) : Prop := ∃ t, exec (.faultDisposition d seq) s = .next t ∧ t.g = { g with phase := .running } ∧ SameBytes s t
        (val (a + 88) 4 = 1 → tr.kind = .precise → tr.code ≠ .brk → goes s.g) ∧
        (val (a + 88) 4 = 2 → tr.kind = .precise → tr.code ≠ .brk → lane = false → goes (s.setPc (s.pc + 4)).g) ∧
        (val (a + 88) 4 = 1 → tr.kind = .precise → tr.code = .brk → goes (s.setPc (s.pc + 4)).g) ∧
        (val (a + 88) 4 = 1 ∨ val (a + 88) 4 = 2 → tr.kind = .restart → goes s.g.restart))))

namespace Sys2Proof.Spec

/-- `n` bytes at an address of a launch's space lie at `key` in this package's memory and may be stored to, whatever bytes the places that
`free` names hold. -/
def liesAt (s : State) (l : Launch) (free : Nat → Prop) (va : DWord) (n key : Nat) : Prop :=
  isRemote key = false ∧ s.owned key n = false ∧ ∀ m : Memory, (∀ b, ¬ free b → Memory.byte m b = Memory.byte s.mem b) →
    ∃ p, translatePt { s with mem := m } l.dom l.asn true va .store = .ok p ∧ p.key = key ∧ p.h = false ∧ p.pfd = 0

end Sys2Proof.Spec

/-- R327, R330 to R332: a pass starts, advances a primitive or a fragment at a time, ends with its survivors and its status record, and on a
fault is stopped with a record; a launch that is no pass, or a pass that is done or stopped, is left alone. The survivors are the distinct
ids of the buffer, ascending; SURV takes as many as SURVCAP allows, and STATUS the counts and the code. How the pass is cut into stretches is
the model's choice (assumption 35). -/
def Obligations.VisibilityPasses : Prop :=
  (∀ (s : State) (n : Nat) (l : Launch), s.launch? n = some l →
    (l.rcd.pass = false ∨ l.pass.done = true ∨ l.pass.faulted.isSome = true →
      ∀ e ∈ [.visibilityPass n, .passComplete n, .passFault n], exec e s = .next s) ∧
    (l.rcd.pass = true → l.pass.done = false → l.pass.faulted = none →
      (l.pass.started = false → exec (.visibilityPass n) s = .next (passStart s l) ∧ exec (.passComplete n) s = .next s ∧
        exec (.passFault n) s = .next s) ∧
      (l.pass.started = true →
        (∀ t, passStep s l = .ok t → exec (.visibilityPass n) s = .next t) ∧
        (∀ x, passStep s l = .error (.wait x) → exec (.visibilityPass n) s = .next ((passAsk s l x).post (.visibilityPass n))) ∧
        (∀ f, passStep s l = .error (.fault f) → exec (.visibilityPass n) s = .next (s.post (.passFault n))) ∧
        (∀ t, passFinish s l = .ok t → exec (.passComplete n) s = .next t ∧ (t.launch n).pass.done = true ∧
          .launchComplete n ∈ t.engineQ ∧ t.g = s.g) ∧
        (∀ x, passFinish s l = .error (.wait x) → exec (.passComplete n) s = .next ((passAsk s l x).post (.passComplete n))) ∧
        (∀ f, passFinish s l = .error (.fault f) → exec (.passComplete n) s = .next (s.post (.passFault n))) ∧
        (passFaultNow s l = none → exec (.passFault n) s = .next (s.post (.visibilityPass n))) ∧
        (∀ f, passFaultNow s l = some f →
          let u := (s.note f).readBlock l.dom
          let q := (u.dom l.dom).gfSeq + 1
          (gfFull u l.dom = true → exec (.passFault n) s = .next (u.post (.passFault n))) ∧
          (gfFull u l.dom = false → ∃ t, exec (.passFault n) s = .next t ∧ (t.launch n).pass.faulted = some q ∧ (t.dom l.dom).gfSeq = q ∧
            (t.launch n).pass.code = (if f.code = .uncorrectableData then 3 else 2) ∧ (t.launch n).pass.held = [] ∧
            t.g = s.g ∧ SameBytesOutside u t (gfSlot u l.dom q) 104)) ∧
        ∀ ids kl ks, l.pass.code ≠ 4 → s.poison = [] → scanIds s l (vbdOf l.pass.vbd) = .ok ids →
          let d := passDesc l.pass.desc
          let m := min d.survcap ids.length
          let free (b : Nat) : Prop := (kl ≤ b ∧ b < kl + 8 * m) ∨ (ks ≤ b ∧ b < ks + 64)
          kl + 8 * m ≤ ks ∨ ks + 64 ≤ kl → Spec.liesAt s l free d.status 64 ks →
          (∀ j, j < m → Spec.liesAt s l free (d.surv + BitVec.ofNat 64 (8 * j)) 8 (kl + 8 * j)) →
          let code := if d.survcap < ids.length then 1 else 0
          ∃ t, exec (.passComplete n) s = .next t ∧ (t.launch n).pass.code = code ∧ (∀ b, ¬ free b → Memory.byte t.mem b = Memory.byte s.mem b) ∧
            (∀ j, j < m → Memory.read t.mem (kl + 8 * j) 8 = ids.getD j 0) ∧
            Memory.read t.mem ks 4 = min d.primcnt (l.pass.prim + if l.pass.bins.isSome then 1 else 0) % 2 ^ 32 ∧
            Memory.read t.mem (ks + 4) 4 = l.pass.cullW % 2 ^ 32 ∧ Memory.read t.mem (ks + 8) 4 = l.pass.cullArea % 2 ^ 32 ∧
            Memory.read t.mem (ks + 12) 4 = l.pass.cullFace % 2 ^ 32 ∧ Memory.read t.mem (ks + 16) 8 = l.pass.frags % 2 ^ 64 ∧
            Memory.read t.mem (ks + 24) 8 = l.pass.discards % 2 ^ 64 ∧ Memory.read t.mem (ks + 32) 4 = ids.length % 2 ^ 32 ∧
            Memory.read t.mem (ks + 36) 4 = l.pass.flushes % 2 ^ 32 ∧ Memory.read t.mem (ks + 40) 4 = code ∧
            Memory.read t.mem (ks + 44) 20 = 0))) ∧
  (∀ (s : State) (l : Launch) (b : Vbd) (ids : List Nat), scanIds s l b = .ok ids → ids.Pairwise (· < ·) ∧
    ∀ x, x ∈ ids ↔ x ≠ emptyId ∧ ∃ i r, i < 2 ^ b.scode * b.w * b.h ∧
      passRead s l (BitVec.ofNat 64 (b.base + 16 * i)) 16 = .ok r ∧ bitsOf r 0 64 = x)


/-! ### The fabric, the host and repair -/

namespace Sys2Proof.Spec

/-- A request packet that a target performs. -/
abbrev good (p : Packet) (type : Nat) : Prop := packetBad p = false ∧ p.type.toNat = type

/-- The response to a request, with its status, old value and data. -/
def reply (p : Packet) (st : Nat) (aux : DWord) (data : List Byte) : Packet := { packetReply p st data with aux := aux }

/-- A request from outside stands behind none that waits. -/
abbrev first (s : State) (r : InReq) : Prop := ∀ y ∈ s.waitIn, y.req.meets r = false
/-- It waits for nothing: it is the first for its lines, and no engine owns one of them. -/
abbrev free (s : State) (r : InReq) : Prop := first s r ∧ ∀ a ∈ r.reach, s.owned a.1 a.2 = false
/-- The state with what an arrival draws among the free values while sessions are under way (assumption 59). -/
def drawn (s : State) : State := if s.sessions.isEmpty then s else { s with fresh := s.fresh + 2 }
/-- A packet's request waits for nothing, and is made for no participant of a session. -/
abbrev alone (s : State) (p : Packet) : Prop := free s (.packet p) ∧ peerMember s p s.fresh = none

end Sys2Proof.Spec

/-- R448 to R450, R452: requests that arrive are performed as their type says and answered; one that the target does not admit is
answered with its status and changes no memory; a packet of another type, with a reserved field set or of an impossible length, or an atomic
whose OP names no operation, is discarded and reported. A gradient contribution goes to the Thresher of its word (R336). A request waits
while an engine of the target owns a line of it (R201, R313). One made for a participant of a session is first granted to it, and waits for
its grant where a replay has others first (R414, R416): for which participant is a free value (assumption 59). What byte names a peer atomic without a code in R174's table, and where a segment and a
delivery carry their fields, are the model's choice (assumptions 12, 14, 27 and 31), and so is how a transfer counts and which key a unit has (assumptions 24 and 25). -/
def Sys2Proof.Spec.FabricRequestsArePerformedAndAnswered : Prop :=
  ∀ (s : State) (p : Packet),
    let a := p.addr.toNat
    let n := p.len.toNat
    let u := Spec.drawn s
    (packetBad p = true → exec (.fabricBadPacket p) s = .next s.fabError ∧
      ∀ e ∈ [.fabricRead p, .fabricWrite p, .fabricVectorRead p, .fabricVectorWrite p, .fabricXferData p, .fabricCollSegment p,
        .fabricHeadlandPacket p, .fabricResponse p, .fabricAtomic p], exec e s = .next s.fabError) ∧
    (Spec.good p 3 → fabOpOf p.op = none → Spec.alone s p → exec (.fabricAtomic p) s = .next u.fabError) ∧
    (Spec.good p 1 → admitStatus s p a n = 0 → Spec.alone s p → poisoned s a n = false →
      exec (.fabricRead p) s = .next (u.respond (Spec.reply p 0 0 (Memory.bytes s.mem a n)))) ∧
    (∀ st, st ≠ 0 → admitStatus s p a n = st → Spec.first s (.packet p) →
      (Spec.good p 1 → exec (.fabricRead p) s = .next (u.respond (Spec.reply p st 0 []))) ∧
      (Spec.good p 2 → exec (.fabricWrite p) s = .next (u.respond (Spec.reply p st 0 []))) ∧
      (Spec.good p 6 → exec (.fabricXferData p) s = .next (u.respond (Spec.reply p st 0 [])))) ∧
    (Spec.good p 2 → admitStatus s p a n = 0 → Spec.alone s p →
      exec (.fabricWrite p) s = .next ((u.writeBytes a (p.data.take n)).respond (Spec.reply p 0 0 []))) ∧
    (∀ i sz, Spec.good p 3 → fabOpOf p.op = some i → sz = (if p.flags.getLsbD 2 then 8 else 4) → admitStatus s p a sz = 0 →
      Spec.alone s p →
      (i ≠ gradIndex → poisoned s a sz = false →
        exec (.fabricAtomic p) s = .next ((u.write a sz (fabNew i sz (s.read a sz) p.aux.toNat p.aux2.toNat)).respond
          (Spec.reply p 0 (BitVec.ofNat 64 (s.read a sz)) []))) ∧
      (i = gradIndex → ∀ d, keyDom s p.pkey = some d → exec (.fabricAtomic p) s =
        .next ((contribute u d a (p.aux.toNat % 2 ^ 32)).respond (Spec.reply p 0 0 [])))) ∧
    (Spec.good p 4 → reachStatus s p (packetReach p) = 0 → Spec.alone s p →
      (∀ x ∈ vectorAddrs p, poisoned s x (vectorSize p) = false) → exec (.fabricVectorRead p) s =
        .next (u.respond (Spec.reply p 0 0 ((vectorAddrs p).map fun x => Memory.bytes s.mem x (vectorSize p)).flatten))) ∧
    (Spec.good p 5 → reachStatus s p (packetReach p) = 0 → Spec.alone s p →
      exec (.fabricVectorWrite p) s = .next (((vectorAddrs p).zipIdx.foldl
        (fun w x => w.write x.1 (vectorSize p) (fieldOf p.data (64 + vectorSize p * x.2) (vectorSize p))) u).respond (Spec.reply p 0 0 []))) ∧
    (Spec.good p 6 → admitStatus s p a n = 0 → Spec.alone s p →
      let w := (u.writeBytes a (p.data.take n)).dropL1
      let c := p.aux.toNat
      (c = 0 → exec (.fabricXferData p) s = .next (w.respond (Spec.reply p 0 0 []))) ∧
      (c ≠ 0 → c % 8 = 0 → homeRefusal w 1 c = none → poisoned w c 8 = false →
        exec (.fabricXferData p) s = .next ((w.write c 8 ((w.read c 8 + n) % 2 ^ 64)).respond (Spec.reply p 0 0 [])))) ∧
    (∀ i ∈ [(1, Instr.fabricRead p), (2, .fabricWrite p), (3, .fabricAtomic p), (4, .fabricVectorRead p), (5, .fabricVectorWrite p),
        (6, .fabricXferData p)], Spec.good p i.1 → (InReq.packet p).admitted u = true → Spec.first s (.packet p) →
      ((∃ x ∈ packetReach p, s.owned x.1 x.2 = true) → exec i.2 s = .next { u with
        waitIn := s.waitIn ++ [{ num := s.nextId, req := .packet p, seed := s.fresh, granted := [] }], nextId := s.nextId + 1 }) ∧
      (∀ m v seen ok, Spec.free s (.packet p) → peerMember s p s.fresh = some m →
        peerGrants m (grantLines p) { u with ch := 2 ^ 40 + s.nextId } [] = (v, seen, ok) →
        (ok = true → exec i.2 s = .next (doPacket p { v with ch := s.ch })) ∧
        (ok = false → ∃ t, exec i.2 s = .next t ∧ t.mem = v.mem ∧ t.nextId = s.nextId + 1 ∧ t.waitIn = v.waitIn ++
          [{ num := s.nextId, req := .packet p, seed := s.fresh, granted := seen }]))) ∧
    (Spec.good p 7 → (∀ d, keyDom s p.pkey = some d → exec (.fabricCollSegment p) s = .next ((collArrive s p d).respond (Spec.reply p 0 0 []))) ∧
      (keyDom s p.pkey = none → exec (.fabricCollSegment p) s = .next (s.respond (Spec.reply p 1 0 [])))) ∧
    (Spec.good p 8 → (keyDom s p.pkey = none → exec (.fabricHeadlandPacket p) s = .next (s.respond (packetReply p 1 []))) ∧
      (∀ d, keyDom s p.pkey = some d → ∃ t, exec (.fabricHeadlandPacket p) s = .next t ∧ t.nextId = s.nextId + 1 ∧
        t.deliveries.map (·.id) = s.deliveries.map (·.id) ++ [s.nextId] ∧ t.deliveries.map (·.dom) = s.deliveries.map (·.dom) ++ [d] ∧
        .headlandDelivery s.nextId ∈ t.engineQ))

/-- R441, R451, R453: a response answers the request of its tag and target and adjusts that target's limit; one that answers nothing is
dropped; the recovery of a rate limit, once 1,024 ck have passed without ECE, and the
loss of a plane. How a response's status ends a window access or a piece of work is partly the model's reading (assumption 28). -/
def Sys2Proof.Spec.FabricResponsesAndPlanes : Prop :=
  ∀ (s : State),
    (∀ p, packetBad p = false → 128 ≤ p.type.toNat →
      (∀ r, s.fabric.reqs.find? (fun r => r.tag == p.tag.toNat && r.dst == p.src.toNat) = some r →
        exec (.fabricResponse p) s =
          .next (answer (adjust (s.dropReq r) r.dst (s.clock - r.sent) (p.flags.getLsbD 1)) r (statusRem p.status.toNat)
            (statusCode p.status.toNat) p.aux p.data)) ∧
      ((∀ r ∈ s.fabric.reqs, r.tag ≠ p.tag.toNat ∨ r.dst ≠ p.src.toNat) → exec (.fabricResponse p) s = .next s)) ∧
    (∀ k, (s.priv.fabctl.getLsbD 0 = false → SMap.get 0 s.fabric.quietAt k + 1024 ≤ s.clock → ∃ t, exec (.rateRecovery k) s = .next t ∧
        SMap.get 0 t.fabric.quietAt k = s.clock ∧
        SMap.get 1440 t.fabric.rl k = min 1440 (SMap.get 1440 s.fabric.rl k + 16) ∧
        ∀ j, j ≠ k → SMap.get 1440 t.fabric.rl j = SMap.get 1440 s.fabric.rl j) ∧
      (s.priv.fabctl.getLsbD 0 = true ∨ s.clock < SMap.get 0 s.fabric.quietAt k + 1024 → exec (.rateRecovery k) s = .next s)) ∧
    (∀ k, (k < 72 → k ∉ s.fabric.planesDown → ∃ t, exec (.fabricPlaneDown k) s = .next t ∧ t.fabric.planesDown = k :: s.fabric.planesDown ∧
        t.g = s.g) ∧
      (72 ≤ k ∨ k ∈ s.fabric.planesDown → exec (.fabricPlaneDown k) s = .next s))

/-- R448 to R453: the packets of the fabric. -/
def Obligations.FabricPackets : Prop :=
  Sys2Proof.Spec.FabricRequestsArePerformedAndAnswered ∧ Sys2Proof.Spec.FabricResponsesAndPlanes

/-- R439, R440, R442, R444, R473: BAR2 reads and writes the domain's memory, waits for a line that an engine owns, and counts what it
refuses; the writable BAR0 registers, the MSI-X table among them (its layout is presumed: assumption 23); a PCIe link's loss, which with failover
sends what the other end had not acknowledged again on the other port and ends AtomicOps among it, and its return; the completion of a host
access; the attestation window. That a COMMCNT above 4,096 is not written is the model's choice (assumption 16); that firmware clears ALTPATH as a link
comes up again is its reading (assumption 28), and so is what an access finds before READY (assumption 54); when a report is made is its choice
(assumption 38), and what the report's digests and its signature are (assumption 4). -/
def Obligations.TheHostsAccesses : Prop :=
  ∀ (s : State) (d off : Nat),
    let u := Spec.drawn s
    (s.isReady = true → ∀ b, bar2Ok s d off b.length = true → Spec.first s (.bar2 d off (some b) 0) →
      (s.owned off b.length = false → exec (.hostBar2Access d off (some b) 0) s = .next (u.writeBytes off b)) ∧
      (s.owned off b.length = true → exec (.hostBar2Access d off (some b) 0) s = .next { u with
        waitIn := s.waitIn ++ [{ num := s.nextId, req := .bar2 d off (some b) 0, seed := s.fresh, granted := [] }], nextId := s.nextId + 1 })) ∧
    (s.isReady = true → ∀ n, bar2Ok s d off n = true → Spec.free s (.bar2 d off none n) →
      (poisoned s off n = false → exec (.hostBar2Access d off none n) s =
        .next { u with hostRd := (d, off, Memory.bytes s.mem off n, false) :: s.hostRd }) ∧
      (poisoned s off n = true → ∃ t, exec (.hostBar2Access d off none n) s = .next t ∧
        t.hostRd = (d, off, List.replicate n 0xFF, true) :: s.hostRd)) ∧
    (s.isReady = true → ∀ b, bar2Ok s d off b.length = false → Spec.first s (.bar2 d off (some b) 0) →
      ∃ t, exec (.hostBar2Access d off (some b) 0) s = .next t ∧ SameBytes s t ∧
      (t.dom d).refused = min (2 ^ 32 - 1) ((s.dom d).refused + 1) ∧ (t.dom d).refsticky = true ∧
      (t.dom d).refaddr = BitVec.ofNat 64 off) ∧
    (s.isReady = false → (∀ b, exec (.hostBar2Access d off (some b) 0) s = .next s) ∧ (∀ n, exec (.hostBar2Access d off none n) s =
        .next { s with hostRd := (d, off, List.replicate n 0xFF, false) :: s.hostRd }) ∧ ∀ v, exec (.hostRegisterWrite d 0x08 v) s = .next s) ∧
    (s.isReady = true → ∀ v : DWord, ∃ t, exec (.hostRegisterWrite d 0x08 v) s = .next t ∧ (t.dom d).commbase.toNat = v.toNat / 64 % 2 ^ 46 * 64 ∧ SameBytes s t) ∧
    (s.isReady = true → ∀ v : DWord, v.toNat % 2 ^ 13 ≤ 4096 → ∃ t, exec (.hostRegisterWrite d 0x10 v) s = .next t ∧
      (t.dom d).commcnt.toNat = v.toNat % 2 ^ 13 ∧ SameBytes s t) ∧
    (s.isReady = true → ∀ (k : Nat) (v : DWord), k < 16 →
      (∃ t, exec (.hostRegisterWrite d (0x20000 + 16 * k) v) s = .next t ∧ SMap.get 0 (t.dom d).msixAddr k = v &&& ~~~3 ∧ SameBytes s t) ∧
      (∃ t, exec (.hostRegisterWrite d (0x20008 + 16 * k) v) s = .next t ∧ SMap.get (2 ^ 32) (t.dom d).msixData k = v &&& 0x1FFFFFFFF ∧
        SameBytes s t ∧ ((s.dom d).msixPend.getLsbD k = true → v.getLsbD 32 = false →
          t.hostOut = .msix (s.hostPort d) d k (SMap.get 0 (s.dom d).msixAddr k) (v &&& 0xFFFFFFFF) :: s.hostOut))) ∧
    (∀ unacked tags, ∃ t, exec (.pcieLinkDown ⟨d, unacked, tags⟩) s = .next t ∧ (t.dom d).linkUp = false ∧
      (t.dom d).altpath = ((s.dom d).altpath || (s.dom d).failover) ∧
      ((s.dom d).failover = false → t.remote = s.remote ∧ t.hostOut = s.hostOut) ∧
      ((s.dom d).failover = true → t.hostOut = resent s d unacked ++ s.hostOut ∧ ∀ (i : Nat) (x : RemReq), s.remote[i]? = some x →
        t.remote[i]? = some (if isHost x.pa && x.atomic.isSome && !x.isDone && tags.contains x.tag && groupDom s x.gid == some d then
          { x with isDone := true, status := 5 } else x))) ∧
    (∃ t, exec (.pcieLinkUp d) s = .next t ∧ (t.dom d).linkUp = true ∧ (t.dom d).altpath = false ∧ SameBytes s t) ∧
    (∀ tag ok data, ∃ t, exec (.pcieCompletion tag ok data) s = .next t ∧ t = { s with remote := t.remote } ∧
      t.remote.length = s.remote.length ∧ ∀ (i : Nat) (x : RemReq), s.remote[i]? = some x → t.remote[i]? = some
        (if x.tag = tag ∧ isHost x.pa = true ∧ x.isDone = false then
          { x with isDone := true, status := if ok then 0 else 1, val := ofBytes (data.take x.size) } else x)) ∧
    ((s.dom d).attest.status ≠ 1 → 4 ≤ s.start.step →
      (∃ t, exec (.attestCmd d 1) s = .next t ∧ (t.dom d).attest.status = 1 ∧ .attestDone d ∈ t.engineQ) ∧
      exec (.attestDone d) s = .next s) ∧
    ((s.dom d).attest.status = 1 → exec (.attestCmd d 1) s = .next s ∧
      ((s.dom d).attest.behind = true → exec (.attestDone d) s = .next (s.post (.attestDone d))) ∧
      (d < 2 → (s.dom d).attest.behind = false → (s.dom d).attest.latched.length = 64 → ∃ t, exec (.attestDone d) s = .next t ∧ (t.dom d).attest.status = 2 ∧
        (t.dom d).attest.report.length = 832 ∧ (t.dom d).attest.report.take 64 = (s.dom d).attest.latched ∧ SameBytes s t))

namespace Sys2Proof.Spec

/-- The record of R465 that a repair leaves: a spare row, a stack to retire once its spare rows have run out, a disabled way. -/
def repairs : Instr → Option Nat
  | .rowSpare st ch (some row) => some (2 ^ 60 + st % 16 * 2 ^ 56 + ch % 256 * 2 ^ 48 + row % 2 ^ 32)
  | .rowSpare st _ none => some (2 * 2 ^ 60 + st % 16 * 2 ^ 56)
  | .wayDisable die sl way gr =>
    some (3 * 2 ^ 60 + die % 16 * 2 ^ 56 + sl % 256 * 2 ^ 48 + (if gr then 2 ^ 47 else 0) + way % 32 * 2 ^ 40)
  | _ => none

end Sys2Proof.Spec

/-- R455, R456, R459, R461 to R463, R465: a mesh link's width follows the event while MESHCTL is automatic, and narrowing never widens it;
scrubbing, while it is enabled, and the checks of a word poison what they cannot correct; a tag error on a line invalidates it, and poisons
every word of a dirty one; a register's error stands in it until it is read or written; every repair is kept as its record, for this run alone where
the sector is full, and a disabled way holds no line. Which error a record names is partly the model's choice (assumption 64). -/
def Obligations.LinksScrubbingAndRepair : Prop :=
  ∀ (s : State),
    (∀ k q, (s.priv.meshctl.toNat % 4 = 0 →
        (∃ t, exec (.meshNarrow k q) s = .next t ∧
          SMap.get 0 t.fabric.links k = max (SMap.get 0 s.fabric.links k) (if q then 2 else 1) ∧ t.linkWidth k = SMap.get 0 t.fabric.links k) ∧
        (∃ t, exec (.meshWiden k) s = .next t ∧ SMap.get 0 t.fabric.links k = 0)) ∧
      (s.priv.meshctl.toNat % 4 ≠ 0 → exec (.meshNarrow k q) s = .next s ∧ exec (.meshWiden k) s = .next s ∧
        s.linkWidth k = s.priv.meshctl.toNat % 4 - 1)) ∧
    (∀ pa p, exec (.scrubPass pa ⟨p, .clean⟩) s = .next s) ∧
    (s.priv.scrubctl.getLsbD 32 = false → ∀ pa f, exec (.scrubPass pa ⟨true, f⟩) s = .next s) ∧
    (∀ pa patrol, (patrol = true → s.priv.scrubctl.getLsbD 32 = true) → pa < capacity s ∨ homeRefusal s 2 pa = none →
      (∀ w, ∃ t, exec (.scrubPass pa ⟨patrol, .corrected w⟩) s = .next t ∧ t.g = s.g ∧
        (s.priv.errsize = 0 → t.priv.errdrop = s.priv.errdrop + 1)) ∧
      (s.priv.errsize = 0 → ∀ w, ∃ t, exec (.scrubPass pa ⟨patrol, .uncorrectable w⟩) s = .next t ∧ poisonKey pa ∈ t.poison ∧ SameBytes s t ∧
        t.priv.errdrop = s.priv.errdrop + 1) ∧
      (∃ t, exec (.scrubPass pa ⟨patrol, .struck⟩) s = .next t ∧ poisonKey pa ∈ t.poison ∧ t = { s with poison := t.poison }) ∧
      (∀ x, s.l2.find? (fun y => y.line == pa / 512) = some x → s.priv.errsize = 0 → ∃ t, exec (.scrubPass pa ⟨patrol, .tag false⟩) s = .next t ∧
        SameBytes s t ∧ (∀ y ∈ t.l2, y.line ≠ pa / 512) ∧ (x.dirty = false → t.poison = s.poison) ∧
        (x.dirty = true → ∀ k, k < 32 → 512 * (pa / 512) + 16 * k ∈ t.poison)) ∧
      (∀ x, s.granary.find? (fun y => y.line == pa / 512) = some x → s.priv.errsize = 0 →
        ∃ t, exec (.scrubPass pa ⟨patrol, .tag true⟩) s = .next t ∧ SameBytes s t ∧ (∀ y ∈ t.granary, y.line ≠ pa / 512) ∧
        (x.dirty = false → t.poison = s.poison) ∧ (x.dirty = true → ∀ k, k < 32 → 512 * (pa / 512) + 16 * k ∈ t.poison))) ∧
    (∀ pa gid, s.g.live = true → s.g.gid = gid → gid < polId 0 →
      (∀ r, 1 ≤ r → r < 64 → ∃ t, exec (.scrubPass pa ⟨false, .scalarReg gid r false⟩) s = .next t ∧ t.g.sc.bad.getLsbD r = true ∧
        SameBytes s t) ∧
      (∀ k, k < Config.W * s.g.winsz → ∃ t, exec (.scrubPass pa ⟨false, .vectorReg gid k false⟩) s = .next t ∧ k ∈ t.g.badV ∧ SameBytes s t)) ∧
    (s.start.sector.length = 2 → (sectorRecords s.start.sectorNow).length < 510 →
      ∀ (i : Instr) (r : Nat), Spec.repairs i = some r → ∃ t, exec i s = .next t ∧
        sectorRecords t.start.sectorNow = sectorRecords s.start.sectorNow ++ [BitVec.ofNat 64 r] ∧ t.start.extra = s.start.extra ∧
        .flashWrite ∈ t.engineQ) ∧
    (510 ≤ (sectorRecords s.start.sectorNow).length → ∀ (i : Instr) (r : Nat), Spec.repairs i = some r → ∃ t, exec i s = .next t ∧
        t.start.extra = s.start.extra ++ [BitVec.ofNat 64 r] ∧ t.start.sectorNow = s.start.sectorNow) ∧
    (∀ st ch row, ∃ t, exec (.rowSpare st ch row) s = .next t ∧ t.g = s.g) ∧
    (∀ die sl w gr, ∃ t, exec (.wayDisable die sl w gr) s = .next t ∧ t.g = s.g ∧
      (∀ x ∈ (if gr then t.granary else t.l2), (setOf s gr x.line).1 ≠ die * 32 + sl ∨ x.way ≠ w))

/-! ### Privileged registers -/

/-- R366, R388, R420, R446, R453, R464, R467, R475: the writes of a policy core with an effect of their own, and the RESERVED_FIELD that a value
they refuse raises; that a write of DCFG starts its queues' numbers again, and that MEMTOP takes no value above the fitted capacity, are the model's
choice (assumption 48). -/
def Obligations.PrivilegedRegisterWrites : Prop :=
  ∀ (s : State) (v : DWord), s.party = .policy 0 →
    let x := v.toNat
    let refuses (i : Instr) : Prop := exec i s = .next (policyTrap s 0 { code := .reservedField })
    let q := s.queue s.priv.qsel.toNat
    (x / 2 ^ 48 = 0 → x / 2 ^ 20 % 2 ^ 10 = 0 → x / 2 ^ 11 % 2 ^ 5 = 0 → x / 4 % 64 = 0 → x / 2 ^ 16 % 16 ≤ 12 → q.en = false → v.getLsbD 31 = true →
      ∃ t, exec (.qfcfgWrite v) s = .next t ∧
        t.queue s.priv.qsel.toNat = { q with
          en := true, stop := v.getLsbD 30, log2 := x / 2 ^ 16 % 16, prio := x / 2 ^ 8 % 8, cls := x % 4, asn := x / 2 ^ 32 % 2 ^ 16
          free := 2 ^ (x / 2 ^ 16 % 16), head := 0, tail := 0 }) ∧
    (x / 2 ^ 48 ≠ 0 ∨ 12 < x / 2 ^ 16 % 16 → refuses (.qfcfgWrite v)) ∧
    (q.en = false → x % 2 ^ 12 = 0 → x < 2 ^ 52 → ∃ t, exec (.qfbaseWrite v) s = .next t ∧ (t.queue s.priv.qsel.toNat).base = x) ∧
    (q.en = true → refuses (.qfbaseWrite v)) ∧
    (let c := s.priv.pinsel.toNat
     (x % 65536 = 0 → x + sramUsed s c ≤ Config.sramBytes → x ≤ 0x180000 → ∃ t, exec (.pinsizeWrite v) s = .next t ∧ (t.core c).pin = x ∧
        ∀ a, home1Base + c * 0x200000 + min x (s.core c).pin ≤ a → a < home1Base + (c + 1) * 0x200000 → Memory.byte t.mem a = 0) ∧
     (x % 65536 ≠ 0 ∨ 0x180000 < x → refuses (.pinsizeWrite v))) ∧
    (∀ die, (x ≤ 24 → minSum s.priv.l2q 0x1800 ≤ waysLeft s false (SMap.set 0 s.priv.l2pq die.toNat x) →
        ∃ t, exec (.l2pqWrite die v) s = .next t ∧ SMap.get 0 t.priv.l2pq die.toNat = x) ∧
      (24 < x → refuses (.l2pqWrite die v))) ∧
    (∀ n : BitVec 3, let y := (keep v 8 5 ||| keep v 0 5)
      (n.toNat < 4 → x % 32 ≤ x / 256 % 32 → x / 256 % 32 ≤ 24 →
        minSum (SMap.set 0x1800 s.priv.l2q n.toNat y) 0x1800 ≤ waysLeft s false s.priv.l2pq →
        ∃ t, exec (.quotaWrite n v) s = .next t ∧ SMap.get 0x1800 t.priv.l2q n.toNat = y) ∧
      (x / 256 % 32 < x % 32 → refuses (.quotaWrite n v))) ∧
    (∀ d : BitVec 1, ∃ t, exec (.dcfgWrite d v) s = .next t ∧ (t.dom d.toNat).dcfg = keep v 8 44 ∧
      ((∀ g ∈ s.groups, ∀ tr l, g.phase ≠ .stopped none tr l) → (t.dom d.toNat).gfSeq = 0 ∧ (t.dom d.toNat).gfLive = [] ∧ SameBytes s t)) ∧
    (v.getLsbD 16 = false ∨ (x % 2 ^ 16 ≠ 0 ∧ s.priv.sssize ≠ 0) → ∃ t, exec (.ssctlWrite v) s = .next t ∧
      t.priv.ssctl = (keep v 18 2 ||| keep v 16 1 ||| keep v 0 16) ∧
      (v.getLsbD 16 = true → s.priv.ssctl.getLsbD 16 = false → t.sampAt = s.clock + x % 2 ^ 16)) ∧
    (v.getLsbD 16 = true → x % 2 ^ 16 = 0 ∨ s.priv.sssize = 0 → refuses (.ssctlWrite v)) ∧
    (∃ t, exec (.fabctlWrite v) s = .next t ∧ t.priv.fabctl = keep v 0 1 ∧
      (v.getLsbD 0 = true → s.priv.fabctl.getLsbD 0 = false → ∀ k, k < 512 → SMap.get 4096 t.fabric.wcap k = 2 ^ 20)) ∧
    (∃ t, exec (.svnfloorWrite v) s = .next t ∧ t.priv.svnfloor.toNat = max s.priv.svnfloor.toNat (x % 2 ^ 16) ∧
      t = { s with priv := { s.priv with svnfloor := t.priv.svnfloor } }) ∧
    (s.start.step ≠ 10 → ∃ t, exec (.privRegisterWrite 0x812 v) s = .next t ∧ t = { s with priv := { s.priv with memtop := t.priv.memtop } } ∧
      t.priv.memtop.toNat = min (x / 2 ^ 12 % 2 ^ 40 * 2 ^ 12) (capacity s)) ∧
    (s.start.step = 10 → exec (.privRegisterWrite 0x812 v) s = .next s) ∧
    (∀ n t, privWrite s 0 n.toNat v = .ok t → exec (.privRegisterWrite n v) s = .next t) ∧
    (∀ n t, privWrite s 0 n.toNat v = .error (.trap t) → exec (.privRegisterWrite n v) s = .next (policyTrap s 0 t))

/-! ### Start, power and sampling -/

namespace Sys2Proof.Spec

/-- A step of a start has failed: it stops in the failed state, with its reason, and no policy core executes (R468). -/
structure StartFails (t : State) (reason : Nat) : Prop where
  failed : t.start.failed = true
  reason : t.start.reason = reason
  idle : ∀ k, (t.pol k).halted = true

end Sys2Proof.Spec

/-- R2, R109, R421, R424, R464, R467 to R471, R474: what a cold and a warm start leave and how their steps follow, each after the one before it;
what READY, the loss of power, a watchdog, an interrupt, the throttles and a Gleaner sample do. That lines which a warm start drops hold free
values, that the start's writes to flash land one after the other, and what a loss of power cuts are the model's choices (assumptions 54 and 65);
so are that numbers and keys come with the start (assumption 24), the Gleaner's and the interrupt's moments (assumption 22), what a policy core
holds at ENTRY (assumption 48), that unlisted memory reads as zero (assumption 19) and where the image's body stands (assumption 53). -/
def Obligations.StartPowerAndSampling : Prop :=
  ∀ (s : State) (env : StartEnv),
    let goes (t : State) : Prop := perform .startStep s = .next t
    let fails (n : Nat) : Prop := ∃ t, goes t ∧ Spec.StartFails t n ∧ t.mem = s.mem
    let x := s.start
    (∃ t, exec (.coldStart env) s = .next t ∧ t.start.step = 0 ∧ t.start.cause = 0 ∧ t.start.failed = false ∧
      t.start.reason = (if x.trip then 9 else 0) ∧ t.start.counter = env.counterCopies.getD x.counter ∧
      t.start.attempts = counterOf t.start.counter ∧ t.start.sector = (env.sector.map fun c => c.map sectorOf).getD x.sector ∧
      (∀ k, (t.pol k).halted = true) ∧ t.party = .policy 0 ∧ t.g = {} ∧ t.others = [] ∧ t.launches = [] ∧ t.mem = [] ∧ t.poison = [] ∧
      t.tlb = [] ∧ t.engineQ = [.startStep] ∧ t.priv = { memtop := 0xC000000000, svnfloor := s.priv.svnfloor }) ∧
    (x.on = true → warming s = false →
      ∀ i ∈ [(.warmrst env, 3), (.perst 0 env, 1)], ∃ t, exec i.1 s = .next t ∧ t.start.cause = i.2 ∧ t.start.step = 1 ∧
        t.start.failed = false ∧ t.start.attempts = counterOf x.counter ∧ t.start.oldUnits = some (x.oldUnits.getD s.units) ∧
        (∀ k, (t.pol k).halted = true) ∧ t.g = {} ∧ t.launches = [] ∧ t.engineQ = [.startStep] ∧
        t.priv = { memtop := 0xC000000000, svnfloor := s.priv.svnfloor } ∧
        (∀ a, a < peerBase → (∀ y ∈ s.l2 ++ s.granary, y.dirty = true → y.line ≠ a / 512) → Memory.byte t.mem a = Memory.byte s.mem a) ∧
        (∀ a, peerBase ≤ a → Memory.byte t.mem a = 0)) ∧
    (x.on = false ∨ warming s = true → exec (.warmrst env) s = .next s ∧ exec (.perst 0 env) s = .next s) ∧
    (∀ i ∈ [(0, s.env.fusesOk, 1), (4, s.env.pllOk, 6), (6, s.env.bistOk, 8), (7, s.env.zeroFillOk, 7)], x.step = i.1 →
      (i.2.1 = true → ∃ t, goes t ∧ t.start = { x with step := i.1 + 1 } ∧ t.mem = s.mem) ∧ (i.2.1 = false → fails i.2.2)) ∧
    (x.step = 1 → (s.env.romOk = false → fails 2) ∧ (s.env.romOk = true →
      (∀ w ws, x.writes = w :: ws → ∃ t, goes t ∧ t.start = { x.flash w with writes := ws }) ∧
      (x.writes = [] → x.raised = true ∨ 6 ≤ x.attempts → ∃ t, goes t ∧ t.start = { x with step := 2 }) ∧
      (x.writes = [] → x.raised = false → x.attempts < 6 → ∃ t, goes t ∧ t.start =
        { x with raised := true, writes := [.counter 0 (x.attempts + 1), .counter 1 (x.attempts + 1)] }))) ∧
    (x.step = 2 → ∃ t, goes t ∧ t.start = { x with step := 3 }) ∧
    (x.step = 3 → let found := startFindings s.env x.attempts
      (6 ≤ x.attempts → ∃ t, goes t ∧ t.start = { x with safe := true } ∧ t.pol0 = s.pol0 ∧ t.engineQ = s.engineQ) ∧
      (x.attempts < 6 →
        (startImage s.env x.attempts = none → fails 5) ∧
        (startImage s.env x.attempts ≠ none → found.1 = false → fails 3) ∧
        (found.1 = true → found.2.1 < s.priv.svnfloor.toNat → fails 4) ∧
        (found.1 = true → s.priv.svnfloor.toNat ≤ found.2.1 → ∃ t, goes t ∧ t.start.step = 4 ∧ t.start.svn = found.2.1 ∧
          t.start.image = decide (3 ≤ x.attempts) ∧ t.pcode = ((startImage s.env x.attempts).map imageCode).getD [] ∧
          ∀ k, (t.pol k).halted = false ∧ (t.pol k).sc.pc = found.2.2))) ∧
    (x.step = 5 → let bad := (markedStacks x.repairs ++ s.env.failedStacks).eraseDups
      (2 ≤ bad.length → fails 7) ∧ (bad.length < 2 → ∃ t, goes t ∧ t.start = { x with step := 6, retired := bad.head? } ∧
        t.priv.memtop = (if bad = [] then 0xC000000000 else 0xB400000000))) ∧
    (x.step = 8 → ∃ t, goes t ∧ t.start = { x with step := 9 } ∧ t.fabric.pkg = s.env.pkg ∧ t.dom0.pkey = s.env.pkeys.1 ∧
      t.dom1.pkey = s.env.pkeys.2 ∧ ∀ p, p ∈ t.fabric.planesDown ↔ p < 72 ∧ p ∉ s.env.planesUp) ∧
    (∀ w ws, x.writes = w :: ws → ∃ t, perform .flashWrite s = .next t ∧ t.start = { x.flash w with writes := ws } ∧ t.mem = s.mem) ∧
    (∃ t, exec (.perst 1 env) s = .next t ∧ t.dom1.linkUp = true ∧ t.g = s.g ∧ t.mem = s.mem) ∧
    (∀ c : BitVec 2, (s.pol c.toNat).wdt = none → exec (.watchdogExpiry c env) s = .next s) ∧
    (∀ c : BitVec 2, (s.pol c.toNat).wdt.isSome = true → c ≠ 0 → ∃ t, exec (.watchdogExpiry c env) s = .next t ∧
      t.pol c.toNat = policyAt x.entry ∧ t.priv.wdstat.getLsbD c.toNat = true ∧ t.priv.irqpend.getLsbD 4 = true ∧ t.mem = s.mem) ∧
    (s.pol0.wdt.isSome = true → x.on = true → warming s = false → ∃ t, exec (.watchdogExpiry 0 env) s = .next t ∧
      exec (.warmrst env) s = .next { t with start := { t.start with cause := 3 } } ∧ t.start.cause = 2) ∧
    (x.step = 9 → ∃ t, exec .ready s = .next t ∧ t.start.step = 10 ∧ t.clock = 0 ∧
      t.start.writes = x.writes ++ [.counter 0 0, .counter 1 0] ∧ .flashWrite ∈ t.engineQ ∧
      ∀ u a, u * 2 ^ 30 ≤ a → a < (u + 1) * 2 ^ 30 → u < 1024 →
        Memory.byte t.mem a = if (x.oldUnits.any fun o => SMap.get 15 o u != SMap.get 15 s.units u) then 0 else Memory.byte s.mem a) ∧
    (x.step ≠ 9 → exec .ready s = .next s) ∧
    (∀ i ∈ [.powerLoss, .thermalTrip], ∃ t, exec i s = .next t ∧ t.start.on = false ∧ t.start.trip = decide (i = .thermalTrip) ∧ t.mem = [] ∧
      t.g = {} ∧ t.pol0.halted = true ∧ t.edges = [] ∧ t.fabric = {} ∧ t.priv.svnfloor = s.priv.svnfloor ∧
      (x.writes = [] → t.start.sector = x.sector ∧ t.start.counter = x.counter) ∧
      ∀ w ws, x.writes = w :: ws → ∃ y ∈ [x.flash w, x.cut w], t.start.sector = y.sector ∧ t.start.counter = y.counter) ∧
    (s.priv.irqpend ≠ 0 → s.pol0.ie = true → exec .policyInterrupt s = .next { s with
      pol0 := { s.pol0 with epc := s.pol0.sc.pc, ecause := 0, pie := true, ie := false, sc := { s.pol0.sc with pc := s.pol0.evec } } }) ∧
    (s.priv.irqpend = 0 ∨ s.pol0.ie = false → exec .policyInterrupt s = .next s) ∧
    exec .powerCapThrottle s = .next { s with start := { x with throttlePower := true } } ∧
    (∃ t, exec .thermalThrottle s = .next t ∧ t.start.throttleHeat = true ∧ t.priv.irqpend.getLsbD 3 = true ∧ t.mem = s.mem) ∧
    exec .throttleRelease s = .next { s with start := { x with throttlePower := false, throttleHeat := false } } ∧
    (s.priv.ssctl.getLsbD 16 = false ∨ s.clock < s.sampAt → exec .gleanerSample s = .next s) ∧
    (s.priv.ssctl.getLsbD 16 = true → s.sampAt ≤ s.clock → ∃ t, exec .gleanerSample s = .next t ∧ t.g = s.g ∧
      t.sampAt = s.clock + s.priv.ssctl.toNat % 2 ^ 16 ∧
      (s.priv.sssize = 0 → SameBytes s t ∧ t.priv.ssdrop = s.priv.ssdrop + BitVec.ofNat 64 Config.cores ∧ t.priv.sswptr = s.priv.sswptr))


/-! ### Encodings, steps, reset and memory -/

/-- R58 to R62: decoding the word of every well-formed scalar instruction gives the instruction, with every operand at every value that
its fields admit; and a word that decodes is the word of the well-formed instruction it decodes to, so that two words never mean
one instruction. -/
def Obligations.ScalarEncodingsRoundTrip : Prop :=
  (∀ (i : Instr) (w : Word), i.WellFormed → Encode.scalar i = some w → Decode.scalar w = .ok i) ∧
  ∀ (w : Word) (i : Instr), Decode.scalar w = .ok i → i.WellFormed ∧ Encode.scalar i = some w

/-- R63 to R66, R181 to R224, R238: the same for the lane instructions. -/
def Obligations.LaneEncodingsRoundTrip : Prop :=
  (∀ (i : Instr) (w : LaneWord), i.WellFormed → Encode.lane i = some w → Decode.lane w = .ok i) ∧
  ∀ (w : LaneWord) (i : Instr), Decode.lane w = .ok i → i.WellFormed ∧ Encode.lane i = some w

namespace Sys2Proof.Spec

/-- Scalar words that the spec works out, and their statements (R61, R85, R86, R89, R97, R99, R101, R174, R178, R199, R202, R356). -/
def scalarWords : List (Word × Instr) :=
  [(0x08513FF8, .saddi 5 4 (-8)), (0x14489ABC, .slui 4 0x89ABC), (0x0C411DEF, .sori 4 4 0xDEF), (0x18401234, .slhi 4 0x01234),
   (0x2111000A, .scmpiLt 1 4 10), (0x40FFFFFB, .sbr false 3 (-5)), (0x42400003, .sbr true 1 3), (0x50000000, .run 0),
   (0x54000000, .syncL), (0x5C200020, .sgetView 2 0x020), (0x78928B00, .syscall 9 10 11), (0x78014001, .brk 5),
   (0x3061074B, .satomAdd 6 4 7 .dev .dword), (0x60000835, .strmBind 3 5), (0x6482430A, .cpTensTile 8 9 12 10),
   (0x6C500301, .cluArrive 5 3), (0x74000003, .exit), (0x80028000, .gridBind 0 10), (0x8402C001, .tapeMark 11),
   (0x89535600, .gradSeal 21 13 22), (0xC0000000, .eret)]

/-- Lane words that the spec works out, W2 first (R65, R124, R147, R183, R224, R238, R268, R356). -/
def laneWords : List (LaneWord × Instr) :=
  let h : LHdr := ⟨false, 0, false⟩
  let sw : LHdr := ⟨true, 0, false⟩
  [(0x020000110A300A0000000000, .vadd ⟨h, .v 8, .lane, .s 5, .v 0, .s32, .rne, false, 0, false, 0⟩),
   (0x0C200012010000000007D000, .vaddi ⟨sw, .v 9, .v 8, 1000, .s32, false⟩),
   (0x1D0000000000000000000000, .vret),
   (0x1000000000800A000000C002, .vcmp ⟨h, .v 0, .v 4, .v 5, .v 0, .s32, .rne, false, 3, false, 2⟩),
   (0x20C000140020040070400000, .vfma ⟨h, .v 10, .v 1, .v 2, .v 3, .f32, .rtz, false, 0, false, 0⟩),
   (0x40200010005008001C000500, .vld ⟨sw, .v 8, .v 2, .s 4, .v 0, .b32, false, false, false, .word, true⟩),
   (0x504002010090A00006620000, .mxMma ⟨h, .v 256, .s 4, .zero, .v 0, 3, 3, false, 2, 0, 0⟩),
   (0x5800004002100C0000000000, .trace ⟨h, .v 32, .v 16, .s 6, .v 0⟩ false false),
   (0x59C000400290A30A00000E01, .edgeSamp ⟨h, .v 32, .v 20, .lane, .zero⟩ 14 1),
   (0x41A0C0010A102003F0000100, .gradAdd ⟨⟨true, 3, false⟩, .v 0, .zero, .s 16, .v 31, .f32, false, false, false, .byte, true⟩),
   (0x420000080010A10A1C000020, .gld ⟨h, .v 4, .v 0, .zero, .zero, .b32, 0, 4⟩),
   (0x1D40000100C0000000000300, .emsetSet ⟨h, .v 0, .s 6, .v 0, .v 0, .s32, .rne, false, 0, false, 0x300⟩)]

end Sys2Proof.Spec

/-- The words that the spec works out beside their statements decode to them. -/
def Obligations.WorkedWordsDecode : Prop :=
  (∀ x ∈ Spec.scalarWords, Decode.scalar x.1 = .ok x.2) ∧ ∀ x ∈ Spec.laneWords, Decode.lane x.1 = .ok x.2

/-- R57, R62, R67, R102, R373: a step moves the party that the plan names, or the default rule's. A stream that the ck's choice lets issue and
that may move fetches at its PC, or at its run's index, and performs the instruction that the word decodes to; a word that is no
instruction traps; a group that may not move does not, nor does a stream whose request waits at its source. A policy core that is not halted
performs what stands at its PC; the first event of an engine or from outside is performed. Around it the step takes the stream out of the
choice, clears its wait, and counts; without power it does nothing until power is applied. Which party moves when is the model's choice (assumption
21), and a program's code stands where a launch or the firmware puts it (assumption 17). -/
def Obligations.AStepRunsTheDecodedInstruction : Prop :=
  (∀ (s t : State) k rest gid lane, s.start.on = true → s.plan = .issue k :: rest → s.issueQ[k]? = some (gid, lane) →
    let q := s.issueQ.eraseIdx k
    let v := { s with plan := rest }
    ({ v with issueQ := q } : State).focus gid = some t →
    (q.contains (gid, !lane) = false ∨ faultOf gid (issuePick (gid, lane) q v) = none) →
    let w : State := { t with party := .group, ch := if lane then 1 else 0 }
    let u := { w with g := w.g.clearStall lane }
    (can w w.g lane = false → step s = .next w) ∧
    (can w w.g lane = true → w.sourceWaits w.g.gid w.ch = true → step s = .next (w.wait lane .fabricRate)) ∧
    (can w w.g lane = true → w.sourceWaits w.g.gid w.ch = false → lane = false → (∀ l b, w.g.prog ≠ .coverage l b) →
      let goes (o : Out) : Prop := step s = Out.map (counted false false false w.g.gid) o
      (∀ x i, fetchWord u u.g.sc.pc = .ok x → Decode.scalar x = .ok i → goes (exec i u)) ∧
      (∀ x, fetchWord u u.g.sc.pc = .ok x → Decode.scalar x = .error .illegalOpcode → goes (exec (.illegalOpcode x) u)) ∧
      (∀ x, fetchWord u u.g.sc.pc = .ok x → Decode.scalar x = .error .reservedField →
        goes (.next (takeTrap u false
          { code := if 0x30 ≤ x.toNat / 2 ^ 26 ∧ x.toNat / 2 ^ 26 ≤ 0x35 then .privilege else .reservedField }))) ∧
      (∀ f, fetchWord u u.g.sc.pc = .error f → goes (.next (takeTrap u false f)))) ∧
    (can w w.g lane = true → w.sourceWaits w.g.gid w.ch = false → lane = true →
      ∀ r x, w.g.lane.active = some r → laneWordAt w r.lpc = .ok x → laneWordAt u r.lpc = .ok x →
      let goes (o : Out) : Prop := step s = Out.map (counted true (isMatrix x) (takesNoCk x) w.g.gid) o
      (∀ i, Decode.lane x = .ok i → goes (exec i u)) ∧
      (Decode.lane x = .error .illegalOpcode → goes (exec (.illegalLaneOpcode x) u)) ∧
      (Decode.lane x = .error .reservedField → goes (.next (takeTrap u true { code := .reservedField }))))) ∧
  (∀ (s : State) rest k, s.start.on = true → s.plan = .policy k :: rest →
    let u : State := { ({ s with plan := rest } : State).enterPolicy k with ch := 2 ^ 17 + k }
    ((u.pol k).halted = true → step s = .next (u.leavePolicy k)) ∧
    ((u.pol k).halted = false → (k ≠ 0 ∨ u.priv.irqpend = 0 ∨ u.pol0.ie = false) →
    (∀ a w i, u.pcode.find? (fun x => x.1 == (u.pol k).sc.pc.toNat) = some (a, w) → Decode.scalar w = .ok i →
      step s = Out.map (State.leavePolicy · k) (exec i u)) ∧
    (u.pcode.find? (fun x => x.1 == (u.pol k).sc.pc.toNat) = none → step s = .fault .noFirmware))) ∧
  (∀ (s : State), s.plan = [] → step s = move (defaultAgent s) { s with turn := if s.issueQ = [] then s.turn + 1 else s.turn }) ∧
  (∀ (s : State) rest, s.start.on = true → s.plan = .ck :: rest → step s = ck { s with plan := rest }) ∧
  (∀ (s : State) k rest e, s.start.on = true → s.plan = .engine k :: rest → s.engineQ[k]? = some e →
    step s = perform e { s with plan := rest, engineQ := s.engineQ.eraseIdx k }) ∧
  (∀ (s : State) rest i more, s.start.on = true → s.plan = .external :: rest → s.inbox = i :: more →
    step s = exec i { s with plan := rest, inbox := more }) ∧
  (∀ (s : State) a rest, s.start.on = false → s.plan = a :: rest → a ≠ .external → step s = .next { s with plan := rest }) ∧
  (∀ (s : State) rest env more, s.start.on = false → s.plan = .external :: rest → s.inbox = .coldStart env :: more →
    step s = exec (.coldStart env) { s with plan := rest, inbox := more })

/-- R2, R468: what the machine holds before anything has happened: no group, no launch, memory with nothing listed, in canonical form, and
zero everywhere; every general register and condition bit of every party reads as the spec's hard wiring of s0 and c0 and the model's choice of zero for
the others (assumption 18) have it. That unlisted memory reads as zero is the model's reading (assumption 19). With nothing placed no stream is
chosen, and policy core 0 finds no code at its PC, since programs and firmware are loaded from outside (assumption 17). -/
def Obligations.ResetHoldsNothing : Prop :=
  State.reset.mem = [] ∧ Memory.wf State.reset.mem ∧ State.reset.groups = [] ∧ State.reset.launches = [] ∧ State.reset.teams = [] ∧
  State.reset.tlb = [] ∧ State.reset.jobs = [] ∧ (∀ a, Memory.byte State.reset.mem a = 0) ∧
  (∀ (p : Party) (r : SReg), ({ State.reset with party := p } : State).rdS r = 0) ∧
  (∀ (p : Party) (k : CReg), ({ State.reset with party := p } : State).rdC k = decide (k = 0)) ∧
  (∃ t, step State.reset = .next t ∧ t.issueQ = [] ∧ t.groups = []) ∧
  step { State.reset with plan := [.policy 0] } = .fault .noFirmware

/-- R2, R188, R258, R298, R364 to R380, R401, R421, R439 to R474: what an engine, firmware, the host or the fabric does to the machine always has
its outcome: every event's meaning answers a next state, in every state and for all that it carries. -/
def Obligations.EveryEventHasItsNextState : Prop :=
  ∀ (s : State) (a b c d : Nat) (v : DWord) (w : Word) (f : Bool) (bs : List Byte) (areas : List (Nat × Nat)) (ns : List Nat) (row : Option Nat)
    (p : Packet)
    (env : StartEnv) (src : LaunchSrc) (find : ScrubFind) (loss : LinkLoss) (wr : Option (List Byte)),
    let goes (i : Instr) : Prop := ∃ t, exec i s = .next t
    (∀ i ∈ [.cpTryTimeout a, .pairTimeout a, .recompute a, .streamPrefetch a b, .storeEngineWrite a b, .staleHaloTimeout a,
        .stileTimeout a, .peerTimeout a, .issuePromotion a f], goes i) ∧
    (∀ i ∈ [.copyComplete a, .xferComplete a, .collComplete a, .gradSealComplete a, .headlandDelivery a, .syscallReply a, .laneResume a b,
        .faultDisposition a b, .fpTrapCollect a], goes i) ∧
    (∀ i ∈ [.launchPush a b bs, .launchTake src, .gangPlace a b c d ns, .gangCommit a, .teamReady a, .launchComplete a, .ticketPass a,
        .visibilityPass a, .passComplete a, .passFault a], goes i) ∧
    (∀ i ∈ [.yieldRequest a f w areas, .deadlineExpiry a areas, .forcedPreemption a areas, .saveComplete a, .contextRestore a b], goes i) ∧
    (∀ i ∈ [.fabricRead p, .fabricWrite p, .fabricAtomic p, .fabricVectorRead p, .fabricVectorWrite p, .fabricXferData p,
        .fabricCollSegment p, .fabricHeadlandPacket p, .fabricResponse p, .fabricBadPacket p, .rateRecovery a, .fabricPlaneDown a], goes i) ∧
    (∀ i ∈ [.meshNarrow a f, .meshWiden a, .pcieLinkDown loss, .pcieLinkUp a, .pcieCompletion a f bs, .hostBar2Access a b wr c,
        .hostRegisterWrite a b v, .attestCmd a v, .attestDone a], goes i) ∧
    (∀ i ∈ [.warmrst env, .ready, .policyInterrupt, .watchdogExpiry (BitVec.ofNat 2 a) env, .coldStart env, .perst a env, .powerLoss,
        .thermalTrip, .powerCapThrottle, .thermalThrottle, .throttleRelease, .gleanerSample, .scrubPass a find, .rowSpare a b row,
        .wayDisable a b c f], goes i)

/-- R5: memory is little-endian and byte-addressed; what is written is read back, a write leaves every other byte, and every operation
keeps the canonical form. -/
def Obligations.MemoryReadsBackWhatWasWritten : Prop :=
  (∀ (m : Memory) (a n v : Nat), Memory.read (Memory.write m a n v) a n = v % 256 ^ n ∧
    (∀ b, b < a ∨ a + n ≤ b → Memory.byte (Memory.write m a n v) b = Memory.byte m b) ∧
    (∀ k, k < n → Memory.byte (Memory.write m a n v) (a + k) = BitVec.ofNat 8 (v / 256 ^ k)) ∧
    (Memory.wf m → Memory.wf (Memory.write m a n v))) ∧
  (∀ (m : Memory) (lo hi : Nat), (Memory.wf m → Memory.wf (Memory.clear m lo hi)) ∧
    ∀ a, Memory.byte (Memory.clear m lo hi) a = if lo ≤ a ∧ a < hi then 0 else Memory.byte m a) ∧
  (∀ m n : Memory, Memory.wf m → Memory.wf n → (∀ a, Memory.byte m a = Memory.byte n a) → m = n) ∧
  (∀ (s : State) (a n v : Nat), Memory.wf s.mem → Memory.wf (s.write a n v).mem) ∧
  (∀ (s : State) (a n v : Nat), poisoned s a n = false → Memory.read (s.write a n v).mem a n = v % 256 ^ n)

/-- R5: memory is one list of bytes in one canonical form, and every step keeps it so, whatever party moves (the form itself is the
model's way of holding memory). -/
def Obligations.EveryStepKeepsTheMemorysForm : Prop := ∀ s t : State, Memory.wf s.mem → step s = .next t → Memory.wf t.mem
end

