-- ==== Sys2Proof/Laws/Sparse.lean ====
section
/-!
SUPPORT. What the sparse maps and memory do: reading after writing, and the canonical form that every memory operation keeps.
-/
namespace Sys2Proof.Machine

variable {α : Type}

/-! ### Reading -/

theorem SMap.get_erase_same (d : α) (m : SMap α) (k : Nat) : SMap.get d (SMap.erase m k) k = d := by
  induction m with
  | nil => rfl
  | cons x t ih =>
    obtain ⟨j, v⟩ := x
    by_cases h : j = k <;> simp [SMap.erase, SMap.get, h, ih]

theorem SMap.get_erase_other (d : α) (m : SMap α) {j k : Nat} (h : j ≠ k) :
    SMap.get d (SMap.erase m k) j = SMap.get d m j := by
  induction m with
  | nil => rfl
  | cons x t ih =>
    obtain ⟨i, v⟩ := x
    by_cases hk : i = k
    · simp [SMap.erase, SMap.get, hk, ih, Ne.symm h]
    · simp [SMap.erase, SMap.get, hk, ih]

theorem SMap.get_insert_erase_same (d : α) (m : SMap α) (k : Nat) (v : α) :
    SMap.get d (SMap.insert (SMap.erase m k) k v) k = v := by
  induction m with
  | nil => simp [SMap.erase, SMap.insert, SMap.get]
  | cons x t ih =>
    obtain ⟨i, w⟩ := x
    by_cases hk : i = k
    · simp [SMap.erase, hk, ih]
    · by_cases hlt : k < i <;> simp [SMap.erase, SMap.insert, SMap.get, hk, hlt, ih]

theorem SMap.get_insert_other (d : α) (m : SMap α) {j k : Nat} (v : α) (h : j ≠ k) :
    SMap.get d (SMap.insert m k v) j = SMap.get d m j := by
  induction m with
  | nil => simp [SMap.insert, SMap.get, Ne.symm h]
  | cons x t ih =>
    obtain ⟨i, w⟩ := x
    by_cases hlt : k < i <;> simp [SMap.insert, SMap.get, hlt, ih, Ne.symm h]

/-- A key reads as it was written. -/
@[simp] theorem SMap.get_set_same [DecidableEq α] (d : α) (m : SMap α) (k : Nat) (v : α) :
    SMap.get d (SMap.set d m k v) k = v := by
  unfold SMap.set
  split
  · next h => rw [SMap.get_erase_same, h]
  · exact SMap.get_insert_erase_same d m k v

/-- Every other key reads as before. -/
theorem SMap.get_set_other [DecidableEq α] (d : α) (m : SMap α) {j k : Nat} (v : α) (h : j ≠ k) :
    SMap.get d (SMap.set d m k v) j = SMap.get d m j := by
  unfold SMap.set
  split
  · exact SMap.get_erase_other d m h
  · rw [SMap.get_insert_other d _ v h, SMap.get_erase_other d m h]

/-- A map after a write, at any key. -/
theorem SMap.get_set [DecidableEq α] (d : α) (m : SMap α) (j k : Nat) (v : α) :
    SMap.get d (SMap.set d m k v) j = if j = k then v else SMap.get d m j := by
  by_cases h : j = k
  · simp [h]
  · simp [h, SMap.get_set_other d m v h]

/-- A map after writes of several keys. -/
theorem SMap.get_foldl_set [DecidableEq α] (d : α) (f : Nat → α) (g : Nat → Nat) (ls : List Nat) (m : SMap α) (j : Nat)
    (h : ∀ l ∈ ls, g l ≠ j) :
    SMap.get d (ls.foldl (fun m l => SMap.set d m (g l) (f l)) m) j = SMap.get d m j := by
  induction ls generalizing m with
  | nil => rfl
  | cons l t ih =>
    rw [List.foldl_cons, ih _ fun x hx => h x (List.mem_cons_of_mem l hx)]
    exact SMap.get_set_other d m (f l) (Ne.symm (h l List.mem_cons_self))

/-! ### The canonical form -/

/-- The bound before the first key may be lowered. -/
theorem SMap.wfFrom_mono [DecidableEq α] {d : α} {m : SMap α} {a b : Option Nat}
    (hab : ∀ i, a = some i → ∃ j, b = some j ∧ i ≤ j) (h : SMap.wfFrom d b m = true) : SMap.wfFrom d a m = true := by
  cases m with
  | nil => rfl
  | cons x t =>
    obtain ⟨k, v⟩ := x
    cases a with
    | none => simp_all [SMap.wfFrom]
    | some i =>
      obtain ⟨j, rfl, hj⟩ := hab i rfl
      simp only [SMap.wfFrom, Bool.and_eq_true, decide_eq_true_eq] at h ⊢
      exact ⟨⟨by omega, h.1.2⟩, h.2⟩

theorem SMap.wfFrom_erase [DecidableEq α] {d : α} (k : Nat) {m : SMap α} :
    ∀ {a : Option Nat}, SMap.wfFrom d a m = true → SMap.wfFrom d a (SMap.erase m k) = true := by
  induction m with
  | nil => intro a _; rfl
  | cons x t ih =>
    obtain ⟨i, v⟩ := x
    intro a h
    simp only [SMap.wfFrom, Bool.and_eq_true] at h
    by_cases hk : i = k
    · rw [SMap.erase, if_pos hk]
      refine SMap.wfFrom_mono ?_ (ih h.2)
      intro j hj
      subst hj
      exact ⟨i, rfl, by simpa using Nat.le_of_lt (by simpa using h.1.1)⟩
    · simp only [SMap.erase, hk, if_false, SMap.wfFrom, Bool.and_eq_true]
      exact ⟨h.1, ih h.2⟩

theorem SMap.wfFrom_insert [DecidableEq α] {d : α} (k : Nat) {v : α} (hv : v ≠ d) {m : SMap α} :
    ∀ {a : Option Nat}, SMap.wfFrom d a m = true → (∀ i, a = some i → i < k) → (∀ x ∈ m, x.1 ≠ k) →
      SMap.wfFrom d a (SMap.insert m k v) = true := by
  induction m with
  | nil =>
    intro a _ ha _
    cases a <;> simp_all [SMap.insert, SMap.wfFrom]
  | cons x t ih =>
    obtain ⟨i, w⟩ := x
    intro a h ha hm
    simp only [SMap.wfFrom, Bool.and_eq_true] at h
    have hik : i ≠ k := hm (i, w) List.mem_cons_self
    by_cases hlt : k < i
    · simp only [SMap.insert, hlt, if_true, SMap.wfFrom, Bool.and_eq_true, decide_true, true_and]
      refine ⟨⟨?_, by simpa using hv⟩, h.1.2, h.2⟩
      cases a with
      | none => rfl
      | some j => simpa using ha j rfl
    · simp only [SMap.insert, hlt, if_false, SMap.wfFrom, Bool.and_eq_true]
      refine ⟨h.1, ih h.2 ?_ fun y hy => hm y (List.mem_cons_of_mem _ hy)⟩
      intro j hj
      cases hj
      omega

theorem SMap.erase_no_key (m : SMap α) (k : Nat) : ∀ x ∈ SMap.erase m k, x.1 ≠ k := by
  induction m with
  | nil => intro x hx; cases hx
  | cons y t ih =>
    obtain ⟨i, v⟩ := y
    intro x hx
    by_cases hk : i = k
    · rw [SMap.erase, if_pos hk] at hx
      exact ih x hx
    · rw [SMap.erase, if_neg hk] at hx
      rcases List.mem_cons.mp hx with rfl | h
      · exact hk
      · exact ih x h

/-- A write keeps the canonical form. -/
theorem SMap.wf_set [DecidableEq α] {d : α} {m : SMap α} (k : Nat) (v : α) (h : SMap.wf d m = true) :
    SMap.wf d (SMap.set d m k v) = true := by
  unfold SMap.set
  split
  · exact SMap.wfFrom_erase k h
  · next hv =>
    exact SMap.wfFrom_insert k hv (SMap.wfFrom_erase k h) (fun _ hi => by cases hi) (SMap.erase_no_key m k)

theorem SMap.wfFrom_filter [DecidableEq α] {d : α} (p : Nat × α → Bool) {m : SMap α} :
    ∀ {a : Option Nat}, SMap.wfFrom d a m = true → SMap.wfFrom d a (m.filter p) = true := by
  induction m with
  | nil => intro a _; rfl
  | cons x t ih =>
    obtain ⟨i, v⟩ := x
    intro a h
    simp only [SMap.wfFrom, Bool.and_eq_true] at h
    by_cases hp : p (i, v) = true
    · rw [List.filter_cons_of_pos hp]
      simp only [SMap.wfFrom, Bool.and_eq_true]
      exact ⟨h.1, ih h.2⟩
    · rw [List.filter_cons_of_neg (by simpa using hp)]
      refine SMap.wfFrom_mono ?_ (ih h.2)
      intro j hj
      subst hj
      exact ⟨i, rfl, by simpa using Nat.le_of_lt (by simpa using h.1.1)⟩

/-! ### Memory: every operation keeps the form -/

theorem Memory.wf_setByte {m : Memory} (a : Nat) (v : Byte) (h : Memory.wf m) : Memory.wf (Memory.setByte m a v) :=
  SMap.wf_set a v h

theorem Memory.wf_write {m : Memory} (a n v : Nat) (h : Memory.wf m) : Memory.wf (Memory.write m a n v) := by
  induction n generalizing m a v with
  | zero => exact h
  | succ n ih => exact ih _ _ (Memory.wf_setByte a _ h)

theorem Memory.wf_setBytes {m : Memory} (a : Nat) (b : List Byte) (h : Memory.wf m) : Memory.wf (Memory.setBytes m a b) := by
  induction b generalizing m a with
  | nil => exact h
  | cons x t ih => exact ih _ (Memory.wf_setByte a x h)

theorem Memory.wf_filter {m : Memory} (p : Nat × Byte → Bool) (h : Memory.wf m) : Memory.wf (m.filter p) :=
  SMap.wfFrom_filter p h

theorem Memory.wf_clear {m : Memory} (lo hi : Nat) (h : Memory.wf m) : Memory.wf (Memory.clear m lo hi) :=
  Memory.wf_filter _ h

theorem Memory.wf_foldl {β : Type} (f : Memory → β → Memory) (hf : ∀ m b, Memory.wf m → Memory.wf (f m b)) (l : List β) {m : Memory}
    (h : Memory.wf m) : Memory.wf (l.foldl f m) := by
  induction l generalizing m with
  | nil => exact h
  | cons x t ih => exact ih (hf m x h)

/-! ### Memory: reading after writing -/

theorem Memory.byte_setByte (m : Memory) (a b : Nat) (v : Byte) :
    Memory.byte (Memory.setByte m a v) b = if b = a then v else Memory.byte m b := SMap.get_set (0 : Byte) m b a v

/-- A byte outside the written bytes reads as before. -/
theorem Memory.byte_write_other (m : Memory) (a n v b : Nat) (h : b < a ∨ a + n ≤ b) :
    Memory.byte (Memory.write m a n v) b = Memory.byte m b := by
  induction n generalizing m a v with
  | zero => rfl
  | succ n ih =>
    rw [Memory.write, ih _ _ _ (by omega), Memory.byte_setByte, if_neg (by omega)]

/-- A byte inside the written bytes reads as written, little-endian (R5). -/
theorem Memory.byte_write_same (m : Memory) (a n v i : Nat) (h : i < n) :
    Memory.byte (Memory.write m a n v) (a + i) = BitVec.ofNat 8 (v / 256 ^ i) := by
  induction n generalizing m a v i with
  | zero => omega
  | succ n ih =>
    rw [Memory.write]
    cases i with
    | zero => rw [Memory.byte_write_other _ _ _ _ _ (by omega), Memory.byte_setByte]; simp
    | succ i =>
      have := ih (Memory.setByte m a (BitVec.ofNat 8 v)) (a + 1) (v / 256) i (by omega)
      rw [show a + (i + 1) = a + 1 + i by omega, this, Nat.div_div_eq_div_mul, Nat.pow_succ, Nat.mul_comm 256]

/-- A read after a write of the same bytes gives the value written (R5). -/
theorem Memory.read_write_same (m : Memory) (a n v : Nat) : Memory.read (Memory.write m a n v) a n = v % 256 ^ n := by
  have key : ∀ k i, k + i = n → Memory.read (Memory.write m a n v) (a + i) k = v / 256 ^ i % 256 ^ k := by
    intro k
    induction k with
    | zero => intro i _; simp [Memory.read, Nat.mod_one]
    | succ k ih =>
      intro i hi
      rw [Memory.read, Memory.byte_write_same m a n v i (by omega), show a + i + 1 = a + (i + 1) by omega, ih (i + 1) (by omega),
        BitVec.toNat_ofNat, Nat.pow_succ 256 i, ← Nat.div_div_eq_div_mul, Nat.pow_succ 256 k, Nat.mul_comm (256 ^ k), Nat.mod_mul]
  simpa using key n 0 (by omega)

/-- A read of other bytes gives what it gave before. -/
theorem Memory.read_write_other (m : Memory) (a n v b k : Nat) (h : b + k ≤ a ∨ a + n ≤ b) :
    Memory.read (Memory.write m a n v) b k = Memory.read m b k := by
  induction k generalizing b with
  | zero => rfl
  | succ k ih => rw [Memory.read, Memory.read, Memory.byte_write_other _ _ _ _ _ (by omega), ih (b + 1) (by omega)]

/-- A cleared byte reads zero; every other byte reads as before. -/
theorem Memory.byte_clear (m : Memory) (lo hi b : Nat) :
    Memory.byte (Memory.clear m lo hi) b = if lo ≤ b ∧ b < hi then 0 else Memory.byte m b := by
  unfold Memory.byte Memory.clear
  induction m with
  | nil => simp [SMap.get]
  | cons x t ih =>
    obtain ⟨i, v⟩ := x
    by_cases hc : lo ≤ i ∧ i < hi
    · rw [List.filter_cons_of_neg (by simp [hc.1, hc.2]), ih]
      by_cases hb : i = b
      · subst hb; simp [hc]
      · simp [SMap.get, hb]
    · rw [List.filter_cons_of_pos (by simp; omega)]
      by_cases hb : i = b
      · subst hb; simp [SMap.get, hc]
      · simp only [SMap.get, hb, if_false]; exact ih

end Sys2Proof.Machine
end

