-- ==== Sys2Proof/Laws/State.lean ====
section
/-!
SUPPORT. The fields of State under the updates that the meanings share: one lemma per field that a statement reads, so that no proof
unfolds a record update.
-/
namespace Sys2Proof.Machine

/-! ### Scalar contexts -/

@[simp] theorem State.setPol_pol (s : State) (k : Nat) (p : PolicyCore) : (s.setPol k p).pol k = p := by
  match k with
  | 0 => rfl
  | 1 => rfl
  | 2 => rfl
  | _ + 3 => rfl
@[simp] theorem State.setPol_self (s : State) (k : Nat) : s.setPol k (s.pol k) = s := by
  match k with
  | 0 => rfl
  | 1 => rfl
  | 2 => rfl
  | _ + 3 => rfl
@[simp] theorem State.setPol_setPol (s : State) (k : Nat) (p q : PolicyCore) : (s.setPol k p).setPol k q = s.setPol k q := by
  match k with
  | 0 => rfl
  | 1 => rfl
  | 2 => rfl
  | _ + 3 => rfl
@[simp] theorem State.setPol_party (s : State) (k : Nat) (p : PolicyCore) : (s.setPol k p).party = s.party := by
  match k with
  | 0 => rfl
  | 1 => rfl
  | 2 => rfl
  | _ + 3 => rfl
@[simp] theorem State.setPol_g (s : State) (k : Nat) (p : PolicyCore) : (s.setPol k p).g = s.g := by
  match k with
  | 0 => rfl
  | 1 => rfl
  | 2 => rfl
  | _ + 3 => rfl
@[simp] theorem State.setPol_mem (s : State) (k : Nat) (p : PolicyCore) : (s.setPol k p).mem = s.mem := by
  match k with
  | 0 => rfl
  | 1 => rfl
  | 2 => rfl
  | _ + 3 => rfl

theorem State.setSc_group {s : State} (h : s.party = .group) (c : SCtx) : s.setSc c = { s with g := { s.g with sc := c } } := by
  simp only [State.setSc, h]
theorem State.setSc_policy {s : State} {k : Nat} (h : s.party = .policy k) (c : SCtx) :
    s.setSc c = s.setPol k { s.pol k with sc := c } := by
  simp only [State.setSc, h]
theorem State.sc_group {s : State} (h : s.party = .group) : s.sc = s.g.sc := by simp only [State.sc, h]
theorem State.sc_policy {s : State} {k : Nat} (h : s.party = .policy k) : s.sc = (s.pol k).sc := by simp only [State.sc, h]

@[simp] theorem State.setSc_party (s : State) (c : SCtx) : (s.setSc c).party = s.party := by
  cases h : s.party with
  | group => rw [State.setSc_group h]; exact h
  | policy k => rw [State.setSc_policy h, State.setPol_party, h]
@[simp] theorem State.setSc_sc (s : State) (c : SCtx) : (s.setSc c).sc = c := by
  cases h : s.party with
  | group => rw [State.sc_group (by rw [State.setSc_party, h]), State.setSc_group h]
  | policy k => rw [State.sc_policy (by rw [State.setSc_party, h]), State.setSc_policy h, State.setPol_pol]
@[simp] theorem State.setSc_self (s : State) : s.setSc s.sc = s := by
  cases h : s.party with
  | group => rw [State.setSc_group h, State.sc_group h]
  | policy k => rw [State.setSc_policy h, State.sc_policy h]; exact State.setPol_self s k
@[simp] theorem State.setSc_setSc (s : State) (c e : SCtx) : (s.setSc c).setSc e = s.setSc e := by
  cases h : s.party with
  | group => rw [State.setSc_group (by rw [State.setSc_party, h]), State.setSc_group h, State.setSc_group h]
  | policy k =>
    rw [State.setSc_policy (by rw [State.setSc_party, h]), State.setSc_policy h, State.setSc_policy h, State.setPol_pol,
      State.setPol_setPol]
@[simp] theorem State.setSc_mem (s : State) (c : SCtx) : (s.setSc c).mem = s.mem := by
  cases h : s.party with
  | group => rw [State.setSc_group h]
  | policy k => rw [State.setSc_policy h, State.setPol_mem]

@[simp] theorem State.setPc_party (s : State) (a : DWord) : (s.setPc a).party = s.party := s.setSc_party _
@[simp] theorem State.setPc_mem (s : State) (a : DWord) : (s.setPc a).mem = s.mem := s.setSc_mem _
@[simp] theorem State.setPc_pc (s : State) (a : DWord) : (s.setPc a).pc = a := by simp [State.setPc, State.pc]
@[simp] theorem State.next_party (s : State) : s.next.party = s.party := s.setPc_party _
@[simp] theorem State.next_mem (s : State) : s.next.mem = s.mem := s.setPc_mem _
@[simp] theorem State.next_pc (s : State) : s.next.pc = s.pc + 4 := s.setPc_pc _
@[simp] theorem State.wrS_zero (s : State) (v : DWord) : s.wrS 0#6 v = s := rfl
theorem State.wrS_ne (s : State) {d : SReg} (v : DWord) (h : d ≠ 0) :
    s.wrS d v = s.setSc { s.sc with sreg := SMap.set 0 s.sc.sreg d.toNat v, bad := putBit s.sc.bad d.toNat false } := if_neg h
theorem State.rdS_ne (s : State) {r : SReg} (h : r ≠ 0) : s.rdS r = SMap.get 0 s.sc.sreg r.toNat := if_neg h
@[simp] theorem State.wrC_zero (s : State) (b : Bool) : s.wrC 0#3 b = s := rfl
theorem State.wrC_ne (s : State) {k : CReg} (b : Bool) (h : k ≠ 0) :
    s.wrC k b = s.setSc { s.sc with cond := putBit s.sc.cond k.toNat b } := if_neg h
theorem State.rdC_ne (s : State) {k : CReg} (h : k ≠ 0) : s.rdC k = s.sc.cond.getLsbD k.toNat := if_neg h
@[simp] theorem State.wrS_party (s : State) (d : SReg) (v : DWord) : (s.wrS d v).party = s.party := by
  unfold State.wrS; split <;> simp
@[simp] theorem State.wrS_mem (s : State) (d : SReg) (v : DWord) : (s.wrS d v).mem = s.mem := by
  unfold State.wrS; split <;> simp
@[simp] theorem State.wrS_pc (s : State) (d : SReg) (v : DWord) : (s.wrS d v).pc = s.pc := by
  unfold State.wrS; split <;> simp [State.pc]
@[simp] theorem State.wrC_party (s : State) (k : CReg) (b : Bool) : (s.wrC k b).party = s.party := by
  unfold State.wrC; split <;> simp
@[simp] theorem State.wrC_mem (s : State) (k : CReg) (b : Bool) : (s.wrC k b).mem = s.mem := by
  unfold State.wrC; split <;> simp
@[simp] theorem State.wrC_pc (s : State) (k : CReg) (b : Bool) : (s.wrC k b).pc = s.pc := by
  unfold State.wrC; split <;> simp [State.pc]
@[simp] theorem State.next_rdS (s : State) (r : SReg) : s.next.rdS r = s.rdS r := by simp [State.next, State.setPc, State.rdS]
@[simp] theorem State.next_rdC (s : State) (k : CReg) : s.next.rdC k = s.rdC k := by simp [State.next, State.setPc, State.rdC]
@[simp] theorem State.next_flawed (s : State) (r : SReg) : s.next.flawed r = s.flawed r := by simp [State.next, State.setPc, State.flawed]
@[simp] theorem State.flawed_zero (s : State) : s.flawed 0#6 = false := rfl
theorem State.flawed_ne (s : State) {r : SReg} (h : r ≠ 0) : s.flawed r = s.sc.bad.getLsbD r.toNat := by
  have : (r != 0) = true := bne_iff_ne.mpr h
  rw [State.flawed, this, Bool.true_and]
@[simp] theorem State.rdS_zero (s : State) : s.rdS 0#6 = 0 := rfl
@[simp] theorem State.rdC_zero (s : State) : s.rdC 0#3 = true := rfl

/-! ### Other updates -/

@[simp] theorem State.setTeam_g (s : State) (t : Team) : (s.setTeam t).g = s.g := rfl
@[simp] theorem State.setTeam_mem (s : State) (t : Team) : (s.setTeam t).mem = s.mem := rfl
@[simp] theorem State.setTeam_party (s : State) (t : Team) : (s.setTeam t).party = s.party := rfl
@[simp] theorem State.setCluster_g (s : State) (c : Cluster) : (s.setCluster c).g = s.g := rfl
@[simp] theorem State.setCluster_mem (s : State) (c : Cluster) : (s.setCluster c).mem = s.mem := rfl
@[simp] theorem State.setCore_g (s : State) (c : Nat) (x : Core) : (s.setCore c x).g = s.g := rfl
@[simp] theorem State.setCore_mem (s : State) (c : Nat) (x : Core) : (s.setCore c x).mem = s.mem := rfl
@[simp] theorem State.setCore_core (s : State) (c : Nat) (x : Core) : (s.setCore c x).core c = x := by
  simp [State.setCore, State.core, SMap.get_set_same]
@[simp] theorem State.irq_mem (s : State) (b : Nat) : (s.irq b).mem = s.mem := rfl
@[simp] theorem State.irq_g (s : State) (b : Nat) : (s.irq b).g = s.g := rfl
@[simp] theorem State.post_mem (s : State) (e : Ev) : (s.post e).mem = s.mem := by unfold State.post; split <;> rfl
@[simp] theorem State.post_g (s : State) (e : Ev) : (s.post e).g = s.g := by unfold State.post; split <;> rfl
@[simp] theorem State.post_party (s : State) (e : Ev) : (s.post e).party = s.party := by unfold State.post; split <;> rfl
@[simp] theorem State.post_coreTab (s : State) (e : Ev) : (s.post e).coreTab = s.coreTab := by unfold State.post; split <;> rfl

/-! ### The host, window requests, L1 and owed faults -/

@[simp] theorem State.setDom_g (s : State) (d : Nat) (x : Domain) : (s.setDom d x).g = s.g := by unfold State.setDom; split <;> rfl
@[simp] theorem State.setDom_mem (s : State) (d : Nat) (x : Domain) : (s.setDom d x).mem = s.mem := by unfold State.setDom; split <;> rfl
@[simp] theorem State.setDom_dom (s : State) (x : Domain) {d : Nat} (h : d < 2) : (s.setDom d x).dom d = x := by
  match d, h with
  | 0, _ => rfl
  | 1, _ => rfl
@[simp] theorem State.toHost_g (s : State) (m : HostMsg) : (s.toHost m).g = s.g := rfl
@[simp] theorem State.toHost_mem (s : State) (m : HostMsg) : (s.toHost m).mem = s.mem := rfl
@[simp] theorem State.toHost_hostOut (s : State) (m : HostMsg) : (s.toHost m).hostOut = m :: s.hostOut := rfl
@[simp] theorem State.mapGroups_g (s : State) (f : Group → Group) : (s.mapGroups f).g = f s.g := rfl
@[simp] theorem State.mapGroups_mem (s : State) (f : Group → Group) : (s.mapGroups f).mem = s.mem := rfl
@[simp] theorem State.setLaunch_g (s : State) (l : Launch) : (s.setLaunch l).g = s.g := rfl
@[simp] theorem State.setLaunch_mem (s : State) (l : Launch) : (s.setLaunch l).mem = s.mem := rfl
@[simp] theorem State.setQueue_g (s : State) (i : Nat) (q : LaunchQueue) : (s.setQueue i q).g = s.g := rfl
@[simp] theorem State.setQueue_mem (s : State) (i : Nat) (q : LaunchQueue) : (s.setQueue i q).mem = s.mem := rfl
@[simp] theorem State.setQueue_queue (s : State) (i : Nat) (q : LaunchQueue) : (s.setQueue i q).queue i = q := by
  simp [State.setQueue, State.queue, SMap.get_set_same]
@[simp] theorem State.remClear_g (s : State) : s.remClear.g = s.g := by unfold State.remClear; split <;> rfl
@[simp] theorem State.remClear_mem (s : State) : s.remClear.mem = s.mem := by unfold State.remClear; split <;> rfl
@[simp] theorem State.remClear_l1 (s : State) : s.remClear.l1 = s.l1 := by unfold State.remClear; split <;> rfl
/-- What a finished instruction forgets is its own: the requests of every other group and channel stay. -/
theorem State.mem_remClear (s : State) (r : RemReq) : r ∈ s.remClear.remote ↔ r ∈ s.remote ∧ s.mine r = false := by
  unfold State.remClear
  split
  · simp_all
  · simp
@[simp] theorem State.owe_mem (s : State) (gid : Nat) (t : Trap) : (s.owe gid t).mem = s.mem := rfl
@[simp] theorem State.owe_remote (s : State) (gid : Nat) (t : Trap) : (s.owe gid t).remote = s.remote := rfl
@[simp] theorem State.poisons_g (s : State) (ps : List Nat) : (s.poisons ps).g = s.g := rfl
@[simp] theorem State.poisons_mem (s : State) (ps : List Nat) : (s.poisons ps).mem = s.mem := rfl
@[simp] theorem State.dropL1_mem (s : State) : s.dropL1.mem = s.mem := rfl
@[simp] theorem State.dropL1_g (s : State) : s.dropL1.g = s.g := rfl
@[simp] theorem State.dropSectors_mem (s : State) (c : Nat) : (s.dropSectors c).mem = s.mem := rfl

end Sys2Proof.Machine
end

