-- ==== Sys2Proof/Laws/Scalar.lean ====
section
/-!
SUPPORT. What the shared scalar operations can do: a register write that moves to the next word, and the waits for registers.
-/
namespace Sys2Proof.Machine

theorem toNat_ne {w : Nat} {a b : BitVec w} (h : a ≠ b) : a.toNat ≠ b.toNat := fun e => h (BitVec.eq_of_toNat_eq e)

/-- Setting a bit reads back and leaves the others. -/
theorem putBit_getLsbD {n : Nat} (x : BitVec n) (k j : Nat) (b : Bool) (hk : k < n) :
    (putBit x k b).getLsbD j = if j = k then b else x.getLsbD j := by
  have hp : (BitVec.ofNat n (2 ^ k)).getLsbD j = (decide (j < n) && decide (k = j)) := by
    rw [BitVec.getLsbD_ofNat, Nat.testBit_two_pow]
  have hx : n ≤ j → x.getLsbD j = false := BitVec.getLsbD_of_ge x j
  cases b <;>
    simp only [putBit, if_true, Bool.false_eq_true, if_false, BitVec.getLsbD_or, BitVec.getLsbD_and, BitVec.getLsbD_not, hp]
  all_goals
    by_cases h : j = k
    · subst h; simp [hk]
    · have hs : decide (k = j) = false := by simp; omega
      by_cases hj : j < n
      · rw [hs, if_neg h]; simp [hj]
      · rw [hs, if_neg h, hx (by omega)]; simp

theorem writesReg_wrS (s : State) (d : SReg) (v : DWord) : WritesReg s ((s.wrS d v).next) d v := by
  by_cases hd : d = 0
  · subst hd
    refine ⟨fun h => absurd rfl h, fun r _ => by simp, fun r => ?_, rfl, by simp, by simp [OnlyRegs, State.next, State.setPc]⟩
    by_cases hr : r = 0
    · subst hr; rfl
    · rw [State.next_flawed, bne_iff_ne.mpr hr, Bool.true_and]; rfl
  · refine ⟨fun _ => ?_, fun r h => ?_, fun r => ?_, rfl, by simp, ?_⟩
    · rw [State.next_rdS, State.wrS_ne s v hd, State.rdS_ne _ hd, State.setSc_sc, SMap.get_set_same]
    · rw [State.next_rdS, State.wrS_ne s v hd]
      by_cases hr : r = 0
      · subst hr; rfl
      · rw [State.rdS_ne _ hr, State.rdS_ne _ hr, State.setSc_sc, SMap.get_set_other _ _ _ (toNat_ne h)]
    · rw [State.next_flawed]
      by_cases hr : r = 0
      · subst hr; simp
      · have h64 : d.toNat < 64 := d.isLt
        rw [State.flawed_ne _ hr, State.wrS_ne s v hd, State.setSc_sc, putBit_getLsbD _ _ _ _ h64, State.flawed_ne _ hr]
        by_cases hrd : r = d
        · subst hrd; simp
        · rw [if_neg (toNat_ne hrd), bne_iff_ne.mpr hrd, Bool.true_and]
    · simp [OnlyRegs, State.next, State.setPc, State.wrS_ne s v hd]

theorem writesCond_wrC (s : State) (k : CReg) (b : Bool) : WritesCond s ((s.wrC k b).next) k b := by
  by_cases hk : k = 0
  · subst hk
    exact ⟨fun h => absurd rfl h, fun r _ => by simp, rfl, by simp, by simp [OnlyConds, State.next, State.setPc]⟩
  · have h8 : k.toNat < 8 := k.isLt
    refine ⟨fun _ => ?_, fun j h => ?_, rfl, by simp, ?_⟩
    · rw [State.next_rdC, State.wrC_ne s b hk, State.rdC_ne _ hk, State.setSc_sc, putBit_getLsbD _ _ _ _ h8, if_pos rfl]
    · rw [State.next_rdC, State.wrC_ne s b hk]
      by_cases hj : j = 0
      · subst hj; rfl
      · rw [State.rdC_ne _ hj, State.rdC_ne _ hj, State.setSc_sc, putBit_getLsbD _ _ _ _ h8, if_neg (toNat_ne h)]
    · simp [OnlyConds, State.next, State.setPc, State.wrC_ne s b hk]

theorem ready_ok {s : State} {dst src : List SReg} (h : Settled s dst src) : ready s dst src = .ok () := by
  have h1 : (dst ++ src).any s.pending = false := by
    rw [List.any_eq_false]; intro x hx; simp [h.1 x hx]
  have h2 : (src.any fun r => r != 0 && s.sc.bad.getLsbD r.toNat) = false := by
    rw [List.any_eq_false]; intro x hx
    have := h.2 x hx
    simpa [State.flawed] using this
  simp only [ready, h1, h2, Bool.false_eq_true, if_false]
theorem ready_stall {s : State} {dst src : List SReg} (h : (dst ++ src).any s.pending = true) :
    ready s dst src = .error (.stall .scoreboard) := by
  simp only [ready, h, if_true]

theorem scalar2_next {d a b : SReg} {s : State} (f : DWord → DWord → DWord) (h : Settled s [d] [a, b]) :
    scalar2 d a b f s = .next ((s.wrS d (f (s.rdS a) (s.rdS b))).next) := by
  simp only [scalar2, ready_ok h]; rfl
theorem scalar1_next {d a : SReg} {s : State} (f : DWord → DWord) (h : Settled s [d] [a]) :
    scalar1 d a f s = .next ((s.wrS d (f (s.rdS a))).next) := by
  simp only [scalar1, ready_ok h]; rfl
theorem compare2_next {k : CReg} {a b : SReg} {s : State} (f : DWord → DWord → Bool) (h : Settled s [] [a, b]) :
    compare2 k a b f s = .next ((s.wrC k (f (s.rdS a) (s.rdS b))).next) := by
  simp only [compare2, ready_ok h]; rfl
theorem compare1_next {k : CReg} {a : SReg} {s : State} (f : DWord → Bool) (h : Settled s [] [a]) :
    compare1 k a f s = .next ((s.wrC k (f (s.rdS a))).next) := by
  simp only [compare1, ready_ok h]; rfl

end Sys2Proof.Machine
end

