-- ==== Sys2Proof/Laws/Ops.lean ====
section
/-!
SUPPORT. What the shared operations answer, once each: waits, drains, releases, translations kept, completions forgotten.
-/
namespace Sys2Proof.Machine

theorem State.party_cases (s : State) : s.party = .group ∨ ∃ k, s.party = .policy k := by
  cases s.party with
  | group => exact .inl rfl
  | policy k => exact .inr ⟨k, rfl⟩

theorem drain_ok {s : State} (h : Drained s) : drain s = .ok () := by
  unfold drain; split
  · next hp => obtain ⟨h1, h2, h3⟩ := h hp; simp [Group.drained, Group.runsDone, h1, h2, h3]
  · rfl
theorem drain_stall {s : State} (hp : s.party = .group) (h : s.g.lane.active.isSome = true ∨ s.g.lane.queue ≠ [] ∨ s.g.pushes ≠ []) :
    drain s = .error (.stall .drain) := by
  have hn : s.g.drained = false := by
    unfold Group.drained Group.runsDone
    rcases h with h | h | h
    · rw [Option.isSome_iff_exists] at h; obtain ⟨r, hr⟩ := h; simp [hr]
    · simp [h]
    · simp [h]
  simp [drain, hp, hn]
theorem release_ok {s : State} {sc : Scope} (h : Released s sc) : s.release sc = .ok () := by
  unfold State.release
  split
  · next hp => simp [require, h hp (Or.inl rfl)]
  · next hp => simp [require, h hp (Or.inr rfl)]
  · rfl
theorem needLanes_ok {s : State} (h : s.party = .group) : needLanes s = .ok () := by simp [needLanes, h]
theorem needPolicy_ok {s : State} {k : Nat} (h : s.party = .policy k) : needPolicy s = .ok () := by simp [needPolicy, h]
theorem require_ok {b : Bool} {e : Stop} (h : b = true) : require b e = .ok () := by simp [require, h]
theorem require_error {b : Bool} {e : Stop} (h : b = false) : require b e = .error e := by simp [require, h]

/-- What an access leaves behind changes the translations and the caches alone. -/
theorem useCaches_eq (s : State) (key cls : Nat) (st : Bool) :
    s.useCaches key cls st = { s with l2 := (s.useCaches key cls st).l2, granary := (s.useCaches key cls st).granary } := by
  unfold State.useCaches
  dsimp only
  split <;> rfl
theorem touchTlb_eq (s : State) (va : DWord) : s.touchTlb va = { s with tlb := (s.touchTlb va).tlb } := by
  unfold State.touchTlb; split <;> rfl
theorem touch_caches (s : State) (va : DWord) (st : Bool) (cls : Option Nat) :
    ∃ a b c d, s.touch va st cls = { s with tlb := a, l1 := b, l2 := c, granary := d } := by
  unfold State.touch
  split
  · rw [touchTlb_eq]
    split
    · dsimp only
      split <;> split <;> (try rw [useCaches_eq]) <;> exact ⟨_, _, _, _, rfl⟩
    · exact ⟨_, _, _, _, rfl⟩
  · exact ⟨_, _, _, _, rfl⟩
theorem touch_eq (s : State) (va : DWord) (st : Bool) (cls : Option Nat) :
    s.touch va st cls = { s with tlb := (s.touch va st cls).tlb, l1 := (s.touch va st cls).l1, l2 := (s.touch va st cls).l2,
                                 granary := (s.touch va st cls).granary } := by
  obtain ⟨a, b, c, d, h⟩ := touch_caches s va st cls
  rw [h]
/-- An acquire changes L1 alone. -/
theorem acquire_eq (s : State) (sc : Scope) : s.acquire sc = { s with l1 := (s.acquire sc).l1 } := by
  unfold State.acquire; split <;> rfl
/-- Forgetting completions changes their list alone. -/
theorem remClear_eq (s : State) : s.remClear = { s with remote := s.remClear.remote } := by
  unfold State.remClear; split <;> rfl
theorem post_eq (s : State) (e : Ev) : s.post e = { s with engineQ := (s.post e).engineQ } := by
  unfold State.post; split <;> rfl
/-- A write changes memory and the poison it covers. -/
theorem write_eq (s : State) (key n v : Nat) : s.write key n v = { s with mem := (s.write key n v).mem, poison := (s.write key n v).poison } := by
  unfold State.write; split <;> rfl

/-- The scalar context is apart from the fields that memory accesses change. -/
theorem setSc_with (s : State) (m : Memory) (p : List Nat) (x : List TlbEntry) (r : List RemReq) (c : SCtx) :
    ({ s with mem := m, poison := p, tlb := x, remote := r }).setSc c =
      { s.setSc c with mem := m, poison := p, tlb := x, remote := r } := by
  obtain h | ⟨k, h⟩ := s.party_cases
  · rw [State.setSc_group (by exact h), State.setSc_group h]
  · rw [State.setSc_policy (by exact h), State.setSc_policy h]
    match k with
    | 0 => rfl
    | 1 => rfl
    | 2 => rfl
    | _ + 3 => rfl

/-- Bytes that one write covers, where no poisoned word reaches. -/
theorem foldl_setByte_eq (v : Nat) (n : Nat) : ∀ (m : Memory) (key : Nat),
    (List.range n).foldl (fun m i => Memory.setByte m (key + i) (BitVec.ofNat 8 (v / 256 ^ i))) m = Memory.write m key n v := by
  induction n generalizing v with
  | zero => intro m key; rfl
  | succ n ih =>
    intro m key
    rw [List.range_succ_eq_map, List.foldl_cons, List.foldl_map]
    simp only [Nat.pow_zero, Nat.div_one, Nat.add_zero, Memory.write]
    rw [← ih (v / 256) (Memory.setByte m key (BitVec.ofNat 8 v)) (key + 1)]
    congr 1
    funext m i
    rw [show key + i.succ = key + 1 + i by omega, Nat.div_div_eq_div_mul, ← Nat.pow_succ']

/-- Writing around poisoned words changes no byte outside the write. -/
theorem foldl_merge_other (bad : List Nat) (key n v b : Nat) (h : b < key ∨ key + n ≤ b) :
    ∀ (l : List Nat) (m : Memory), (∀ i ∈ l, i < n) →
      Memory.byte (l.foldl (fun m i => if bad.contains (poisonKey (key + i)) then m
        else Memory.setByte m (key + i) (BitVec.ofNat 8 (v / 256 ^ i))) m) b = Memory.byte m b := by
  intro l
  induction l with
  | nil => intro m _; rfl
  | cons i l ih =>
    intro m hl
    rw [List.foldl_cons, ih _ fun j hj => hl j (List.mem_cons_of_mem _ hj)]
    have hi := hl i (List.mem_cons_self ..)
    split
    · rfl
    · rw [Memory.byte_setByte, if_neg (by omega)]

/-- Writing where none of the words is poisoned. -/
theorem foldl_merge_clean (bad : List Nat) (key n v : Nat) (h : ∀ p ∈ bad, ∀ i, i < n → p ≠ poisonKey (key + i)) :
    ∀ (l : List Nat) (m : Memory), (∀ i ∈ l, i < n) →
      l.foldl (fun m i => if bad.contains (poisonKey (key + i)) then m
        else Memory.setByte m (key + i) (BitVec.ofNat 8 (v / 256 ^ i))) m =
      l.foldl (fun m i => Memory.setByte m (key + i) (BitVec.ofNat 8 (v / 256 ^ i))) m := by
  intro l
  induction l with
  | nil => intro m _; rfl
  | cons i l ih =>
    intro m hl
    rw [List.foldl_cons, List.foldl_cons, ih _ fun j hj => hl j (List.mem_cons_of_mem _ hj)]
    have hi := hl i (List.mem_cons_self ..)
    rw [if_neg]
    rw [List.contains_iff_mem]
    exact fun hm => h _ hm i hi rfl

/-- A write changes no byte outside its own. -/
theorem write_other (s : State) (key n v b : Nat) (h : b < key ∨ key + n ≤ b) :
    Memory.byte (s.write key n v).mem b = Memory.byte s.mem b := by
  unfold State.write
  split
  · exact Memory.byte_write_other _ _ _ _ _ h
  · exact foldl_merge_other _ key n v b h _ _ fun i hi => List.mem_range.mp hi

theorem poisoned_keys {s : State} {key n : Nat} (h : poisoned s key n = false) :
    ∀ p ∈ s.poison, ∀ i, i < n → p ≠ poisonKey (key + i) := by
  intro p hp i hi e
  rw [poisoned, List.any_eq_false] at h
  have := h p hp
  simp only [Bool.and_eq_true, decide_eq_true_eq, not_and] at this
  apply this <;> rw [e] <;> unfold poisonKey poisonUnit home1Base home2Base <;> split <;> split <;> omega

/-- A write where no poisoned word reaches. -/
theorem write_clean (s : State) (key n v : Nat) (h : poisoned s key n = false) : (s.write key n v).mem = Memory.write s.mem key n v := by
  unfold State.write
  split
  · rfl
  · rw [← foldl_setByte_eq]
    exact foldl_merge_clean _ key n v (fun p hp => poisoned_keys h p (List.mem_filter.mp hp).1) _ _ fun i hi => List.mem_range.mp hi

/-- A clean write reads back. -/
theorem write_read (s : State) (key n v : Nat) (h : poisoned s key n = false) :
    Memory.read (s.write key n v).mem key n = v % 256 ^ n := by rw [write_clean s key n v h, Memory.read_write_same]

/-- A record that was read has an address that step 1 of R168 admits. -/
theorem canonical_of_recordAt {s : State} {va : DWord} {n : Nat} {r : List Byte × State} (h : recordAt s va (n + 1) = .ok r) :
    canonical va = true := by
  cases hc : canonical va with
  | true => rfl
  | false => simp [recordAt, loadRaw, lift, access, hc, bind, Except.bind] at h
/-- Steps 1 and 2 of R168 pass over an aligned address that step 1 admits. -/
theorem recordCheck_ok {va : DWord} {n : Nat} (h : canonical va = true) (ha : va.toNat % n = 0) : recordCheck va n = .ok () := by
  simp [recordCheck, require, h, ha, bind, Except.bind]

end Sys2Proof.Machine
end

