-- ==== Sys2Proof/Tests/Slice0.lean ====
section
/-!
SUPPORT. Small tests: ill-formed terms are refused, words decode, single steps give the values that the spec works out, and for
every statement a state and operands that meet its hypotheses.
-/
namespace Sys2Proof.Tests
open Sys2Proof Sys2Proof.Machine
set_option Elab.async false

/-! ### Ill-formed instructions -/

def hp : LHdr := ⟨false, 0, false⟩
/-- A general-form instruction of a type with plain fields. -/
def op (vd va vb vc : Opd) (ty : LType) : LOp := ⟨hp, vd, va, vb, vc, ty, .rne, false, 0, false, 0⟩
def rn (vd va vb vc : Opd) : LRen := ⟨hp, vd, va, vb, vc⟩

/-- R61: a zero-extending load of 8 bytes. -/
theorem ill_load : ¬ (Instr.sld 1 2 .dword true 0).WellFormed := by decide
/-- R174: an atomic of two bytes. -/
theorem ill_atomic : ¬ (Instr.satomAdd 1 2 3 .dev .half).WellFormed := by decide
/-- R97: a view's number as a whole register, and the other way round. -/
theorem ill_view : ¬ (Instr.sget 1 0x022).WellFormed ∧ ¬ (Instr.sgetView 1 0x025).WellFormed := by decide
/-- R10: an odd register pair. -/
theorem ill_pair : ¬ (Instr.vadd (op (.v 3) (.v 4) (.v 6) (.v 0) .s64)).WellFormed := by decide
/-- R47: a constant as a destination. -/
theorem ill_destination : ¬ (Instr.vadd (op .lane (.v 4) (.v 6) (.v 0) .s32)).WellFormed := by decide
/-- R64: an unused field that is not zero; a type, a rounding, .sat, pd, .ftz and a selector that the entry does not take. -/
theorem ill_general : ¬ (Instr.vadd (op (.v 3) (.v 4) (.v 6) (.v 1) .s32)).WellFormed ∧
    ¬ (Instr.vadd (op (.v 3) (.v 4) (.v 6) (.v 0) .f32)).WellFormed ∧
    ¬ (Instr.vadd { op (.v 3) (.v 4) (.v 6) (.v 0) .s32 with rnd := .rtz }).WellFormed ∧
    ¬ (Instr.vmin { op (.v 3) (.v 4) (.v 6) (.v 0) .s32 with sat := true }).WellFormed ∧
    ¬ (Instr.vadd { op (.v 3) (.v 4) (.v 6) (.v 0) .s32 with pd := 1 }).WellFormed ∧
    ¬ (Instr.vadd { op (.v 3) (.v 4) (.v 6) (.v 0) .s32 with ftz := true }).WellFormed ∧
    ¬ (Instr.vadd { op (.v 3) (.v 4) (.v 6) (.v 0) .s32 with x := 1 }).WellFormed := by decide
/-- R118, R124: VSHFI with a high bit set, VCMPI with condition 6, VCMP with condition 6. -/
theorem ill_immediate : ¬ (Instr.vshfi ⟨hp, .v 1, .v 2, 0x100, .n32, false⟩).WellFormed ∧
    ¬ (Instr.vcmpi ⟨hp, .v 0x600, .v 2, 0, .s32, false⟩).WellFormed ∧
    ¬ (Instr.vcmp { op (.v 0) (.v 4) (.v 5) (.v 0) .s32 with x := 6 }).WellFormed := by decide
/-- R133, R137, R139: a reduction of operation 6, a ballot past W, a top-k of none. -/
theorem ill_cross : ¬ (Instr.vreduce { op (.s 9) (.v 4) (.v 0) (.v 0) .n32 with x := 6 }).WellFormed ∧
    ¬ (Instr.vballot { op (.v 9) (.v 0) (.v 0) (.v 0) .b32 with x := 0x80 }).WellFormed ∧
    ¬ (Instr.vtopk { op (.v 9) (.v 4) (.v 6) (.s 1) .n32 with x := 0 }).WellFormed := by decide
/-- R144: EMSET under a guard. -/
theorem ill_emset : ¬ (Instr.emsetAnd { op (.v 0) (.v 0) (.v 0) (.v 0) .s32 with h := ⟨false, 1, false⟩ }).WellFormed := by decide
/-- R155, R156, R163: conversions that are not offered. -/
theorem ill_conversion : ¬ (Instr.vcvt { op (.v 1) (.v 2) (.v 0) (.v 0) .f32 with x := 0x1000 }).WellFormed ∧
    ¬ (Instr.vpack { op (.v 1) (.v 2) (.v 4) (.v 0) .f32 with x := 0 }).WellFormed ∧
    ¬ (Instr.lcvt { op (.v 1) (.v 2) (.v 0) (.v 0) .l32 with x := 0 }).WellFormed := by decide
/-- R183 to R187: a type and size that no row names, an atomic that a float does not take, a contribution with .raw. -/
theorem ill_memory : ¬ (Instr.vld ⟨hp, .v 1, .v 2, .s 4, .v 0, .s32, false, false, false, .dword, true⟩).WellFormed ∧
    ¬ (Instr.vatom ⟨hp, .v 1, .v 2, .s 4, .v 3, .f32, true, .xor, .rlx, .team⟩).WellFormed ∧
    ¬ (Instr.gradAdd ⟨hp, .v 0, .v 2, .s 4, .v 3, .f32, false, true, false, .byte, true⟩).WellFormed ∧
    ¬ (Instr.gld ⟨hp, .v 1, .v 2, .v 3, .v 4, .s32, 0, 4⟩).WellFormed := by decide
/-- R215, R224: an odd designator of an f16 product. -/
theorem ill_matrix : ¬ (Instr.mxMma ⟨hp, .v 256, .s 4, .zero, .v 0, 1, 1, false, 1, 0, 0⟩).WellFormed := by decide
/-- R238: a block off its alignment, a scalar where a block stands. -/
theorem ill_block : ¬ (Instr.trace (rn (.v 33) (.v 16) (.s 6) (.v 0)) false false).WellFormed ∧
    ¬ (Instr.tapePush (rn (.v 0) (.s 1) (.v 0) (.v 0)) 0).WellFormed := by decide

/-! ### Words of the spec -/

/-- Every statement that the spec encodes, family by family (see `Spec.scalarWords` and `Spec.laneWords` for the rules). -/
theorem test_spec_words : (∀ x ∈ Spec.scalarWords, Decode.scalar x.1 = .ok x.2) ∧ ∀ x ∈ Spec.laneWords, Decode.lane x.1 = .ok x.2 := by
  decide +kernel
/-- R93, R94, R96, R175, R200, R202, R211, R270: more words of one family each. -/
theorem test_more_words : Decode.scalar 0x58000000 = .ok .region ∧ Decode.scalar 0x34000028 = .ok (.sfenceRel .dev) ∧
    Decode.scalar 0x34000008 = .ok (.sfenceAcq .dev) ∧ Decode.scalar 0x3001852A = .ok (.sstRel 6 5 .dev .word) ∧
    Decode.scalar 0x6C000000 = .ok .barTeam ∧ Decode.scalar 0x5201C000 = .ok (.runr 7) ∧ Decode.scalar 0x84500002 = .ok (.tapeStat 5) ∧
    Decode.scalar 0x5C200015 = .ok (.sget 2 0x015) ∧ Decode.scalar 0x80010001 = .ok (.gridPub 0 4) ∧
    Decode.scalar 0x81000002 = .ok (.gridStat 16 0) ∧ Decode.scalar 0x84000003 = .ok .tapeClose := by decide +kernel
/-- R268, R356: tape records, a shuffle, a select, a grid store. -/
theorem test_more_lane_words : Decode.lane 0x6020000000A0000000000000 = .ok (.tapePush ⟨⟨true, 0, false⟩, .v 0, .v 5, .v 0, .v 0⟩ 0) ∧
    Decode.lane 0x604000120000000000000000 = .ok (.tapePop (rn (.v 9) (.v 0) (.v 0) (.v 0)) 0) ∧
    Decode.lane 0x426000160030A10A1C000028 = .ok (.gst ⟨⟨true, 0, false⟩, .v 11, .v 1, .zero, .zero, .b32, 0, 5⟩) := by decide +kernel
/-- R60, R62, R97: words that are no instruction: 0, a reserved selector, an unused field, a view with rd[5:3] set. -/
theorem test_refused_words : Decode.scalar 0 = .error .illegalOpcode ∧ Decode.scalar 0x0C003000 = .error .illegalOpcode ∧
    Decode.scalar 0x54000001 = .error .reservedField ∧ Decode.scalar 0x5E200020 = .error .reservedField ∧
    Decode.lane 0 = .error .illegalOpcode := by decide +kernel



/-! ### States -/

/-- A group of one team, running, its first GiB mapped onto main memory. -/
def gs : State := placed State.reset
/-- Policy core 0. -/
def ps : State := { State.reset with party := .policy 0 }
/-- The group with scalar registers set. -/
def withRegs (rs : List (Nat × Nat)) (s : State) : State :=
  s.setSc { s.sc with sreg := rs.foldl (fun m r => SMap.set 0 m r.1 (BitVec.ofNat 64 r.2)) s.sc.sreg }
/-- A state with bytes of memory set. -/
def withMem (ws : List (Nat × Nat × Nat)) (s : State) : State :=
  { s with mem := ws.foldl (fun m w => Memory.write m w.1 w.2.1 w.2.2) s.mem }
/-- The group with its team, its domain or its group changed. -/
def withTeam (f : Team → Team) (s : State) : State := { s with teams := s.teams.map f }
def withGroup (f : Group → Group) (s : State) : State := { s with g := f s.g }
/-- The group with a lane run at index 0. -/
def ls : State := withGroup (fun g => { g with lane := { active := some { lpc := 0, snap := [] } } }) gs
/-- A result that is there and passes a check. -/
def okAnd {ε α : Type} (r : Except ε α) (p : α → Bool) : Bool := match r with
  | .ok x => p x
  | .error _ => false
/-- The next state passes a check. -/
def nextAnd (o : Out) (p : State → Bool) : Bool := match o with
  | .next t => p t
  | _ => false

/-! ### Witnesses: the scalar stream -/

theorem witness_ScalarRegisterInstructions : (Spec.arith (.sadd 4 5 6)).isSome = true ∧ (Spec.arithImm (.slui 4 1)).isSome = true ∧
    (Spec.compares (.scmpEq 1 5 6)).isSome = true ∧ Settled gs [4] [5, 6] ∧ Settled ps [0] [5, 6] := by decide +kernel
theorem witness_ScalarDivision : Settled (withRegs [(5, 7), (6, 0)] gs) [4] [5, 6] ∧ (withRegs [(5, 7), (6, 0)] gs).rdS 6 = 0 ∧
    ((withRegs [(5, 2 ^ 63), (6, 2 ^ 64 - 1)] gs).rdS 5).toInt = -2 ^ 63 ∧
    ((withRegs [(5, 2 ^ 63), (6, 2 ^ 64 - 1)] gs).rdS 6).toInt = -1 := by decide +kernel
theorem witness_ScalarStreamWaits : (Spec.registers (.sadd 4 5 6)).isSome = true ∧ Spec.registers (.sst 4 5 .dword 0) = some ([], [5, 4]) ∧
    (gs.setTok 5).pending 5 = true ∧
    ({ gs with g := { gs.g with sc := { gs.g.sc with bad := 32 } } } : State).flawed 5 = true := by decide +kernel
/-- An address that no page maps, a misaligned one, and a word that holds an uncorrectable error. -/
theorem witness_ScalarMemoryFaults : let s := withRegs [(5, 0x8000)] gs
    let t := { s with poison := [0x8000] }
    (Spec.loads s (.sld 4 5 .word false 0)).isSome = true ∧ (Spec.stores s (.sst 4 5 .word 0)).isSome = true ∧
      (Spec.atoms (.satomAdd 4 5 6 .dev .word)).isSome = true ∧ okAnd (access s 0x8001 4 .load .scalarLoad) (fun _ => true) = false ∧
      okAnd (access s 0x8001 4 .store .plainStore) (fun _ => true) = false ∧ okAnd (access s 0x7FFF0000000000 4 .atomic .atomic) (fun _ => true) = false ∧
      okAnd (access t 0x8000 4 .load .scalarLoad) (fun l => !isRemote l.key && !t.owned l.key 4 && poisoned t l.key 4) = true ∧
      okAnd (access t 0x8000 4 .atomic .atomic) (fun l => !isRemote l.key && !t.owned l.key 4 && poisoned t l.key 4) = true := by decide +kernel
theorem witness_Loads : let s := withRegs [(5, 0x8000)] gs
    (Spec.loads s (.sld 4 5 .word false 1)).isSome = true ∧ Settled s [4] [5] ∧ InOrder s .dev ∧ s.member? = none ∧
      okAnd (access s 0x8004 4 .load .scalarLoad) (fun l => okAnd (arrive s l 0x8004 4) fun _ => true) = true := by decide +kernel
theorem witness_Stores : let s := withRegs [(5, 0x8000)] gs
    (Spec.stores s (.sst 4 5 .dword 0)).isSome = true ∧ Settled s [] [5, 4] ∧ InOrder s .dev ∧ s.member? = none ∧
      okAnd (access s 0x8000 8 .store .plainStore) (fun l => !s.stages l && !isRemote l.key && !s.owned l.key 8 && !poisoned s l.key 8) = true := by
  decide +kernel
/-- A deterministic team whose store is staged: the page's D bit and the team's DET bit are set (R404). -/
theorem witness_StagedStores : let s := withGroup (fun g => { g with det := true }) (withTeam (fun t => { t with teamlin := 1 }) (withMem [(0x5000, 8, leafAll + 2 ^ 56)] gs))
    s.team? s.g.team = some s.gteam ∧ s.g.replay = none ∧ s.gteam.staged.length < 2048 ∧
      okAnd (access s 0x8000 8 .store .plainStore) (fun l => s.stages l) = true := by decide +kernel
theorem witness_Atomics : let s := withRegs [(5, 0x8000)] gs
    (Spec.atoms (.satomAdd 4 5 6 .dev .word)).isSome = true ∧ Settled s [4] [5, 6] ∧ Drained s ∧ InOrder s .dev ∧
      okAnd (access s 0x8000 4 .atomic .atomic) (fun l => !s.stages l && !isRemote l.key && !s.owned l.key 4 && !poisoned s l.key 4) = true := by
  decide +kernel
theorem witness_Drains : Drained gs ∧ Released gs .sys ∧ Spec.drains .syncL = true ∧ (Spec.fences (.sfenceRel .sys)).isSome = true ∧
    ls.party = .group ∧ ls.g.lane.active.isSome = true ∧ ps.party = .policy 0 := by decide +kernel
/-- Both ends of the canonical addresses, for a branch and for SJR. -/
theorem witness_ControlFlow : gs.rdC 0 = true ∧ gs.rdC 1 = false ∧ canonical (gs.pc + BitVec.ofInt 64 (-4)) = true ∧
    canonical ((gs.setPc 0xFFFFFFFFFFFFFC).pc + 4) = false ∧ (withRegs [(5, 2)] gs).rdS 5 = 2 ∧
    canonical (BitVec.ofNat 64 (2 ^ 56)) = false ∧ canonical (BitVec.ofNat 64 (2 ^ 64 - 2 ^ 56)) = true := by decide +kernel
theorem witness_Runs : gs.g.lane.runs < 8 ∧ Settled (withRegs [(5, 2 ^ 20)] gs) [] [5] ∧
    8 ≤ (withGroup (fun g => { g with lane := { active := some { lpc := 0, snap := [] }, queue := List.replicate 7 { lpc := 0, snap := [] } } }) gs).g.lane.runs := by
  decide +kernel
theorem witness_ConditionViews : (0x020, 0x005, 0) ∈ Spec.views ∧ (0x024, 0x006, 1) ∈ Spec.views ∧ gs.party = .group ∧ Settled gs [5] [] ∧ Settled gs [] [5] := by
  decide +kernel
theorem witness_SystemRegisters : gs.party = .group ∧ Settled gs [5] [5] ∧ Drained gs ∧ ls.g.drained = false ∧
    (Spec.sysReg gs 0x01D).isSome = true ∧ Spec.sysReg gs 0x01E = none ∧ Spec.laneSeen 0x00C ∧
    (Spec.sysWrite gs.g 31 0x007).isSome = true ∧ Spec.sysWrite gs.g 32 0x007 = none := by
  refine ⟨rfl, by decide +kernel, by decide +kernel, by decide +kernel, by decide +kernel, by decide +kernel, ?_, by decide +kernel, by decide +kernel⟩
  exact Or.inr (Or.inr (Or.inr rfl))
theorem witness_PolicyCores : ps.party = .policy 0 ∧ Settled ps [5] [5] ∧ (privRead ps 0 0x800).isSome = true ∧
    okAnd (privWrite ps 0 0x803 0x1003) (fun _ => true) = true := by decide +kernel
/-- A full and an empty group fault queue of one slot; the other stream's host read in flight, and a fault found meanwhile. -/
theorem witness_GroupTraps : let d (l : List GfRec) : State := { gs with dom0 := { gs.dom0 with gfLive := l } }
    let u := gs.readBlock gs.gdom
    let f : State := { withGroup (fun g => { g with lStall := some .pcie }) gs with remote := [{ gid := 1, ch := 1, pa := hostBase, size := 4, atomic := none }] }
    gs.party = .group ∧ inFlight gs gs.g true = false ∧ gs.g.phase = .running ∧ (gs.dom gs.gdom).gfLive = [] ∧
      ((d [⟨1, none, none, false⟩]).dom0.gfLive.any fun r => (r.seq - 1) % 2 ^ dcbGfqLog2 u gs.gdom == 0) = true ∧
      poisoned gs (dcbGfqBase u gs.gdom) 128 = false ∧ inFlight f f.g true = true ∧ f.g.phase = .running ∧
      (withGroup (fun g => { g with phase := .stopping { code := .brk } true }) gs).g.phase = .stopping { code := .brk } true := by
  decide +kernel
theorem witness_SystemCalls : let s := withRegs [(5, 0x0001001E00010014)] gs
    s.party = .group ∧ Settled s [4] [5, 6] ∧ Drained s ∧ (s.rdS 5).toNat / 2 ^ 49 = 0 ∧ (s.rdS 5).toNat % 2 ^ 11 + 2 ≤ s.g.winsz ∧
      (s.dom s.gdom).scLive = [] ∧ s.poison = [] ∧ s.g.badV = [] ∧ (withRegs [(5, 2 ^ 49)] gs).rdS 5 = 2 ^ 49 := by decide +kernel

/-! ### Witnesses: groups together -/

/-- The group alone at a barrier, before another group, and waiting. -/
theorem witness_Barriers : Drained gs ∧ Settled gs [5] [] ∧ Settled gs [] [5] ∧ gs.g.barJoined = none ∧ gs.gteam.ngroups = 1 ∧ gs.g.gidx = 0 ∧
    (withTeam (fun t => { t with ngroups := 2 }) gs).gteam.barArrived = [] ∧
    (withGroup (fun g => { g with barJoined := some 0 }) gs).gteam.barGen = 0 ∧ gs.gcluster.arrived = [] ∧
    clusterLive gs gs.gcluster = [cluKey 0 0] ∧
    ({ gs with clusters := [{ cid := 1, launch := 1, arrived := [(3, [cluKey 0 0])] }] } : State).gcluster.arrived ≠ [] := by decide +kernel
/-- The ends of R203's interval: a phase just passed, 2^31 passed, and the phase itself. -/
theorem witness_ClusterWait : let s (n : Word) : State := { gs with clusters := [{ cid := 1, launch := 1, phase := [(3, n)] }] }
    (SMap.get 0 (s 1).gcluster.phase 3 - ((s 1).rdS 5).setWidth 32).toNat = 1 ∧
    (SMap.get 0 (s 0x80000000).gcluster.phase 3 - ((s 0x80000000).rdS 5).setWidth 32).toNat = 2 ^ 31 ∧
    (SMap.get 0 gs.gcluster.phase 3 - (gs.rdS 5).setWidth 32).toNat = 0 := by decide +kernel
/-- The team's own scratch holds the counter: a free watch, eight others, a target reached and one not reached. -/
theorem witness_Watches : let w : DWord := 0xF0000000000000
    let s (l : List (DWord × DWord)) : State := withRegs [(5, 0xF0000000000000)] (withTeam (fun t => { t with scrsz := 64, watches := l }) gs)
    Settled (s []) [] [5, 6] ∧ ((s []).rdS 5).toNat % 8 = 0 ∧ okAnd (counterLoc (s []) w) (fun l => okAnd (arrive (s []) l w 8) fun _ => true) ∧
      8 ≤ ((s (List.replicate 8 (8, 0))).gteam.watches.filter fun x => x.1 != w).length ∧
      (s [(w, 0)]).gteam.watches.find? (fun x => x.1 == w) = some (w, 0) ∧ (withRegs [(5, 4)] gs).rdS 5 = 4 := by decide +kernel
/-- A channel to the group's own team: empty, and full. -/
theorem witness_Channels : Settled gs [4] [5] ∧ let s (m : List DWord) : State := { gs with clusters := [{ cid := 1, launch := 1, chans := [⟨3, 0, 0, 1, m, [], []⟩] }] }
    okAnd (channel (s []) 3 true) (fun x => x.msgs.length < x.depth && !teamGone (s []) x.cons) ∧
      okAnd (channel (s []) 3 false) (fun x => x.msgs[x.waits.idxOf (s []).g.gid]?.isNone && !teamGone (s []) x.prod) ∧
      okAnd (channel (s [7]) 3 true) (fun x => x.depth ≤ x.msgs.length) ∧
      okAnd (channel (s [7]) 3 false) (fun x => x.msgs[x.waits.idxOf (s [7]).g.gid]? == some 7) ∧ gs.gcluster.chans = [] := by decide +kernel
/-- A graph-edge queue at 0x8000 with a ring at 0x9000: one slot free, and none. -/
theorem witness_Edges : let s (free : Nat) : State := withRegs [(5, 0xA000), (6, 0x8000)] (withMem [(0x8008, 8, 0x9000), (0x8010, 4, free)] gs)
    okAnd (edgePush (s 1) ((s 1).rdS 5) ((s 1).rdS 6)) (fun t => t.isSome) ∧
      okAnd (edgePush (s 0) ((s 0).rdS 5) ((s 0).rdS 6)) (fun t => t.isNone) ∧ Settled (s 1) [] [5, 6] ∧ (withRegs [(5, 64)] gs).rdS 5 = 64 ∧
      canonical 64 = true := by
  decide +kernel
theorem witness_TriggerYieldExit : Drained gs ∧ gs.g.triggered = false ∧ gs.g.yieldReq = false ∧ gs.g.parked = [] ∧ gs.g.sc.tok = 0 ∧
    gs.g.streams = [] ∧ (gs.setTok 5).g.sc.tok ≠ 0 ∧ (withGroup (fun g => { g with yieldReq := true, triggered := true }) gs).party = .group ∧
    gs.g.leave = .stay ∧ ls.g.drained = false ∧ (withGroup (fun g => { g with leave := .yielding }) gs).g.leave = .yielding := by
  decide +kernel
/-- A stream of 64 words at 0x9000; a descriptor in use, at its end. -/
theorem witness_Streams : let s : State := withRegs [(5, 0x8000)] (withMem [(0x8000, 8, 0x9000), (0x8010, 4, 64), (0x8020, 8, 4)] gs)
    okAnd (recordAt s (s.rdS 5) 8) (fun x => (streamOf x.1).isSome) ∧ canonical (s.rdS 5) ∧ (s.g.stream 1).defined = false ∧
      (withGroup (fun g => g.setStream 1 { defined := true, counts := [64] }) s).rdS 5 = 0x8000 ∧
      ((withGroup (fun g => g.setStream 1 { defined := true, counts := [64] }) s).g.stream 1).total = 64 := by decide +kernel
/-- A one-dimensional copy of two words into scratch; scratch of one word is too small for it. -/
theorem witness_Copies :
    let tlr := [(0x8000, 8, 0x9000), (0x8008, 1, 1), (0x8009, 1, 4), (0x8010, 4, 8), (0x8014, 4, 1), (0x8018, 4, 1), (0x801C, 4, 1),
      (0x8020, 4, 1), (0x8034, 1, 1)]
    let s (n : Nat) : State := withRegs [(9, 0x8000), (10, 0xF0000000000000)] (withTeam (fun t => { t with scrsz := n }) (withMem tlr gs))
    okAnd (recordAt (s 64) ((s 64).rdS 9) 8) (fun x => (tlrOf x.1 .tile).any fun t =>
      okAnd (cpItems (s 64) t .tile 12) (fun xs => xs.any fun y => t.esz * y.length == 8 &&
        (badIndex (s 64) t .tile 12).isNone && !(s 64).owned (2 ^ 60 + 2 ^ 21) 8 &&
        okAnd (x.2.grants false (cpLines x.2 t (2 ^ 60 + 2 ^ 21) ((s 64).rdS 10) y)) fun w =>
          okAnd (cpRun t (2 ^ 60 + 2 ^ 21) w.nextId y w 0 0) fun r => r.1.party == .group && r.2.2 == 0)) ∧
      windowRoom (s 64) ((s 64).rdS 10) = some (2 ^ 60 + 2 ^ 21, 64) ∧ windowRoom (s 4) ((s 4).rdS 10) = some (2 ^ 60 + 2 ^ 21, 4) ∧
      Settled (s 64) [8] [9, 10, 12] ∧ (s 64).g.copyTrap = false ∧
      (withRegs [(9, 8)] gs).rdS 9 = 8 ∧ canonical 8 = true := by decide +kernel
theorem witness_TokenPolling : gs.pending 8 = false ∧ (gs.setTok 8).pending 8 = true ∧ (gs.setTok 8).g.tryOver = false ∧
    (withGroup (fun g => { g with tryOver := true }) (gs.setTok 8)).pending 8 = true := by decide +kernel
/-- A seal of a range, a transfer of 64 bytes with and without planes, a communicator of this package alone, and none. -/
theorem witness_Transfers : let s : State := withRegs [(5, 0x8000), (6, 512)] (withMem [(0x8000, 8, 0x9000), (0x8008, 8, 0xA000),
        (0x8018, 4, 64), (0x801C, 2, 1)] gs)
    let c : State := withRegs [(5, 0xB000)] (withMem [(0xB000, 8, 0x9000), (0xB008, 8, 0xA000), (0xB010, 4, 2), (0xC000, 8, 0xD000),
        (0xC008, 4, 1)] { gs with dom0 := { gs.dom0 with commbase := 0xC000, commcnt := 1 } })
    (s.rdS 5).toNat % 512 = 0 ∧ (s.rdS 6).toNat % 512 = 0 ∧ reachable s = true ∧ Released s .fab ∧
      okAnd (recordAt s (s.rdS 5) 4) (fun x => (xferOf x.1).any fun r => (readRange x.2 r.src 8).2.1.isNone) ∧
      reachable { s with fabric := { s.fabric with planesDown := List.range 72 } } = false ∧
      okAnd (recordAt c (c.rdS 5) 8) (fun x => (collOf 0 x.1).any fun k => (commOf x.2 x.2.gdom k.comm).toOption == some ([0], 0) &&
        (collRead x.2 0x9000 4 2).toOption.isSome && (collDest x.2 0xA000 4 2).toOption.any (fun ls => ls.all (fun l => !c.owned l.1.key 4) && okAnd (x.2.grants false ls) fun _ => true)) ∧
      okAnd (recordAt s 0x8000 8) (fun x => (commOf x.2 x.2.gdom 0).toOption.isNone) ∧
      (withRegs [(5, 8)] gs).rdS 5 = 8 ∧ canonical 8 = true := by decide +kernel
/-- A grid of 8 cells in one partition, bound to slot 0 (R190). -/
def gridD : GridD := { id := 1, ndim := 1, pfd := 0, kind := 0, dbase := 0, gw := 1, rad := 1, depth := 1, nbuf := 2, fault := true,
                       bc := [1, 1, 0, 0, 0, 0], n := [8, 1, 1], p := [1, 1, 1], consts := [0, 0, 0, 0, 0, 0], owners := [], crc := 0 }
theorem witness_GridBinding : let rec_ := [(0x8000, 4, 1), (0x8004, 8, 0x0000020101010001), (0x800C, 8, 0x0000000000000101), (0x8014, 4, 8),
        (0x8018, 4, 1), (0x801C, 4, 1), (0x8020, 4, 1), (0x8024, 4, 1), (0x8028, 4, 1), (0x8048, 8, 0xC000), (0xC000, 8, 0x40009000)]
    let s : State := withRegs [(5, 0x8000)] (withMem (rec_ ++ [(0x5008, 8, leafAll - 8 + 2 ^ 55)]) gs)
    okAnd (recordAt s (s.rdS 5) 32) (fun x => (gridOf s s.gdom x.1).any fun d0 =>
      okAnd (readOwners x.2 (BitVec.ofNat 64 (fieldOf x.1 72 8)) 1) fun o =>
        o.1.findIdx? (fun o => o.pkg == s.fabric.pkg && o.team == s.gteam.teamlin) == some 0 &&
        okAnd (storageOk o.2 ⟨0, 0, 0x8000, { d0 with owners := o.1 }, [], []⟩ 0) fun _ => true) := by decide +kernel
/-- The bound slot: nothing published, step 0 published, and a slot that is not bound. -/
theorem witness_GridPublication :
    let gr (p : Option Nat) : Grid := ⟨0, 0, 0x8000, { gridD with owners := [⟨0x9000, 0, 0, 0⟩] }, [1], [{ part := 0, published := p }]⟩
    let s (p : Option Nat) : State := { gs with g := { gs.g with grids := [(0, ⟨0x8000, 1⟩)] }, grids := [gr p] }
    okAnd (slotGrid (s none) 0) (fun x => (x.1.partOf x.2).published == none &&
        okAnd ((s none).grants false (pubLines (s none) x.1 x.2 0)) (fun u => okAnd (publish u x.1 x.2 0) fun _ => true)) ∧
      okAnd (slotGrid (s (some 0)) 0) (fun x => (x.1.partOf x.2).published == some 0) ∧ Released (s none) .fab ∧
      (SMap.get ⟨0, 0⟩ gs.g.grids 0).part = 0 := by decide +kernel
/-- TAPE.OPEN's record at 0x8000, a tape open with a segment, and one in its handler. -/
theorem witness_Tape : let s : State := withRegs [(5, 0x8000), (6, 2 ^ 32 + 7), (7, 2 ^ 33)] (withTeam (fun t => { t with tapesz := 256 })
      (withMem [(0x8000, 8, 0x9000), (0x8008, 8, 0x1000), (0x8010, 8, 0x100098)] gs))
    okAnd (recordAt s (s.rdS 5) 4) (fun x => fieldOf x.1 0 8 % 128 == 0 && fieldOf x.1 8 8 % 128 == 0 && x.2.party == .group) ∧
      s.g.tape.opened = false ∧ 256 ≤ s.gteam.tapesz ∧ (s.rdS 6).toNat < 2 ^ 33 ∧ (s.rdS 6).toNat / 2 ^ 32 = 1 ∧
      (s.rdS 7).toNat / 2 ^ 32 = 2 ∧ (withGroup (fun g => { g with tape := { opened := true, recomp := true } }) s).g.tape.recomp = true ∧
      Drained s := by decide +kernel
/-- A session of two participants with two entries each, as its descriptor says; its recorded entry, and an entry that is not written. -/
def sessBytes : List Byte := leBytes 12 0 ++ leBytes 4 2 ++ leBytes 8 0x9000 ++ leBytes 4 2 ++ leBytes 4 5 ++ leBytes 32 0
theorem witness_Replay : let s (e : Nat) : State := withRegs [(5, 0x8000), (6, 2 ^ 32)] (withMem [(0x800C, 4, 2), (0x8010, 8, 0x9000), (0x8018, 4, 2), (0x9010, 8, e)] gs)
    let r (p : Bool) (e : Nat) : State :=
      { withGroup (fun g => { g with replay := some ⟨0x8000, p, 1, 7, 0, []⟩ }) (s e) with sessions := [⟨0, 0, false, 0x8000, sessBytes, 0, p, [1]⟩] }
    okAnd (recordAt (s 0) ((s 0).rdS 5) 8) (fun x => fieldOf x.1 12 4 == 2 && fieldOf x.1 40 8 == 0) ∧ ((s 0).rdS 6).toNat / 2 ^ 32 = 1 ∧
      (withRegs [(6, 2 ^ 33)] (s 0)).rdS 6 = 2 ^ 33 ∧
      (r true (2 ^ 63 + 7)).member?.any (fun m => sessField (r true (2 ^ 63 + 7)) m 24 4 == 2 && sessField (r true 0) m 16 8 == 0x9000) ∧
      okAnd (loadS (r true (2 ^ 63 + 7)) 0x9010 8 false) (fun x => x.1 == 2 ^ 63 + 7) ∧
      okAnd (loadS (r true 0) 0x9010 8 false) (fun x => x.1 < 2 ^ 63) ∧
      okAnd (access (r false 0) 0x9010 8 .store .plainStore) (fun l => okAnd (((r false 0).touch 0x9010 true).put l 0x9010 8 7) fun _ => true) := by
  decide +kernel
/-- The operands of the privileged instructions: a group in slot 0 of core 0 and none in slot 1; a unit; a core; reserved bits. -/
theorem witness_Privileged : let p : State := { gs with party := .policy 0 }
    Spec.privileged .eret = true ∧ gs.party = .group ∧
      (p.groups.find? fun g => g.slot == 0 && (p.team g.team).core == 0).isSome = true ∧
      (p.groups.find? fun g => g.slot == 1 && (p.team g.team).core == 0) = none ∧
      (0 + 1) * 2 ^ 30 ≤ capacity p ∧ SMap.get 15 p.units 0 ≠ 1 ∧ (withRegs [(5, 2 ^ 60 * 2)] p).rdS 5 = 2 ^ 61 ∧
      (withRegs [(6, 2 ^ 18)] p).rdS 6 = 2 ^ 18 ∧ (restoreTeam p 0x10000 0).isSome = true ∧
      areaBytes (geometry p (p.team 1)).2.2.1 ≤ p.priv.memtop.toNat ∧
      (teamGroups (settleForced (p.mapGroups fun g => { g with leave := .forcing }) [{ gs.g with leave := .forcing }]) 1).all Group.left = true ∧
      p.start.oldUnits = none := by decide +kernel

/-! ### Witnesses: lane instructions -/

/-- `LaneReady` as a test. -/
def readyB (v : Forms.LView) (sw : Bool) (s : State) : Bool :=
  s.party == .group && (LView.spans v).all (fun x => x.1 + x.2 ≤ s.g.winsz) && (LView.predNums v).all (fun p => p < s.g.predsz) &&
  [v.vd, v.va, v.vb, v.vc].all notPort && !(s.g.haz.at sw).conflict v &&
  (uniforms v).all (fun r => !s.g.waits r) && (uniforms v).all (fun r => r == 0 || !s.g.run.bad.getLsbD r.toNat) &&
  (sourcesOf v).all (fun x => s.g.badLanes (s.g.active v.h) x.1 v.wide x.2 == []) &&
  (!v.every || s.g.badLanes (BitVec.allOnes 32) v.ua v.wide v.va == []) && (!v.mem || s.g.pushes == [])
theorem ready_of {v : Forms.LView} {sw : Bool} {s : State} (h : readyB v sw s = true) : LaneReady v sw s := by
  simp only [readyB, Bool.and_eq_true, List.all_eq_true, beq_iff_eq, decide_eq_true_eq, Bool.not_eq_true', Bool.or_eq_true] at h
  obtain ⟨⟨⟨⟨⟨⟨⟨⟨⟨a, b⟩, c⟩, d⟩, e⟩, f⟩, g⟩, i⟩, k⟩, j⟩ := h
  exact ⟨a, b, c, d, e, f, g, i, fun m => k.resolve_left (by simp [m]), fun m => j.resolve_left (by simp [m])⟩

/-- Forms of every kind at the window's edge (64 registers, 16 predicates): register 63, predicate 15, a pair, a block, a scalar. -/
theorem witness_Elementwise : ∀ v ∈ [Forms.alu2 (op (.v 63) (.v 0) (.s 5) (.v 0) .s32), Forms.alu2 (op (.v 62) (.v 0) .lane (.v 0) .s64),
    Forms.cmp { op (.v 0) (.v 4) (.v 5) (.v 0) .s32 with pd := 15 }, Forms.vsow { op (.v 62) (.v 4) (.v 5) (.v 0) .b32 with x := 1 },
    Forms.vreduce (op (.s 9) (.v 4) (.v 0) (.v 0) .n32), Forms.vballot (op (.v 9) (.v 0) (.v 0) (.v 0) .b32),
    Forms.vtopk { op (.v 61) (.v 4) (.v 6) (.s 1) .n32 with x := 3 }, Forms.vunpack { op (.v 62) (.v 4) (.v 0) (.v 0) .f32 with x := 0x200 },
    Forms.plog { op (.v 0) (.v 1) (.v 2) (.v 3) .s32 with pd := 4 }, Forms.emset (op (.v 0) (.v 0) (.v 0) (.v 0) .s32),
    Forms.emsetSet (op (.v 0) (.s 6) (.v 0) (.v 0) .s32)], LaneReady v false ls := by
  intro v hv
  exact ready_of (List.all_eq_true.mp (by decide +kernel : List.all _ (fun v => readyB v false ls) = true) v hv)
/-- A signalling NaN, ∞ − ∞, 0 × ∞ and 1 ÷ 0, in registers 4 and 5 of lane 0. -/
theorem witness_Floats : let o := op (.v 63) (.v 4) (.v 5) (.v 0) .f32
    let s (a b : Word) : State := withGroup (fun g => { g with vreg := [(128, a), (160, b)] }) ls
    readyB (Forms.fma2 o) false (s 0x7F800000 0x7F800000) = true ∧ readyB (Forms.sfu2 o) false (s 0x3F800000 0) = true ∧
      (s 0x7F800000 0xFF800000).g.vr 4 0 = 0x7F800000 ∧ Spec.word (s 1 2) o.vb 0 = 2 ∧
      Spec.outcome32 Spec.sum32 0x7F800001 0 = some (0x7FC00000, fNV) ∧ Spec.outcome32 Spec.sum32 0x7F800000 0xFF800000 = some (0x7FC00000, fNV) ∧
      Spec.outcome32 Spec.product32 0 0x7F800000 = some (0x7FC00000, fNV) ∧
      Spec.outcome32 Spec.quotient32 0x3F800000 0 = some (0x7F800000, fDZ) := by decide +kernel
/-- VSUB of ∞ and ∞ in lane 0 leaves the canonical NaN and NV (R18, row 3). -/
theorem test_float_invalid : nextAnd (execVfsub (op (.v 63) (.v 4) (.v 5) (.v 0) .f32)
      (withGroup (fun g => { g with vreg := [(128, 0x7F800000), (160, 0x7F800000)] }) ls))
    (fun t => t.g.vr 63 0 == 0x7FC00000 && t.g.lst 0 == 1) = true := by decide +kernel
theorem witness_VStat : LaneReady (Forms.vstatGet (op (.v 9) (.v 0) (.v 0) (.v 0) .b32)) true ls ∧
    LaneReady (Forms.vstatPut (op (.v 0) (.v 9) (.v 0) (.v 0) .b32)) true ls := ⟨ready_of (by decide +kernel), ready_of (by decide +kernel)⟩
/-- R67's checks fail one by one: a register outside the window, an unbound port, a hazard, a pending uniform register. -/
theorem witness_LaneIssue : ¬ (64 + 1 ≤ ls.g.winsz) ∧ ls.g.bound 3 false = false ∧
    ((withGroup (fun g => { g with haz := { fixed := [⟨63, 1, 0, 4, false, false⟩] } }) ls).g.haz.at false).conflict
      (Forms.alu2 (op (.v 62) (.v 63) (.v 0) (.v 0) .s32)) = true ∧
    uniforms (Forms.alu2 (op (.v 62) (.s 5) (.v 0) (.v 0) .s32)) = [5] ∧ (ls.setTok 5).g.sc.tok.getLsbD 5 = true := by decide +kernel
/-- A load port: unbound, at its end, empty, and with a vector fetched. -/
theorem witness_QueuePorts : let s (x : Stream) : State := withGroup (fun g => g.setStream 2 x) ls
    let x : Stream := { defined := true, counts := [64], port := some 3 }
    (Instr.vmov (op (.v 8) (.q 3) (.v 0) (.v 0) .b32)).WellFormed ∧ ls.g.bound 3 false = false ∧ (s x).g.portOf 3 = some (2, x) ∧
      x.total = 64 ∧ x.store = false ∧ (s { x with pos := 64 }).g.portOf 3 = some (2, { x with pos := 64 }) ∧
      (s { x with loadQ := [List.replicate 32 (.val 7)] }).g.portOf 3 = some (2, { x with loadQ := [List.replicate 32 (.val 7)] }) := by
  decide +kernel
/-- A store port: unbound, at its end, full, and with room, where VMOV pushes the elements of the four active lanes (R179). -/
theorem witness_QueuePush : let s (x : Stream) : State := withGroup (fun g => { g.setStream 2 x with em := 0xF }) ls
    let x : Stream := { defined := true, store := true, base := 0x8000, counts := [64], strides := [4], port := some 3 }
    let o := op (.q 3) (.v 8) (.v 0) (.v 0) .b32
    (Instr.vmov o).WellFormed ∧ ls.g.bound 3 true = false ∧ (s x).g.portOf 3 = some (2, x) ∧ x.total = 64 ∧
      (s { x with pos := 64 }).g.portOf 3 = some (2, { x with pos := 64 }) ∧ (s x).g.replay = none ∧
      ((s x).g.haz.at false).conflict (Forms.alu1 o) = false ∧ (s x).g.badLanes ((s x).g.active o.h) .el false o.va = [] ∧
      nextAnd (exec (.vmov o) (s x)) (fun t => (t.g.pushes.map fun p => (p.port, p.elems.length)) == [(3, 4)] &&
        t.g.stream 2 == { x with pos := 32 } && t.engineQ == [.storeEngineWrite ls.g.gid 3]) = true ∧
      nextAnd (exec (.vmov o) (withGroup (fun g => { g with pushes := List.replicate 8 ⟨3, []⟩ }) (s x)))
        (fun t => t.g.lStall == some .queueFull) = true := by decide +kernel
/-- Loops at both ends of their body length, whose last word is ENDL, and one that is open. -/
theorem witness_Loops : let s (n : Nat) : State := withMem [(0x200000 + 12 * (n + 1), 12, 0x1C8000000000000000000000)] ls
    okAnd (laneWordAt (s 1) 2) isEndl ∧ okAnd (laneWordAt (s 254) 255) isEndl ∧ ls.g.lane.frames = [] ∧ 0 < ls.g.predsz ∧
      anyLane ls.g 0 = true ∧ anyLane ls.g 1 = false := by decide +kernel
/-- Addresses of four active lanes from 0x8000, for loads, stores, atomics and contributions. -/
def lanes4 (base : Nat) (ws : List (Nat × Nat × Nat)) : State := withMem ws (withGroup (fun g => { g with
  em := 0xF, vreg := (List.range 4).map fun l => (64 + l, BitVec.ofNat 32 (4 * l)), lane := { active := some { lpc := 0, snap := [(4, BitVec.ofNat 64 base)] } } }) gs)
def at8000 : State := lanes4 0x8000 []
def mem4 : LMem := ⟨hp, .v 8, .v 2, .s 4, .v 0, .b32, false, false, false, .word, true⟩
theorem witness_LaneMemory : LaneReady (Forms.vld mem4) false at8000 ∧ LaneReady (Forms.vst { mem4 with vd := .v 0, vc := .v 9 }) false at8000 ∧
    okAnd (laneLocs (laneStart false at8000) (laneAddrs true (laneIn (Forms.vld mem4) at8000)) 4 .load (.laneLoad false)) (fun ls =>
      ls.map (fun y => (y.lane, y.loc.key)) == [(0, 0x8000), (1, 0x8004), (2, 0x8008), (3, 0x800C)] && ls.all fun y => !isRemote y.loc.key) ∧
    okAnd (laneLocs (laneStart false at8000) (laneAddrs true (laneIn (Forms.vst { mem4 with vc := .v 9 }) at8000)) 4 .store (.laneStore false))
      (fun ls => ls.length == 4 && ls.all fun y => !at8000.stages y.loc) ∧ at8000.g.replay = none ∧ at8000.poison = [] ∧
    at8000.gteam.staged = [] := ⟨ready_of (by decide +kernel), ready_of (by decide +kernel), by decide +kernel⟩
theorem witness_LaneAtomics : let m : LAtom := ⟨hp, .v 8, .v 2, .s 4, .v 9, .n32, true, .add, .rlx, .dev⟩
    LaneReady (Forms.vatom m) false at8000 ∧ InOrder at8000 .sys ∧ InOrder at8000 .team ∧
    okAnd (laneLocs (laneStart false at8000) (laneAddrs true (laneIn (Forms.vatom m) at8000)) 4 .atomic .atomic) (fun ls => ls.length == 4) :=
  ⟨ready_of (by decide +kernel), by decide +kernel, by decide +kernel, by decide +kernel⟩
/-- A page of gradients (G) at 1 GiB. -/
theorem witness_Contributions : let s := lanes4 0x40000000 [(0x5008, 8, leafAll - 8 + 2 ^ 57)]
    okAnd (laneLocs (laneStart false s) (laneAddrs true (laneIn (Forms.vst { mem4 with vd := .v 0, vc := .v 9 }) s)) 4 .store .gradAdd)
      (fun ls => ls.length == 4) := by decide +kernel
theorem witness_Fences : LaneReady { h := hp, lat := .none } false ls ∧ Released ls .sys := ⟨ready_of (by decide +kernel), by decide +kernel⟩
/-- Two interior cells of the bound grid, at step 0; its pages carry H. -/
theorem witness_GridCells :
    let gr : Grid := ⟨0, 0, 0x8000, { gridD with owners := [⟨0x40009000, 0, 0, 0⟩] }, [1], []⟩
    let b : State := lanes4 0 [(0x5008, 8, leafAll - 8 + 2 ^ 55)]
    let s : State := { b with g := { b.g with em := 3, grids := [(0, ⟨0x8000, 1⟩)] }, grids := [gr] }
    let m : LGrid := ⟨hp, .v 8, .v 2, .zero, .zero, .b32, 0, 4⟩
    readyB (Forms.gld m) false s = true ∧ readyB (Forms.gst { m with vd := .v 9 }) false s = true ∧
      okAnd (gridCells (laneStart false s) m (laneIn (Forms.gld m) s)) (fun x => x.2.2.map (·.1) == [0, 1] &&
        x.2.2.all (fun c => current x.1 (x.1.partOf x.2.1) c.2 0 && (match gstCase s x.1 (x.1.partOf x.2.1) c.2 0 with | .write => true | _ => false)) &&
        okAnd (gridLocs (laneStart false s) x.1 x.2.1 0 .load x.2.2) fun ls => ls.length == 2) ∧
      okAnd (stepTag (laneStart false s) 4) (fun k => k == 0) := by decide +kernel
/-- A group of 512 registers with scratch for a product's A rows and a tile of e8 elements that is its own. -/
def mxs (t : List Tile) : State :=
  let u : State := lanes4 0xF0000000000000 []
  let v := withTeam (fun t => { t with scrsz := 0x10000 }) { u with g := { u.g with em := BitVec.allOnes 32, winsz := 512 } }
  v.setCore 0 { v.core 0 with tiles := t, lastWidth := [(2, 8)] }
def mx3 : LMx := ⟨hp, .v 256, .s 4, .zero, .v 0, 3, 3, false, 2, 0, 0⟩
theorem witness_MatrixProducts : let s := mxs [⟨2, 8, 3, 1, []⟩]
    readyB (Forms.mxMma mx3) false s = true ∧ readyB (Forms.mxLdb { mx3 with vd := .v 0, af := 0 }) false s = true ∧
      readyB (Forms.mxZero { mx3 with va := .v 0, vb := .v 0, af := 0, bf := 0, d := 0 }) false s = true ∧ s.g.parkMask = 0 ∧
      okAnd (mxSource (laneStart false s) (laneIn (Forms.mxMma mx3) s) mx3 3 64 96 false)
        (fun q => q.kind == 3 && okAnd (mxTile (laneStart false s) mx3 q.kind) fun _ => okAnd (mxArrive (laneStart false s) q) fun _ => true) ∧
      okAnd (mxSource (laneStart false s) (laneIn (Forms.mxLdb mx3) s) mx3 3 96 128 true)
        (fun q => Forms.desigOk q.kind 2 && okAnd (mxArrive (laneStart false s) q) fun _ => true) := by decide +kernel
/-- The west side of a pair on two cores, its partner not there, there, and given up. -/
theorem witness_PairedProducts :
    let b (t : List PairWait) (k : List PairWait) : State := { mxs [⟨2, 8, 3, 1, []⟩] with clusters := [{ cid := 1, launch := 1, w := 2 }], pairs := t, pairMarks := k }
    let east : PairWait := ⟨0, false, 0, 2, { mx3 with af := 0 }⟩
    let far (s : State) : State :=
      let u : State := { s with others := [{ s.g with gid := 2, team := 2 }], teams := s.teams ++ [{ tid := 2, launch := 1, cluster := 1, k := 1, core := 1 }] }
      u.setCore 1 { s.core 0 with tiles := [⟨2, 8, 3, 2, []⟩] }
    (Spec.pairSide (.mxPairW mx3)).isSome = true ∧ (b [] []).g.live = true ∧
      okAnd (pairPrep true mx3 (b [] [])) (fun own => own.kind == 3) ∧ pairCore (b [] []) true = some 0 ∧
      (b [] []).pairs.find? (fun p => p.core == 0 && p.west == false) = none ∧
      (b [] [{ east with west := true }]).pairMarks.find? (fun p => p.core == 0 && p.west == true) = some { east with west := true } ∧
      ((((far (b [east] [])).unpair 1).unpair 2).focus 2).any (fun o => okAnd (pairPrep false east.m o) fun f => f.tile.kind == 3) := by
  decide +kernel
/-- TEX of a texture of one texel: each lane has values or parks, and the lane queue of 32 slots has room. -/
theorem witness_Rendering : let s : State := lanes4 0x8000 [(0x1022, 1, 5), (0x8000, 8, 0xA000), (0x8010, 2, 1), (0x8012, 2, 1), (0x8014, 1, 1)]
    let r := rn (.v 12) (.v 16) (.s 4) (.v 0)
    (Spec.rendering (.tex r)).isSome = true ∧ readyB (Forms.tex r) false s = true ∧ readyB (Forms.bary (rn (.v 10) (.v 20) (.v 30) (.v 0))) false s = true ∧
      32 ≤ lfqRoom (s.readBlock s.gdom) s.gteam.core ∧
      okAnd (texDesc false (laneIn (Forms.tex r) s) (laneStart false s)) (fun b =>
        decide (32 ≤ lfqRoom (b.2.metCore.readBlock b.2.gdom) b.2.gteam.core) && [0, 1, 2, 3].all fun l =>
        match texLane r (laneStart false s) l ((laneIn (Forms.tex r) s).a l, (laneIn (Forms.tex r) s).b l, (laneIn (Forms.tex r) s).c l) b.1 none with
        | .ok w => w.adds.isEmpty
        | .error (.park _ _) => true
        | _ => false) := by decide +kernel
/-- A fragment's group and a kernel's; a parked lane; a depth that is a NaN and one that is not. -/
theorem witness_Fragments : let r := rn (.v 0) (.v 0) (.v 0) (.v 0)
    readyB (Forms.bare r) false at8000 = true ∧ readyB (Forms.bare r) true at8000 = true ∧ at8000.g.prog = .kernel ∧
      32 ≤ lfqRoom ((lanes4 0x8000 [(0x1022, 1, 5)]).readBlock 0) 0 ∧
      (withGroup (fun g => { g with prog := .coverage 1 false }) at8000).g.prog = .coverage 1 false ∧ (at8000.launch? 1).isSome = true ∧
      readyB (Forms.vdepth (rn (.v 0) (.v 2) (.v 0) (.v 0)) 3) false at8000 = true ∧ (at8000.g.active hp).getLsbD 0 = true ∧
      f32.decode false (Spec.word at8000 (.v 2) 0).toNat ≠ .nan ∧
      f32.decode false (Spec.word (withGroup (fun g => { g with vreg := [(64, 0x7FC00000)] }) at8000) (.v 2) 0).toNat = .nan := by
  decide +kernel
/-- A tape with room, and one that holds the record of one value of lane 0 (R270's second record alone). -/
theorem witness_TapeRecords : let r := rn (.v 9) (.v 5) (.v 0) (.v 0)
    let s (t : Tape) : State := withTeam (fun x => { x with tapesz := 256 }) (withGroup (fun g => { g with tape := t }) at8000)
    let held : Tape := { opened := true, wpos := 4, top := some 0, words := [(0, 1), (1, 0x8020), (3, 0x40400000)], hdrs := [] }
    readyB (Forms.tapePush { r with vd := .v 0 } 0) false (s {}) = true ∧ readyB (Forms.tapePop { r with va := .v 0 } 0) false (s {}) = true ∧
      okAnd (tapeAppend (laneStart false (s { opened := true })) 1 [1] (recordWords [7])) (fun _ => true) ∧
      needsRecompute held 0 = none ∧ held.resLo = 0 ∧ (SMap.get 0 held.words 1).toNat % 8 = 0 ∧
      (recordWords [0x40400000]) = [0, 0x40400000] := by decide +kernel

/-! ### Witnesses: engines, launches and pre-emption -/

/-- Group 1 in focus awaiting work number 9 of a kind in register 8. -/
def jobState (k : JobKind) (reqs : List FabReq) : State :=
  { gs.setTok 8 with jobs := [⟨9, 1, 0, 0, 1, 8, k, 5, none⟩], fabric := { gs.fabric with reqs := reqs } }
def req9 (job : Option Nat) (gid : Option Nat) : FabReq := { tag := 3, dst := 1, bytes := 64, job := job, gid := gid }
def coll9 (code : Nat) (fin : Bool) : Coll := ⟨0, 2, 0, 0, 0, 0, 0, 0, [0], 0, [], [0x9000, 0x9004], [], code, fin, false⟩
theorem witness_WorkEnds : (jobState .copy []).job? 8 = none ∧ (jobState .copy []).jobWaits 9 = false ∧
    (jobState .copy [req9 (some 9) none]).jobWaits 9 = true ∧ ((jobState (.xfer 0 64 0) []).job? 9).isSome = true ∧
    ((jobState (.xfer 1 0 0) []).job? 9).isSome = true ∧ ((jobState (.coll (coll9 0 true)) []).job? 9).isSome = true ∧
    ((jobState (.coll (coll9 6 true)) []).job? 9).isSome = true ∧ (coll9 0 false).finished = false ∧
    ((jobState (.seal (some [(0x9000, 512)])) []).job? 9).isSome = true ∧ Spec.own (jobState .copy []) 1 := by
  refine ⟨?_, ?_, ?_, ?_, ?_, ?_, ?_, ?_, ?_, ?_, ?_⟩ <;> decide +kernel
/-- A load stream on port 3 with room and its turn, and without; a push; a held pop, a trapped lane in its core's window, and a delivery of
step 0. -/
theorem witness_Engines : let x : Stream := { defined := true, base := 0x9000, counts := [64], strides := [4], port := some 3 }
    let s (x : Stream) : State := withGroup (fun g => g.setStream 2 x) gs
    let p := withGroup (fun g => { g with pushes := [⟨3, [{ loc := { key := 0x9000 }, w := 7 }]⟩] }) gs
    let two : State := { s x with g := { (s x).g with streams := [(2, x), (5, { x with port := some 1 })] }, engineQ := [.streamPrefetch 1 1] }
    let gr : Grid := ⟨0, 0, 0x8000, { gridD with owners := [⟨0x9000, 0, 0, 0⟩] }, [1], [{ part := 0 }]⟩
    let dv (step : Nat) : Delivery := { id := 9, dom := 0, asn := 0, desc := 0x8000, src := 0, dst := 0, step := step, cells := [] }
    let h := withGroup (fun g => { g with tape := { opened := true, held := true, segs := [⟨0, 5, true, 0, none⟩] } }) gs
    Spec.own gs 1 ∧ (s x).g.portOf 3 = some (2, x) ∧ x.room = true ∧ { x with pos := 64 }.room = false ∧ earlierPort (s x) 3 = false ∧
      earlierPort two 3 = true ∧ ((fetchVec (s x) x 32 0).2).isSome = true ∧
      p.g.pushes = [⟨3, [{ loc := { key := 0x9000 }, w := 7 }]⟩] ∧ (p.put { key := 0x9000 } 0x9000 4 7).toOption.isSome = true ∧
      h.g.tape.held = true ∧ h.g.tape.recomp = false ∧ h.g.tape.segs.getLast?.isSome = true ∧
      ((gs.setCore 0 { gs.core 0 with fpWin := [⟨1, 0, 2, 4, 1, 7, 0⟩] }).core gs.gteam.core).fpWin = [⟨1, 0, 2, 4, 1, 7, 0⟩] ∧
      fpEligible gs 0 gs.g = true ∧ ({ gs with grids := [gr], deliveries := [dv 0] } : State).grid? 0 0 0x8000 = some gr ∧
      deliverable { gs with grids := [gr], deliveries := [dv 0] } gr (dv 0) = true ∧
      deliverable { gs with grids := [gr], deliveries := [dv 2] } gr (dv 2) = false := by
  refine ⟨?_, ?_, ?_, ?_, ?_, ?_, ?_, ?_, ?_, ?_, ?_, ?_, ?_, ?_, ?_, ?_, ?_⟩ <;> decide +kernel
/-- Waits of each kind, a session with a limit, and a request older than 1 ms and one as old as that less a count. -/
theorem witness_Limits : let s (w : Option Stall) : State := withGroup (fun g => { g with lStall := w, tryWait := true }) gs
    let m : State := { withGroup (fun g => { g with replay := some ⟨0x8000, true, 0, 0, 0, []⟩, sStall := some .stile }) gs with
      sessions := [⟨0, 0, false, 0x8000, sessBytes, 0, true, [0]⟩] }
    gs.focus 7 = none ∧ (s none).g.tryWait = true ∧ gs.g.tryWait = false ∧
      ({ gs with pairs := [⟨0, true, 0, 1, mx3⟩] } : State).pairs.find? (fun p => p.gid == 1) = some ⟨0, true, 0, 1, mx3⟩ ∧
      (s (some .staleHalo)).g.lStall = some .staleHalo ∧ (m.member?.any fun x => sessField m x 28 4 != 0) = true ∧
      ({ gs with clock := 1250000 } : State).clock ≥ (req9 none (some 1)).sent + 1250000 ∧ (1249999 : Nat) < (req9 none (some 1)).sent + 1250000 := by
  decide +kernel
/-- Queue 0 of four slots at 0x9000: empty, with a record, full and not enabled. -/
def qs (en : Bool) (head tail free : Nat) : State :=
  gs.setQueue 0 { owner := 0, en := en, log2 := 2, base := 0x9000, head := head, tail := tail, free := free }
theorem witness_Launching : (List.replicate 128 (0 : Byte)).length = 128 ∧ ((qs true 0 0 4).queue 0).en = true ∧ ((qs true 0 0 4).queue 0).owner ≠ 15 ∧
    ((qs false 0 0 4).queue 0).en = false ∧ ((qs true 0 4 0).queue 0).free = 0 ∧ headOf (qs true 0 0 4) (.queue 0) = .empty ∧
    (match headOf (qs true 0 1 3) (.queue 0) with | .ready .. => true | _ => false) = true ∧
    headOf ((qs true 0 1 3).setQueue 0 { (qs true 0 1 3).queue 0 with stop := true }) (.queue 0) = .waits ∧
    headOf gs (.edge 0 0 0x80000000) = .lost ∧ (qs true 0 1 3).launches.length < 1024 ∧
    (qs true 0 1 3).poison = [] ∧ gs.placing = none ∧ launchDone gs (gs.launch 1) = false ∧
    launchDone { gs with teams := [], launches := [{ num := 1, exits := 1 }] } { num := 1, exits := 1 } = true ∧
    (gs.team? 1).isSome = true ∧ (withGroup (fun g => { g with ageL := 4096 }) gs).g.ageL = 4096 := by decide +kernel
/-- A record of one group at the head of queue 0. -/
def recordBytes : List Byte :=
  leBytes 8 0x100000 ++ leBytes 8 0x200000 ++ leBytes 4 1 ++ leBytes 4 1 ++ leBytes 4 1 ++ leBytes 2 64 ++ leBytes 1 16 ++ leBytes 1 1 ++ leBytes 96 0
theorem witness_LaunchRecord : (launchRec (wordAt gs 0 0 none) 1 recordBytes).isSome = true := by decide +kernel
/-- A launch of one team that may be placed on a free core of its domain. -/
theorem witness_Placing : let l : Launch := { num := 1 }
    let s : State := State.setCore { State.reset with launches := [l] } 0 { owner := 0 }
    let c : Cluster := { cid := s.nextId, launch := 1, w := 1, h := 1, die := 0, x0 := 0, y0 := 0, chans := [] }
    s.launch? 1 = some l ∧ mayPlace (reserve s) l = true ∧ c.inDie = true ∧ openTo (reserve s) l (c.coreOf 0) = true ∧
      ((reserve s).core (c.coreOf 0)).owner = l.dom ∧ fits (reserve s) (c.coreOf 0) (l.need 0 0) = true := by decide +kernel
/-- A saved team, whose save is and is not complete, with its area: STATE 1, 2, and a group of it elsewhere; a deterministic launch whose
ticket holder's gang is saved as well; a gang with an area and without one; a cluster. -/
theorem witness_Saving : let sv (done : Bool) : SavedTeam := ⟨0x10000, 1, 1, [], [], [], none, [], done⟩
    let s (st : Nat) (done : Bool) : State := withMem [(0x10000, 4, 0x20001), (0x10004, 4, st), (0x10000 + 2632, 2, 64), (0x10000 + 2634, 1, 16),
      (0x10000 + 2635, 1, 1), (0x10000 + 2652, 4, 1)] (State.setCore { gs with saved := [sv done] } 0 { owner := 0 })
    let d : State := { s 2 true with
      launches := [{ num := 1, rcd := { det := true }, ticket := 5 }]
      teams := (s 2 true).teams ++ [{ tid := 7, launch := 1, cluster := 9, teamlin := 5 }]
      saved := [sv true, ⟨0x40000, 7, 9, [], [], [], none, [], true⟩] }
    gangAreas gs 1 [(0, 0x10000)] = true ∧ gangAreas gs 1 [] = false ∧ gs.g.live = true ∧ (gs.team gs.g.team).cluster = 1 ∧
      gs.clusters.any (fun c => c.cid == 1) = true ∧
      savedAt (s 1 false) 0x10000 = some (sv false) ∧ savedAt gs 0x10000 = none ∧ (sv false).groups = [] ∧ (s 1 false).jobs = [] ∧ (s 1 false).poison = [] ∧
      ((jobState .copy []).jobs.map fun j => { j with area := some (0x10000, 0) }).any (fun j => j.area.map (·.1) == some 0x10000) = true ∧
      teamAt gs 0x10000 = none ∧ (teamAt (s 2 true) 0x10000).isSome = true ∧ holderSaved (s 2 true) ((s 2 true).launch 1) = none ∧
      holderSaved d (d.launch 1) = some 9 ∧ (restoreTeam (s 1 true) 0x10000 0).isNone = true ∧
      (restoreTeam (s 2 true) 0x10000 0).any (fun r => !r.1.getLsbD 63) = true ∧
      (restoreTeam (s 2 true) 0x10000 192).any (fun r => r.1.getLsbD 63) = true ∧ ((s 2 true).launch 1).rcd.det = false := by
  refine ⟨?_, ?_, ?_, ?_, ?_, ?_, ?_, ?_, ?_, ?_, ?_, ?_, ?_, ?_, ?_, ?_, ?_, ?_, ?_⟩ <;> decide +kernel
/-- A suspended group, a parked lane, and a stopped group, before and after the answer is written. -/
theorem witness_Answers : let sus (d : Nat) : State := (fun u => withMem [(syscallSlot u u.gdom 1 + 3080, 8, d)] u) (withGroup (fun g => { g with phase := .suspended 1 5 true 3 1 }) gs)
    let op := ParkOp.tex (rn (.v 12) (.v 16) (.s 4) (.v 0))
    let rec_ : ParkRec := ⟨2, 0, 1, op, 4, (0, 0, 0), [], [], 0⟩
    let park (d disp : Nat) : State := (fun u => withMem [(lfqSlot u 0 1 + 56, 8, d), (lfqSlot u 0 1 + 48, 4, disp), (lfqSlot u 0 1 + 52, 4, 4)] u)
        ((withGroup (fun g => { g with parked := [rec_] }) gs).setCore 0 { gs.core 0 with owner := 0, lfLive := [⟨1, 1, 2⟩] })
    let stop (d disp : Nat) (tr : Trap) : State := (fun u => withMem [(gfSlot u 0 1 + 96, 8, d), (gfSlot u 0 1 + 88, 4, disp)] u)
        { withGroup (fun g => { g with phase := .stopped (some 1) tr false }) gs with dom0 := { gs.dom0 with gfLive := [⟨1, some 1, none, false⟩] } }
    let at_ (u : State) (o n : Nat) : Nat := u.read (gfSlot u 0 1 + o) n
    (sus 0).read (syscallSlot (sus 0) 0 1 + 3080) 8 = 0 ∧ (sus 1).read (syscallSlot (sus 1) 0 1 + 3080) 8 = 1 ∧
      (sus 1).g.phase = .suspended 1 5 true 3 1 ∧ (park 1 2).g.parked.find? (fun q => q.core == 0 && q.seq == 1) = some rec_ ∧
      (park 1 2).read (lfqSlot (park 1 2) 0 1 + 56) 8 = 1 ∧ (park 0 2).read (lfqSlot (park 0 2) 0 1 + 56) 8 = 0 ∧
      (park 1 2).read (lfqSlot (park 1 2) 0 1 + 52) 4 ≤ op.dest.2 ∧ (park 1 4).read (lfqSlot (park 1 4) 0 1 + 48) 4 = 4 ∧
      at_ (stop 0 1 { code := .misaligned }) 96 8 = 0 ∧ at_ (stop 1 2 { code := .misaligned }) 88 4 = 2 ∧
      at_ (stop 1 1 { code := .brk }) 88 4 = 1 ∧ (stop 1 1 { code := .uncorrectableData, kind := .restart }).g.live = true ∧
      (∀ g ∈ (stop 1 1 { code := .brk }).groups, ∀ t l, g.phase ≠ .stopped none t l) ∧ gs.dom0.gfLive = [] := by
  refine ⟨?_, ?_, ?_, ?_, ?_, ?_, ?_, ?_, ?_, ?_, ?_, ?_, ?_, ?_⟩
  case refine_13 =>
    intro g hg t l h
    simp only [withMem, withGroup, gs, placed, State.reset, State.groups] at hg
    simp at hg
    subst hg
    cases h
  all_goals decide +kernel
/-- A pass of no primitive: not started, between primitives, at its end, over, and one whose status record has no page. -/
theorem witness_Passes : let desc (st : Nat) : List Byte := leBytes 96 0 ++ leBytes 8 st ++ leBytes 24 0
    let s (p : Pass) : State := { gs with launches := [{ num := 1, rcd := { pass := true }, pass := p }] }
    let ok : Pass := { started := true, desc := desc 0x9000, vbd := leBytes 32 0 }
    let bad : Pass := { started := true, desc := desc 0x80000000, code := 4 }
    let prim : Pass := { ok with desc := leBytes 16 0 ++ leBytes 8 0x80000000 ++ leBytes 4 1 ++ leBytes 100 0 }
    ((s ok).launch? 1).isSome = true ∧ (gs.launch 1).rcd.pass = false ∧ okAnd (passStep (s ok) ((s ok).launch 1)) (fun _ => true) = true ∧
      okAnd (passFinish (s { ok with code := 4 }) ((s { ok with code := 4 }).launch 1)) (fun _ => true) = true ∧
      (match passFinish (s bad) ((s bad).launch 1) with | .error (.fault _) => true | _ => false) = true ∧
      (passFaultNow (s bad) ((s bad).launch 1)).isSome = true ∧ (passFaultNow (s ok) ((s ok).launch 1)).isNone = true ∧
      gfFull ((s bad).readBlock 0) 0 = false ∧
      gfFull { (s bad).readBlock 0 with dom0 := { ((s bad).readBlock 0).dom0 with gfLive := [⟨1, none, some 1, false⟩] } } 0 = true ∧
      (match passStep (s prim) ((s prim).launch 1) with | .error (.fault _) => true | _ => false) = true := by
  refine ⟨?_, ?_, ?_, ?_, ?_, ?_, ?_, ?_, ?_, ?_⟩ <;> decide +kernel

/-! ### Witnesses: the fabric, the host, repair and start -/

/-- A packet of a type for 4 bytes at 0x8000 of unit 0, whose key is 7. -/
def pkt (type flags : Nat) : Packet :=
  ⟨BitVec.ofNat 8 type, BitVec.ofNat 8 flags, 1, 0, 3, 4, 7, 2, 0, 0x8000, 5, 0, true, [1, 0, 0, 0]⟩
def fs : State := { gs with units := [(0, 0)], fabric := { gs.fabric with keys := [(0, 7)] } }
theorem witness_Packets : packetBad (pkt 0 0) = true ∧ packetBad (pkt 1 8) = true ∧ packetBad (pkt 9 0) = true ∧ Spec.good (pkt 1 0) 1 ∧
    Spec.good (pkt 2 0) 2 ∧ Spec.good (pkt 3 4) 3 ∧ Spec.good (pkt 8 0) 8 ∧ fabOpOf (pkt 3 4).op = some 0 ∧ (0 ≠ gradIndex) ∧ fs.sessions = [] ∧
    admitStatus fs (pkt 1 0) 0x8000 4 = 0 ∧ admitStatus gs (pkt 1 0) 0x8000 4 = 1 ∧ admitStatus fs (pkt 1 0) 0xC000000000 4 = 2 ∧
    poisoned fs 0x8000 8 = false ∧ (let p : Packet := { pkt 4 0 with len := 1 }; reachStatus fs p (packetReach p)) = 0 ∧ Spec.good { pkt 6 0 with aux := 0 } 6 := by
  refine ⟨?_, ?_, ?_, ?_, ?_, ?_, ?_, ?_, ?_, ?_, ?_, ?_, ?_, ?_, ?_, ?_⟩ <;> decide +kernel
/-- Every operation has its own OP byte, from which the target reads it; 0 and 1 name none. -/
theorem witness_FabricOps : fabOpOf 0 = none ∧ fabOpOf 1 = none ∧ ∀ i, i < 14 → fabOpOf (fabCode i) = some i := by
  have v (i : Nat) : (fabCode i).toNat = if i < 5 then i + 2 else 7 + (Config.opBase + i) % 249 := by
    unfold fabCode
    split <;> simp <;> omega
  have no (c : BitVec 8) (h : c.toNat < 2) : fabOpOf c = none := by
    simp only [fabOpOf, List.find?_eq_none, List.mem_range, beq_iff_eq]
    intro i _ e
    have := v i
    rw [e] at this
    split at this <;> omega
  refine ⟨no 0 (by decide), no 1 (by decide), fun i hi => ?_⟩
  simp only [fabOpOf, List.find?_range_eq_some, beq_self_eq_true, List.mem_range, hi, Bool.not_eq_true', beq_eq_false_iff_ne, true_and]
  intro j hj e
  have e := congrArg BitVec.toNat e
  rw [v, v] at e
  split at e <;> split at e <;> omega
theorem witness_Responses : let s : State := { gs with fabric := { gs.fabric with reqs := [req9 none (some 1)] } }
    packetBad (pkt 0x81 0) = false ∧ 128 ≤ (pkt 0x81 0).type.toNat ∧
      s.fabric.reqs.find? (fun r => r.tag == (pkt 0x81 0).tag.toNat && r.dst == (pkt 0x81 0).src.toNat) = some (req9 none (some 1)) ∧
      gs.fabric.reqs = [] ∧ gs.priv.fabctl.getLsbD 0 = true ∧
      ({ gs with priv := { gs.priv with fabctl := 0 } } : State).priv.fabctl.getLsbD 0 = false ∧ 71 ∉ gs.fabric.planesDown := by decide +kernel
theorem witness_HostAccesses :
    ({ fs with start := { fs.start with step := 10 } } : State).isReady = true ∧ fs.isReady = false ∧
    bar2Ok ({ fs with start := { fs.start with step := 10 } } : State) 0 0x8000 4 = true ∧ bar2Ok fs 0 0x8000 4 = true ∧ bar2Ok gs 0 0x8000 4 = false ∧ bar2Ok fs 0 0x3FFFFFFE 4 = false ∧
    poisoned fs 0x8000 4 = false ∧ (4096 : DWord).toNat % 2 ^ 13 ≤ 4096 ∧ gs.remote = [] ∧ isHost hostBase = true ∧
    gs.dom0.attest.status = 0 ∧ 4 ≤ gs.start.step ∧ ({ status := 1, latched := List.replicate 64 0 } : Attest).latched.length = 64 := by decide +kernel
theorem witness_Repair : gs.priv.meshctl.toNat % 4 = 0 ∧ ({ gs with priv := { gs.priv with meshctl := 1 } } : State).priv.meshctl.toNat % 4 ≠ 0 ∧
    gs.priv.scrubctl.getLsbD 32 = true ∧ ({ gs with priv := { gs.priv with scrubctl := 0 } } : State).priv.scrubctl.getLsbD 32 = false ∧
    ({ gs with priv := { gs.priv with errsize := 0 } } : State).priv.errsize = 0 ∧ 0x8000 < capacity gs ∧
    (({ gs with l2 := [{ line := 64, way := 0, cls := 0, dirty := true }] } : State).l2.find? fun y => y.line == 0x8000 / 512).isSome = true ∧ (sectorRecords gs.start.sector).length < 510 := by
  decide +kernel
/-- Values at the edges of the rules: a queue's order 12 and 13, a pin of all it may be and of more, quotas at 24 and past it. -/
theorem witness_PrivilegedWrites : ps.party = .policy 0 ∧ ps.groups = [] ∧ ps.priv.ssctl.getLsbD 16 = false ∧ (ps.queue ps.priv.qsel.toNat).en = false ∧
    (0x800C0000 : DWord).toNat / 2 ^ 16 % 16 = 12 ∧ (0x800D0000 : DWord).toNat / 2 ^ 16 % 16 = 13 ∧ (0x800C0000 : DWord).getLsbD 31 = true ∧
    (qs true 0 0 4).priv.qsel = 0 ∧ sramUsed ps 0 = 0 ∧ (0x180000 : Nat) ≤ Config.sramBytes ∧ (0x190000 : DWord).toNat % 65536 = 0 ∧
    minSum ps.priv.l2q 0x1800 ≤ waysLeft ps false (SMap.set 0 ps.priv.l2pq 0 24) ∧
    minSum (SMap.set 0x1800 ps.priv.l2q 1 (keep 0x1800 8 5 ||| keep 0x1800 0 5)) 0x1800 ≤ waysLeft ps false ps.priv.l2pq ∧
    (0x0102 : DWord).toNat / 256 % 32 < (0x0102 : DWord).toNat % 32 ∧ ps.priv.sssize = 0 ∧ (0x10001 : DWord).getLsbD 16 = true ∧
    okAnd (privWrite ps 0 0x803 0x1003) (fun _ => true) = true ∧
    (match privWrite ps 0 0x8FF 0 with | .error (.trap _) => true | _ => false) = true := by decide +kernel
theorem witness_Start : ps.start.on = true ∧ ps.start.step = 9 ∧
    warming ps = false ∧ warming (started ps soundEnv true 1) = true ∧
    (ps.pol 1).wdt = none ∧ (({ ps with pol1 := { ps.pol1 with wdt := some 5 } } : State).pol 1).wdt.isSome = true ∧ ps.pol0.ie = false ∧
    ps.priv.irqpend = 0 ∧ ({ soundEnv with romOk := false } : StartEnv).fusesOk = true ∧ ps.priv.ssctl.getLsbD 16 = false ∧
    ({ ps with priv := { ps.priv with ssctl := 0x10001 } } : State).priv.ssctl.getLsbD 16 = true ∧ ps.sampAt ≤ ps.clock ∧ ps.clock < 1 := by decide +kernel

/-! ### Witnesses: encodings, steps and memory -/

theorem witness_Encodings : (Instr.sadd 1 2 3).WellFormed ∧ (Encode.scalar (.sadd 1 2 3)).isSome = true ∧
    (Instr.vadd (op (.v 3) (.v 4) (.s 6) (.v 0) .s32)).WellFormed ∧
    (Encode.lane (.vadd (op (.v 3) (.v 4) (.s 6) (.v 0) .s32))).isSome = true ∧ Decode.scalar 0x74000003 = .ok .exit ∧
    (Decode.lane 0x1D0000000000000000000000).toOption.isSome = true := by decide +kernel
/-- One state for each clause: words that decode, that do not, that cannot be fetched; a lane run; a group that may not issue; both streams
chosen; a policy core; an event; the outside; no power. -/
theorem witness_Steps : let s (w : Nat) : State := { withMem [(0x100000, 4, w)] gs with plan := [.issue 0], issueQ := [(1, false)] }
    let l : State := { withMem [(0x200000, 12, 0x1D0000000000000000000000)] ls with plan := [.issue 0], issueQ := [(1, true), (1, false)] }
    let p : State := ({ ps with plan := [], pcode := [(0, 0xC0000000)] } : State).enterPolicy 0
    (s 0).start.on = true ∧ (s 0).issueQ[0]? = some (1, false) ∧ ((s 0).issueQ.eraseIdx 0).contains (1, true) = false ∧
      ({ s 0 with issueQ := [] } : State).focus 1 = some { s 0 with issueQ := [] } ∧ can (s 0) (s 0).g false = true ∧ (s 0).g.prog = .kernel ∧
      can (s 0) (s 0).g true = false ∧ okAnd (fetchWord (s 0x74000003) 0x100000) (fun w => w == 0x74000003) = true ∧
      okAnd (fetchWord (s 0) 0x100000) (fun w => w == 0) = true ∧ Decode.scalar 0x54000001 = .error .reservedField ∧
      (match fetchWord (s 0) 0x80000000 with | .error _ => true | .ok _ => false) = true ∧
      (l.issueQ.eraseIdx 0).contains (1, false) = true ∧ faultOf 1 (issuePick (1, true) (l.issueQ.eraseIdx 0) { l with plan := [] }) = none ∧
      can l l.g true = true ∧ okAnd (laneWordAt l 0) (fun w => w == 0x1D0000000000000000000000) = true ∧
      (p.pol 0).halted = false ∧ p.priv.irqpend = 0 ∧ p.pcode.find? (fun x => x.1 == (p.pol 0).sc.pc.toNat) = some ((p.pol 0).sc.pc.toNat, 0xC0000000) ∧
      ps.pcode = [] ∧ gs.plan = [] ∧
      ({ gs with engineQ := [.recompute 1], plan := [.engine 0] } : State).engineQ[0]? = some (.recompute 1) ∧
      (powerOff gs false).start.on = false := by
  refine ⟨?_, ?_, ?_, ?_, ?_, ?_, ?_, ?_, ?_, ?_, ?_, ?_, ?_, ?_, ?_, ?_, ?_, ?_, ?_, ?_, ?_, ?_⟩ <;> decide +kernel
theorem witness_Memory : Memory.wf gs.mem ∧ Memory.wf (Memory.write gs.mem 0x8000 2 0) ∧ poisoned gs 0x8000 8 = false ∧
    nextAnd (step { withMem [(0x100000, 4, 0x74000003)] gs with plan := [.issue 0], issueQ := [(1, false)] }) (fun _ => true) = true := by decide +kernel

/-! ### Values of single steps, from the spec's worked cases -/

/-- The lane state with vector registers of lane 0 set. -/
def lane0 (rs : List (Nat × Nat)) : State := withGroup (fun g => { g with vreg := rs.foldl (fun m r => SMap.set 0 m (32 * r.1) (BitVec.ofNat 32 r.2)) [] }) ls
/-- The lane state with register 4 set in lanes 0.. . -/
def lanes (vs : List Nat) (em : Word) : State :=
  withGroup (fun g => { g with em := em, vreg := vs.zipIdx.foldl (fun m x => SMap.set 0 m (128 + x.2) (BitVec.ofNat 32 x.1)) [] }) ls
def vrIs (k l : Nat) (w : Word) (t : State) : Bool := t.g.vr k l == w

/-- R39: SOW32(1, 0), and counter 2 of R383. -/
theorem test_ssow : nextAnd (exec (.ssow 4 5 6) (withRegs [(5, 1)] gs)) (fun t => t.rdS 4 == 0x3E5A2973) ∧
    nextAnd (exec (.ssow 4 5 6) (withRegs [(5, 2)] gs)) (fun t => t.rdS 4 == 0x039B7081) := by decide +kernel
theorem test_vsow : nextAnd (exec (.vsow { op (.v 8) (.v 4) (.zero) (.v 0) .b32 with x := 0 }) (lane0 [(4, 15)])) (vrIs 8 0 0x95C466EF) = true := by decide +kernel
/-- R82: the least number by −1, and by 0. -/
theorem test_sdiv : nextAnd (exec (.sdiv 4 5 6) (withRegs [(5, 2 ^ 63), (6, 2 ^ 64 - 1)] gs)) (fun t => t.rdS 4 == 2 ^ 63) ∧
    nextAnd (exec (.sdiv 4 5 6) (withRegs [(5, 7)] gs)) (fun t => t.rdS 4 == BitVec.allOnes 64) := by decide +kernel
theorem test_srem : nextAnd (exec (.srem 4 5 6) (withRegs [(5, 2 ^ 63), (6, 2 ^ 64 - 1)] gs)) (fun t => t.rdS 4 == 0) ∧
    nextAnd (exec (.srem 4 5 6) (withRegs [(5, 7)] gs)) (fun t => t.rdS 4 == 7) := by decide +kernel
/-- R89: the loop of SBR goes to the label two words before it. -/
theorem test_sbr : nextAnd (exec (.sbr false 1 (-2)) { gs with g := { gs.g with sc := { gs.g.sc with cond := 3 } } }) (fun t => t.pc == 0xFFFF8) = true := by
  decide +kernel
/-- R92: the lane run adds the value of s5 at the RUN, in lane 3. -/
theorem test_vadd : nextAnd (exec (.vadd (op (.v 8) .lane (.s 5) (.v 0) .s32)) (withGroup (fun g => { g with lane := { active := some { lpc := 0, snap := [(5, 0x11)] } } }) ls))
    (vrIs 8 3 0x14) = true := by decide +kernel
/-- R136: the inclusive and the exclusive scan of 10, 20, 99, 30, 40 with lane 2 inactive. -/
theorem test_vscan : nextAnd (exec (.vscan (op (.v 8) (.v 4) (.v 0) (.v 0) .s32)) (lanes [10, 20, 99, 30, 40] 0x1B)) (fun t =>
      (List.range 5).map (fun l => (t.g.vr 8 l).toNat) == [10, 30, 0, 60, 100]) = true ∧
    nextAnd (exec (.vscan { op (.v 8) (.v 4) (.v 0) (.v 0) .s32 with x := 0x10 }) (lanes [10, 20, 99, 30, 40] 0x1B)) (fun t =>
      (List.range 5).map (fun l => (t.g.vr 8 l).toNat) == [0, 10, 0, 30, 60]) = true := by decide +kernel
/-- R152: the fractional parts of −2^−30, inexact, and of −1.25. -/
theorem test_vffrc : nextAnd (exec (.vffrc (op (.v 8) (.v 4) (.v 0) (.v 0) .f32)) (lane0 [(4, 0xB0800000)])) (vrIs 8 0 0x3F7FFFFF) = true ∧
    nextAnd (exec (.vffrc (op (.v 8) (.v 4) (.v 0) (.v 0) .f32)) (lane0 [(4, 0xBFA00000)])) (vrIs 8 0 0x3F400000) = true := by decide +kernel
/-- R160: LADD of 1 and 1 in the level-index format; R36: LMUL of 2 and 1. -/
theorem test_ladd : nextAnd (exec (.ladd (op (.v 8) (.v 4) (.v 5) (.v 0) .l32)) (lane0 [(4, 0x08000000), (5, 0x08000000)])) (vrIs 8 0 0x0D8B90C0) = true := by
  decide +kernel
theorem test_lmul : nextAnd (exec (.lmul (op (.v 8) (.v 4) (.v 5) (.v 0) .l32)) (lane0 [(4, 0x0D8B90C0), (5, 0x08000000)])) (vrIs 8 0 0x0D8B90C0) = true := by
  decide +kernel
/-- R31, R30: the worked decode of elements 0 and 1. -/
theorem test_q4 : q4Dec 0xB 0x7F 0x40400000 = 0xBEEEE000 ∧ q4Dec 3 0x7F 0x40400000 = 0x3EEEE000 := by decide +kernel
/-- R159: the codes of 0.3, −0.3 and 0.5 under q = 127 and S = 1.0. -/
theorem test_vq4enc : let s (a : Nat) := lane0 [(4, a), (5, 127), (6, 0x3F800000)]
    let i : Instr := .vq4encCode (op (.v 8) (.v 4) (.v 5) (.v 6) .f32)
    nextAnd (exec i (s 0x3E99999A)) (vrIs 8 0 5) = true ∧ nextAnd (exec i (s 0xBE99999A)) (vrIs 8 0 0xD) = true := by decide +kernel
theorem test_q4_scale : (q4Scale 0x3F000000 0x3F800000).1 = 127 ∧ (q4Code 0x3F000000 127 0x3F800000).1 = 7 ∧ q4Dec 7 127 0x3F800000 = 0x3F000000 := by
  decide +kernel
/-- R270: the two worked records. -/
theorem test_tape_records : let s (em : Word) (t : Tape) : State := withTeam (fun x => { x with tapesz := 256 }) (withGroup (fun g => { g with
        em := em, tape := t, vreg := [(128, 0x3F800000), (131, 0xC0000000), (162, 7), (192, 0x40400000)] }) ls)
    nextAnd (exec (.tapePush (rn (.v 0) (.v 4) (.v 0) (.v 0)) 1) (s 0xD { opened := true })) (fun t =>
      ((List.range 6).map fun k => SMap.get 0 t.g.tape.words k) == [0xD, 0x31, 0x26, 0x3F800000, 7, 0xC0000000] && t.g.tape.wpos == 6 &&
      nextAnd (exec (.tapePush (rn (.v 0) (.v 6) (.v 0) (.v 0)) 0) (s 1 t.g.tape)) (fun u =>
        ((List.range 4).map fun k => SMap.get 0 u.g.tape.words (k + 6)) == [1, 0x18020, 0, 0x40400000])) = true := by decide +kernel
/-- R100, R101: BRK and an undefined word stop their group with their codes. -/
theorem test_traps : nextAnd (exec (.brk 5) gs) (fun t => match t.g.phase with | .stopped _ tr _ => tr.code == .brk | _ => false) = true ∧
    nextAnd (exec (.illegalOpcode 0) gs) (fun t => match t.g.phase with | .stopped _ tr _ => tr.code == .illegalOpcode | _ => false) = true := by
  decide +kernel
/-- R298, R299: the five synthesis rules for e0 = 1.0, e1 = 3.0 and CONST = 7.0, at depth 2. -/
theorem test_synthesis : let at2 (rule : Nat) : Nat := gridD.ghost rule 2 0x40E00000 ((faceRefs rule 2).map fun k => [0x3F800000, 0x40400000].getD k 0)
    [1, 2, 3, 4, 5].map at2 = [0x3F800000, 0x40400000, 0xC0400000, 0x40E00000, 0xC0400000] := by decide +kernel
/-- R226: the worked K group: two terms below the truncation, and the sum that ties to even once the last term has gone. -/
theorem test_mx_truncation : let v (l : List Nat) : List XVal := (l ++ List.replicate 92 0).map fun x => f16.decode false x
    mxElem false false 0 (v [0x3C00, 0x0C00, 0x0C00, 0x0010]) (v [0x3C00, 0x0C00, 0x0C00, 0x0010]) = 0x3F800001 ∧
    mxElem false false 0 (v [0x3C00, 0x0C00, 0, 0x0010]) (v [0x3C00, 0x0C00, 0x0C00, 0x0010]) = 0x3F800000 := by decide +kernel
/-- R465: the copy of the lower GEN is written, one above the other. -/
theorem test_repair_sector : sectorAppend [some (4, [1]), some (3, [])] 2 = .sector 1 5 [1, 2] ∧
    sectorRecords [some (4, [1]), some (5, [1, 2])] = [1, 2] ∧ sectorRecords [none, none] = [] := by decide +kernel
/-- R471, R472: a failed signature, an unreadable flash, an SVN below the floor, the safe state, and the fallback image's start, each at step 3. -/
theorem test_start_image : let s (e : StartEnv) (c floor : Nat) : Start :=
      (startStep { ps with env := e, start := { ps.start with step := 3, attempts := c }, priv := { ps.priv with svnfloor := BitVec.ofNat 64 floor } }).start
    (s { soundEnv with primary := some (.found false 0 0) } 2 0).reason = 3 ∧ (s { soundEnv with primary := none } 1 0).reason = 5 ∧
    (s soundEnv 0 1).reason = 4 ∧ (s soundEnv 6 0).safe = true ∧ (s { soundEnv with primary := none } 3 0).step = 4 ∧
    (s { soundEnv with primary := none } 3 0).image = true := by decide +kernel
/-- R199: an operand past its allocation gives code 1 at once, DONE and 0 bytes. -/
theorem test_status_word : statusWord 1 0 = 0x8100000000000000 ∧ statusWord 0 64 = 0x8000000000000040 := by decide +kernel

/-! ### Witnesses: the clauses beside the plain case -/

/-- The second GiB of the address space maps a window: the host's, or a peer package's (R441). -/
def farPage (base : Nat) (s : State) : State := withMem [(0x5008, 8, leafAll + 3 * 2 ^ 53 + base)] s
/-- A collective owns the lines of 0x9000 and 0x9004. -/
def ownedBy (s : State) : State := { s with jobs := [⟨9, 1, 0, 0, 1, 8, .coll (coll9 0 false), 5, none⟩] }
/-- A posted write of group 1 to a peer that has not been acknowledged. -/
def unacked (s : State) : State := { s with fabric := { s.fabric with reqs := [{ req9 none (some 1) with write := true, cells := [(peerBase, 4)] }] } }

/-- A host page takes a store away, a collective's line makes one wait; a release behind an unacknowledged write; the L1 of the core. -/
theorem witness_StoresElsewhere : let s := farPage hostBase gs
    (Spec.stores s (.sst 4 5 .dword 0)).isSome = true ∧
      okAnd (access s 0x40000000 8 .store .plainStore) (fun l => isHost l.key && !s.stages l && !s.owned l.key 8) = true ∧
      okAnd (access (ownedBy gs) 0x9000 8 .store .plainStore)
        (fun l => !isRemote l.key && !(ownedBy gs).stages l && (ownedBy gs).owned l.key 8) = true ∧
      InOrder gs .sys ∧ (unacked gs).party = .group ∧ (unacked gs).fabDone = false ∧ gs.l1 = [] := by decide +kernel
/-- The fault queue in the host window: its record goes to the host. -/
theorem witness_FaultQueueAtTheHost : let s := withMem [(0x1018, 8, hostBase)] gs
    let a := dcbGfqBase (s.readBlock s.gdom) s.gdom
    isHost a = true ∧ isHost (a + 96) = true ∧ poisoned (s.readBlock s.gdom) a 128 = false ∧ (s.dom s.gdom).gfLive = [] := by decide +kernel
/-- A message that holds an error, at the head of the group's channel. -/
theorem witness_ChannelError : let s : State := { gs with clusters := [{ cid := 1, launch := 1, chans := [⟨3, 0, 0, 1, [7], [0], []⟩] }] }
    okAnd (channel s 3 false) (fun x => x.msgs[x.waits.idxOf s.g.gid]? == some 7 && x.bad.contains (x.waits.idxOf s.g.gid)) = true := by decide +kernel
/-- An address past the team's scratch, one in a page that is not pinned SRAM, one without a page, and another team's scratch. -/
theorem witness_WatchFaults : let s := withTeam (fun t => { t with scrsz := 0 }) gs
    let t : State := { s with clusters := [{ cid := 1, launch := 1, w := 2 }]
                              teams := [{ tid := 1, launch := 1, cluster := 1, scrsz := 64 }, { tid := 2, launch := 1, cluster := 1, k := 1, scrsz := 64 }] }
    (match windowLoc s 0xF0000000000000 with | some (.error _) => true | _ => false) = true ∧
      (windowLoc t 0xF1000000200000).any (fun r => okAnd r fun l => (l.key - 2 ^ 60) / 2 ^ 21 != t.gteam.tid) = true ∧
      windowLoc s 0x8000 = none ∧ okAnd (translate s 0x8000 .load) (fun l => l.home != 1) = true ∧ windowLoc s 0x80000000 = none ∧
      (match translate s 0x80000000 .load with | .error _ => true | .ok _ => false) = true := by decide +kernel
/-- A YIELD that has issued and whose request has been withdrawn, with its gang's area. -/
theorem witness_WithdrawnYield :
    let s : State := { gs with g := { gs.g with leave := .yielding }, clusters := [{ cid := 1, launch := 1, areas := [(0, 0x10000)] }] }
    s.g.yieldReq = false ∧ s.g.leave = .yielding ∧ Drained s ∧ yieldArea s s.gteam = some 0x10000 ∧ s.poison = [] := by decide +kernel
/-- A group that a CTX.SAVE must wait for: its lane stream awaits a read that has been sent. An image with a poisoned section, and a sound
one. -/
theorem witness_SaveWaits : let s : State := { (withGroup (fun g => { g with lStall := some .pcie, leave := .forcing }) gs) with
      remote := [{ gid := 1, ch := 1, pa := hostBase, size := 4 }] }
    let a : State := { (withMem [(0x10000, 4, 0x20001), (0x10004, 4, 2), (0x10000 + 2632, 2, 64), (0x10000 + 2634, 1, 16), (0x10000 + 2635, 1, 1),
      (0x10000 + 2652, 4, 1)] gs) with saved := [⟨0x10000, 1, 1, [], [], [], none, [], true⟩], poison := [0x10000] }
    (∃ x ∈ teamGroups (settleForced s [s.g]) 1, x.left = false) ∧ (imageFlaw a 0x10000).isSome = true ∧ imageFlaw { a with poison := [] } 0x10000 = none := by
  decide +kernel
/-- A shuffle of a vector and of a port's vector whose lane 1 is inactive: it reads every lane. -/
theorem witness_Shuffles : let o := op (.v 8) (.v 4) (.v 5) (.v 0) .b32
    let x : Stream := { defined := true, counts := [64], port := some 3, loadQ := [List.replicate 32 (.val 7)] }
    let s : State := withGroup (fun g => { g.setStream 2 x with em := 1, vreg := [(160, 1)] }) ls
    let q : LOp := { o with va := .q 3 }
    LaneReady (Forms.vshfl o) false ls ∧ (Forms.vshfl o).every = true ∧ (Instr.vmov { q with vb := .v 0 }).WellFormed ∧
      s.g.portOf 3 = some (2, x) ∧ x.pos < x.total ∧ (s.g.haz.at false).conflict (Forms.vshfl q) = false ∧
      s.g.badLanes (s.g.active q.h) .w32 false q.vb = [] ∧ (s.g.vr 5 0).toNat = 1 ∧ (s.g.active q.h).getLsbD 1 = false ∧
      nextAnd (exec (.vshfl q) s) (fun t => t.g.vr 8 0 == 0) = true := by
  refine ⟨ready_of (by decide +kernel), ?_, ?_, ?_, ?_, ?_, ?_, ?_, ?_, ?_⟩ <;> decide +kernel
/-- Every word of the longest body can be fetched when its loop opens. -/
theorem witness_LoopBodies : (List.range 255).all (fun k => okAnd (fetchLane ls (k + 1)) fun _ => true) = true := by decide +kernel
/-- The lanes' words are owned by no engine, sound, and in no L1 sector. -/
theorem witness_LaneMemoryFree :
    okAnd (laneLocs (laneStart false at8000) (laneAddrs true (laneIn (Forms.vld mem4) at8000)) 4 .load (.laneLoad false)) (fun ls =>
      ls.all fun y => !at8000.owned y.loc.key 4 && !poisoned at8000 y.loc.key 4 && !at8000.stages y.loc &&
        (at8000.sector? at8000.gteam.core y.loc.key).isNone) = true ∧ at8000.g.replay = none := by decide +kernel
/-- VLD.elem of a page whose format is a plain f32 tensor's. -/
theorem witness_ElementLoads : let s := (lanes4 0x40000000 [(0x1010, 8, 0x7000), (0x7020, 8, 0x9), (0x7030, 8, 0x40000000), (0x5008, 8, leafAll - 8 + 2 ^ 58)]).readBlock 0
    let m : LMem := { mem4 with elem := true, ty := .f32, va := .v 2, vb := .s 4 }
    readyB (Forms.vld m) false s = true ∧ okAnd (elemWords (laneStart false s) ((laneIn (Forms.vld m) s).b 0)
      ((lanesOf (laneIn (Forms.vld m) s).act).map fun l => (l, ((laneIn (Forms.vld m) s).a l).toNat % 2 ^ 32)) false) (fun r => r.1.length == 4) = true := by
  decide +kernel
/-- A contribution whose word lies in the host window. -/
theorem witness_HostContribution : let s := lanes4 0x40000000 [(0x5008, 8, leafAll - 8 + 3 * 2 ^ 53 + 2 ^ 57 + hostBase)]
    LaneReady (Forms.vst { mem4 with vd := .v 0, vc := .v 9 }) false s ∧
      okAnd (laneLocs (laneStart false s) (laneAddrs true (laneIn (Forms.vst { mem4 with vd := .v 0, vc := .v 9 }) s)) 4 .store .gradAdd)
        (fun ls => ls.length == 4 && ls.any fun y => isHost y.loc.key) = true := ⟨ready_of (by decide +kernel), by decide +kernel⟩
/-- The accumulator's words are sound. -/
theorem witness_Accumulator : okAnd (accReadable (laneStart false (mxs [⟨2, 8, 3, 1, []⟩])) mx3 fun _ _ => true) (fun _ => true) = true := by
  decide +kernel
/-- A coverage group's fragment in lane 0, and one of it that VDEPTH tests. -/
theorem witness_FragmentHeld : let f : Frag := { id := 1, x := 0, y := 0, prim := 0, mask := 1, zs := [], b1 := 0, b2 := 0, old := 0, gid := some 1 }
    let s : State := { withGroup (fun g => { g with prog := .coverage 1 false }) at8000 with launches := [{ num := 1, pass := { held := [f] } }] }
    (s.launch 1).pass.held.filter (fun x => x.gid == some s.g.gid && x.lane == 0) = [f] ∧ (s.launch? 1).isSome = true := by decide +kernel
/-- A record across a closed span that its CRC does not match, one that it does, and a word with an error. -/
theorem witness_TapeFlaws : let t : Tape := { opened := true, wpos := 32, top := some 28, words := [(28, 1), (29, 0x8020), (31, 7)] }
    let good : Tape := { t with crcs := [(0, spanCrc t 0)] }
    t.crcFails 28 = true ∧ good.crcFails 28 = false ∧ (∃ w ∈ ({ t with bad := [31] } : Tape).bad, 28 ≤ w ∧ w < t.wpos) ∧ t.bad = [] := by decide +kernel

/-! ### Witnesses: engines, launches and passes, beside the plain case -/

/-- A token's collective with places in this package, one with a place in a peer, and one whose results have been written; a write of a group that a peer has not
answered. -/
theorem witness_CollectiveEnds : let c (ks : List Nat) (w : Bool) : JobKind := .coll { coll9 0 true with keys := ks, written := w }
    ((jobState (c [peerBase] false) []).job? 9).isSome = true ∧ isPeer peerBase = true ∧ isRemote 0x9000 = false ∧
      ((jobState (c [0x9000] true) []).job? 9).isSome = true ∧ (jobState (c [peerBase] true) [req9 (some 9) none]).jobWaits 9 = true := by
  refine ⟨?_, ?_, ?_, ?_, ?_⟩ <;> decide +kernel
/-- Two candidates of one ck in a core's window, before and after its 64 ck; a fetch that waits; a push whose line an engine owns. -/
theorem witness_Windows : let cs : List FpCand := [⟨1, 0, 2, 4, 1, 7, 0⟩, ⟨2, 1, 3, 8, 1, 7, 0⟩]
    let w (t : Nat) : State := { gs.setCore 0 { gs.core 0 with fpWin := cs } with clock := t }
    let x : Stream := { defined := true, base := 0x9000, counts := [64], strides := [4], port := some 3 }
    let o : State := ownedBy (withGroup (fun g => g.setStream 2 x) gs)
    (w 63).clock < 0 + 64 ∧ 0 + 64 ≤ (w 64).clock ∧ ((w 64).core 0).fpWin = cs ∧ inFlight (w 64) (w 64).g true = false ∧
      inFlight (w 64) (w 64).g false = false ∧ fpEligible (w 64) 0 (w 64).g = true ∧ (fetchVec o x 32 0).2 = none ∧
      (match (ownedBy gs).put { key := 0x9000 } 0x9000 4 7 with | .error _ => true | .ok _ => false) = true := by
  refine ⟨?_, ?_, ?_, ?_, ?_, ?_, ?_, ?_⟩ <;> decide +kernel
/-- A staged entry of the group that no request holds, and requests given up: a window read's, and a posted store's. -/
theorem witness_GivenUp : let e : Staged := { pa := 0x9000, home := 0, size := 4, data := 7, gid := 1 }
    let s : State := { withTeam (fun t => { t with staged := [e] }) gs with clock := 1250000 }
    let r : FabReq := req9 none (some 1)
    (∃ t ∈ s.teams, ∃ e ∈ t.staged.head?, e.gid = 1) ∧ (∀ t ∈ gs.teams, ∀ e ∈ t.staged.head?, e.gid ≠ 7) ∧ r.sent + 1250000 ≤ s.clock ∧
      ({ s with remote := [{ gid := 1, pa := peerBase, size := 4, tag := 3 }] } : State).remote.any (fun x => isPeer x.pa && !x.isDone && x.tag == r.tag) = true ∧
      s.remote = [] ∧ s.g.owed = none := by decide +kernel
/-- The table of a record with no channel lies nowhere remote; a record whose channel table must be awaited from the host. -/
theorem witness_TakenRecords : let s := qs true 0 1 3
    let h := farPage hostBase s
    let far : List Byte := (recordBytes.take 48) ++ leBytes 8 0x40000000 ++ leBytes 1 1 ++ leBytes 71 0
    (match s.look (2 ^ 65 + s.nextLaunch) (tableCells s 0 0 recordBytes) with | .ok (_, some _) => true | _ => false) = true ∧
      (match h.look (2 ^ 65 + h.nextLaunch) (tableCells h 0 0 far) with | .error _ => true | _ => false) = true := by decide +kernel
/-- A launch that has ended, with its completion record in memory, without a page, and at the host. -/
theorem witness_Completions : let l (c : DWord) : Launch := { num := 1, exits := 1, rcd := { compl := c, cval := 5 } }
    let s (c : DWord) : State := { gs with teams := [], launches := [l c] }
    launchDone (s 0x9000) (l 0x9000) = true ∧ okAnd (translatePt (s 0x9000) 0 0 true 0x9000 .store) (fun p => !isRemote p.key && !p.h) = true ∧
      (match translatePt (s 0x80000000) 0 0 true 0x80000000 .store with | .error _ => true | .ok _ => false) = true ∧
      okAnd (translatePt (farPage hostBase (s 0x40000000)) 0 0 true 0x40000000 .store) (fun p => isHost p.key) = true ∧ (s 0x9000).poison = [] ∧
      (0x9000 : DWord).toNat % 16 = 0 ∧ launchDone (s 0) (l 0) = true := by decide +kernel
/-- The team that holds the ticket: released with its one staged store, resident, and with a store that an engine's line holds back. -/
theorem witness_Tickets : let e : Staged := { pa := 0x9000, home := 0, size := 4, data := 7, gid := 1 }
    let tm (r : Bool) : Team := { tid := 1, launch := 1, cluster := 1, resident := r, exited := if r then [] else [0], staged := [e] }
    let s (r : Bool) : State := { gs with teams := [tm r] }
    (s false).teams.find? (fun y => y.launch == 1 && y.teamlin == ((s false).launch 1).ticket) = some (tm false) ∧ (tm true).resident = true ∧
      (performStaged (s false) 0 0 1 [e]).2 = true ∧ (performStaged (ownedBy (s false)) 0 0 1 [e]).2 = false ∧
      ((performStaged (s false) 0 0 1 [e]).1.launch? 1) = (s false).launch? 1 ∧ (s false).team? 1 = some (tm false) ∧ e.sess = none ∧
      isRemote e.pa = false ∧ (s false).owned e.pa e.size = false ∧ ((s false).launch 1).aborted = false := by
  refine ⟨?_, ?_, ?_, ?_, ?_, ?_, ?_, ?_, ?_, ?_⟩ <;> decide +kernel
/-- A saved team whose turn it is, one behind a gang that is being placed, and one whose image is flawed. -/
theorem witness_Turns : let sv : SavedTeam := ⟨0x10000, 1, 1, [], [], [], none, [], true⟩
    let s : State := { (withMem [(0x10000, 4, 0x20001), (0x10004, 4, 2), (0x10000 + 2632, 2, 64), (0x10000 + 2634, 1, 16), (0x10000 + 2635, 1, 1),
      (0x10000 + 2652, 4, 1)] gs) with saved := [sv] }
    (teamAt s 0x10000).isSome = true ∧ holderUnplaced s (s.launch 1) = false ∧ s.placing = none ∧ outranked s (s.launch 1) = false ∧
      holderSaved s (s.launch 1) = none ∧ ({ s with placing := some 2 } : State).placing ≠ none ∧
      holderUnplaced { s with launches := [{ num := 1, rcd := { det := true }, ticket := 5 }] } { num := 1, rcd := { det := true }, ticket := 5 } = true ∧
      (imageFlaw { s with poison := [0x10000] } 0x10000).isSome = true := by
  refine ⟨?_, ?_, ?_, ?_, ?_, ?_, ?_, ?_⟩ <;> decide +kernel
/-- A reply and a disposition that the device finds, and a queue in the host window whose words it must ask for. -/
theorem witness_Looks : let cells : List (Nat × Nat) := [(0x9000, 8), (0x9008, 4)]
    (match gs.look (2 ^ 63) cells with | .ok (_, some val) => val 0x9000 8 == 0 | _ => false) = true ∧ (∀ c ∈ cells, isRemote c.1 = false) ∧
      (match gs.look (2 ^ 63) [(hostBase, 8)] with | .error _ => true | _ => false) = true := by decide +kernel
/-- An address whose page the translation cache holds lies at its place, whatever memory holds. -/
theorem liesAt_of_cached {s : State} {l : Launch} {free : Nat → Prop} {va : DWord} {n key : Nat} (h : isRemote key = false)
    (ho : s.owned key n = false) (ht : tlbFind s l.dom l.asn va = some (2, leafAll))
    (hl : okAnd (leafLoc s l.dom true va .store 2 leafAll) (· == { key := key, home := 0 }) = true) : Spec.liesAt s l free va n key := by
  refine ⟨h, ho, fun m _ => ⟨{ key := key, home := 0 }, ?_, rfl, rfl, rfl⟩⟩
  have a : tlbFind { s with mem := m } l.dom l.asn va = tlbFind s l.dom l.asn va := rfl
  have b : leafLoc { s with mem := m } l.dom true va .store 2 leafAll = leafLoc s l.dom true va .store 2 leafAll := rfl
  simp only [translatePt, a, b, ht]
  cases h : leafLoc s l.dom true va .store 2 leafAll <;> simp_all [okAnd]
/-- A pass over a buffer of one sample, whose pages the translation cache holds: one survivor, with its places for SURV and STATUS. -/
theorem witness_PassResults : let desc : List Byte := leBytes 80 0 ++ leBytes 8 0xA000 ++ leBytes 4 4 ++ leBytes 4 0 ++ leBytes 8 0xB000 ++ leBytes 24 0
    let p : Pass := { started := true, desc := desc, vbd := leBytes 8 0x9000 ++ leBytes 4 1 ++ leBytes 4 1 ++ leBytes 16 0 }
    let l : Launch := { num := 1, rcd := { pass := true }, pass := p }
    let s : State := { withMem [(0x9000, 8, 5)] gs with launches := [l], tlb := [⟨0, 0, 0, 2, BitVec.ofNat 64 leafAll⟩] }
    let free (b : Nat) : Prop := (0xA000 ≤ b ∧ b < 0xA000 + 8 * 1) ∨ (0xB000 ≤ b ∧ b < 0xB000 + 64)
    okAnd (scanIds s l (vbdOf l.pass.vbd)) (fun ids => ids == [5]) = true ∧ (passDesc desc).survcap = 4 ∧ l.pass.code ≠ 4 ∧ s.poison = [] ∧
      Spec.liesAt s l free (passDesc desc).status 64 0xB000 ∧ Spec.liesAt s l free ((passDesc desc).surv + 0) 8 0xA000 := by
  refine ⟨?_, ?_, ?_, ?_, liesAt_of_cached ?_ ?_ ?_ ?_, liesAt_of_cached ?_ ?_ ?_ ?_⟩ <;> decide +kernel

/-! ### Witnesses: the fabric, the host, repair and start, beside the plain case -/

/-- The packets' state, where 7 is the key of domain 0. -/
def ks : State := { fs with dom0 := { fs.dom0 with pkey := 7 } }
/-- A request that is free, one whose line an engine owns, and one behind another; a session that its key's domain holds. -/
theorem witness_Arrivals : let p := pkt 2 0
    let o : State := { fs with jobs := [⟨9, 1, 0, 0, 1, 8, .coll { coll9 0 false with keys := [0x8000] }, 5, none⟩] }
    let w : State := { fs with waitIn := [⟨1, .packet p, 0, []⟩] }
    Spec.free fs (.packet p) ∧ peerMember fs p fs.fresh = none ∧ Spec.first o (.packet p) ∧ o.owned 0x8000 4 = true ∧
      (InReq.packet p).admitted (Spec.drawn o) = true ∧ (∃ y ∈ w.waitIn, y.req.meets (.packet p) = true) ∧ keyDom ks p.pkey = some 0 ∧ keyDom gs p.pkey = none := by
  refine ⟨?_, ?_, ?_, ?_, ?_, ?_, ?_, ?_⟩ <;> decide +kernel
/-- Among the free values the one a request draws says whether it is made for a participant of the one session, or for none. -/
theorem witness_Participants : let s : State := { ks with sessions := [⟨0, 0, false, 0x8000, sessBytes, 0, false, [0]⟩] }
    (Config.freeWord s.fresh).toNat % 2 = 0 ∧ (peerMember s (pkt 2 0) s.fresh).isSome = true ∨
      (Config.freeWord s.fresh).toNat % 2 = 1 ∧ peerMember s (pkt 2 0) s.fresh = none := by
  intro s
  have h : s.sessions.filter (fun x => some x.dom == keyDom s (pkt 2 0).pkey) = s.sessions := by decide +kernel
  have n : s.sessions.length + 1 = 2 := rfl
  simp only [peerMember, h, n]
  rcases Nat.mod_two_eq_zero_or_one (Config.freeWord s.fresh).toNat with e | e
  · exact .inl ⟨e, by rw [e]; rfl⟩
  · exact .inr ⟨e, by rw [e]; rfl⟩
/-- A grant that a log gives at once, and one that a replay holds back. -/
theorem witness_PeerGrants : grantLines (pkt 2 0) = [0x8000] ∧ (peerGrants ⟨0, 0, false, 0x8000, false, 0⟩ [] fs []).2.2 = true := by decide +kernel
/-- Status codes of responses; a target that has been quiet for 1,024 ck, and for one less. -/
theorem witness_Quiet : let s (t : Nat) : State := { gs with clock := t, priv := { gs.priv with fabctl := 0 } }
    SMap.get 0 (s 1024).fabric.quietAt 3 + 1024 ≤ (s 1024).clock ∧ (s 1023).clock < SMap.get 0 (s 1023).fabric.quietAt 3 + 1024 ∧
      (s 1024).priv.fabctl.getLsbD 0 = false ∧ 72 ≤ 72 ∧ 71 ∉ (s 0).fabric.planesDown := by decide +kernel
/-- A host's access that stands first, and one whose line an engine owns; a masked vector with its pending bit; a link without and with failover; a window request
that its tag names; a report that another goes before. -/
theorem witness_HostWaits : let r : State := { fs with start := { fs.start with step := 10 } }
    let o : State := ownedBy r
    let p : State := { r with dom0 := { r.dom0 with msixPend := 1 } }
    let f : State := { r with dom0 := { r.dom0 with failover := true }, remote := [{ gid := 1, pa := hostBase, size := 4, atomic := some (0, 0, 0), tag := 7 }] }
    Spec.free r (.bar2 0 0x8000 none 4) ∧ Spec.first o (.bar2 0 0x9000 (some [1, 2, 3, 4]) 0) ∧ o.owned 0x9000 4 = true ∧
      bar2Ok r 0 0x9000 4 = true ∧ bar2Ok r 0 0x3FFFFFFE 4 = false ∧ poisoned { r with poison := [0x8000] } 0x8000 4 = true ∧
      (p.dom 0).msixPend.getLsbD 0 = true ∧ (r.dom 0).failover = false ∧ (f.dom 0).failover = true ∧ groupDom f 1 = some 0 ∧
      (f.remote.any fun x => isHost x.pa && x.atomic.isSome && !x.isDone && x.tag == 7) = true ∧
      ({ r.dom0.attest with status := 1, behind := true } : Attest).behind = true := by
  refine ⟨?_, ?_, ?_, ?_, ?_, ?_, ?_, ?_, ?_, ?_, ?_, ?_⟩ <;> decide +kernel
/-- A repair sector with two copies and room, and one whose 510 records fill it; an address of HOME 2; a register of the window. -/
theorem witness_Sectors : let full : List (Option (Nat × List DWord)) := [some (1, List.replicate 510 0), some (0, [])]
    gs.start.sector.length = 2 ∧ (sectorRecords gs.start.sectorNow).length < 510 ∧
      510 ≤ (sectorRecords ({ gs.start with sector := full } : Start).sectorNow).length ∧ (Spec.repairs (.rowSpare 1 2 (some 3))).isSome = true ∧
      (Spec.repairs (.rowSpare 1 2 none)).isSome = true ∧ (Spec.repairs (.wayDisable 1 2 3 true)).isSome = true ∧
      homeRefusal { gs with priv := { gs.priv with l2pq := [(0, 1)] } } 2 home2Base = none ∧ 1000 < Config.W * gs.g.winsz ∧ gs.g.live = true := by
  refine ⟨?_, ?_, ?_, ?_, ?_, ?_, ?_, ?_, ?_⟩ <;> decide +kernel
/-- The outcomes of the start's steps: sound and failed checks, five and six attempts, an image, none and one that is refused, its SVN at the floor and below
it, one stack and two, and a write that waits. -/
theorem witness_StartSteps : let env (p : Option FlashImage) : StartEnv := { soundEnv with primary := p }
    startFindings soundEnv 2 = (true, 0, 0) ∧ startImage (env none) 2 = none ∧ (startFindings (env (some (.found false 0 0))) 2).1 = false ∧
      (startFindings (env (some (.found true 1 0x1000))) 2).2.1 < 2 ∧ (startFindings (env (some (.found true 2 0x1000))) 2).2.1 = 2 ∧
      startImage (env none) 3 = soundEnv.fallback ∧ soundEnv.fusesOk = true ∧ ({ soundEnv with pllOk := false } : StartEnv).pllOk = false ∧
      ((markedStacks [0x2300000000000000] ++ [3]).eraseDups).length = 1 ∧ ((markedStacks [0x2300000000000000] ++ [4]).eraseDups).length = 2 ∧
      ({ ps.start with writes := [.counter 0 0] } : Start).writes = [.counter 0 0] ∧ counterOf [some 5, some 6] < 7 := by
  refine ⟨?_, ?_, ?_, ?_, ?_, ?_, ?_, ?_, ?_, ?_, ?_, ?_⟩ <;> decide +kernel
/-- A group whose request waits at its source; a cold start at the head of the inbox; a policy core that is halted. -/
theorem witness_Sources : let h : HeldReq := { req := req9 none (some 1), pkt := pkt 2 0 }
    let s : State := { gs with fabric := { gs.fabric with waiting := [h] } }
    s.sourceWaits s.g.gid 0 = true ∧ gs.sourceWaits gs.g.gid 0 = false ∧ can s s.g false = true ∧
      ({ (powerOff gs false) with inbox := [.coldStart soundEnv] } : State).inbox = [.coldStart soundEnv] ∧ ({ ps.pol1 with halted := true } : PolicyCore).halted = true := by
  refine ⟨?_, ?_, ?_, ?_, ?_⟩ <;> decide +kernel
/-- A vector write of 32 elements and a transfer whose counter stands at 0xA000. -/
theorem witness_FabricVectors : let v : Packet := { pkt 5 0 with len := 4, data := leBytes 64 0 ++ leBytes 16 7 }
    let x : Packet := { pkt 6 0 with aux := 0xA000, len := 4 }
    Spec.good x 6 ∧ admitStatus fs x 0x8000 4 = 0 ∧ homeRefusal fs 1 0xA000 = some 3 ∧
      homeRefusal { fs with coreTab := [(0, { pin := 0x10000 })] } 1 home1Base = none ∧ (vectorAddrs v).length = 4 := by
  refine ⟨?_, ?_, ?_, ?_, ?_⟩ <;> decide +kernel
end Sys2Proof.Tests
end

section
/-!
# Every step keeps memory in its canonical form (R5)

A state is `Formed` when its memory holds the canonical form. `f_formed` says that the model's function `f`, from a formed state, ends in one: in the
state it returns, in the state a stop of it carries, and in every state inside a pair or an option it answers. Bytes change only through `Memory`'s
own operations, whose lemmas stand in the laws of the sparse maps; the rest follows along the calls, in the order of the model's definitions.
-/
namespace Sys2Proof.Machine

/-- Memory holds its canonical form. -/
abbrev State.Formed (s : State) : Prop := Memory.wf s.mem
/-- The state that a stop carries, if any, holds memory in its form. -/
def Stop.Formed : Stop → Prop
  | .trapIn s _ | .stallIn s _ => s.Formed
  | .trap _ | .stall _ => True
/-- A copy's stop always carries its state. -/
def CpStop.Formed : CpStop → Prop
  | .code _ s | .wait s _ => s.Formed
/-- Whatever a computation ends in meets its predicate. -/
def Ends {ε α : Type} (E : ε → Prop) (P : α → Prop) : Except ε α → Prop
  | .ok a => P a
  | .error e => E e
/-- The next state, where an outcome is one, holds memory in its form. -/
def Out.Formed : Out → Prop
  | .next t => t.Formed
  | .fault _ | .refused _ => True
/-- What an option holds, if anything, meets the predicate. -/
def Option.Formed {α : Type} (P : α → Prop) : Option α → Prop
  | some a => P a
  | none => True

theorem State.write_formed {s : State} (key n v) (h : s.Formed) : (s.write key n v).Formed := by
  unfold State.write
  split
  · exact Memory.wf_write _ _ _ h
  · exact Memory.wf_foldl _ (fun m i hm => by split; exact hm; exact Memory.wf_setByte _ _ hm) _ h
theorem State.useCaches_formed {s : State} (a b c) (h : s.Formed) : (s.useCaches a b c).Formed := by
  rw [useCaches_eq]; exact h
theorem lift_formed {α : Type} (r : Except Trap α) : Ends Stop.Formed (fun _ => True) (lift r) := by
  cases r <;> trivial
theorem trapP_formed (c : TrapCode) (sub : Nat) (a : DWord) : (trapP c sub a).Formed := trivial
theorem reserved_formed : reserved.Formed := trivial
theorem option_map_eq_match {α β : Type} (f : α → β) (o : Option α) : o.map f = match o with | some a => some (f a) | none => none := by
  cases o <;> rfl
theorem option_bind_eq_match {α β : Type} (f : α → Option β) (o : Option α) : o.bind f = match o with | some a => f a | none => none := by
  cases o <;> rfl
theorem option_getD_eq_match {α : Type} (o : Option α) (d : α) : o.getD d = match o with | some a => a | none => d := by
  cases o <;> rfl
/-- Steps of a computation in turn. -/
theorem Ends.bind {ε α β : Type} {E : ε → Prop} {Q : α → Prop} {P : β → Prop} {x : Except ε α} {f : α → Except ε β}
    (hx : Ends E Q x) (hf : ∀ a, Q a → Ends E P (f a)) : Ends E P (x >>= f) := by
  cases x with
  | ok a => exact hf a hx
  | error e => exact hx
theorem Ends.map {ε α β : Type} {E : ε → Prop} {Q : α → Prop} {P : β → Prop} {x : Except ε α} {f : α → β} (hx : Ends E Q x)
    (hf : ∀ a, Q a → P (f a)) : Ends E P (x.map f) := by
  cases x with
  | ok a => exact hf a hx
  | error e => exact hx
theorem foldl_keeps {α β : Type} (P : β → Prop) {f : β → α → β} (hf : ∀ b a, P b → P (f b a)) (l : List α) {b : β} (hb : P b) :
    P (l.foldl f b) :=
  List.foldlRecOn l f hb fun b hb a _ => hf b a hb
theorem foldl_formed {α : Type} {f : State → α → State} (hf : ∀ t a, t.Formed → (f t a).Formed) (l : List α) {s : State} (hs : s.Formed) :
    (l.foldl f s).Formed :=
  foldl_keeps State.Formed hf l hs
theorem ends_anyhow {ε α : Type} (x : Except ε α) : Ends (fun _ => True) (fun _ => True) x := by
  cases x <;> trivial
theorem foldlM_ends {ε α β : Type} {E : ε → Prop} (P : β → Prop) {f : β → α → Except ε β}
    (hf : ∀ b a, P b → Ends E P (f b a)) (l : List α) {b : β} (hb : P b) : Ends E P (l.foldlM f b) := by
  induction l generalizing b with
  | nil => exact hb
  | cons a l ih => exact (hf b a hb).bind fun b hb => ih hb
theorem mapM_ends {ε α β : Type} {E : ε → Prop} {f : α → Except ε β} (hf : ∀ a, Ends E (fun _ => True) (f a)) (l : List α) :
    Ends E (fun _ => True) (l.mapM f) := by
  induction l with
  | nil => trivial
  | cons a l ih =>
    rw [List.mapM_cons]
    exact (hf a).bind fun _ _ => ih.bind fun _ _ => trivial
theorem forM_ends {ε α : Type} {E : ε → Prop} {f : α → Except ε PUnit} (hf : ∀ a, Ends E (fun _ => True) (f a)) (l : List α) :
    Ends E (fun _ => True) (l.forM f) := by
  induction l with
  | nil => trivial
  | cons a l ih => exact (hf a).bind fun _ _ => ih
theorem failLanes_formed (fs : List (Nat × Trap)) : Ends Stop.Formed (fun _ => True) (failLanes fs) := by
  unfold failLanes; split <;> trivial
theorem faultsOf_formed {α : Type} (rs : List (Except Trap α)) (f : Bool) : Ends Stop.Formed (fun _ => True) (faultsOf rs f) := by
  unfold faultsOf; grind [Ends, Stop.Formed]
theorem staleTrap_formed (gr p a b c) : Ends Stop.Formed (fun _ => True) (staleTrap gr p a b c) := by
  exact failLanes_formed _
theorem require_trap_formed (b : Bool) (t : Trap) : Ends Stop.Formed (fun _ => True) (require b (.trap t)) := by
  cases b <;> trivial
theorem require_stall_formed (b : Bool) (w : Stall) : Ends Stop.Formed (fun _ => True) (require b (.stall w)) := by
  cases b <;> trivial
theorem target_formed (a) : Ends Stop.Formed (fun _ => True) (target a) := by
  unfold target; grind [Ends, Stop.Formed, require, trapP]
theorem recordCheck_formed (va n) : Ends Stop.Formed (fun _ => True) (recordCheck va n) :=
  (require_trap_formed _ _).bind fun _ _ => require_trap_formed _ _
theorem Ends.of_ok {ε α : Type} {E : ε → Prop} {P : α → Prop} {x : Except ε α} {a : α} (h : Ends E P x) (e : x = .ok a) : P a := by
  rw [e] at h; exact h
theorem Ends.of_error {ε α : Type} {E : ε → Prop} {P : α → Prop} {x : Except ε α} {a : ε} (h : Ends E P x) (e : x = .error a) : E a := by
  rw [e] at h; exact h
theorem State.Formed.of_mem {s t : State} (h : s.Formed) (e : t.mem = s.mem) : t.Formed := by
  rw [State.Formed, e]; exact h

/-! ### Machine/Cache -/

theorem State.dropSector_formed {s : State} (core key) (hs : s.Formed) : (State.dropSector s core key).Formed := hs
theorem State.addSector_formed {s : State} (core key b) (hs : s.Formed) : (State.addSector s core key b).Formed := hs
theorem State.dropL1_formed {s : State} (hs : s.Formed) : (State.dropL1 s).Formed := hs
theorem State.dropSectors_formed {s : State} (core) (hs : s.Formed) : (State.dropSectors s core).Formed := hs

/-! ### Machine/Translate -/

theorem State.setDom_formed {s : State} (d x) (hs : s.Formed) : (State.setDom s d x).Formed := by
  unfold State.setDom
  split <;> exact hs
theorem State.setPol_formed {s : State} (k p) (hs : s.Formed) : (State.setPol s k p).Formed := by
  unfold State.setPol
  split <;> exact hs
theorem State.setCore_formed {s : State} (c x) (hs : s.Formed) : (State.setCore s c x).Formed := hs
theorem State.setTeam_formed {s : State} (t) (hs : s.Formed) : (State.setTeam s t).Formed := hs
theorem State.setCluster_formed {s : State} (c) (hs : s.Formed) : (State.setCluster s c).Formed := hs
theorem State.setLaunch_formed {s : State} (l) (hs : s.Formed) : (State.setLaunch s l).Formed := hs
theorem State.setQueue_formed {s : State} (i q) (hs : s.Formed) : (State.setQueue s i q).Formed := hs
theorem State.toHost_formed {s : State} (m) (hs : s.Formed) : (State.toHost s m).Formed := hs
theorem State.mapGroups_formed {s : State} (f) (hs : s.Formed) : (State.mapGroups s f).Formed := hs
theorem State.writeBytes_formed {s : State} (key b) (hs : s.Formed) : (State.writeBytes s key b).Formed := by
  unfold State.writeBytes
  grind [!State.write_formed]
theorem State.irq_formed {s : State} (bit) (hs : s.Formed) : (State.irq s bit).Formed := hs
theorem State.errRecord_formed {s : State} (cls struct unit info addr) (hs : s.Formed) :
    (State.errRecord s cls struct unit info addr).Formed := by
  unfold State.errRecord
  grind [!State.irq_formed, !State.writeBytes_formed]
theorem State.readBlock_formed {s : State} (d) (hs : s.Formed) : (State.readBlock s d).Formed := by
  unfold State.readBlock
  grind [!State.errRecord_formed, !State.setDom_formed]
theorem State.note_formed {s : State} (t) (hs : s.Formed) : (State.note s t).Formed := by
  unfold State.note
  split
  · exact State.errRecord_formed _ _ _ _ _ hs
  · exact hs
theorem State.touchTlb_formed {s : State} (va) (hs : s.Formed) : (State.touchTlb s va).Formed := by
  unfold State.touchTlb
  split <;> exact hs
theorem State.touch_formed {s : State} (va store cls) (hs : s.Formed) : (State.touch s va store cls).Formed := by
  unfold State.touch
  grind [option_getD_eq_match, !State.useCaches_formed, !State.dropSector_formed, !State.touchTlb_formed]

/-! ### Machine/Ops -/

theorem require_formed (b) {e : Stop} (he : e.Formed) : Ends Stop.Formed (fun _ => True) (require b e) := by
  unfold require
  grind [Ends, Stop.Formed]
theorem State.setSc_formed {s : State} (c) (hs : s.Formed) : (State.setSc s c).Formed := by
  unfold State.setSc
  split
  · exact hs
  · exact State.setPol_formed _ _ hs
theorem State.wrS_formed {s : State} (r v) (hs : s.Formed) : (State.wrS s r v).Formed := by
  unfold State.wrS
  split
  · exact hs
  · exact State.setSc_formed _ hs
theorem State.wrC_formed {s : State} (k b) (hs : s.Formed) : (State.wrC s k b).Formed := by
  unfold State.wrC
  split
  · exact hs
  · exact State.setSc_formed _ hs
theorem State.setPc_formed {s : State} (x) (hs : s.Formed) : (State.setPc s x).Formed := State.setSc_formed _ hs
theorem State.next_formed {s : State} (hs : s.Formed) : (State.next s).Formed := State.setPc_formed _ hs
theorem needLanes_formed {s : State} : Ends Stop.Formed (fun _ => True) (needLanes s) := by
  unfold needLanes
  grind [Ends, Stop.Formed, !trapP_formed]
theorem needPolicy_formed {s : State} : Ends Stop.Formed (fun _ => True) (needPolicy s) := by
  unfold needPolicy
  grind [Ends, Stop.Formed, !trapP_formed]
theorem State.setTok_formed {s : State} (r) (hs : s.Formed) : (State.setTok s r).Formed := by
  unfold State.setTok
  split
  · exact hs
  · exact State.setSc_formed _ hs
theorem State.putRecord_formed {s : State} (d key b) (hs : s.Formed) : (State.putRecord s d key b).Formed := by
  unfold State.putRecord
  grind [!State.writeBytes_formed, !State.toHost_formed]
theorem registerError_formed {s : State} (lanes) (hs : s.Formed) : (registerError s lanes).Formed := State.errRecord_formed _ _ _ _ _ hs
theorem sramError_formed {s : State} (hs : s.Formed) : (sramError s).Formed := State.errRecord_formed _ _ _ _ _ hs
theorem ready_formed {s : State} (dst src) (hs : s.Formed) : Ends Stop.Formed (fun _ => True) (ready s dst src) := by
  unfold ready
  grind [Ends, Stop.Formed, !registerError_formed]
theorem State.post_formed {s : State} (e) (hs : s.Formed) : (State.post s e).Formed := by
  unfold State.post
  split <;> exact hs
theorem State.message_formed {s : State} (d vec) (hs : s.Formed) : (State.message s d vec).Formed := by
  unfold State.message
  grind [!State.toHost_formed, !State.setDom_formed]
theorem State.notify_formed {s : State} (d code vec) (hs : s.Formed) : (State.notify s d code vec).Formed := by
  unfold State.notify
  grind [!State.irq_formed, !State.message_formed]
theorem State.endRegion_formed {s : State} (hs : s.Formed) : (State.endRegion s).Formed := by
  unfold State.endRegion
  split <;> exact hs
theorem drain_formed {s : State} : Ends Stop.Formed (fun _ => True) (drain s) := by
  unfold drain
  grind [Ends, Stop.Formed]
theorem State.abandon_formed {s : State} (hs : s.Formed) : (State.abandon s).Formed := hs
theorem gfAppend_formed {s : State} (d code rcd gid pass) (hs : s.Formed) : (gfAppend s d code rcd gid pass).Formed := by
  unfold gfAppend
  grind [!State.post_formed, !State.notify_formed, !State.setDom_formed, !State.putRecord_formed]
theorem stopGroup_formed {s0 : State} (lane t) (hs0 : s0.Formed) : (stopGroup s0 lane t).Formed := by
  unfold stopGroup
  grind [!State.readBlock_formed, !gfAppend_formed, !State.abandon_formed]
theorem policyTrap_formed {s : State} (k t) (hs : s.Formed) : (policyTrap s k t).Formed := State.setPol_formed _ _ hs
theorem groupTrap_formed {s : State} (lane t) (hs : s.Formed) : (groupTrap s lane t).Formed := by
  unfold groupTrap
  grind [!State.note_formed, !stopGroup_formed]
theorem takeTrap_formed {s : State} (lane t) (hs : s.Formed) : (takeTrap s lane t).Formed := by
  unfold takeTrap
  grind [!State.note_formed, !policyTrap_formed, !groupTrap_formed]
theorem policyReturn_formed {s : State} (k) (hs : s.Formed) : (policyReturn s k).Formed := State.setPol_formed _ _ hs
theorem State.wait_formed {s : State} (lane w) (hs : s.Formed) : (State.wait s lane w).Formed := by
  unfold State.wait
  grind []
theorem State.unissue_formed {s : State} (lane) {t : State} (ht : t.Formed) : (State.unissue s lane t).Formed := by
  unfold State.unissue
  grind []
theorem finish_formed {s : State} (lane : Bool) {r : Res State} (hs : s.Formed) (hr : Ends Stop.Formed State.Formed r) :
    Out.Formed (finish s lane r) := by
  unfold finish
  split <;> simp only [Ends, Stop.Formed] at hr <;> grind [Out.Formed, !takeTrap_formed, !State.wait_formed, !State.unissue_formed]
theorem State.focus_formed {s : State} (gid) (hs : s.Formed) : Option.Formed State.Formed (State.focus s gid) := by
  unfold State.focus
  grind [Option.Formed, option_map_eq_match]
theorem State.enterPolicy_formed {s : State} (k) (hs : s.Formed) : (State.enterPolicy s k).Formed := hs
theorem State.leavePolicy_formed {s : State} (k) (hs : s.Formed) : (State.leavePolicy s k).Formed := by
  unfold State.leavePolicy
  split
  · exact State.setPol_formed _ _ hs
  · exact hs
theorem onGroup_formed {s : State} (gid : Nat) {f : State → State} (hs : s.Formed) (hf : ∀ t : State, t.Formed → (f t).Formed) :
    (onGroup s gid f).Formed := by
  grind [onGroup, !State.focus_formed, Option.Formed]
theorem writeWaiting_formed {s : State} (d) (hs : s.Formed) : (writeWaiting s d).Formed := by
  refine foldl_formed (fun t g ht => onGroup_formed _ ht fun u hu => ?_) _ hs
  split
  · exact stopGroup_formed _ _ hu
  · exact hu

/-! ### Machine/Replay -/

theorem poke_formed {s : State} (d asn va n v) (hs : s.Formed) : Option.Formed State.Formed (poke s d asn va n v) := by
  unfold poke
  grind [Option.Formed, option_map_eq_match, !State.write_formed]
theorem State.offer_formed {s : State} (h) (hs : s.Formed) : (State.offer s h).Formed := by
  unfold State.offer
  split <;> exact hs
theorem State.pump_formed {s : State} (hs : s.Formed) : (State.pump s).Formed :=
  foldl_formed (fun _ h ht => State.offer_formed h ht) _ hs
theorem State.send_formed {s : State} (p r) (hs : s.Formed) : (State.send s p r).Formed := State.offer_formed _ hs
theorem State.sendOwn_formed {s : State} (p r) (hs : s.Formed) : (State.sendOwn s p r).Formed := by
  unfold State.sendOwn
  grind [!State.send_formed]
theorem State.putRemote_formed {s : State} (pa n v ordered sync) (hs : s.Formed) : (State.putRemote s pa n v ordered sync).Formed := by
  unfold State.putRemote
  grind [!State.sendOwn_formed, !State.toHost_formed]
theorem State.release_formed {s : State} (sc) : Ends Stop.Formed (fun _ => True) (State.release s sc) := by
  unfold State.release
  grind [Ends, Stop.Formed, !require_formed]
theorem State.inOrder_formed {s : State} (sc) : Ends Stop.Formed (fun _ => True) (State.inOrder s sc) := by
  simp only [State.inOrder, bind, Except.bind]
  grind [Ends, Stop.Formed, !require_formed, !State.release_formed]
theorem State.fenced_formed {s : State} (lane sc) (hs : s.Formed) : (State.fenced s lane sc).Formed := by
  unfold State.fenced
  split <;> exact hs
theorem State.acquire_formed {s : State} (sc) (hs : s.Formed) : (State.acquire s sc).Formed := by
  unfold State.acquire
  split <;> exact hs
theorem State.remClear_formed {s : State} (hs : s.Formed) : (State.remClear s).Formed := by
  unfold State.remClear
  split <;> exact hs
theorem State.ask_formed {s : State} (r) (hs : s.Formed) : (State.ask s r).Formed := by
  unfold State.ask
  grind []
theorem State.askOne_formed {s : State} (c dom) (hs : s.Formed) : (State.askOne s c dom).Formed := by
  unfold State.askOne
  grind [option_getD_eq_match, !State.sendOwn_formed, !State.ask_formed]
theorem State.askVec_formed {s : State} (cs) (hs : s.Formed) : (State.askVec s cs).Formed := by
  unfold State.askVec
  split
  · exact hs
  · exact State.sendOwn_formed _ _ (foldl_formed (fun _ _ ht => State.ask_formed _ ht) _ hs)
theorem State.askReads_formed {s : State} (vec cells) (hs : s.Formed) : (State.askReads s vec cells).Formed :=
  foldl_formed (fun _ cs ht => State.askVec_formed cs ht) _
    (foldl_formed (fun _ c ht => State.askOne_formed c none ht) _ hs)
theorem State.remReads_formed {s : State} (cells vec) (hs : s.Formed) : Ends Stop.Formed (fun _ => True) (State.remReads s cells vec) := by
  unfold State.remReads
  grind [Ends, Stop.Formed, option_bind_eq_match, !State.askReads_formed]
theorem State.look_formed {s : State} (ch cells) (hs : s.Formed) : Ends State.Formed (fun a => a.1.Formed) (State.look s ch cells) := by
  unfold State.look
  grind [Ends, Option.Formed, Stop.Formed, !State.remReads_formed, !State.remClear_formed]
theorem State.placeAt_formed {s : State} (dom key n v ordered launch) (hs : s.Formed) : (State.placeAt s dom key n v ordered launch).Formed := by
  unfold State.placeAt
  grind [!State.write_formed, !State.toHost_formed, !State.send_formed]
theorem devRead_formed {s : State} (m va n) (hs : s.Formed) : Ends Stop.Formed (fun _ => True) (devRead s m va n) := by
  unfold devRead
  grind [Ends, Stop.Formed, Option.Formed, !State.remReads_formed]
theorem devWrite_formed {s : State} (m va n v) (hs : s.Formed) : Option.Formed State.Formed (devWrite s m va n v) := by
  unfold devWrite
  grind [Option.Formed, option_bind_eq_match, !State.placeAt_formed]
theorem setSession_formed {s : State} (m x) (hs : s.Formed) : (setSession s m x).Formed := hs
theorem setSessNode_formed {s : State} (m x) (hs : s.Formed) : (setSessNode s m x).Formed := hs
theorem writeRefused_formed {s : State} (m node) (hs : s.Formed) : (writeRefused s m node).Formed :=
  State.errRecord_formed _ _ _ _ _ (setSessNode_formed _ _ hs)
theorem putStatus_formed {s : State} (m bit) (hs : s.Formed) : Option.Formed State.Formed (putStatus s m bit) := by
  unfold putStatus
  grind [Option.Formed, option_map_eq_match, !setSession_formed, !devWrite_formed]
theorem setStatus_formed {s : State} (m bit) (hs : s.Formed) : (setStatus s m bit).Formed := by
  unfold setStatus
  grind [option_getD_eq_match, Option.Formed, !putStatus_formed]
theorem nodeStatus_formed {s : State} (m node bit) (hs : s.Formed) : (nodeStatus s m node bit).Formed := by
  unfold nodeStatus
  grind [option_getD_eq_match, Option.Formed, !setStatus_formed, !putStatus_formed, !writeRefused_formed]
theorem loadNode_formed {s : State} (m node) (hs : s.Formed) : Ends Stop.Formed (fun _ => True) (loadNode s m node) := by
  dsimp only [loadNode]
  split
  · trivial
  refine (devRead_formed m _ 8 hs).bind fun v _ => ?_
  split
  · trivial
  · trivial
  refine (devRead_formed m _ 8 hs).bind fun c _ => ?_
  split <;> trivial
theorem logGrant_formed {s : State} (m node line) (hs : s.Formed) : Ends Stop.Formed State.Formed (logGrant s m node line) := by
  unfold logGrant
  split
  · exact nodeStatus_formed m node 0 hs
  refine (loadNode_formed m node hs).bind fun x _ => ?_
  grind [Ends, Option.Formed, option_map_eq_match, option_bind_eq_match, option_getD_eq_match, !devWrite_formed, !setSessNode_formed,
    !writeRefused_formed, !nodeStatus_formed]
theorem nextGrant_formed {s : State} (m) (a n j k : Nat) (hs : s.Formed) : Ends Stop.Formed (fun _ => True) (nextGrant s m a n j k) := by
  induction n generalizing j k with
  | zero => trivial
  | succ n ih =>
    refine (devRead_formed m _ 8 hs).bind fun v _ => ?_
    split
    · trivial
    · split
      · trivial
      · exact ih _ _
theorem grantAt_formed {s : State} (m key home addr passed) (hs : s.Formed) :
    Ends Stop.Formed State.Formed (grantAt s m key home addr passed) := by
  unfold grantAt
  split
  · exact hs
  split
  · exact logGrant_formed m _ _ hs
  refine (devRead_formed m _ 8 hs).bind fun n _ => (nextGrant_formed m _ _ _ _ hs).bind fun g _ => ?_
  grind [Ends, Stop.Formed, !setSessNode_formed, !nodeStatus_formed]
theorem State.grant_formed {s : State} (l va) (hs : s.Formed) : Ends Stop.Formed State.Formed (State.grant s l va) := by
  unfold State.grant
  grind [Ends, Stop.Formed, !grantAt_formed]
theorem State.keep_formed {s : State} (lane ls) (hs : s.Formed) : (State.keep s lane ls).Formed := by
  unfold State.keep
  grind []
theorem grantAll_formed {s : State} (lane seen ls) (hs : s.Formed) : Ends Stop.Formed State.Formed (grantAll s lane seen ls) := by
  induction ls generalizing s seen with
  | nil => exact State.keep_formed lane _ hs
  | cons x t ih =>
    have hg := State.grant_formed x.1 x.2 hs
    unfold grantAll
    grind [Ends, Stop.Formed, !State.keep_formed]
theorem State.grants_formed {s : State} (lane ls) (hs : s.Formed) : Ends Stop.Formed State.Formed (State.grants s lane ls) := by
  unfold State.grants
  grind [Ends, Stop.Formed, !grantAll_formed]
theorem State.heldAs_formed {s u : State} (hs : s.Formed) : (State.heldAs s u).Formed := hs
theorem State.foldRoom_formed {s : State} (ws) : Ends Stop.Formed (fun _ => True) (State.foldRoom s ws) := by
  unfold State.foldRoom
  grind [Ends, Stop.Formed, !require_formed]
theorem State.fold_formed {s : State} (lane ws) (hs : s.Formed) : (State.fold s lane ws).Formed := by
  unfold State.fold
  split <;> exact hs
theorem State.put_formed {s : State} (l va n v ordered sync) (hs : s.Formed) :
    Ends Stop.Formed State.Formed (State.put s l va n v ordered sync) := by
  unfold State.put
  grind [Ends, Stop.Formed, option_map_eq_match, !State.write_formed, !State.putRemote_formed, !State.setTeam_formed]
theorem stagedGrant_formed {s : State} (dom asn tid e) (hs : s.Formed) : Ends Stop.Formed State.Formed (stagedGrant s dom asn tid e) := by
  unfold stagedGrant
  grind [Ends, Stop.Formed, !grantAt_formed, !State.remClear_formed]
theorem State.owe_formed {s : State} (gid t) (hs : s.Formed) : (State.owe s gid t).Formed := hs
theorem performStaged_formed {s : State} (dom asn tid es) (hs : s.Formed) : (performStaged s dom asn tid es).1.Formed := by
  induction es generalizing s with
  | nil => exact State.setTeam_formed _ hs
  | cons e t ih =>
    have hg := stagedGrant_formed dom asn tid e hs
    unfold performStaged
    grind [Ends, Stop.Formed, !State.setTeam_formed, !State.dropL1_formed, !State.placeAt_formed, !State.owe_formed]

/-! ### Machine/Access -/

theorem arrive_formed {s : State} (l va n) (hs : s.Formed) : Ends Stop.Formed (fun _ => True) (arrive s l va n) := by
  unfold arrive
  grind [Ends, Stop.Formed, !State.remReads_formed, !State.remClear_formed]
theorem loadRaw_formed {s : State} (va n acq) (hs : s.Formed) : Ends Stop.Formed (fun a => a.2.Formed) (loadRaw s va n acq) := by
  simp only [loadRaw, bind, Except.bind]
  grind [Ends, Stop.Formed, !lift_formed, !State.touch_formed, !arrive_formed, !State.grants_formed]
theorem loadS_formed {s : State} (va n acq) (hs : s.Formed) : Ends Stop.Formed (fun a => a.2.Formed) (loadS s va n acq) := by
  simp only [loadS, bind, Except.bind]
  grind [Ends, Stop.Formed, !loadRaw_formed, !State.remClear_formed]
theorem storeS_formed {s : State} (va n v ordered sync) (hs : s.Formed) : Ends Stop.Formed State.Formed (storeS s va n v ordered sync) := by
  simp only [storeS, bind, Except.bind]
  grind [Ends, Stop.Formed, !lift_formed, !State.touch_formed, !State.foldRoom_formed, !State.fold_formed, !State.grants_formed,
    !State.put_formed]
theorem State.askAtom_formed {s : State} (pa n code x e lane) (hs : s.Formed) : (State.askAtom s pa n code x e lane).Formed := by
  unfold State.askAtom
  grind [!State.sendOwn_formed, !State.ask_formed]
theorem atomRemote_formed {s : State} (va pa n op x e) (hs : s.Formed) :
    Ends Stop.Formed (fun a => a.2.Formed) (atomRemote s va pa n op x e) := by
  simp only [atomRemote, bind, Except.bind]
  grind [Ends, Stop.Formed, !State.askAtom_formed, !State.foldRoom_formed, !State.fold_formed, !require_formed, !State.remClear_formed]
theorem atomS_formed {s : State} (va n op x e) (hs : s.Formed) : Ends Stop.Formed (fun a => a.2.Formed) (atomS s va n op x e) := by
  simp only [atomS, bind, Except.bind]
  grind [Ends, Stop.Formed, !lift_formed, !State.touch_formed, !State.foldRoom_formed, !arrive_formed, !State.fold_formed, !require_formed,
    !State.write_formed, !State.grants_formed, !atomRemote_formed]
theorem recordAt_formed {s : State} (va n) (hs : s.Formed) : Ends Stop.Formed (fun a => a.2.Formed) (recordAt s va n) := by
  induction n generalizing s va with
  | zero => exact hs
  | succ n ih => exact (loadRaw_formed va 8 false hs).bind fun a ha => (ih _ ha).bind fun b hb => hb

/-! ### Machine/LaneAccess -/

theorem laneLocs_formed {s : State} (as n k ad) : Ends Stop.Formed (fun _ => True) (laneLocs s as n k ad) :=
  (failLanes_formed _).bind fun _ _ => (failLanes_formed _).bind fun _ _ => (failLanes_formed _).bind fun _ _ => trivial
theorem laneArrive_formed {s : State} (ls n vec) (hs : s.Formed) : Ends Stop.Formed (fun _ => True) (laneArrive s ls n vec) := by
  refine (require_stall_formed _ _).bind fun _ _ => (State.remReads_formed _ vec hs).bind fun bad _ => ?_
  split
  · exact State.remClear_formed hs
  · exact failLanes_formed _
theorem State.touchAll_formed {s : State} (vs store) (hs : s.Formed) : (State.touchAll s vs store).Formed :=
  foldl_formed (fun _ va ht => State.touch_formed va store none ht) _ hs
theorem State.putVec_formed {s : State} (n ws) (hs : s.Formed) : (State.putVec s n ws).Formed := by
  unfold State.putVec
  split
  · exact hs
  · exact State.sendOwn_formed _ _ hs
theorem State.putPeers_formed {s : State} (ws n) (hs : s.Formed) : (State.putPeers s ws n).Formed := by
  unfold State.putPeers
  split
  · exact foldl_formed (fun _ _ ht => State.putRemote_formed _ _ _ _ _ ht) _ hs
  · exact foldl_formed (fun _ _ ht => State.putVec_formed _ _ ht) _ hs
theorem laneStores_formed {s : State} (ls n v) (hs : s.Formed) : Ends Stop.Formed State.Formed (laneStores s ls n v) :=
  (State.grants_formed true _ hs).bind fun _ ht => (require_stall_formed _ _).bind fun _ _ =>
    foldlM_ends State.Formed (fun _ x hu => State.put_formed x.loc x.va n _ _ _ hu) _
      (State.putPeers_formed _ n (State.touchAll_formed _ true (State.fold_formed true _ ht)))

/-! ### Machine/Operands -/

theorem popOne_formed {s0 s : State} (j act) (hs0 : s0.Formed) (hs : s.Formed) : Ends Stop.Formed (fun a => a.2.Formed) (popOne s0 s j act) := by
  unfold popOne
  grind [Ends, Stop.Formed, !trapP_formed, !State.post_formed]
theorem pushOne_formed {s0 s : State} (j act f) (h0 : s0.Formed) (hs : s.Formed) : Ends Stop.Formed State.Formed (pushOne s0 s j act f) := by
  dsimp only [pushOne]
  split
  · trivial
  refine (require_trap_formed _ _).bind fun _ _ => (@require_formed _ (.stallIn _ _) (State.post_formed _ h0)).bind fun _ _ =>
    (laneLocs_formed _ _ _ _).bind fun ls _ => ?_
  split
  · have hl := laneStores_formed ls 4 (fun l => (f l).toNat) hs
    split <;> simp only [*, Ends, Stop.Formed] at hl ⊢
    · exact hl
    · exact State.heldAs_formed h0
    · split
      · exact setStatus_formed _ 1 (State.heldAs_formed h0)
      · exact hl
    · exact hl
  · exact State.post_formed _ (State.touchAll_formed _ true hs)
theorem readField_formed {s0 s : State} (act u wide o every) (hs0 : s0.Formed) (hs : s.Formed) :
    Ends Stop.Formed (fun a => a.2.Formed) (readField s0 s act u wide o every) := by
  simp only [readField, bind, Except.bind]
  grind [Ends, Stop.Formed, !popOne_formed, !registerError_formed]
theorem writeField_formed {s0 s : State} (act u wide o f) (hs0 : s0.Formed) (hs : s.Formed) :
    Ends Stop.Formed State.Formed (writeField s0 s act u wide o f) := by
  simp only [writeField, bind, Except.bind]
  grind [Ends, Stop.Formed, !pushOne_formed]

/-! ### Machine/Jobs -/

theorem State.startJob_formed {s : State} (r k status) (hs : s.Formed) : (State.startJob s r k status).Formed :=
  State.post_formed _ (State.setTok_formed _ hs)
theorem State.savedToken_formed {s : State} (area gidx r v) (hs : s.Formed) : (State.savedToken s area gidx r v).Formed := by
  unfold State.savedToken
  grind [!State.write_formed]
theorem State.deliverTo_formed {s : State} (gid area r v) (hs : s.Formed) : (State.deliverTo s gid area r v).Formed := by
  unfold State.deliverTo
  grind [option_map_eq_match, !State.post_formed, !State.mapGroups_formed, !State.savedToken_formed, !State.setPol_formed]
theorem State.finishJob_formed {s : State} (j v) (hs : s.Formed) : (State.finishJob s j v).Formed := State.deliverTo_formed _ _ _ _ hs
theorem State.setJob_formed {s : State} (j) (hs : s.Formed) : (State.setJob s j).Formed := hs

/-! ### Machine/Flags -/

theorem State.raise_formed {s : State} (act fl lpc) (hs : s.Formed) : (State.raise s act fl lpc).Formed := by
  unfold State.raise
  split <;> exact hs

/-! ### Machine/Lane -/

theorem laneChecks_formed (v sw) {s : State} : Ends Stop.Formed (fun _ => True) (laneChecks v sw s) :=
  (require_trap_formed _ _).bind fun _ _ => (require_trap_formed _ _).bind fun _ _ => (require_trap_formed _ _).bind fun _ _ => trivial
theorem laneIssueWith_formed (v sw) {s : State} (hs : s.Formed) : Ends Stop.Formed (fun a => a.2.Formed) (laneIssueWith v sw s) := by
  refine needLanes_formed.bind fun _ _ => (laneChecks_formed v sw).bind fun h _ => (require_stall_formed _ _).bind fun _ _ =>
    (require_formed _ (registerError_formed [] hs)).bind fun _ _ => (require_stall_formed _ _).bind fun _ _ => ?_
  refine (@readField_formed _ { s with g := { s.g with haz := h } } _ _ _ _ _ hs hs).bind fun a ha =>
    (readField_formed _ _ _ _ _ hs ha).bind fun b hb =>
    (readField_formed _ _ _ _ _ hs hb).bind fun ⟨c, u⟩ hc => ?_
  dsimp only
  split
  · exact (readField_formed _ _ _ _ _ hs hc).bind fun d hd => hd
  · exact hc
theorem laneIssue_formed (v) {s : State} (hs : s.Formed) : Ends Stop.Formed (fun a => a.2.Formed) (laneIssue v s) := by
  unfold laneIssue
  grind [Ends, Stop.Formed, !laneIssueWith_formed]
theorem laneDone_formed (v) {s : State} (hs : s.Formed) : (laneDone v s).Formed := hs
theorem laneWrite_formed (v) {s0 : State} (x r) {s : State} (hs0 : s0.Formed) (hs : s.Formed) :
    Ends Stop.Formed State.Formed (laneWrite v s0 x r s) := by
  simp only [laneWrite, bind, Except.bind]
  grind [Ends, Stop.Formed, !writeField_formed, !State.raise_formed]
theorem laneOp_formed (v f) {s : State} (hs : s.Formed) : Out.Formed (laneOp v f s) := by
  simp only [laneOp, bind, Except.bind]
  grind [Stop.Formed, Out.Formed, Ends, !laneWrite_formed, !laneDone_formed, !finish_formed, !laneIssue_formed]
theorem laneDo_formed {s : State} (v : Forms.LView) {f : LIn → State → Res State} (hs : s.Formed)
    (hf : ∀ (x : LIn) (t : State), t.Formed → Ends Stop.Formed State.Formed (f x t)) : Out.Formed (laneDo v f s) := by
  refine finish_formed true hs ?_
  simp only [bind, Except.bind]
  grind [Ends, Stop.Formed, !laneIssue_formed, !laneDone_formed]

/-! ### Machine/LaneInt -/

theorem execVmadw_formed (o) {s : State} (hs : s.Formed) : Out.Formed (execVmadw o s) := by
  unfold execVmadw
  exact laneOp_formed _ _ hs

/-! ### Machine/LanePred -/

theorem execVfcmp_formed (o) {s : State} (hs : s.Formed) : Out.Formed (execVfcmp o s) := by
  unfold execVfcmp
  exact laneOp_formed _ _ hs
theorem execPlog_formed (o) {s : State} (hs : s.Formed) : Out.Formed (execPlog o s) := by
  unfold execPlog
  exact laneOp_formed _ _ hs

/-! ### Machine/Thresher -/

theorem spill_formed {s : State} (slice v) (hs : s.Formed) : (spill s slice v).Formed := by
  unfold spill
  grind [option_map_eq_match]
theorem evictThr_formed {s : State} (slice) (hs : s.Formed) : (evictThr s slice).Formed := by
  unfold evictThr
  split
  · exact hs
  · exact spill_formed _ _ hs
theorem contribute_formed {s : State} (dom pa w) (hs : s.Formed) : (contribute s dom pa w).Formed := by
  unfold contribute
  grind [option_map_eq_match, !evictThr_formed]
theorem joined_formed {s : State} (k) (hs : s.Formed) : (joined s k).1.Formed := by
  unfold joined
  grind [Option.Formed, !State.errRecord_formed]
theorem foldThr_formed {s : State} (sel) (hs : s.Formed) : (foldThr s sel).1.Formed := by
  refine foldl_formed (fun t k ht => ?_) _ hs
  have hj := joined_formed k ht
  grind [!State.write_formed]

/-! ### Machine/LaneMem -/

theorem State.metSector_formed {t : State} (c x) (ht : t.Formed) : (State.metSector t c x).Formed := by
  unfold State.metSector
  grind [!State.errRecord_formed, !State.dropSector_formed]
theorem State.metSectors_formed {s : State} (c xs) (hs : s.Formed) : (State.metSectors s c xs).Formed := by
  unfold State.metSectors
  split
  · exact hs
  · exact foldl_formed (fun _ _ ht => State.metSector_formed _ _ ht) _ hs
theorem State.usedL1_formed {t s : State} (ls) (ht : t.Formed) : (State.usedL1 t s ls).Formed := by
  unfold State.usedL1
  grind [!State.metSectors_formed]
theorem State.fillL1_formed {t s : State} (fresh l) (ht : t.Formed) : (State.fillL1 t s fresh l).Formed := by
  unfold State.fillL1
  grind [!State.addSector_formed, !State.metSector_formed]
theorem elemWords_formed {s : State} (base es fresh vec) (hs : s.Formed) :
    Ends Stop.Formed (fun a => a.2.Formed) (elemWords s base es fresh vec) := by
  refine (laneLocs_formed _ _ _ _).bind fun bs _ => ?_
  split
  · exact hs
  split
  · trivial
  refine (laneLocs_formed _ _ _ _).bind fun ls _ => (failLanes_formed _).bind fun _ _ => (laneLocs_formed _ _ _ _).bind fun side _ =>
    (foldlM_ends (fun _ => True) (fun _ n _ => laneArrive_formed _ n vec hs) _ trivial).bind fun _ _ =>
    (foldlM_ends (fun _ => True) (fun _ n _ => laneArrive_formed _ n vec hs) _ trivial).bind fun _ _ => ?_
  refine State.touchAll_formed _ _ ?_
  split
  · exact hs
  · exact State.usedL1_formed _ hs
theorem laneLoads_formed {s : State} (as n raw fresh) (hs : s.Formed) : Ends Stop.Formed (fun a => a.2.Formed) (laneLoads s as n raw fresh) := by
  refine (laneLocs_formed _ _ _ _).bind fun ls _ => (laneArrive_formed ls n true hs).bind fun _ _ => ?_
  have h := foldl_formed (fun t x ht => @State.fillL1_formed t s fresh x.loc ht)
    (((ls.map fun x => x.loc.key / 128).eraseDups).filterMap fun k => ls.find? fun x => x.loc.key / 128 == k)
    (State.remClear_formed (State.touchAll_formed (ls.map (·.va)) false hs))
  grind [Ends]
theorem execVld_formed (m) {s : State} (hs : s.Formed) : Out.Formed (execVld m s) := by
  simp only [execVld, bind, Except.bind]
  grind [Stop.Formed, Out.Formed, option_map_eq_match, Ends, !laneLoads_formed, !writeField_formed, !elemWords_formed, !laneDo_formed,
    !State.remClear_formed]
theorem execVst_formed (m) {s : State} (hs : s.Formed) : Out.Formed (execVst m s) := by
  simp only [execVst, bind, Except.bind]
  grind [Stop.Formed, Out.Formed, Ends, !laneLocs_formed, !laneStores_formed, !laneDo_formed]
theorem peerAtoms_formed {s : State} (ls n ty op x e) (hs : s.Formed) : Ends Stop.Formed (fun _ => True) (peerAtoms s ls n ty op x e) := by
  refine (failLanes_formed _).bind fun _ _ => ?_
  dsimp only
  split
  · trivial
  split
  · split
    · exact State.remClear_formed hs
    · trivial
  · exact foldl_formed (fun _ y ht => State.askAtom_formed _ _ _ _ _ _ ht) _ hs
theorem localAtoms_formed {s : State} (t op n x e ls) (hs : s.Formed) : (localAtoms s t op n x e ls).1.Formed := by
  induction ls generalizing s with
  | nil => exact hs
  | cons y ys ih => exact ih (State.write_formed _ _ _ hs)
theorem laneDoRegion_formed {s : State} (v : Forms.LView) {f : LIn → State → Res State} (hs : s.Formed)
    (hf : ∀ (x : LIn) (t : State), t.Formed → Ends Stop.Formed State.Formed (f x t)) : Out.Formed (laneDoRegion v f s) := by
  refine finish_formed true hs ?_
  simp only [bind, Except.bind]
  grind [Ends, Stop.Formed, !laneIssue_formed, !laneDone_formed]
theorem State.orderAcq_formed {s : State} (o sc) (hs : s.Formed) : (State.orderAcq s o sc).Formed := by
  unfold State.orderAcq
  grind [!State.acquire_formed]
theorem State.orderRel_formed {s : State} (o sc) : Ends Stop.Formed (fun _ => True) (State.orderRel s o sc) := by
  unfold State.orderRel
  grind [Ends, Stop.Formed, !State.inOrder_formed]
theorem execVatom_formed (m) {s : State} (hs : s.Formed) : Out.Formed (execVatom m s) :=
  laneDoRegion_formed _ hs fun _ _ ht => (State.orderRel_formed _ _).bind fun _ _ => (laneLocs_formed _ _ _ _).bind fun _ _ =>
    (laneArrive_formed _ _ true ht).bind fun _ _ => (require_stall_formed _ _).bind fun _ _ => (peerAtoms_formed _ _ _ _ _ _ ht).bind fun _ _ =>
    (State.grants_formed true _ ht).bind fun _ hu =>
    writeField_formed _ _ _ _ _ hs (State.orderAcq_formed _ _ (State.remClear_formed (State.touchAll_formed _ true
      (State.fold_formed true _ (localAtoms_formed _ _ _ _ _ _ hu)))))
theorem State.gradAddTo_formed {s : State} (l w) (hs : s.Formed) : (State.gradAddTo s l w).Formed := by
  unfold State.gradAddTo
  grind [!State.sendOwn_formed, !contribute_formed]
theorem execGradAdd_formed (m) {s : State} (hs : s.Formed) : Out.Formed (execGradAdd m s) :=
  laneDoRegion_formed _ hs fun _ _ ht => (laneLocs_formed _ _ _ _).bind fun _ _ => (failLanes_formed _).bind fun _ _ =>
    State.touchAll_formed _ false (foldl_formed (fun _ _ hu => State.gradAddTo_formed _ _ hu) _ ht)
theorem execThresherContribution_formed (pa val) {s : State} (hs : s.Formed) : Out.Formed (execThresherContribution pa val s) :=
  contribute_formed _ _ _ hs
theorem execVfence_formed (h kind scope) {s : State} (hs : s.Formed) : Out.Formed (execVfence h kind scope s) := by
  simp only [execVfence, bind, Except.bind]
  grind [Stop.Formed, Out.Formed, Ends, !State.acquire_formed, !State.fenced_formed, !laneDo_formed, !State.release_formed]

/-! ### Machine/Copy -/

theorem cpStop_formed {s : State} {x : Stop} (hs : s.Formed) (hx : x.Formed) : (cpStop s x).Formed := by
  cases x <;> grind [cpStop, CpStop.Formed, Stop.Formed, !State.note_formed]
theorem cpLoad_formed {s : State} (t lin) (hs : s.Formed) : Ends Stop.Formed (fun a => a.2.Formed) (cpLoad s t lin) := by
  simp only [cpLoad, bind, Except.bind]
  grind [Ends, Stop.Formed, !lift_formed, !State.touch_formed, !arrive_formed, !elemWords_formed]
theorem cpPut_formed {s : State} (l n v job) (hs : s.Formed) : (cpPut s l n v job).Formed := by
  unfold cpPut
  grind [!State.sendOwn_formed, !State.write_formed, !State.toHost_formed]
theorem cpDestLoc_formed {s : State} (t va n) : Ends Stop.Formed (fun _ => True) (cpDestLoc s t va n) := by
  simp only [cpDestLoc, bind, Except.bind]
  grind [Ends, Stop.Formed, !trapP_formed, !lift_formed, option_map_eq_match]
theorem cpMove_formed (t base job) {s : State} (x) (hs : s.Formed) : Ends CpStop.Formed (fun a => a.1.Formed) (cpMove t base job s x) := by
  unfold cpMove
  have hl := fun i => cpLoad_formed t i hs
  have hd := @cpDestLoc_formed s t
  have hm : ∀ {e : Stop}, e.Formed → (cpStop s e).Formed := cpStop_formed hs
  grind [Ends, CpStop.Formed, Stop.Formed, !cpPut_formed, !State.touch_formed, !State.write_formed]
theorem cpRun_formed (t base job xs) {s : State} (bytes code) (hs : s.Formed) :
    Ends CpStop.Formed (fun a => a.1.Formed) (cpRun t base job xs s bytes code) := by
  induction xs generalizing s bytes code with
  | nil => exact hs
  | cons x xs ih =>
    have hm := cpMove_formed t base job x hs
    unfold cpRun
    grind [Ends, CpStop.Formed]
theorem cpItems_formed {s : State} (t m c) : Ends Stop.Formed (fun _ => True) (cpItems s t m c) := by
  dsimp only [cpItems]
  repeat' split
  all_goals trivial
theorem indexEnd_formed {s : State} (bad code) (hs : s.Formed) : (indexEnd s bad code).1.Formed := by
  unfold indexEnd
  split
  · exact hs
  · exact State.errRecord_formed _ _ _ _ _ hs
theorem cpTens_formed (m d l c p) {s : State} (hs : s.Formed) : Out.Formed (cpTens m d l c p s) := by
  refine finish_formed false hs ((ready_formed [d] [l, p] hs).bind fun _ _ => drain_formed.bind fun _ _ => (recordCheck_formed _ 64).bind fun _ _ =>
    (recordAt_formed _ 8 hs).bind fun ⟨b, u⟩ hu => ?_)
  dsimp only
  split
  · trivial
  next t _ =>
  refine (require_trap_formed _ _).bind fun _ _ => (ready_formed [] _ hs).bind fun _ _ => (cpItems_formed t m _).bind fun items _ => ?_
  split
  · trivial
  refine (require_trap_formed _ _).bind fun _ _ => ?_
  split
  · have hw := State.wrS_formed d (statusWord 1 0) (State.remClear_formed hu)
    split
    · exact hw
    · exact State.next_formed (State.wrS_formed d _ (State.endRegion_formed (State.remClear_formed hu)))
  refine (require_stall_formed _ _).bind fun _ _ => (State.grants_formed false _ hu).bind fun u hu => ?_
  split
  · exact hs
  · next e =>
    have hw := (cpRun_formed t _ _ _ 0 0 hu).of_error e
    exact State.next_formed (State.startJob_formed d _ _ (State.endRegion_formed (State.remClear_formed hw)))
  · next w bytes code e =>
    have hw := (cpRun_formed t _ _ _ 0 0 hu).of_ok e
    refine State.next_formed (State.startJob_formed d _ _ (State.endRegion_formed (State.remClear_formed ?_)))
    split
    · exact indexEnd_formed _ _ hw
    · exact hw
theorem execCopyComplete_formed (job) {s : State} (hs : s.Formed) : Out.Formed (execCopyComplete job s) := by
  unfold execCopyComplete
  grind [Stop.Formed, Out.Formed, !State.post_formed, !State.finishJob_formed]
theorem execCpTry_formed (k t imm) {s : State} (hs : s.Formed) : Out.Formed (execCpTry k t imm s) := by
  refine finish_formed false hs ?_
  split
  · exact State.next_formed (State.wrC_formed k true hs)
  split
  · exact State.next_formed (State.wrC_formed k false hs)
  · exact hs
theorem execCpTryTimeout_formed (gid) {s : State} (hs : s.Formed) : Out.Formed (execCpTryTimeout gid s) := by
  have hl : ∀ t : State, t.Formed → (if t.g.tryWait then { t with g := { t.g with tryOver := true, sStall := none } } else t).Formed := by
    intro t ht
    split <;> exact ht
  dsimp only [execCpTryTimeout, Out.Formed]
  split
  · exact State.leavePolicy_formed _ (hl _ (State.enterPolicy_formed _ hs))
  · exact onGroup_formed gid hs hl

/-! ### Machine/CrossLane -/

theorem State.putScalar_formed {s : State} (r v) (hs : s.Formed) : (State.putScalar s r v).Formed := by
  unfold State.putScalar
  split <;> exact hs
theorem execVreduce_formed (o) {s : State} (hs : s.Formed) : Out.Formed (execVreduce o s) := by
  refine laneDo_formed _ hs fun x t ht => ?_
  split
  · exact ht
  · exact State.raise_formed _ _ _ (State.putScalar_formed _ _ ht)
theorem execVballot_formed (o) {s : State} (hs : s.Formed) : Out.Formed (execVballot o s) := by
  unfold execVballot
  grind [Stop.Formed, Out.Formed, Ends, !writeField_formed, !laneDo_formed, !State.putScalar_formed]
theorem execVtopk_formed (o) {s : State} (hs : s.Formed) : Out.Formed (execVtopk o s) := laneDo_formed _ hs fun _ _ ht => ht

/-! ### Machine/Sync -/

theorem execBarTeam_formed {s : State} (hs : s.Formed) : Out.Formed (execBarTeam s) := by
  simp only [execBarTeam, bind, Except.bind]
  grind [Stop.Formed, Out.Formed, Ends, !State.next_formed, !State.setTeam_formed, !drain_formed, !finish_formed]
theorem execCluArrive_formed (d b) {s : State} (hs : s.Formed) : Out.Formed (execCluArrive d b s) := by
  simp only [execCluArrive, bind, Except.bind]
  grind [Stop.Formed, Out.Formed, Ends, !State.setCluster_formed, !require_formed, !ready_formed, !State.next_formed, !State.wrS_formed,
    !drain_formed, !State.release_formed, !finish_formed]
theorem execCluWait_formed (x b) {s : State} (hs : s.Formed) : Out.Formed (execCluWait x b s) := by
  simp only [execCluWait, bind, Except.bind]
  grind [Stop.Formed, Out.Formed, Ends, !State.acquire_formed, !require_formed, !ready_formed, !State.next_formed, !finish_formed]
theorem counterLoc_formed {s : State} (va) : Ends Stop.Formed (fun _ => True) (counterLoc s va) := by
  unfold counterLoc
  split
  · split <;> trivial
  · trivial
  refine (lift_formed _).bind fun l _ => ?_
  grind [Ends, Stop.Formed]
theorem execArrSet_formed (x b) {s : State} (hs : s.Formed) : Out.Formed (execArrSet x b s) := by
  simp only [execArrSet, bind, Except.bind]
  grind [Stop.Formed, Out.Formed, !trapP_formed, Ends, !State.touch_formed, !require_formed, !ready_formed, !State.next_formed,
    !State.setTeam_formed, !counterLoc_formed, !finish_formed]
theorem execArrWait_formed (a) {s : State} (hs : s.Formed) : Out.Formed (execArrWait a s) := by
  refine finish_formed false hs ((ready_formed [] [a] hs).bind fun _ _ => ?_)
  dsimp only
  split
  · trivial
  · exact (counterLoc_formed _).bind fun l _ => (arrive_formed l _ 8 hs).bind fun _ _ => (require_stall_formed _ _).bind fun _ _ =>
      State.next_formed (State.acquire_formed .fab hs)
theorem channel_formed {s : State} (ch send) : Ends Stop.Formed (fun _ => True) (channel s ch send) := by
  unfold channel
  grind [Ends, Stop.Formed, !trapP_formed]
theorem setChan_formed {s : State} (x) (hs : s.Formed) : (setChan s x).Formed := hs
theorem takeMsg_formed {s : State} (x) (hs : s.Formed) : Option.Formed (fun a => a.2.Formed) (takeMsg s x) := by
  unfold takeMsg
  grind [Option.Formed, option_map_eq_match, !setChan_formed]
theorem soundMsg_formed {s : State} (x) (hs : s.Formed) : Ends Stop.Formed (fun _ => True) (soundMsg s x) := by
  unfold soundMsg
  grind [Ends, Stop.Formed, !sramError_formed, !require_formed]
theorem execSend_formed (a ch) {s : State} (hs : s.Formed) : Out.Formed (execSend a ch s) :=
  finish_formed false hs ((ready_formed [] [a] hs).bind fun _ _ => drain_formed.bind fun _ _ => (channel_formed ch true).bind fun _ _ =>
    (require_trap_formed _ _).bind fun _ _ => (State.release_formed .clu).bind fun _ _ => (require_stall_formed _ _).bind fun _ _ =>
    State.next_formed (State.endRegion_formed (setChan_formed _ hs)))
theorem execSendTry_formed (k x ch) {s : State} (hs : s.Formed) : Out.Formed (execSendTry k x ch s) := by
  simp only [execSendTry, bind, Except.bind]
  grind [Stop.Formed, Out.Formed, Ends, !channel_formed, !State.wrC_formed, !ready_formed, !State.next_formed, !setChan_formed, !drain_formed,
    !State.release_formed, !State.endRegion_formed, !finish_formed]
theorem execRecv_formed (d ch) {s : State} (hs : s.Formed) : Out.Formed (execRecv d ch s) := by
  refine finish_formed false hs ((ready_formed [d] [] hs).bind fun _ _ => drain_formed.bind fun _ _ => (channel_formed ch false).bind fun x _ =>
    (soundMsg_formed x hs).bind fun _ _ => ?_)
  have hm := takeMsg_formed x hs
  split
  · next v t e =>
    rw [e] at hm
    exact State.next_formed (State.wrS_formed d v (State.endRegion_formed (State.acquire_formed .clu hm)))
  · exact (require_trap_formed _ _).bind fun _ _ => setChan_formed _ hs
theorem execRecvTry_formed (d k ch) {s : State} (hs : s.Formed) : Out.Formed (execRecvTry d k ch s) := by
  refine finish_formed false hs ((ready_formed [d] [] hs).bind fun _ _ => (channel_formed ch false).bind fun x _ => ?_)
  have hm := takeMsg_formed x hs
  split
  · next v t e =>
    rw [e] at hm
    exact drain_formed.bind fun _ _ => (soundMsg_formed x hs).bind fun _ _ =>
      State.next_formed (State.wrC_formed k true (State.wrS_formed d v (State.endRegion_formed (State.acquire_formed .clu hm))))
  · exact State.next_formed (State.wrC_formed k false hs)

/-! ### Machine/Place -/

theorem tellHolder_formed {s : State} (l) (hs : s.Formed) : (tellHolder s l).Formed := by
  unfold tellHolder
  split <;> exact hs
theorem reserve_formed {s : State} (hs : s.Formed) : (reserve s).Formed := by
  have h := foldl_formed (fun _ l ht => tellHolder_formed l ht) s.launches hs
  unfold reserve
  grind [!State.irq_formed]
theorem freeCore_formed {s0 : State} (c) (hs0 : s0.Formed) : (freeCore s0 c).Formed := by
  unfold freeCore
  grind [option_map_eq_match, !reserve_formed]
theorem dropTiles_formed {s : State} (t) (hs : s.Formed) : (dropTiles s t).Formed := hs
theorem releaseTeam_formed {s : State} (t det) (hs : s.Formed) : (releaseTeam s t det).Formed :=
  Memory.wf_clear _ _ (freeCore_formed t.core hs)
theorem releaseGone_formed {s : State} (hs : s.Formed) : (releaseGone s).Formed := by
  refine foldl_formed (fun t x ht => ?_) _ hs
  grind [!releaseTeam_formed, !State.post_formed]
theorem coverageEnd_formed {s : State} (g killed) (hs : s.Formed) : (coverageEnd s g killed).Formed := by
  unfold coverageEnd
  split
  · exact State.post_formed _ (State.setLaunch_formed _ hs)
  · exact hs
theorem State.leave_formed {s0 : State} (killed) (hs0 : s0.Formed) : (State.leave s0 killed).Formed := by
  unfold State.leave
  grind [option_map_eq_match, !State.post_formed, !State.setCluster_formed, !State.setLaunch_formed, !coverageEnd_formed, !State.abandon_formed,
    !State.setTeam_formed, !releaseTeam_formed, !dropTiles_formed]

/-! ### Machine/Start -/

theorem lostLines_formed {s : State} (hs : s.Formed) : (lostLines s).Formed :=
  foldl_formed (fun _ _ ht => Memory.wf_foldl _ (fun _ _ hm => Memory.wf_setByte _ _ hm) _ ht) _ hs
theorem started_formed {s : State} (env warm cause) (hs : s.Formed) : (started s env warm cause).Formed := by
  cases warm with
  | false => rfl
  | true => exact Memory.wf_filter _ (lostLines_formed hs)
theorem startFail_formed {s : State} (reason) (hs : s.Formed) : (startFail s reason).Formed := hs
theorem startDone_formed {s : State} (hs : s.Formed) : (startDone s).Formed := hs
theorem startCount_formed {s : State} (hs : s.Formed) : (startCount s).Formed := by
  unfold startCount
  grind [!startDone_formed]
theorem startImage4_formed {s : State} (hs : s.Formed) : (startImage4 s).Formed := by
  unfold startImage4
  grind [!startDone_formed, !startFail_formed]
theorem startTrain_formed {s : State} (hs : s.Formed) : (startTrain s).Formed := by
  unfold startTrain
  grind [!startDone_formed, !startFail_formed]
theorem startFabric_formed {s : State} (hs : s.Formed) : (startFabric s).Formed := hs
theorem startStep_formed {s : State} (hs : s.Formed) : (startStep s).Formed := by
  unfold startStep
  grind [!State.post_formed, !startDone_formed, !startImage4_formed, !startTrain_formed, !startFail_formed, !startCount_formed,
    !startFabric_formed]
theorem flashLands_formed {s : State} (hs : s.Formed) : (flashLands s).Formed := by
  unfold flashLands
  grind [!State.post_formed]
theorem execColdStart_formed (env) {s : State} (hs : s.Formed) : Out.Formed (execColdStart env s) := started_formed _ _ _ hs
theorem warmStart_formed {s : State} (env cause) (hs : s.Formed) : (warmStart s env cause).Formed := by
  unfold warmStart
  split
  · exact started_formed _ _ _ hs
  · exact hs
theorem execWarmrst_formed (env) {s : State} (hs : s.Formed) : Out.Formed (execWarmrst env s) := warmStart_formed _ _ hs
theorem execPerst_formed (port env) {s : State} (hs : s.Formed) : Out.Formed (execPerst port env s) := by
  unfold execPerst
  split
  · exact warmStart_formed _ _ hs
  · exact hs
theorem execWatchdogExpiry_formed (core env) {s : State} (hs : s.Formed) : Out.Formed (execWatchdogExpiry core env s) := by
  unfold execWatchdogExpiry
  grind [Stop.Formed, Out.Formed, !State.irq_formed, !State.setPol_formed, !warmStart_formed]
theorem ready10_formed {s : State} (hs : s.Formed) : (ready10 s).Formed :=
  State.post_formed .flashWrite (Memory.wf_foldl _ (fun _ _ hm => Memory.wf_clear _ _ hm) _ hs)
theorem execReady_formed {s : State} (hs : s.Formed) : Out.Formed (execReady s) := by
  unfold execReady
  split
  · exact ready10_formed hs
  · exact hs
theorem powerOff_formed {s : State} (trip) : (powerOff s trip).Formed := rfl
theorem execPowerLoss_formed {s : State} : Out.Formed (execPowerLoss s) := powerOff_formed _
theorem execThermalTrip_formed {s : State} : Out.Formed (execThermalTrip s) := powerOff_formed _
theorem execPowerCapThrottle_formed {s : State} (hs : s.Formed) : Out.Formed (execPowerCapThrottle s) := hs
theorem execThermalThrottle_formed {s : State} (hs : s.Formed) : Out.Formed (execThermalThrottle s) := hs
theorem execThrottleRelease_formed {s : State} (hs : s.Formed) : Out.Formed (execThrottleRelease s) := hs
theorem interrupt0_formed {s : State} (hs : s.Formed) : (interrupt0 s).Formed := by
  unfold interrupt0
  grind []
theorem execPolicyInterrupt_formed {s : State} (hs : s.Formed) : Out.Formed (execPolicyInterrupt s) := interrupt0_formed hs

/-! ### Machine/PrivReg -/

theorem writeDcfg_formed {s : State} (d v) (hs : s.Formed) : Ends Stop.Formed State.Formed (writeDcfg s d v) :=
  writeWaiting_formed _ (State.setDom_formed _ _ hs)
theorem writeSsctl_formed {s : State} (v) (hs : s.Formed) : Ends Stop.Formed State.Formed (writeSsctl s v) := by
  simp only [writeSsctl, bind, Except.bind]
  grind [Ends, Stop.Formed, !reserved_formed, option_map_eq_match, !require_formed]
theorem writeQuota_formed {s : State} (n v) (hs : s.Formed) : Ends Stop.Formed State.Formed (writeQuota s n v) := by
  simp only [writeQuota, bind, Except.bind]
  grind [Ends, Stop.Formed, !reserved_formed, !require_formed]
theorem writeFabctl_formed {s : State} (v) (hs : s.Formed) : Ends Stop.Formed State.Formed (writeFabctl s v) := by
  unfold writeFabctl
  split <;> exact hs
theorem writeSvnfloor_formed {s : State} (v) (hs : s.Formed) : Ends Stop.Formed State.Formed (writeSvnfloor s v) := by
  unfold writeSvnfloor
  split <;> exact hs
theorem writeQfcfg_formed {s : State} (v) (hs : s.Formed) : Ends Stop.Formed State.Formed (writeQfcfg s v) := by
  simp only [writeQfcfg, bind, Except.bind]
  grind [Ends, Stop.Formed, !reserved_formed, !State.setQueue_formed, !require_formed]
theorem writeQfbase_formed {s : State} (v) (hs : s.Formed) : Ends Stop.Formed State.Formed (writeQfbase s v) := by
  simp only [writeQfbase, bind, Except.bind]
  grind [Ends, Stop.Formed, !reserved_formed, !State.setQueue_formed, !require_formed]
theorem writePinsize_formed {s : State} (v) (hs : s.Formed) : Ends Stop.Formed State.Formed (writePinsize s v) :=
  (require_formed _ reserved_formed).bind fun _ _ => (require_formed _ reserved_formed).bind fun _ _ => Memory.wf_clear _ _ hs
theorem writeL2pq_formed {s : State} (die v) (hs : s.Formed) : Ends Stop.Formed State.Formed (writeL2pq s die v) :=
  (require_formed _ reserved_formed).bind fun _ _ => (require_formed _ reserved_formed).bind fun _ _ => Memory.wf_clear _ _ hs
theorem writeDstartp_formed {s : State} (v) (hs : s.Formed) : Ends Stop.Formed State.Formed (writeDstartp s v) := by
  unfold writeDstartp
  grind [Ends, Stop.Formed, !ready10_formed]
theorem privWrite_formed {s : State} (k num v) (hs : s.Formed) : Ends Stop.Formed State.Formed (privWrite s k num v) := by
  unfold privWrite
  grind [Ends, Stop.Formed, !reserved_formed, !writeQfcfg_formed, !writeSsctl_formed, !writeSvnfloor_formed, !writePinsize_formed,
    !writeL2pq_formed, !writeQfbase_formed, !writeQuota_formed, !writeDstartp_formed, !writeFabctl_formed, !State.setPol_formed, !writeDcfg_formed,
    !warmStart_formed]
theorem privEvent_formed {s : State} {r : Res State} (hs : s.Formed) (hr : Ends Stop.Formed State.Formed r) : Out.Formed (privEvent s r) :=
  @finish_formed { s with party := .policy 0 } false r hs hr
theorem execPrivRegisterWrite_formed (num v) {s : State} (hs : s.Formed) : Out.Formed (execPrivRegisterWrite num v s) := by
  unfold execPrivRegisterWrite
  grind [Stop.Formed, Out.Formed, Ends, !privWrite_formed, !privEvent_formed]
theorem execQfcfgWrite_formed (v) {s : State} (hs : s.Formed) : Out.Formed (execQfcfgWrite v s) := by
  unfold execQfcfgWrite
  grind [Stop.Formed, Out.Formed, Ends, !writeQfcfg_formed, !privEvent_formed]
theorem execQfbaseWrite_formed (v) {s : State} (hs : s.Formed) : Out.Formed (execQfbaseWrite v s) := by
  unfold execQfbaseWrite
  grind [Stop.Formed, Out.Formed, Ends, !writeQfbase_formed, !privEvent_formed]
theorem execPinsizeWrite_formed (v) {s : State} (hs : s.Formed) : Out.Formed (execPinsizeWrite v s) := by
  unfold execPinsizeWrite
  grind [Stop.Formed, Out.Formed, Ends, !writePinsize_formed, !privEvent_formed]
theorem execL2pqWrite_formed (die v) {s : State} (hs : s.Formed) : Out.Formed (execL2pqWrite die v s) := by
  unfold execL2pqWrite
  grind [Stop.Formed, Out.Formed, Ends, !writeL2pq_formed, !privEvent_formed]
theorem execQuotaWrite_formed (num v) {s : State} (hs : s.Formed) : Out.Formed (execQuotaWrite num v s) := by
  unfold execQuotaWrite
  grind [Stop.Formed, Out.Formed, Ends, !writeQuota_formed, !privEvent_formed]
theorem execDcfgWrite_formed (dom v) {s : State} (hs : s.Formed) : Out.Formed (execDcfgWrite dom v s) := by
  unfold execDcfgWrite
  grind [Stop.Formed, Out.Formed, Ends, !writeDcfg_formed, !privEvent_formed]
theorem execSsctlWrite_formed (v) {s : State} (hs : s.Formed) : Out.Formed (execSsctlWrite v s) := by
  unfold execSsctlWrite
  grind [Stop.Formed, Out.Formed, Ends, !writeSsctl_formed, !privEvent_formed]
theorem execFabctlWrite_formed (v) {s : State} (hs : s.Formed) : Out.Formed (execFabctlWrite v s) := by
  unfold execFabctlWrite
  grind [Stop.Formed, Out.Formed, Ends, !writeFabctl_formed, !privEvent_formed]
theorem execSvnfloorWrite_formed (v) {s : State} (hs : s.Formed) : Out.Formed (execSvnfloorWrite v s) := by
  unfold execSvnfloorWrite
  grind [Stop.Formed, Out.Formed, Ends, !writeSvnfloor_formed, !privEvent_formed]

/-! ### Machine/Tape -/

theorem State.setTape_formed {s : State} (t) (hs : s.Formed) : (State.setTape s t).Formed := hs
theorem exhausted_formed {s : State} (hs : s.Formed) : (exhausted s).Formed := hs
theorem State.placeBytes_formed {s : State} (key b) (hs : s.Formed) : Ends Stop.Formed State.Formed (State.placeBytes s key b) := by
  unfold State.placeBytes
  grind [Ends, Stop.Formed, !State.writeBytes_formed, !State.putRemote_formed]
theorem spillBad_formed {s : State} (t n key) (hs : s.Formed) : (spillBad s t n key).Formed := by
  refine foldl_formed (fun u w hu => ?_) _ hs
  exact State.errRecord_formed _ _ _ _ _ hu
theorem evict_formed {s0 s : State} (h0 : s0.Formed) (hs : s.Formed) : Ends Stop.Formed State.Formed (evict s0 s) := by
  dsimp only [evict]
  split
  · exact exhausted_formed h0
  refine (lift_formed _).bind fun l _ => ?_
  split
  · exact (State.placeBytes_formed _ _ hs).bind fun t ht => (State.placeBytes_formed _ _ ht).bind fun u hu =>
      State.setTape_formed _ (State.touch_formed _ _ _ hu)
  · have hp := State.placeBytes_formed l.key (spanBytes s.g.tape s.g.tape.resLo ++ leBytes 4 (SMap.get 0 s.g.tape.crcs s.g.tape.resLo).toNat) hs
    simp only [Except.map, bind, Except.bind]
    grind [Ends, !State.setTape_formed, !State.touch_formed, !spillBad_formed]
theorem evictFor_formed {s0 : State} (cap n) {s : State} (h0 : s0.Formed) (hs : s.Formed) :
    Ends Stop.Formed State.Formed (evictFor s0 cap n s) := by
  induction n generalizing s with
  | zero => exact hs
  | succ n ih =>
    unfold evictFor
    split
    · exact hs
    · exact (evict_formed h0 hs).bind fun t ht => ih ht
theorem tapeAppend_formed {s : State} (n mask rest) (hs : s.Formed) : Ends Stop.Formed State.Formed (tapeAppend s n mask rest) := by
  unfold tapeAppend
  grind [Ends, Stop.Formed, !State.setTape_formed, !evictFor_formed]
theorem crcMismatch_formed {s : State} (key) (hs : s.Formed) : (crcMismatch s key).Formed :=
  State.setTape_formed _ (State.errRecord_formed _ _ _ _ _ hs)
theorem refill_formed {s0 s : State} (h0 : s0.Formed) (hs : s.Formed) : Ends Stop.Formed State.Formed (refill s0 s) := by
  unfold refill
  dsimp only
  split
  · trivial
  · exact (lift_formed _).bind fun l _ => (arrive_formed l _ 128 hs).bind fun _ _ => (require_formed _ (crcMismatch_formed l.key h0)).bind fun _ _ =>
      State.setTape_formed _ (State.touch_formed _ _ _ hs)
theorem refillTo_formed {s0 : State} (w n) {s : State} (h0 : s0.Formed) (hs : s.Formed) : Ends Stop.Formed State.Formed (refillTo s0 w n s) := by
  induction n generalizing s with
  | zero => exact hs
  | succ n ih =>
    unfold refillTo
    split
    · exact hs
    · exact (refill_formed h0 hs).bind fun t ht => ih ht
theorem holdPop_formed {s : State} (x) (hs : s.Formed) : (holdPop s x).Formed := hs
theorem takeRecompute_formed {s : State} (hs : s.Formed) : (takeRecompute s).Formed := by
  unfold takeRecompute
  grind []
theorem markRet_formed {s : State} (hs : s.Formed) : Ends Stop.Formed State.Formed (markRet s) := by
  unfold markRet
  grind [Ends, Stop.Formed, !trapP_formed]
theorem execTapeOpen_formed (a) {s : State} (hs : s.Formed) : Out.Formed (execTapeOpen a s) :=
  finish_formed false hs ((ready_formed [] [a] hs).bind fun _ _ => drain_formed.bind fun _ _ => (recordCheck_formed _ 32).bind fun _ _ =>
    (recordAt_formed _ 4 hs).bind fun _ hu => (require_trap_formed _ _).bind fun _ _ =>
    State.next_formed (State.setTape_formed _ (State.remClear_formed hu)))
theorem mark_formed {s : State} (cls1 id) (hs : s.Formed) : Ends Stop.Formed State.Formed (mark s cls1 id) := by
  unfold mark
  grind [Ends, Stop.Formed, option_map_eq_match, !exhausted_formed, !State.setTape_formed]
theorem execTapeMark_formed (x) {s : State} (hs : s.Formed) : Out.Formed (execTapeMark x s) := by
  simp only [execTapeMark, bind, Except.bind]
  grind [Stop.Formed, Out.Formed, !trapP_formed, Ends, !require_formed, !ready_formed, !State.next_formed, !mark_formed, !markRet_formed,
    !drain_formed, !finish_formed]
theorem execTapeMarkRet_formed (x) {s : State} (hs : s.Formed) : Out.Formed (execTapeMarkRet x s) := by
  simp only [execTapeMarkRet, bind, Except.bind]
  grind [Stop.Formed, Out.Formed, !trapP_formed, Ends, !require_formed, !ready_formed, !markRet_formed, !drain_formed, !finish_formed]
theorem execTapeStat_formed (d) {s : State} (hs : s.Formed) : Out.Formed (execTapeStat d s) := by
  simp only [execTapeStat, bind, Except.bind]
  grind [Stop.Formed, Out.Formed, Ends, !ready_formed, !State.next_formed, !State.wrS_formed, !finish_formed]
theorem execTapeClose_formed {s : State} (hs : s.Formed) : Out.Formed (execTapeClose s) := by
  simp only [execTapeClose, bind, Except.bind]
  grind [Stop.Formed, Out.Formed, Ends, !require_formed, !State.next_formed, !State.setTape_formed, !drain_formed, !finish_formed]
theorem execRecompute_formed (gid) {s : State} (hs : s.Formed) : Out.Formed (execRecompute gid s) := by
  unfold execRecompute
  grind [Stop.Formed, Out.Formed, !onGroup_formed, !takeRecompute_formed]

/-! ### Machine/ScalarSys -/

theorem sysRead_formed {s : State} (num) : Ends Stop.Formed (fun _ => True) (sysRead s num) := by
  unfold sysRead
  grind [Ends, Stop.Formed, !trapP_formed, !reserved_formed]
theorem groupWrite_formed {s : State} (num v) (hs : s.Formed) : Ends Stop.Formed State.Formed (groupWrite s num v) := by
  unfold groupWrite
  grind [Ends, Stop.Formed, !reserved_formed]
theorem execSget_formed (d num) {s : State} (hs : s.Formed) : Out.Formed (execSget d num s) := by
  simp only [execSget, bind, Except.bind]
  grind [Stop.Formed, Out.Formed, Ends, !ready_formed, !State.next_formed, !State.wrS_formed, !sysRead_formed, !finish_formed]
theorem execSgetView_formed (k num) {s : State} (hs : s.Formed) : Out.Formed (execSgetView k num s) := by
  simp only [execSgetView, bind, Except.bind]
  grind [Stop.Formed, Out.Formed, !reserved_formed, Ends, !State.wrC_formed, !State.next_formed, !sysRead_formed, !finish_formed]
theorem execSset_formed (num x) {s : State} (hs : s.Formed) : Out.Formed (execSset num x s) := by
  simp only [execSset, bind, Except.bind]
  grind [Stop.Formed, Out.Formed, !trapP_formed, !reserved_formed, Ends, !ready_formed, !privWrite_formed, !State.next_formed, !groupWrite_formed,
    !finish_formed]
theorem execPerfctlClear_formed (v) {s : State} (hs : s.Formed) : Out.Formed (execPerfctlClear v s) := by
  simp only [execPerfctlClear, bind, Except.bind]
  grind [Stop.Formed, Out.Formed, !reserved_formed, Ends, !require_formed, !State.next_formed, !finish_formed]

/-! ### Machine/Save -/

theorem dropFetched_formed {s : State} (hs : s.Formed) : (dropFetched s).Formed := hs
theorem withdraw_formed {s : State} (d seq) (hs : s.Formed) : (withdraw s d seq).Formed :=
  State.putRecord_formed _ _ _ (State.setDom_formed _ _ hs)
theorem settle_formed {s0 : State} (hs0 : s0.Formed) : (settle s0).Formed := by
  unfold settle
  grind [!dropFetched_formed, !State.abandon_formed, !stopGroup_formed, !withdraw_formed]
theorem State.clearArea_formed {s : State} (a n) (hs : s.Formed) : (State.clearArea s a n).Formed := Memory.wf_clear _ _ hs
theorem State.fields_formed {s : State} (base fs) (hs : s.Formed) : (State.fields s base fs).Formed :=
  foldl_formed (fun _ _ ht => State.write_formed _ _ _ ht) _ hs
theorem saveGroup_formed {s : State} (area offs size g) (hs : s.Formed) : (saveGroup s area offs size g).Formed := by
  unfold saveGroup
  grind [option_map_eq_match, option_getD_eq_match, !State.clearArea_formed, !State.fields_formed]
theorem moveBytes_formed {s : State} (src dst n) (hs : s.Formed) : (moveBytes s src dst n).Formed :=
  Memory.wf_foldl _ (fun _ _ hm => Memory.wf_setByte _ _ hm) _ (Memory.wf_clear _ _ (Memory.wf_clear _ _ hs))
theorem copyBytes_formed {s : State} (src dst n) (hs : s.Formed) : (copyBytes s src dst n).Formed :=
  Memory.wf_foldl _ (fun _ _ hm => Memory.wf_setByte _ _ hm) _ (Memory.wf_clear _ _ hs)
theorem completeLight_formed {s : State} (area gidx) (hs : s.Formed) : (completeLight s area gidx).Formed := by
  unfold completeLight
  grind [!State.write_formed]
theorem saveTeamRecord_formed {s : State} (area t) (hs : s.Formed) : (saveTeamRecord s area t).Formed := State.fields_formed _ _ hs
theorem postAll_formed {s : State} (es : List Ev) (hs : s.Formed) : (es.foldl State.post s).Formed :=
  foldl_formed (fun _ e ht => State.post_formed e ht) _ hs
theorem lightSave_formed {s : State} (hs : s.Formed) : (lightSave s).Formed := by
  unfold lightSave
  grind [!postAll_formed, !dropFetched_formed, !saveTeamRecord_formed, !saveGroup_formed, !completeLight_formed]
theorem saveScratch_formed {s : State} (area tid n offs) (hs : s.Formed) : (saveScratch s area tid n offs).Formed := by
  unfold saveScratch
  split
  · exact hs
  · exact moveBytes_formed _ _ _ hs
theorem completeSave_formed {s : State} (x) (hs : s.Formed) : (completeSave s x).Formed :=
  foldl_formed (fun _ _ ht => State.write_formed _ _ _ ht) _ hs
theorem saveTeam_formed {s : State} (area tid) (hs : s.Formed) : (saveTeam s area tid).Formed := by
  unfold saveTeam
  extract_lets t s1 gs gids
  have h1 : s1.Formed := freeCore_formed t.core hs
  split
  next n p sizes offs _ =>
  extract_lets s2 s3 late s4 shown s5 s6 tiled s7 s8 hold s9 x busy kept s10 s11 s12
  have h3 : s3.Formed := State.fields_formed area _ (State.clearArea_formed area _ h1)
  have h5 : s5.Formed := foldl_formed (fun _ g hu => saveGroup_formed area offs t.tapesz (shown g) hu) gs (show s4.Formed from h3)
  have h6 : s6.Formed := State.fields_formed area _ h5
  have h7 : s7.Formed := by
    dsimp only [s7]
    split
    · exact h6
    · exact State.writeBytes_formed _ _ h6
  have h8 : s8.Formed := State.fields_formed _ _ h7
  have h9 : s9.Formed := by
    dsimp only [s9]
    split
    · exact h8
    · exact saveScratch_formed area tid t.scrsz offs h8
  have h12 : s12.Formed := h9
  split
  · exact State.post_formed _ h12
  · exact completeSave_formed kept h12
theorem deliverLate_formed {s : State} (x) (hs : s.Formed) : (deliverLate s x).Formed := by
  refine foldl_formed (fun t e ht => ?_) _ hs
  split
  · exact State.write_formed _ _ _ ht
  · exact ht
theorem releaseHold_formed {s : State} (x) (hs : s.Formed) : (releaseHold s x).Formed := by
  unfold releaseHold
  grind [option_map_eq_match, !moveBytes_formed, !State.setCore_formed]
theorem execSaveComplete_formed (area) {s : State} (hs : s.Formed) : Out.Formed (execSaveComplete area s) := by
  unfold execSaveComplete
  grind [Stop.Formed, Out.Formed, !State.post_formed, !completeSave_formed, !deliverLate_formed, !releaseHold_formed]
theorem restoreTeam_formed {s : State} (area core) (hs : s.Formed) : Option.Formed (fun a => a.2.Formed) (restoreTeam s area core) := by
  dsimp only [restoreTeam]
  split
  · exact hs
  split
  · trivial
  split
  · exact hs
  split
  · exact hs
  · refine postAll_formed _ ?_
    dsimp only [State.dropSectors, State.setCluster, State.setTeam]
    split
    · exact hs
    · refine copyBytes_formed _ _ _ ?_
      exact hs
theorem execContextRestore_formed (area core) {s : State} (hs : s.Formed) : Out.Formed (execContextRestore area core s) := by
  unfold execContextRestore
  grind [Stop.Formed, Out.Formed, Option.Formed, !State.post_formed, !State.irq_formed, !State.note_formed, !restoreTeam_formed]
theorem saveGang_formed {s : State} (cid areas) (hs : s.Formed) : (saveGang s cid areas).Formed :=
  foldl_formed (fun _ _ ht => saveTeam_formed _ _ ht) _ hs
theorem tryLeave_formed {s : State} (cid) (hs : s.Formed) : (tryLeave s cid).Formed := by
  unfold tryLeave
  grind [!saveGang_formed]
theorem mapGang_formed {s : State} (cid f) (hs : s.Formed) : (mapGang s cid f).Formed := hs
theorem settleForced_formed {s : State} (gs) (hs : s.Formed) : (settleForced s gs).Formed := by
  refine foldl_formed (fun t g ht => onGroup_formed _ ht fun u hu => ?_) _ hs
  split
  · exact settle_formed hu
  · exact hu
theorem forceGang_formed {s : State} (cid sel) (hs : s.Formed) : (forceGang s cid sel).Formed :=
  tryLeave_formed _ (settleForced_formed _ (mapGang_formed _ _ hs))
theorem execYieldRequest_formed (cluster req deadline areas) {s : State} (hs : s.Formed) :
    Out.Formed (execYieldRequest cluster req deadline areas s) := by
  unfold execYieldRequest
  split
  · exact tryLeave_formed _ (mapGang_formed _ _ (State.setCluster_formed _ hs))
  · refine postAll_formed _ (mapGang_formed _ _ (foldl_formed (fun t g ht => ?_) _ hs))
    split
    · exact completeLight_formed _ _ ht
    · exact ht
theorem execForcedPreemption_formed (cluster areas) {s : State} (hs : s.Formed) : Out.Formed (execForcedPreemption cluster areas s) := by
  unfold execForcedPreemption
  split
  · exact forceGang_formed _ _ (State.setCluster_formed _ hs)
  · exact hs
theorem execDeadlineExpiry_formed (cluster areas) {s : State} (hs : s.Formed) : Out.Formed (execDeadlineExpiry cluster areas s) := by
  unfold execDeadlineExpiry
  split
  · exact forceGang_formed _ _ (State.setCluster_formed _ hs)
  · exact hs

/-! ### Machine/LaunchCtl -/

theorem putAt_formed {s : State} (va n v) (hs : s.Formed) : Ends Stop.Formed State.Formed (putAt s va n v) := by
  simp only [putAt, bind, Except.bind]
  grind [Ends, Stop.Formed, !lift_formed, !State.touch_formed, !require_formed, !State.write_formed, !State.putRemote_formed]
theorem putAll_formed {s : State} (va b n) (hs : s.Formed) : Ends Stop.Formed State.Formed (putAll s va b n) := by
  induction n generalizing s va b with
  | zero => exact hs
  | succ n ih => exact (putAt_formed va 8 _ hs).bind fun t ht => ih _ _ ht
theorem edgePush_formed {s : State} (sa sb) (hs : s.Formed) : Ends Stop.Formed (Option.Formed State.Formed) (edgePush s sa sb) := by
  refine (recordCheck_formed sa 128).bind fun _ _ => (recordCheck_formed sb 64).bind fun _ _ => (recordAt_formed sa 16 hs).bind fun ⟨r, t⟩ ht =>
    (recordAt_formed sb 8 ht).bind fun ⟨h, u⟩ hu => ?_
  dsimp only
  split
  · trivial
  split
  · trivial
  · exact (putAll_formed _ _ 16 hu).bind fun _ hu => (putAt_formed _ 4 _ hu).bind fun _ hu => (putAt_formed _ 8 _ hu).bind fun _ hu =>
      (lift_formed _).bind fun _ _ => State.post_formed _ (State.remClear_formed hu)
theorem execLaunchQ_formed (x b) {s : State} (hs : s.Formed) : Out.Formed (execLaunchQ x b s) := by
  simp only [execLaunchQ, bind, Except.bind]
  grind [Stop.Formed, Out.Formed, Option.Formed, Ends, !ready_formed, !State.next_formed, !edgePush_formed, !drain_formed, !State.remClear_formed,
    !State.endRegion_formed, !finish_formed]
theorem execLaunchTry_formed (k a b) {s : State} (hs : s.Formed) : Out.Formed (execLaunchTry k a b s) := by
  refine finish_formed false hs ((ready_formed [] [a, b] hs).bind fun _ _ => (edgePush_formed _ _ hs).bind fun r hr => ?_)
  split
  · exact State.next_formed (State.wrC_formed k false (State.remClear_formed hs))
  · exact drain_formed.bind fun _ _ => State.next_formed (State.wrC_formed k true (State.endRegion_formed hr))
theorem execTrigger_formed {s : State} (hs : s.Formed) : Out.Formed (execTrigger s) := by
  simp only [execTrigger, bind, Except.bind]
  grind [Stop.Formed, Out.Formed, Ends, !State.setLaunch_formed, !State.next_formed, !drain_formed, !finish_formed]
theorem execExit_formed {s : State} (hs : s.Formed) : Out.Formed (execExit s) := by
  simp only [execExit, bind, Except.bind]
  grind [Stop.Formed, Out.Formed, Ends, !tryLeave_formed, !State.leave_formed, !require_formed, !State.setPol_formed, !drain_formed,
    !finish_formed]
theorem execYield_formed {s : State} (hs : s.Formed) : Out.Formed (execYield s) := by
  refine finish_formed false hs ?_
  split
  · exact State.next_formed hs
  split
  · exact hs
  · exact tryLeave_formed _ (lightSave_formed (State.next_formed hs))
theorem icinv_formed {s : State} (hs : s.Formed) : Out.Formed (icinv s) := by
  simp only [icinv, bind, Except.bind]
  grind [Stop.Formed, Out.Formed, Ends, !State.next_formed, !drain_formed, !finish_formed]

/-! ### Machine/Distributor -/

theorem execLaunchPush_formed (queue offset bytes) {s : State} (hs : s.Formed) : Out.Formed (execLaunchPush queue offset bytes s) := by
  unfold execLaunchPush
  grind [Stop.Formed, Out.Formed, !State.post_formed, !State.setQueue_formed, !State.writeBytes_formed]
theorem completeLaunch_formed {s : State} (l code) (hs : s.Formed) : (completeLaunch s l code).Formed := by
  unfold completeLaunch
  grind [!State.post_formed, !State.placeAt_formed, !State.irq_formed, !State.send_formed]
theorem execLaunchComplete_formed (launch) {s : State} (hs : s.Formed) : Out.Formed (execLaunchComplete launch s) := by
  unfold execLaunchComplete
  grind [Stop.Formed, Out.Formed, !State.post_formed, !completeLaunch_formed]
theorem ripen_formed {s : State} (hs : s.Formed) : (ripen s).Formed := hs
theorem beginLaunch_formed {s : State} (src since dom asn prio cls b parent val) (hs : s.Formed) :
    (beginLaunch s src since dom asn prio cls b parent val).Formed := by
  unfold beginLaunch
  grind [!State.post_formed, !State.readBlock_formed, !completeLaunch_formed]
theorem takeEdge_formed {s : State} (dom asn va) (hs : s.Formed) : Option.Formed State.Formed (takeEdge s dom asn va) := by
  simp only [takeEdge, bind]
  grind [Option.Formed, option_bind_eq_match, !poke_formed]
theorem takeRecord_formed (src) {s : State} (hs : s.Formed) : (takeRecord src s).Formed := by
  unfold takeRecord
  have hl := fun cells => State.look_formed (2 ^ 65 + s.nextLaunch) cells hs
  have hi := State.irq_formed 1 hs
  have hp := State.post_formed (.launchTake src) hs
  split
  · exact hs
  · exact hi
  · exact hp
  split
  · exact hp
  · next seq dom asn prio cls b parent _ _ =>
    have h := hl (tableCells s dom asn b)
    generalize s.look _ _ = r at h
    grind [Ends, Option.Formed, option_map_eq_match, !State.post_formed, !State.setQueue_formed, !takeEdge_formed, !State.irq_formed,
      !beginLaunch_formed]
theorem execLaunchTake_formed (src) {s : State} (hs : s.Formed) : Out.Formed (execLaunchTake src s) := takeRecord_formed _ hs
theorem placeTeams_formed (l cid c g0 quads ks) {s : State} (hs : s.Formed) : (placeTeams l cid c g0 quads ks s).Formed := by
  induction ks generalizing s with
  | nil => exact hs
  | cons k ks ih => exact ih (State.dropSectors_formed (c.coreOf k) hs)
theorem execGangPlace_formed (launch die x y quads) {s : State} (hs : s.Formed) : Out.Formed (execGangPlace launch die x y quads s) := by
  unfold execGangPlace
  grind [Stop.Formed, Out.Formed, option_getD_eq_match, !State.post_formed, !reserve_formed, !State.setLaunch_formed, !placeTeams_formed]
theorem startTeam_formed {s : State} (t) (hs : s.Formed) : (startTeam s t).Formed := by
  unfold startTeam
  split <;> exact hs
theorem execGangCommit_formed (launch) {s : State} (hs : s.Formed) : Out.Formed (execGangCommit launch s) := by
  unfold execGangCommit
  split
  · exact foldl_formed (fun _ _ ht => State.post_formed _ (startTeam_formed _ (State.setTeam_formed _ ht))) _ hs
  · exact hs
theorem execTeamReady_formed (team) {s : State} (hs : s.Formed) : Out.Formed (execTeamReady team s) := by
  unfold execTeamReady
  split
  · exact hs
  · exact startTeam_formed _ (State.setTeam_formed _ hs)
theorem passTicket_formed (launch n) {s : State} (hs : s.Formed) : (passTicket launch n s).1.Formed := by
  induction n generalizing s with
  | zero => exact hs
  | succ n ih =>
    unfold passTicket
    split
    · exact hs
    split
    · exact hs
    next l _ _ t _ =>
    have hp := performStaged_formed l.dom l.asn t.tid t.staged hs
    split
    · next e => rw [e] at hp; exact hp
    next e =>
    rw [e] at hp
    split
    · exact hp
    · exact ih hp
theorem passAborted_formed (launch n) {s : State} (hs : s.Formed) : (passAborted launch n s).1.Formed := by
  induction n generalizing s with
  | zero => exact hs
  | succ n ih =>
    unfold passAborted
    split
    · exact hs
    next l _ =>
    dsimp only
    split
    · exact hs
    next t _ =>
    have hp := performStaged_formed l.dom l.asn t.tid t.staged hs
    split
    · exact hs
    split
    · next e => rw [e] at hp; exact hp
    · next e => rw [e] at hp; exact ih hp
theorem execTicketPass_formed (launch) {s : State} (hs : s.Formed) : Out.Formed (execTicketPass launch s) := by
  unfold execTicketPass
  grind [Stop.Formed, Out.Formed, !State.post_formed, !passTicket_formed, !passAborted_formed]

/-! ### Machine/Gleaner -/

theorem sampleCore_formed {s : State} (c) (hs : s.Formed) : (sampleCore s c).Formed := by
  unfold sampleCore
  grind [!State.writeBytes_formed, !State.setCore_formed]
theorem execGleanerSample_formed {s : State} (hs : s.Formed) : Out.Formed (execGleanerSample s) := by
  unfold execGleanerSample
  split
  · exact foldl_formed (fun _ c ht => sampleCore_formed c ht) _ hs
  · exact hs

/-! ### Machine/GridGeom -/

theorem putRaw_formed {s : State} (d part buf c v ls) (hs : s.Formed) : (putRaw s d part buf c v ls).Formed := by
  unfold putRaw
  split
  · exact hs
  split
  · exact State.write_formed _ _ _ hs
  · exact foldl_formed (fun _ _ ht => State.write_formed _ _ _ ht) _ hs
theorem fillWords_formed {s : State} (fs) (hs : s.Formed) : (fillWords s fs).Formed := by
  unfold fillWords
  split <;> exact hs
theorem putCell_formed {s : State} (gr part buf c v) (hs : s.Formed) : Option.Formed State.Formed (putCell s gr part buf c v) := by
  unfold putCell
  grind [Option.Formed, !putRaw_formed]

/-! ### Machine/Grid -/

theorem State.setGrid_formed {s : State} (g) (hs : s.Formed) : (State.setGrid s g).Formed := hs
theorem synthesise_formed {s : State} (gr p) (hs : s.Formed) : (synthesise s gr p).1.Formed := by
  refine foldl_keeps (fun x : State × GridPart => x.1.Formed) (fun x w hx => ?_) _ hs
  have hc := fun v => putCell_formed gr p.part (w.2 % gr.d.nbuf) w.1 v hx
  grind [Option.Formed, option_bind_eq_match]
theorem cellsFor_formed {s : State} (gr part t q) : Ends Stop.Formed (fun _ => True) (cellsFor s gr part t q) := by
  refine (mapM_ends (fun c => ?_) _).bind fun _ _ => trivial
  refine (lift_formed _).bind fun ls _ => ?_
  split <;> trivial
theorem sendTo_formed (gr p t) {s : State} (to_) (hs : s.Formed) : (sendTo gr p t s to_).Formed := by
  unfold sendTo
  grind [!State.post_formed, !State.send_formed]
theorem publish_formed {s : State} (gr part t) (hs : s.Formed) : Ends Stop.Formed State.Formed (publish s gr part t) :=
  (mapM_ends (fun q => cellsFor_formed gr part t q) _).bind fun _ _ =>
    foldl_formed (fun _ _ ht => sendTo_formed _ _ _ _ ht) _ (State.setGrid_formed _ (synthesise_formed _ _ hs))
theorem readOwners_formed {s : State} (a n) (hs : s.Formed) : Ends Stop.Formed (fun a => a.2.Formed) (readOwners s a n) := by
  induction n generalizing s a with
  | zero => exact hs
  | succ n ih =>
    refine (recordAt_formed a 2 hs).bind fun ⟨b, t⟩ ht => ?_
    dsimp only
    split
    · trivial
    · exact (ih _ ht).bind fun _ hu => hu
theorem storageOk_formed {s : State} (gr part) : Ends Stop.Formed (fun _ => True) (storageOk s gr part) := by
  refine (require_trap_formed _ _).bind fun _ _ => forM_ends (fun _ => (lift_formed _).bind fun _ _ => ?_) _
  trivial
theorem execGridBind_formed (g a) {s : State} (hs : s.Formed) : Out.Formed (execGridBind g a s) := by
  refine finish_formed false hs ((ready_formed [] [a] hs).bind fun _ _ => drain_formed.bind fun _ _ => (recordCheck_formed _ 256).bind fun _ _ =>
    (recordAt_formed _ 32 hs).bind fun ⟨b, t⟩ ht => ?_)
  dsimp -zeta only
  split
  · trivial
  refine (readOwners_formed _ _ ht).bind fun ⟨os, u⟩ hu => ?_
  have hr := State.remClear_formed hu
  dsimp -zeta only
  extract_lets v d fresh gr w
  split
  · trivial
  refine (storageOk_formed _ _).bind fun _ _ => ?_
  have hw : w.Formed := by
    dsimp only [w]
    split <;> exact hr
  refine (State.next_formed (State.Formed.of_mem hw ?_) : State.Formed _)
  rfl
theorem slotGrid_formed {s : State} (g) : Ends Stop.Formed (fun _ => True) (slotGrid s g) := by
  unfold slotGrid
  grind [Ends, Stop.Formed, !trapP_formed]
theorem execGridPub_formed (g a) {s : State} (hs : s.Formed) : Out.Formed (execGridPub g a s) := by
  refine finish_formed false hs ((ready_formed [] [a] hs).bind fun _ _ => drain_formed.bind fun _ _ => (slotGrid_formed g).bind fun ⟨gr, part⟩ _ =>
    (State.release_formed .fab).bind fun _ _ => (require_trap_formed _ _).bind fun _ _ => ?_)
  split
  · exact State.next_formed hs
  · exact (require_stall_formed _ _).bind fun _ _ => (State.grants_formed false _ hs).bind fun _ hu => (publish_formed _ _ _ hu).bind fun _ hv =>
      State.next_formed hv
theorem execGridStat_formed (d g) {s : State} (hs : s.Formed) : Out.Formed (execGridStat d g s) := by
  simp only [execGridStat, bind, Except.bind]
  grind [Stop.Formed, Out.Formed, option_getD_eq_match, Ends, !ready_formed, !State.next_formed, !State.wrS_formed, !slotGrid_formed,
    !finish_formed]
theorem writeCells_formed (gr part buf cs) {s : State} (hs : s.Formed) : Option.Formed State.Formed (writeCells gr part buf cs s) := by
  induction cs generalizing s with
  | nil => exact hs
  | cons c cs ih =>
    have hc := putCell_formed gr part buf c.1 c.2 hs
    unfold writeCells
    grind [Option.Formed, option_bind_eq_match]
theorem State.respond_formed {s : State} (p) (hs : s.Formed) : (State.respond s p).Formed := hs
theorem deliver_formed {s : State} (gr x) (hs : s.Formed) : (deliver s gr x).Formed := by
  unfold deliver
  grind [option_map_eq_match, Option.Formed, !State.post_formed, !State.setGrid_formed, !State.dropL1_formed, !State.respond_formed,
    !fillWords_formed, !synthesise_formed, !writeCells_formed]
theorem execHeadlandDelivery_formed (n) {s : State} (hs : s.Formed) : Out.Formed (execHeadlandDelivery n s) := by
  unfold execHeadlandDelivery
  grind [Stop.Formed, Out.Formed, option_map_eq_match, !State.post_formed, !State.errRecord_formed, !deliver_formed]
theorem gridCells_formed {s : State} (m x) : Ends Stop.Formed (fun _ => True) (gridCells s m x) :=
  (slotGrid_formed _).bind fun _ _ => (require_trap_formed _ _).bind fun _ _ => (require_trap_formed _ _).bind fun _ _ =>
    (failLanes_formed _).bind fun _ _ => trivial
theorem stepTag_formed {s : State} (k) : Ends Stop.Formed (fun _ => True) (stepTag s k) := by
  simp only [stepTag, bind, Except.bind]
  grind [Ends, Stop.Formed, !require_formed]
theorem staleWait_formed {s : State} (gr p slot t cs) : Ends Stop.Formed (fun _ => True) (staleWait s gr p slot t cs) := by
  unfold staleWait
  split
  · trivial
  split
  · exact staleTrap_formed _ _ _ _ _
  · trivial
theorem gridLocs_formed {s : State} (gr part t k cs) : Ends Stop.Formed (fun _ => True) (gridLocs s gr part t k cs) :=
  (failLanes_formed _).bind fun _ _ => (require_stall_formed _ _).bind fun _ _ => trivial
theorem State.haloDone_formed {s : State} (hs : s.Formed) : (State.haloDone s).Formed := hs
theorem execGld_formed (m) {s : State} (hs : s.Formed) : Out.Formed (execGld m s) :=
  laneDo_formed _ hs fun _ _ hu => (gridCells_formed _ _).bind fun _ _ => (stepTag_formed _).bind fun _ _ =>
    (staleWait_formed _ _ _ _ _).bind fun _ _ => (gridLocs_formed _ _ _ _ _).bind fun _ _ => (failLanes_formed _).bind fun _ _ =>
    writeField_formed _ _ _ _ _ hu (State.acquire_formed .fab (State.haloDone_formed hu))
theorem execGst_formed (m) {s : State} (hs : s.Formed) : Out.Formed (execGst m s) :=
  laneDo_formed _ hs fun _ _ hu => (gridCells_formed _ _).bind fun _ _ => (stepTag_formed _).bind fun _ _ =>
    (staleTrap_formed _ _ _ _ _).bind fun _ _ => (staleWait_formed _ _ _ _ _).bind fun _ _ => (gridLocs_formed _ _ _ _ _).bind fun _ _ =>
    (State.grants_formed true _ hu).bind fun _ hv => State.setGrid_formed _ (State.dropSectors_formed _ (State.haloDone_formed
      (foldl_formed (fun _ _ ht => putRaw_formed _ _ _ _ _ _ ht) _ (State.fold_formed true _ hv))))
theorem execStaleHaloTimeout_formed (gid) {s : State} (hs : s.Formed) : Out.Formed (execStaleHaloTimeout gid s) := by
  unfold execStaleHaloTimeout
  grind [Stop.Formed, Out.Formed, !onGroup_formed]

/-! ### Machine/Xfer -/

theorem readRange_formed {s : State} (va n) (hs : s.Formed) :
    (∀ e ∈ (readRange s va n).2.1, Stop.Formed e) ∧ (readRange s va n).2.2.Formed := by
  induction n generalizing s va with
  | zero => exact ⟨by simp [readRange], hs⟩
  | succ n ih =>
    have hl := loadRaw_formed va 8 false hs
    unfold readRange
    grind [Ends]
theorem sendXfer_formed (r job) {s : State} (c) (hs : s.Formed) : (sendXfer r job s c).Formed := State.sendOwn_formed _ _ hs
theorem execXfer_formed (d a) {s : State} (hs : s.Formed) : Out.Formed (execXfer d a s) := by
  refine finish_formed false hs ((ready_formed [d] [a] hs).bind fun _ _ => drain_formed.bind fun _ _ => (recordCheck_formed _ 32).bind fun _ _ =>
    (recordAt_formed _ 4 hs).bind fun ⟨b, t⟩ ht => ?_)
  dsimp only
  split
  · trivial
  next r _ =>
  refine (State.release_formed .fab).bind fun _ _ => ?_
  split
  · exact State.next_formed (State.startJob_formed d _ _ (State.endRegion_formed (State.remClear_formed ht)))
  have hr := readRange_formed r.src (r.len / 8) ht
  generalize readRange t r.src (r.len / 8) = q at hr
  obtain ⟨data, stop, u⟩ := q
  obtain ⟨hstop, hu⟩ := hr
  have hsend : ∀ (job : Nat) (cs : List _) {w : State}, w.Formed → (cs.foldl (sendXfer r job) w).Formed := fun job cs _ hw =>
    foldl_formed (fun _ _ ht => sendXfer_formed _ _ _ ht) cs hw
  have hcode : ∀ e ∈ stop, (cpStop u e).Formed := fun e he => cpStop_formed hu (hstop e he)
  dsimp only
  split
  · exact hs
  · refine State.next_formed (State.startJob_formed d _ _ (State.endRegion_formed (hsend _ _ (State.remClear_formed ?_))))
    cases stop with
    | none => exact hu
    | some e =>
      have he := hcode e rfl
      dsimp only [Option.map_some]
      cases h : cpStop u e with
      | code c w => rw [h] at he; exact he
      | wait w st => exact hu
theorem execXferComplete_formed (job) {s : State} (hs : s.Formed) : Out.Formed (execXferComplete job s) := by
  unfold execXferComplete
  grind [Stop.Formed, Out.Formed, !State.post_formed, !State.finishJob_formed]
theorem collSend_formed (dom job c off code b) {s : State} (rank) (hs : s.Formed) : (collSend dom job c off code b s rank).Formed :=
  State.send_formed _ _ hs
theorem collFeed_formed (dom job c) {s : State} (off code acc) (hs : s.Formed) : (collFeed dom job c s off code acc).2.Formed := by
  dsimp only [collFeed]
  split
  · exact foldl_formed (fun _ _ ht => collSend_formed _ _ _ _ _ _ _ ht) _ hs
  · exact collSend_formed _ _ _ _ _ _ _ hs
theorem collPacket_formed (dom job c) {s : State} (p) (hs : s.Formed) : (collPacket dom job c s p).2.Formed := by
  unfold collPacket
  grind [option_getD_eq_match, !collFeed_formed]
theorem commOf_formed {s : State} (dom c : Nat) (hs : s.Formed) : Ends (fun e => e.1.Formed) (fun _ => True) (commOf s dom c) := by
  unfold commOf
  grind [Ends, !State.note_formed]
theorem collRead_formed {s : State} (va n k) (hs : s.Formed) : Ends CpStop.Formed (fun a => a.2.Formed) (collRead s va n k) := by
  induction k generalizing s va with
  | zero => exact hs
  | succ k ih =>
    have hl := loadRaw_formed va n false hs
    unfold collRead
    grind [Ends, !cpStop_formed]
theorem failColl_formed {s : State} (d c code pkgs) (hs : s.Formed) : (failColl s d c code pkgs).Formed :=
  State.next_formed (State.startJob_formed _ _ _ (State.endRegion_formed
    (foldl_formed (fun _ _ ht => collSend_formed _ _ _ _ _ _ _ ht) _ hs)))
theorem startColl_formed {s : State} (d c) (hs : s.Formed) : (startColl s d c).Formed := by
  dsimp only [startColl]
  generalize hx : (if c.finished then _ else _ : Coll × State) = x
  have h : x.2.Formed := by
    subst hx
    split
    · exact hs
    split
    · exact foldl_keeps (fun x : Coll × State => x.2.Formed) (fun _ _ hx => collFeed_formed _ _ _ _ _ _ hx) _ hs
    · exact foldl_keeps (fun x : Coll × State => x.2.Formed) (fun _ _ hx => collPacket_formed _ _ _ _ hx) _ hs
  exact State.next_formed (State.startJob_formed _ _ _ (State.endRegion_formed h))
theorem coll_formed (op d a) {s : State} (hs : s.Formed) : Out.Formed (coll op d a s) := by
  refine finish_formed false hs ((ready_formed [d] [a] hs).bind fun _ _ => drain_formed.bind fun _ _ => (recordCheck_formed _ 64).bind fun _ _ =>
    (recordAt_formed _ 8 hs).bind fun ⟨b, t⟩ ht => ?_)
  dsimp only
  split
  · trivial
  next c _ =>
  refine (State.release_formed .fab).bind fun _ _ => ?_
  split
  · next w code pkgs e =>
    have hw : w.Formed := (commOf_formed _ _ ht).of_error e
    exact failColl_formed d _ _ _ (State.remClear_formed hw)
  split
  · exact startColl_formed d _ (State.remClear_formed ht)
  split
  · exact hs
  · next k w e =>
    have hw : CpStop.Formed (.code k w) := (collRead_formed _ _ _ ht).of_error e
    exact startColl_formed d _ (@State.remClear_formed w hw)
  next own u e =>
  have hu : u.Formed := (collRead_formed _ _ _ ht).of_ok e
  split
  · exact startColl_formed d _ (State.remClear_formed (State.note_formed _ hu))
  · exact (require_stall_formed _ _).bind fun _ _ => (State.grants_formed false _ hu).bind fun _ hv => startColl_formed d _ (State.remClear_formed hv)
theorem collPut_formed (j n v) {s : State} (key) (hs : s.Formed) : (collPut j n v s key).Formed := by
  unfold collPut
  grind [!State.placeAt_formed, !State.send_formed]
theorem endColl_formed {s : State} (j c) (hs : s.Formed) : (endColl s j c).Formed :=
  releaseGone_formed (State.finishJob_formed _ _ (State.dropL1_formed hs))
theorem execCollComplete_formed (job) {s : State} (hs : s.Formed) : Out.Formed (execCollComplete job s) := by
  unfold execCollComplete
  dsimp only [Out.Formed]
  split
  · exact hs
  split
  · next j _ _ c _ =>
    have hf := foldl_formed (fun t (k : Nat × Nat) ht => collPut_formed j (collElem c.ty) (c.result c.stream k.2) k.1 ht)
      c.keys.zipIdx hs
    grind [!State.post_formed, !endColl_formed, !State.setJob_formed]
  · exact hs

/-! ### Machine/Packets -/

theorem State.fabError_formed {s : State} (hs : s.Formed) : (State.fabError s).Formed := State.errRecord_formed _ _ _ _ _ hs
theorem execFabricBadPacket_formed (p) {s : State} (hs : s.Formed) : Out.Formed (execFabricBadPacket p s) := by
  unfold execFabricBadPacket
  split
  · exact State.fabError_formed hs
  · exact hs
theorem targetError_formed {s : State} (n) (hs : s.Formed) : (targetError s n).Formed := State.errRecord_formed _ _ _ _ _ hs
theorem serve_formed {s : State} (type : Nat) (p : Packet) {f : State → State × Nat × DWord × List Byte} (hs : s.Formed)
    (hf : ∀ t : State, t.Formed → (f t).1.Formed) : (serve type p s f).Formed := by
  unfold serve
  grind [!State.respond_formed, !State.fabError_formed]
theorem peerGrants_formed (m as) {s : State} (seen) (hs : s.Formed) : (peerGrants m as s seen).1.Formed := by
  induction as generalizing s seen with
  | nil => exact hs
  | cons a as ih =>
    have hg := grantAt_formed m a 0 0 false hs
    unfold peerGrants
    grind [Ends, Stop.Formed, !State.remClear_formed]
theorem doRead_formed (p) {s : State} (hs : s.Formed) : (doRead p s).Formed := by
  unfold doRead
  grind [!targetError_formed, !serve_formed]
theorem doWrite_formed (p) {s : State} (hs : s.Formed) : (doWrite p s).Formed := by
  unfold doWrite
  grind [!State.writeBytes_formed, !serve_formed]
theorem doAtomic_formed (p) {s : State} (hs : s.Formed) : (doAtomic p s).Formed := by
  unfold doAtomic
  grind [option_getD_eq_match, !targetError_formed, !State.fabError_formed, !State.write_formed, !serve_formed, !contribute_formed]
theorem doVectorRead_formed (p) {s : State} (hs : s.Formed) : (doVectorRead p s).Formed := by
  unfold doVectorRead
  grind [option_map_eq_match, !targetError_formed, !serve_formed]
theorem doVectorWrite_formed (p) {s : State} (hs : s.Formed) : (doVectorWrite p s).Formed := by
  refine serve_formed 5 p hs fun t ht => ?_
  dsimp only
  split
  · exact foldl_formed (fun _ _ hu => State.write_formed _ _ _ hu) _ ht
  · exact ht
theorem doXferData_formed (p) {s : State} (hs : s.Formed) : (doXferData p s).Formed := by
  unfold doXferData
  grind [!targetError_formed, !State.writeBytes_formed, !State.write_formed, !State.dropL1_formed, !serve_formed]
theorem doPacket_formed (p) {s : State} (hs : s.Formed) : (doPacket p s).Formed := by
  unfold doPacket
  grind [!doXferData_formed, !doRead_formed, !doVectorWrite_formed, !doAtomic_formed, !doWrite_formed, !doVectorRead_formed]
theorem bar2Refused_formed {s : State} (dom off) (hs : s.Formed) : (bar2Refused s dom off).Formed := State.setDom_formed _ _ hs
theorem State.hostReads_formed {s : State} (dom off b bad) (hs : s.Formed) : (State.hostReads s dom off b bad).Formed := hs
theorem doBar2_formed (dom off write len) {s : State} (hs : s.Formed) : (doBar2 dom off write len s).Formed := by
  unfold doBar2
  grind [!targetError_formed, !bar2Refused_formed, !State.writeBytes_formed, !State.hostReads_formed]
theorem InReq.perform_formed (x) {s : State} (hs : s.Formed) : (InReq.perform x s).Formed := by
  unfold InReq.perform
  grind [!doPacket_formed, !doBar2_formed]
theorem tryArrival_formed (x) {s : State} (hs : s.Formed) : (tryArrival x s).1.Formed := by
  unfold tryArrival
  grind [Option.Formed, !peerGrants_formed, !InReq.perform_formed]
theorem State.arrives_formed {s : State} (r) (hs : s.Formed) : (State.arrives s r).Formed := by
  unfold State.arrives
  grind [Option.Formed, !tryArrival_formed]
theorem State.retryIn_formed {s : State} (hs : s.Formed) : (State.retryIn s).Formed := by
  refine foldl_formed (fun t x ht => ?_) _ hs
  have ha := tryArrival_formed x ht
  grind
theorem packetArrives_formed (type p) {s : State} (hs : s.Formed) : (packetArrives type p s).Formed := by
  unfold packetArrives
  grind [!State.fabError_formed, !State.arrives_formed]
theorem execFabricRead_formed (p) {s : State} (hs : s.Formed) : Out.Formed (execFabricRead p s) := packetArrives_formed _ _ hs
theorem execFabricWrite_formed (p) {s : State} (hs : s.Formed) : Out.Formed (execFabricWrite p s) := packetArrives_formed _ _ hs
theorem execFabricAtomic_formed (p) {s : State} (hs : s.Formed) : Out.Formed (execFabricAtomic p s) := packetArrives_formed _ _ hs
theorem execFabricVectorRead_formed (p) {s : State} (hs : s.Formed) : Out.Formed (execFabricVectorRead p s) := packetArrives_formed _ _ hs
theorem execFabricVectorWrite_formed (p) {s : State} (hs : s.Formed) : Out.Formed (execFabricVectorWrite p s) := packetArrives_formed _ _ hs
theorem execFabricXferData_formed (p) {s : State} (hs : s.Formed) : Out.Formed (execFabricXferData p s) := packetArrives_formed _ _ hs
theorem collArrive_formed {s : State} (p dom) (hs : s.Formed) : (collArrive s p dom).Formed := by
  unfold collArrive
  grind [!State.setJob_formed, !collPacket_formed]
theorem execFabricCollSegment_formed (p) {s : State} (hs : s.Formed) : Out.Formed (execFabricCollSegment p s) := by
  unfold execFabricCollSegment
  grind [Stop.Formed, Out.Formed, !collArrive_formed, !serve_formed]
theorem deliveryArrive_formed {s : State} (p dom) (hs : s.Formed) : (deliveryArrive s p dom).Formed := State.post_formed _ hs
theorem execFabricHeadlandPacket_formed (p) {s : State} (hs : s.Formed) : Out.Formed (execFabricHeadlandPacket p s) := by
  unfold execFabricHeadlandPacket
  grind [Stop.Formed, Out.Formed, !State.fabError_formed, !deliveryArrive_formed, !State.respond_formed]
theorem adjust_formed {s : State} (d rtt ece) (hs : s.Formed) : (adjust s d rtt ece).Formed := by
  unfold adjust
  grind []
theorem execRateRecovery_formed (pkg) {s : State} (hs : s.Formed) : Out.Formed (execRateRecovery pkg s) := by
  unfold execRateRecovery
  split <;> exact hs
theorem jobAnswer_formed {s : State} (id bytes code) (hs : s.Formed) : (jobAnswer s id bytes code).Formed := by
  unfold jobAnswer
  grind [!State.setJob_formed]
theorem postedFault_formed {s : State} (gid st) (hs : s.Formed) : (postedFault s gid st).Formed := hs
theorem remAnswer_formed {s : State} (r st old data) (hs : s.Formed) : (remAnswer s r st old data).Formed := by
  unfold remAnswer
  grind [option_map_eq_match, !State.irq_formed, !postedFault_formed]
theorem answer_formed {s : State} (r st code old data) (hs : s.Formed) : (answer s r st code old data).Formed := by
  unfold answer
  grind [option_map_eq_match, !remAnswer_formed, !jobAnswer_formed]
theorem State.dropReq_formed {s : State} (r) (hs : s.Formed) : (State.dropReq s r).Formed := hs
theorem execFabricResponse_formed (p) {s : State} (hs : s.Formed) : Out.Formed (execFabricResponse p s) := by
  unfold execFabricResponse
  grind [Stop.Formed, Out.Formed, !State.dropReq_formed, !adjust_formed, !State.fabError_formed, !answer_formed]
theorem timedOut_formed {s : State} (r) (hs : s.Formed) : (timedOut s r).Formed := answer_formed _ _ _ _ _ (State.dropReq_formed _ hs)
theorem execPeerTimeout_formed (gid) {s : State} (hs : s.Formed) : Out.Formed (execPeerTimeout gid s) :=
  foldl_formed (fun _ _ ht => timedOut_formed _ ht) _ hs
theorem execFabricPlaneDown_formed (plane) {s : State} (hs : s.Formed) : Out.Formed (execFabricPlaneDown plane s) := by
  unfold execFabricPlaneDown
  split
  · exact hs
  · exact State.errRecord_formed _ _ _ _ _ hs

/-! ### Machine/HostPort -/

theorem execHostBar2Access_formed (dom off write len) {s : State} (hs : s.Formed) : Out.Formed (execHostBar2Access dom off write len s) := by
  unfold execHostBar2Access
  grind [Stop.Formed, Out.Formed, !State.hostReads_formed, !State.arrives_formed]
theorem queueW1c_formed {s : State} (i v) (hs : s.Formed) : (queueW1c s i v).Formed := hs
theorem msixWrite_formed {s : State} (dom vec upper v) (hs : s.Formed) : (msixWrite s dom vec upper v).Formed := by
  unfold msixWrite
  grind [!State.message_formed, !State.setDom_formed]
theorem execHostRegisterWrite_formed (dom off v) {s : State} (hs : s.Formed) : Out.Formed (execHostRegisterWrite dom off v s) := by
  unfold execHostRegisterWrite
  grind [Stop.Formed, Out.Formed, !msixWrite_formed, !State.setDom_formed, !queueW1c_formed]
theorem execPcieLinkDown_formed (loss) {s : State} (hs : s.Formed) : Out.Formed (execPcieLinkDown loss s) := by
  unfold execPcieLinkDown
  grind [Stop.Formed, Out.Formed, option_map_eq_match, !State.errRecord_formed, !State.setDom_formed]
theorem execPcieLinkUp_formed (port) {s : State} (hs : s.Formed) : Out.Formed (execPcieLinkUp port s) := State.setDom_formed _ _ hs
theorem execPcieCompletion_formed (tag ok data) {s : State} (hs : s.Formed) : Out.Formed (execPcieCompletion tag ok data s) := hs
theorem execAttestCmd_formed (dom v) {s : State} (hs : s.Formed) : Out.Formed (execAttestCmd dom v s) := by
  unfold execAttestCmd
  grind [Stop.Formed, Out.Formed, !State.post_formed, !State.setDom_formed]
theorem execAttestDone_formed (dom) {s : State} (hs : s.Formed) : Out.Formed (execAttestDone dom s) := by
  unfold execAttestDone
  grind [Stop.Formed, Out.Formed, !State.post_formed, !State.setDom_formed]

/-! ### Machine/Integrity -/

theorem State.poisons_formed {s : State} (ps) (hs : s.Formed) : (State.poisons s ps).Formed := hs
theorem tagError_formed {s : State} (granary pa) (hs : s.Formed) : (tagError s granary pa).Formed := by
  unfold tagError
  grind [option_map_eq_match, !State.errRecord_formed, !State.poisons_formed]
theorem strikeGroup_formed {s : State} (gid struct unit fixed f) (hs : s.Formed) : (strikeGroup s gid struct unit fixed f).Formed := by
  unfold strikeGroup
  grind [option_map_eq_match, !State.mapGroups_formed, !State.errRecord_formed]
theorem strikeSram_formed {s : State} (key fixed) (hs : s.Formed) : (strikeSram s key fixed).Formed := by
  unfold strikeSram
  grind [!State.errRecord_formed, !State.poisons_formed]
theorem strikeMessage_formed {s : State} (cid ch prod cons i fixed) (hs : s.Formed) : (strikeMessage s cid ch prod cons i fixed).Formed := by
  unfold strikeMessage
  grind [option_map_eq_match, !State.setCluster_formed, !State.errRecord_formed]
theorem strikeWord_formed {s : State} (pa x) (hs : s.Formed) : (strikeWord s pa x).Formed := by
  unfold strikeWord
  grind [!State.errRecord_formed, !tagError_formed, !State.poisons_formed]
theorem execScrubPass_formed (pa find) {s : State} (hs : s.Formed) : Out.Formed (execScrubPass pa find s) := by
  dsimp only [execScrubPass, Out.Formed]
  have hw := fun f => strikeWord_formed pa f hs
  split
  · exact hs
  split
  · exact strikeGroup_formed _ _ _ _ _ hs
  · exact strikeGroup_formed _ _ _ _ _ hs
  · split
    · exact strikeSram_formed _ _ hs
    · exact hs
  · split
    · exact strikeSram_formed _ _ hs
    · exact hs
  · exact strikeMessage_formed _ _ _ _ _ _ hs
  · exact strikeGroup_formed _ _ _ _ _ hs
  · split
    · exact State.errRecord_formed _ _ _ _ _ hs
    · exact hs
  · exact State.errRecord_formed _ _ _ _ _ hs
  · split
    · exact hw _
    · exact hs
theorem repair_formed {s : State} (rec_ struct unit) (hs : s.Formed) : (repair s rec_ struct unit).Formed := by
  unfold repair
  grind [!State.post_formed, !State.errRecord_formed]
theorem execRowSpare_formed (stack channel row) {s : State} (hs : s.Formed) : Out.Formed (execRowSpare stack channel row s) := by
  unfold execRowSpare
  grind [Stop.Formed, Out.Formed, !repair_formed]
theorem execWayDisable_formed (die slice way granary) {s : State} (hs : s.Formed) : Out.Formed (execWayDisable die slice way granary s) := by
  unfold execWayDisable
  grind [Stop.Formed, Out.Formed, option_map_eq_match, !repair_formed]
theorem execMeshNarrow_formed (link quarter) {s : State} (hs : s.Formed) : Out.Formed (execMeshNarrow link quarter s) := by
  unfold execMeshNarrow
  split <;> exact hs
theorem execMeshWiden_formed (link) {s : State} (hs : s.Formed) : Out.Formed (execMeshWiden link s) := by
  unfold execMeshWiden
  split <;> exact hs
theorem execIssuePromotion_formed (gid lane) {s : State} (hs : s.Formed) : Out.Formed (execIssuePromotion gid lane s) := hs

/-! ### Machine/LaneFloat -/

theorem execVfscale_formed (o) {s : State} (hs : s.Formed) : Out.Formed (execVfscale o s) := by
  unfold execVfscale
  exact laneOp_formed _ _ hs
theorem execVcvt_formed (o) {s : State} (hs : s.Formed) : Out.Formed (execVcvt o s) := by
  unfold execVcvt
  exact laneOp_formed _ _ hs
theorem execVpack_formed (o) {s : State} (hs : s.Formed) : Out.Formed (execVpack o s) := by
  unfold execVpack
  exact laneOp_formed _ _ hs
theorem execVunpack_formed (o) {s : State} (hs : s.Formed) : Out.Formed (execVunpack o s) := by
  dsimp only [execVunpack]
  exact laneDo_formed _ hs fun _ t ht => State.raise_formed _ _ _ ht
theorem statOp_formed {s : State} (v : Forms.LView) {f : LIn → State → Res State} (hs : s.Formed)
    (hf : ∀ (x : LIn) (t : State), t.Formed → Ends Stop.Formed State.Formed (f x t)) : Out.Formed (statOp v f s) := by
  refine finish_formed true hs ?_
  simp only [bind, Except.bind]
  grind [Ends, Stop.Formed, !laneIssueWith_formed, !laneDone_formed]
theorem execVstatGet_formed (o) {s : State} (hs : s.Formed) : Out.Formed (execVstatGet o s) := by
  unfold execVstatGet
  grind [Stop.Formed, Out.Formed, Ends, !writeField_formed, !statOp_formed]
theorem execVstatSet_formed (o) {s : State} (hs : s.Formed) : Out.Formed (execVstatSet o s) := statOp_formed _ hs fun _ _ ht => ht
theorem execVstatClr_formed (o) {s : State} (hs : s.Formed) : Out.Formed (execVstatClr o s) := statOp_formed _ hs fun _ _ ht => ht
theorem execVsow_formed (o) {s : State} (hs : s.Formed) : Out.Formed (execVsow o s) := by
  unfold execVsow
  grind [Stop.Formed, Out.Formed, Ends, !writeField_formed, !laneDo_formed]

/-! ### Machine/Loops -/

theorem State.laneJump_formed {s : State} (i) (hs : s.Formed) : (State.laneJump s i).Formed := hs
theorem openLoop_formed {s : State} (n isW pa cnt go bad) (hs : s.Formed) : Ends Stop.Formed State.Formed (openLoop s n isW pa cnt go bad) := by
  refine (require_trap_formed _ _).bind fun _ _ => (require_trap_formed _ _).bind fun _ _ => (lift_formed _).bind fun _ _ =>
    (require_trap_formed _ _).bind fun _ _ => ?_
  split
  · split
    · exact (lift_formed _).bind fun _ _ => State.laneJump_formed _ hs
    · exact State.laneJump_formed _ hs
  · exact State.laneJump_formed _ hs
theorem execLoopImm_formed (cnt n) {s : State} (hs : s.Formed) : Out.Formed (execLoopImm cnt n s) := by
  simp only [execLoopImm, bind, Except.bind]
  grind [Stop.Formed, Out.Formed, Ends, !needLanes_formed, !openLoop_formed, !finish_formed]
theorem execLoopReg_formed (va n) {s : State} (hs : s.Formed) : Out.Formed (execLoopReg va n s) := by
  simp only [execLoopReg, bind, Except.bind]
  grind [Stop.Formed, Out.Formed, Ends, !needLanes_formed, !require_formed, !openLoop_formed, !finish_formed, !registerError_formed]
theorem execLoopw_formed (pa cap n) {s : State} (hs : s.Formed) : Out.Formed (execLoopw pa cap n s) := by
  simp only [execLoopw, bind, Except.bind]
  grind [Stop.Formed, Out.Formed, !trapP_formed, Ends, !needLanes_formed, !require_formed, !openLoop_formed, !finish_formed]
theorem execEndl_formed {s : State} (hs : s.Formed) : Out.Formed (execEndl s) := by
  simp only [execEndl, bind, Except.bind]
  grind [Stop.Formed, Out.Formed, !trapP_formed, Ends, !needLanes_formed, !require_formed, !finish_formed, !State.laneJump_formed]
theorem execVret_formed {s : State} (hs : s.Formed) : Out.Formed (execVret s) := by
  simp only [execVret, bind, Except.bind]
  grind [Stop.Formed, Out.Formed, !trapP_formed, Ends, !needLanes_formed, !require_formed, !finish_formed]
theorem setEm_formed {t : State} (m) (ht : t.Formed) : Ends Stop.Formed State.Formed (setEm t m) := by
  unfold setEm
  grind [Ends, Stop.Formed]
theorem execEmsetAnd_formed (o) {s : State} (hs : s.Formed) : Out.Formed (execEmsetAnd o s) := by
  unfold execEmsetAnd
  grind [Stop.Formed, Out.Formed, Ends, !setEm_formed, !laneDo_formed]
theorem execEmsetAndn_formed (o) {s : State} (hs : s.Formed) : Out.Formed (execEmsetAndn o s) := by
  unfold execEmsetAndn
  grind [Stop.Formed, Out.Formed, Ends, !setEm_formed, !laneDo_formed]
theorem execEmsetOr_formed (o) {s : State} (hs : s.Formed) : Out.Formed (execEmsetOr o s) := by
  unfold execEmsetOr
  grind [Stop.Formed, Out.Formed, Ends, !setEm_formed, !laneDo_formed]
theorem execEmsetSet_formed (o) {s : State} (hs : s.Formed) : Out.Formed (execEmsetSet o s) := by
  unfold execEmsetSet
  grind [Stop.Formed, Out.Formed, Ends, !setEm_formed, !laneDo_formed]
theorem execEmsetSetHi_formed (o) {s : State} (hs : s.Formed) : Out.Formed (execEmsetSetHi o s) := laneDo_formed _ hs fun _ _ ht => ht

/-! ### Machine/Matrix -/

theorem mxSource_formed {s : State} (x m fc nrow ncol ldb) : Ends Stop.Formed (fun _ => True) (mxSource s x m fc nrow ncol ldb) := by
  refine (require_trap_formed _ _).bind fun _ _ => (require_trap_formed _ _).bind fun _ _ => (require_trap_formed _ _).bind fun _ _ => ?_
  extract_lets rest first
  have hrest : ∀ a, Ends Stop.Formed (fun _ => True) (rest a) := fun a => by
    dsimp -zeta only [rest]
    extract_lets fmt kind w rowBytes stride rows pieces scaled side
    refine (require_trap_formed _ _).bind fun _ _ => (faultsOf_formed _ _).bind fun _ _ => (faultsOf_formed _ _).bind fun _ _ =>
      (require_trap_formed _ _).bind fun _ _ => (require_trap_formed _ _).bind fun _ _ => (faultsOf_formed _ _).bind fun _ _ =>
      (faultsOf_formed _ _).bind fun _ _ => ?_
    clear_value kind
    cases kind with
    | none => trivial
    | some k => exact (require_trap_formed _ _).bind fun _ _ => trivial
  have hfirst : ∀ a, Ends Stop.Formed (fun _ => True) (first a) := fun a => by
    dsimp only [first]
    split
    · exact hrest _
    split
    · split
      · exact hrest _
      · trivial
    · exact hrest _
  split
  · exact hfirst ()
  · exact (require_stall_formed _ _).bind fun _ _ => (require_trap_formed _ _).bind fun _ _ => hfirst ()
theorem mxArrive_formed {s : State} (q) (hs : s.Formed) : Ends Stop.Formed (fun _ => True) (mxArrive s q) := by
  refine (require_stall_formed _ _).bind fun _ _ => (State.remReads_formed _ false hs).bind fun bs _ => ?_
  split
  · exact State.remClear_formed hs
  split <;> trivial
theorem State.loadTile_formed {s : State} (d kind rows) (hs : s.Formed) : (State.loadTile s d kind rows).Formed := hs
theorem mxIssue_formed (v) {s : State} (hs : s.Formed) : Ends Stop.Formed (fun a => a.2.Formed) (mxIssue v s) := by
  simp only [mxIssue, bind, Except.bind]
  grind [Ends, Stop.Formed, !trapP_formed, !needLanes_formed, !require_formed, !laneChecks_formed, !laneIssue_formed]
theorem execMxLdb_formed (m) {s : State} (hs : s.Formed) : Out.Formed (execMxLdb m s) := by
  refine finish_formed true hs ((mxIssue_formed _ hs).bind fun ⟨x, t⟩ ht => (mxSource_formed _ _ _ _ _ _).bind fun q _ =>
    (require_trap_formed _ _).bind fun _ _ => (mxArrive_formed q ht).bind fun _ _ => laneDone_formed _ (State.remClear_formed ?_))
  have hl := State.loadTile_formed m.d.toNat q.kind (q.values t 128) ht
  split
  · exact hl
  · exact State.touchAll_formed _ _ (State.usedL1_formed _ hl)
theorem State.accumulate_formed {s : State} (acc upd f) (hs : s.Formed) : (State.accumulate s acc upd f).Formed := by
  unfold State.accumulate
  grind []
theorem mxProduct_formed {s : State} (m upd kind rows y) (hs : s.Formed) : (mxProduct s m upd kind rows y).Formed := by
  unfold mxProduct
  grind [option_map_eq_match, option_getD_eq_match, !State.accumulate_formed]
theorem mxTile_formed {s : State} (m kind) : Ends Stop.Formed (fun _ => True) (mxTile s m kind) := by
  refine (require_trap_formed _ _).bind fun _ _ => (require_trap_formed _ _).bind fun _ _ => ?_
  split
  · exact (require_trap_formed _ _).bind fun _ _ => trivial
  · trivial
theorem accReadable_formed {s : State} (m upd) (hs : s.Formed) : Ends Stop.Formed (fun _ => True) (accReadable s m upd) := by
  unfold accReadable
  grind [Ends, Stop.Formed, !registerError_formed]
theorem mxMultiply_formed (upd m) {s : State} (hs : s.Formed) : Out.Formed (mxMultiply upd m s) :=
  finish_formed true hs ((mxIssue_formed _ hs).bind fun _ ht => (mxSource_formed _ _ _ _ _ _).bind fun q _ => (mxTile_formed _ _).bind fun _ _ =>
    (mxArrive_formed q ht).bind fun _ _ => (accReadable_formed _ _ ht).bind fun _ _ => laneDone_formed _ (mxProduct_formed _ _ _ _ _ ht))
theorem execMxZero_formed (m) {s : State} (hs : s.Formed) : Out.Formed (execMxZero m s) := by
  simp only [execMxZero, bind, Except.bind]
  grind [Stop.Formed, Out.Formed, Ends, !laneDone_formed, !State.accumulate_formed, !finish_formed, !mxIssue_formed]
theorem pairPrep_formed (west m) {s : State} (hs : s.Formed) : Ends Stop.Formed (fun p => p.t.Formed) (pairPrep west m s) := by
  unfold pairPrep
  split
  · exact (mxIssue_formed _ hs).bind fun _ ht => (require_trap_formed _ _).bind fun _ _ => (mxSource_formed _ _ _ _ _ _).bind fun q _ =>
      (mxTile_formed _ _).bind fun _ _ => (mxArrive_formed q ht).bind fun _ _ => (accReadable_formed _ _ ht).bind fun _ _ => ht
  · exact (mxIssue_formed _ hs).bind fun _ ht => (require_trap_formed _ _).bind fun _ _ =>
      (mxTile_formed _ _).bind fun _ _ => (accReadable_formed _ _ ht).bind fun _ _ => ht
theorem State.unpair_formed {s : State} (gid) (hs : s.Formed) : (State.unpair s gid).Formed := hs
theorem pairWait_formed (west m core) {s : State} (hs : s.Formed) : (pairWait west m core s).Formed := by
  unfold pairWait
  split <;> exact hs
theorem pairGo_formed (west m kind rows) {p : PairSide} (hp : p.t.Formed) : (pairGo west m kind rows p).Formed :=
  laneDone_formed _ (mxProduct_formed _ _ _ _ _ hp)
theorem focusBack_formed {t : State} (gid) (ht : t.Formed) : ((t.focus gid).getD t).Formed := by
  have h := State.focus_formed gid ht
  grind [Option.Formed, option_getD_eq_match]
theorem pairMatch_formed (west m core) {s : State} (own p) (hs : s.Formed) :
    Ends Stop.Formed State.Formed (pairMatch west m core s own p) := by
  have hu := State.unpair_formed p.gid (State.unpair_formed s.g.gid hs)
  have hf := State.focus_formed p.gid hu
  have hp := @pairPrep_formed p.west p.m
  unfold pairMatch
  grind [Ends, Stop.Formed, Option.Formed, !pairWait_formed, !focusBack_formed, !takeTrap_formed, !State.unissue_formed, !pairGo_formed]
theorem mxPair_formed (west m) {s : State} (hs : s.Formed) : Ends Stop.Formed State.Formed (mxPair west m s) := by
  refine (pairPrep_formed west m hs).bind fun own ho => ?_
  split
  · trivial
  dsimp only
  split
  · exact hs
  split
  · exact pairMatch_formed west m _ own _ hs
  · exact pairWait_formed west m _ hs
theorem execMxPairW_formed (m) {s : State} (hs : s.Formed) : Out.Formed (execMxPairW m s) := by
  unfold execMxPairW
  grind [Stop.Formed, Out.Formed, Ends, !finish_formed, !mxPair_formed]
theorem execMxPairE_formed (m) {s : State} (hs : s.Formed) : Out.Formed (execMxPairE m s) := by
  unfold execMxPairE
  grind [Stop.Formed, Out.Formed, Ends, !finish_formed, !mxPair_formed]
theorem execPairTimeout_formed (gid) {s : State} (hs : s.Formed) : Out.Formed (execPairTimeout gid s) := by
  unfold execPairTimeout
  grind [Stop.Formed, Out.Formed, !takeTrap_formed, !onGroup_formed, !State.unpair_formed]

/-! ### Machine/Parking -/

theorem State.parkLane_formed {s : State} (op lpc p) (hs : s.Formed) : (State.parkLane s op lpc p).Formed := by
  unfold State.parkLane
  grind [!State.post_formed, !State.notify_formed, !State.note_formed, !State.readBlock_formed, !State.setCore_formed, !State.putRecord_formed]
theorem parkSome_formed {s : State} (op n ps) (hs : s.Formed) : Ends Stop.Formed State.Formed (parkSome s op n ps) := by
  induction n generalizing s ps with
  | zero => cases ps <;> exact hs
  | succ n ih =>
    cases ps with
    | nil => exact hs
    | cons p ps => exact ih _ (State.parkLane_formed _ _ _ hs)
theorem parkLanes_formed {s : State} (op ps) (hs : s.Formed) : Ends Stop.Formed State.Formed (parkLanes s op ps) := by
  unfold parkLanes
  grind [Ends, Stop.Formed, !State.readBlock_formed, !parkSome_formed]
theorem readDesc_formed {s : State} (va n) (hs : s.Formed) : Ends Stop.Formed (fun a => a.2.Formed) (readDesc s va n) :=
  (recordCheck_formed va n).bind fun _ _ => recordAt_formed va _ hs
theorem State.laneVal_formed {s : State} (op l v) (hs : s.Formed) : (State.laneVal s op l v).Formed :=
  foldl_formed (fun _ a ht => State.gradAddTo_formed _ _ (State.touch_formed a.1 _ _ ht)) _ hs
theorem State.metCore_formed {s : State} (hs : s.Formed) : (State.metCore s).Formed := State.metSectors_formed _ _ hs
theorem renderLanes_formed {s : State} (op sem act opds desc) (hs : s.Formed) :
    Ends Stop.Formed State.Formed (renderLanes s op sem act opds desc) := by
  refine (failLanes_formed _).bind fun _ _ => ?_
  refine (@require_formed _ (.stallIn _ _) (State.askReads_formed true _ hs)).bind fun _ _ => ?_
  refine (require_stall_formed _ _).bind fun _ _ => ?_
  refine (parkLanes_formed op _ (State.metCore_formed hs)).bind fun t ht => ?_
  have h := fun done : List (Nat × LaneVal) =>
    foldl_formed (fun _ (o : Nat × LaneVal) hu => State.laneVal_formed op o.1 o.2 hu) done ht
  exact State.dropSectors_formed _ (State.remClear_formed (State.raise_formed _ _ _ (h _)))
theorem render_formed (v op) {desc : LIn → State → Res (List Byte × State)} (sem region) {s : State} (hs : s.Formed)
    (hd : ∀ x (t : State), t.Formed → Ends Stop.Formed (fun a => a.2.Formed) (desc x t)) : Out.Formed (render v op desc sem region s) := by
  refine finish_formed true hs ((laneIssue_formed v hs).bind fun x ht => (hd _ _ ht).bind fun b hu =>
    (renderLanes_formed _ _ _ _ _ hu).bind fun w hw => ?_)
  have h := laneDone_formed v hw
  dsimp only
  split <;> exact h
theorem noDesc_formed (x) {s : State} (hs : s.Formed) : Ends Stop.Formed (fun a => a.2.Formed) (noDesc x s) := hs
theorem execPark_formed (r code) {s : State} (hs : s.Formed) : Out.Formed (execPark r code s) := by
  unfold execPark
  grind [Stop.Formed, Out.Formed, option_map_eq_match, Ends, !parkLanes_formed, !laneDo_formed]
theorem execRejoin_formed (r) {s : State} (hs : s.Formed) : Out.Formed (execRejoin r s) := by
  simp only [execRejoin, bind, Except.bind]
  grind [Stop.Formed, Out.Formed, Ends, !require_formed, !laneDone_formed, !finish_formed, !laneIssueWith_formed]

/-! ### Machine/Privileged -/

theorem execEret_formed {s : State} (hs : s.Formed) : Out.Formed (execEret s) := by
  simp only [execEret, bind, Except.bind]
  grind [Stop.Formed, Out.Formed, Ends, !needPolicy_formed, !policyReturn_formed, !finish_formed]
theorem tlbinv_formed (src b sel) {s : State} (hs : s.Formed) : Ends Stop.Formed State.Formed (tlbinv src b sel s) := by
  simp only [tlbinv, bind, Except.bind]
  grind [Ends, Stop.Formed, !reserved_formed, !needPolicy_formed, !require_formed, !ready_formed, !State.next_formed]
theorem execTlbinvPage_formed (x b) {s : State} (hs : s.Formed) : Out.Formed (execTlbinvPage x b s) := by
  unfold execTlbinvPage
  grind [Stop.Formed, Out.Formed, Ends, !tlbinv_formed, !finish_formed]
theorem execTlbinvSpace_formed (b) {s : State} (hs : s.Formed) : Out.Formed (execTlbinvSpace b s) := by
  unfold execTlbinvSpace
  grind [Stop.Formed, Out.Formed, Ends, !tlbinv_formed, !finish_formed]
theorem execTlbinvDom_formed (b) {s : State} (hs : s.Formed) : Out.Formed (execTlbinvDom b s) := by
  unfold execTlbinvDom
  grind [Stop.Formed, Out.Formed, Ends, !tlbinv_formed, !finish_formed]
theorem execTlbinvAll_formed {s : State} (hs : s.Formed) : Out.Formed (execTlbinvAll s) := by
  simp only [execTlbinvAll, bind, Except.bind]
  grind [Stop.Formed, Out.Formed, Ends, !needPolicy_formed, !State.next_formed, !finish_formed]
theorem execCtxSave_formed (d x b) {s : State} (hs : s.Formed) : Out.Formed (execCtxSave d x b s) := by
  simp only [execCtxSave, bind, Except.bind]
  grind [Stop.Formed, Out.Formed, option_map_eq_match, Ends, !saveTeam_formed, !needPolicy_formed, !ready_formed, !State.next_formed,
    !State.mapGroups_formed, !State.wrS_formed, !settleForced_formed, !finish_formed]
theorem execCtxLoad_formed (d x b) {s : State} (hs : s.Formed) : Out.Formed (execCtxLoad d x b s) := by
  simp only [execCtxLoad, bind, Except.bind]
  grind [Stop.Formed, Out.Formed, Option.Formed, Ends, !needPolicy_formed, !restoreTeam_formed, !ready_formed, !State.next_formed,
    !State.wrS_formed, !finish_formed]
theorem domCore_formed {s : State} (c dom) (hs : s.Formed) : (domCore s c dom).2.Formed := by
  unfold domCore
  grind [!Memory.wf_clear, !State.setCore_formed]
theorem domQueue_formed {s : State} (i dom) (hs : s.Formed) : (domQueue s i dom).2.Formed := by
  unfold domQueue
  grind [!State.setQueue_formed]
theorem domUnit_formed {s : State} (u dom) (hs : s.Formed) : (domUnit s u dom).2.Formed := by
  have h := State.dropL1_formed hs
  dsimp only [domUnit]
  split
  · exact hs
  split
  · exact hs
  split
  · exact h
  · exact Memory.wf_clear _ _ h
theorem execDomSet_formed (d a b) {s : State} (hs : s.Formed) : Out.Formed (execDomSet d a b s) := by
  refine finish_formed false hs (needPolicy_formed.bind fun _ _ => (ready_formed [d] [a, b] hs).bind fun _ _ =>
    (require_formed _ reserved_formed).bind fun _ _ => (require_formed _ reserved_formed).bind fun _ _ => State.next_formed (State.wrS_formed d _ ?_))
  split
  · exact domCore_formed _ _ hs
  · exact domQueue_formed _ _ hs
  · exact domUnit_formed _ _ hs
theorem execWdt_formed (x) {s : State} (hs : s.Formed) : Out.Formed (execWdt x s) := by
  simp only [execWdt, bind, Except.bind]
  grind [Stop.Formed, Out.Formed, !reserved_formed, Ends, !needPolicy_formed, !require_formed, !ready_formed, !State.next_formed,
    !State.setPol_formed, !finish_formed]

/-! ### Machine/ReplayCtl -/

theorem enterSession_formed {s : State} (m rcd) (hs : s.Formed) : (enterSession s m rcd).Formed := by
  unfold enterSession
  split <;> exact hs
theorem joinSession_formed (play a b) {s : State} (hs : s.Formed) : Out.Formed (joinSession play a b s) :=
  finish_formed false hs ((ready_formed [] [a, b] hs).bind fun _ _ => drain_formed.bind fun _ _ => (recordCheck_formed _ _).bind fun _ _ =>
    (recordAt_formed _ _ hs).bind fun _ ht => (require_trap_formed _ _).bind fun _ _ => (require_trap_formed _ _).bind fun _ _ =>
    State.next_formed (enterSession_formed _ _ (State.remClear_formed ht)))
theorem execReplayChk_formed (d) {s : State} (hs : s.Formed) : Out.Formed (execReplayChk d s) := by
  refine finish_formed false hs ((ready_formed [d] [] hs).bind fun _ _ => drain_formed.bind fun _ _ => ?_)
  split
  · next r m _ _ =>
    have h2 : Stop.Formed (if m.play then trapP .bounds else .trapIn (setStatus s m 2) { code := .bounds }) := by
      split
      · trivial
      · exact setStatus_formed m 2 hs
    refine (require_formed _ h2).bind fun _ _ => ?_
    dsimp only
    split
    · exact (loadS_formed _ 8 false hs).bind fun _ ht => (@require_formed _ (.trapIn _ _) (setStatus_formed m 1 hs)).bind fun _ _ =>
        State.next_formed (State.wrS_formed d _ ht)
    · exact (lift_formed _).bind fun l _ => (State.put_formed l _ 8 _ _ _ (State.touch_formed _ _ _ hs)).bind fun _ ht =>
        State.next_formed (State.wrS_formed d _ ht)
  · trivial
theorem execReplayOff_formed {s : State} (hs : s.Formed) : Out.Formed (execReplayOff s) := by
  simp only [execReplayOff, bind, Except.bind]
  grind [Stop.Formed, Out.Formed, option_map_eq_match, option_getD_eq_match, Ends, !State.next_formed, !drain_formed, !finish_formed]
theorem execStileTimeout_formed (gid) {s : State} (hs : s.Formed) : Out.Formed (execStileTimeout gid s) := by
  unfold execStileTimeout
  grind [Stop.Formed, Out.Formed, option_map_eq_match, !onGroup_formed]

/-! ### Machine/Trace -/

theorem traceDesc_formed (x) {s : State} (hs : s.Formed) : Ends Stop.Formed (fun a => a.2.Formed) (traceDesc x s) := by
  simp only [traceDesc, bind, Except.bind]
  grind [Ends, Stop.Formed, !trapP_formed, !require_formed, !readDesc_formed]
theorem execTrace_formed (r any cullb) {s : State} (hs : s.Formed) : Out.Formed (execTrace r any cullb s) :=
  render_formed _ _ _ _ hs fun x _ ht => traceDesc_formed x ht
theorem execHitAdj_formed (r) {s : State} (hs : s.Formed) : Out.Formed (execHitAdj r s) :=
  render_formed _ _ _ _ hs fun x _ ht => noDesc_formed x ht

/-! ### Machine/Sampler -/

theorem vbDesc_formed (k x) {s : State} (hs : s.Formed) : Ends Stop.Formed (fun a => a.2.Formed) (vbDesc k x s) := by
  simp only [vbDesc, bind, Except.bind]
  grind [Ends, Stop.Formed, !trapP_formed, !require_formed, !readDesc_formed]
theorem execVbRd_formed (r fresh k) {s : State} (hs : s.Formed) : Out.Formed (execVbRd r fresh k s) :=
  render_formed _ _ _ _ hs fun x _ ht => vbDesc_formed k x ht
theorem blockOp_formed (v f) {s : State} (hs : s.Formed) : Out.Formed (blockOp v f s) := by
  simp only [blockOp, bind, Except.bind]
  grind [Stop.Formed, Out.Formed, Ends, !laneDone_formed, !finish_formed, !laneIssue_formed, !State.raise_formed]
theorem execEdgeSamp_formed (r k n1) {s : State} (hs : s.Formed) : Out.Formed (execEdgeSamp r k n1 s) :=
  render_formed _ _ _ _ hs fun x _ ht => vbDesc_formed k x ht

/-! ### Machine/ScalarAlu -/

theorem scalar2_formed (d x b f) {s : State} (hs : s.Formed) : Out.Formed (scalar2 d x b f s) := by
  simp only [scalar2, bind, Except.bind]
  grind [Stop.Formed, Out.Formed, Ends, !ready_formed, !State.next_formed, !State.wrS_formed, !finish_formed]
theorem scalar1_formed (d x f) {s : State} (hs : s.Formed) : Out.Formed (scalar1 d x f s) := by
  simp only [scalar1, bind, Except.bind]
  grind [Stop.Formed, Out.Formed, Ends, !ready_formed, !State.next_formed, !State.wrS_formed, !finish_formed]
theorem compare2_formed (k x b f) {s : State} (hs : s.Formed) : Out.Formed (compare2 k x b f s) := by
  simp only [compare2, bind, Except.bind]
  grind [Stop.Formed, Out.Formed, Ends, !State.wrC_formed, !ready_formed, !State.next_formed, !finish_formed]
theorem compare1_formed (k x f) {s : State} (hs : s.Formed) : Out.Formed (compare1 k x f s) := by
  simp only [compare1, bind, Except.bind]
  grind [Stop.Formed, Out.Formed, Ends, !State.wrC_formed, !ready_formed, !State.next_formed, !finish_formed]
theorem execSlui_formed (d imm) {s : State} (hs : s.Formed) : Out.Formed (execSlui d imm s) := by
  simp only [execSlui, bind, Except.bind]
  grind [Stop.Formed, Out.Formed, Ends, !ready_formed, !State.next_formed, !State.wrS_formed, !finish_formed]
theorem execSsel_formed (d x b k) {s : State} (hs : s.Formed) : Out.Formed (execSsel d x b k s) := by
  simp only [execSsel, bind, Except.bind]
  grind [Stop.Formed, Out.Formed, Ends, !ready_formed, !State.next_formed, !State.wrS_formed, !finish_formed]

/-! ### Machine/ScalarCtl -/

theorem execSbr_formed (neg k off) {s : State} (hs : s.Formed) : Out.Formed (execSbr neg k off s) := by
  refine finish_formed false hs ?_
  split
  · exact (target_formed _).bind fun a _ => State.setPc_formed a hs
  · exact State.next_formed hs
theorem execScall_formed (d off) {s : State} (hs : s.Formed) : Out.Formed (execScall d off s) :=
  finish_formed false hs ((ready_formed [d] [] hs).bind fun _ _ => (target_formed _).bind fun a _ => State.setPc_formed a (State.wrS_formed d _ hs))
theorem execSjr_formed (d a) {s : State} (hs : s.Formed) : Out.Formed (execSjr d a s) :=
  finish_formed false hs ((ready_formed [d] [a] hs).bind fun _ _ => (require_trap_formed _ _).bind fun _ _ => (target_formed _).bind fun a _ =>
    State.setPc_formed a (State.wrS_formed d _ hs))
theorem enqueue_formed {s : State} (idx) (hs : s.Formed) : Ends Stop.Formed State.Formed (enqueue s idx) := by
  unfold enqueue
  grind [Ends, Stop.Formed]
theorem execRun_formed (idx) {s : State} (hs : s.Formed) : Out.Formed (execRun idx s) := by
  simp only [execRun, bind, Except.bind]
  grind [Stop.Formed, Out.Formed, !trapP_formed, Ends, !State.next_formed, !enqueue_formed, !finish_formed]
theorem execRunr_formed (k) {s : State} (hs : s.Formed) : Out.Formed (execRunr k s) := by
  simp only [execRunr, bind, Except.bind]
  grind [Stop.Formed, Out.Formed, !trapP_formed, Ends, !require_formed, !ready_formed, !State.next_formed, !enqueue_formed, !finish_formed]
theorem execSyncL_formed {s : State} (hs : s.Formed) : Out.Formed (execSyncL s) := by
  simp only [execSyncL, bind, Except.bind]
  grind [Stop.Formed, Out.Formed, Ends, !State.next_formed, !drain_formed, !finish_formed]
theorem execRegion_formed {s : State} (hs : s.Formed) : Out.Formed (execRegion s) := by
  simp only [execRegion, bind, Except.bind]
  grind [Stop.Formed, Out.Formed, Ends, !State.next_formed, !drain_formed, !State.endRegion_formed, !finish_formed]
theorem execSyscall_formed (d a b) {s : State} (hs : s.Formed) : Out.Formed (execSyscall d a b s) := by
  refine finish_formed false hs ?_
  split
  · trivial
  · exact (ready_formed [d] [a, b] hs).bind fun _ _ => drain_formed.bind fun _ _ => (require_trap_formed _ _).bind fun _ _ =>
      (require_trap_formed _ _).bind fun _ _ => (require_formed _ (registerError_formed [] hs)).bind fun _ _ =>
      (require_stall_formed _ _).bind fun _ _ =>
      State.setTok_formed d (State.endRegion_formed (State.notify_formed _ _ _ (State.setDom_formed _ _ (State.putRecord_formed _ _ _
        (State.putRecord_formed _ _ _ hs)))))
theorem execBrk_formed (code) {s : State} (hs : s.Formed) : Out.Formed (execBrk code s) := by
  simp only [execBrk, bind, Except.bind]
  grind [Stop.Formed, Out.Formed, !trapP_formed, Ends, !drain_formed, !finish_formed]
theorem execIllegalOpcode_formed (w) {s : State} (hs : s.Formed) : Out.Formed (execIllegalOpcode w s) := 
  @finish_formed s false (.error (trapP .illegalOpcode)) hs trivial
theorem execIllegalLaneOpcode_formed (w) {s : State} (hs : s.Formed) : Out.Formed (execIllegalLaneOpcode w s) := 
  @finish_formed s true (.error (trapP .illegalOpcode)) hs trivial

/-! ### Machine/ScalarMem -/

theorem execSld_formed (d x size n off) {s : State} (hs : s.Formed) : Out.Formed (execSld d x size n off s) := by
  simp only [execSld, bind, Except.bind]
  grind [Stop.Formed, Out.Formed, Ends, !ready_formed, !State.next_formed, !State.wrS_formed, !loadS_formed, !finish_formed]
theorem execSst_formed (d x size off) {s : State} (hs : s.Formed) : Out.Formed (execSst d x size off s) := by
  simp only [execSst, bind, Except.bind]
  grind [Stop.Formed, Out.Formed, Ends, !ready_formed, !State.next_formed, !storeS_formed, !finish_formed]
theorem execSldAcq_formed (d x scope size) {s : State} (hs : s.Formed) : Out.Formed (execSldAcq d x scope size s) := by
  simp only [execSldAcq, bind, Except.bind]
  grind [Stop.Formed, Out.Formed, Ends, !State.acquire_formed, !ready_formed, !State.next_formed, !State.inOrder_formed, !State.wrS_formed,
    !loadS_formed, !finish_formed]
theorem execSstRel_formed (x b scope size) {s : State} (hs : s.Formed) : Out.Formed (execSstRel x b scope size s) := by
  simp only [execSstRel, bind, Except.bind]
  grind [Stop.Formed, Out.Formed, Ends, !ready_formed, !State.next_formed, !State.inOrder_formed, !storeS_formed, !finish_formed]
theorem satom_formed (op d x b scope size) {s : State} (hs : s.Formed) : Out.Formed (satom op d x b scope size s) := by
  simp only [satom, bind, Except.bind]
  grind [Stop.Formed, Out.Formed, Ends, !State.acquire_formed, !ready_formed, !State.next_formed, !State.inOrder_formed, !atomS_formed,
    !State.wrS_formed, !drain_formed, !State.endRegion_formed, !finish_formed]
theorem execSfenceAcq_formed (scope) {s : State} (hs : s.Formed) : Out.Formed (execSfenceAcq scope s) :=
  @finish_formed s false (.ok (s.acquire scope).next) hs (State.next_formed (State.acquire_formed scope hs))
theorem execSfenceRel_formed (scope) {s : State} (hs : s.Formed) : Out.Formed (execSfenceRel scope s) := by
  simp only [execSfenceRel, bind, Except.bind]
  grind [Stop.Formed, Out.Formed, Ends, !State.next_formed, !State.fenced_formed, !State.release_formed, !finish_formed]
theorem execSfenceAr_formed (scope) {s : State} (hs : s.Formed) : Out.Formed (execSfenceAr scope s) := by
  simp only [execSfenceAr, bind, Except.bind]
  grind [Stop.Formed, Out.Formed, Ends, !State.acquire_formed, !State.next_formed, !State.fenced_formed, !State.release_formed, !finish_formed]

/-! ### Machine/Seal -/

theorem execGradSeal_formed (d x b) {s : State} (hs : s.Formed) : Out.Formed (execGradSeal d x b s) := by
  simp only [execGradSeal, bind, Except.bind]
  grind [Stop.Formed, Out.Formed, !trapP_formed, Ends, !require_formed, !ready_formed, !State.next_formed, !drain_formed, !State.startJob_formed,
    !finish_formed]
theorem execGradSealComplete_formed (job) {s : State} (hs : s.Formed) : Out.Formed (execGradSealComplete job s) := by
  unfold execGradSealComplete
  grind [Stop.Formed, Out.Formed, !foldThr_formed, !State.dropL1_formed, !State.finishJob_formed]

/-! ### Machine/Texture -/

theorem texDesc_formed (adj x) {s : State} (hs : s.Formed) : Ends Stop.Formed (fun a => a.2.Formed) (texDesc adj x s) := by
  simp only [texDesc, bind, Except.bind]
  grind [Ends, Stop.Formed, !trapP_formed, !require_formed, !readDesc_formed]
theorem execTex_formed (r) {s : State} (hs : s.Formed) : Out.Formed (execTex r s) :=
  render_formed _ _ _ _ hs fun x _ ht => texDesc_formed false x ht
theorem execTexAdj_formed (r) {s : State} (hs : s.Formed) : Out.Formed (execTexAdj r s) :=
  render_formed _ _ _ _ hs fun x _ ht => texDesc_formed true x ht

/-! ### Machine/Visibility -/

theorem State.setPass_formed {s : State} (n p) (hs : s.Formed) : (State.setPass s n p).Formed := hs
theorem passClear_formed {s : State} (l) (hs : s.Formed) : (passClear s l).Formed := by
  unfold passClear
  split <;> exact hs
theorem passAsk_formed {s : State} (l x) (hs : s.Formed) : (passAsk s l x).Formed := by
  unfold passAsk
  split
  · exact hs
  · exact State.askOne_formed _ _ hs
theorem passWrite_formed {s : State} (l va n v) (hs : s.Formed) : Ends (fun _ => True) State.Formed (passWrite s l va n v) := by
  simp only [passWrite, bind, Except.bind]
  grind [Ends, Stop.Formed, !State.placeAt_formed]
theorem putSamples_formed (l d b x y prim ks) {s : State} (hs : s.Formed) :
    Ends (fun _ => True) State.Formed (putSamples l d b x y prim ks s) := by
  induction ks generalizing s with
  | nil => exact hs
  | cons k ks ih =>
    dsimp only [putSamples]
    split
    · refine (passWrite_formed _ _ _ _ hs).bind fun t ht => ?_
      split
      · exact (passWrite_formed _ _ _ _ ht).bind fun _ hu => ih hu
      · exact ih ht
    · exact ih hs
theorem applyFrag_formed {s : State} (l d b x y prim zs) (hs : s.Formed) : Ends (fun _ => True) State.Formed (applyFrag s l d b x y prim zs) := by
  simp only [applyFrag, bind, Except.bind]
  grind [Ends, Stop.Formed, option_map_eq_match, !putSamples_formed]
theorem putBins_formed (l d k) {s : State} (us) (hs : s.Formed) : Ends (fun _ => True) (fun a => a.1.Formed) (putBins l d k s us) := by
  induction k generalizing s us with
  | zero => exact hs
  | succ k ih =>
    refine (@passWrite_formed { s with fresh := s.fresh + 9 } l _ 64 _ hs).bind fun t ht => ?_
    exact (ends_anyhow _).bind fun _ _ => ih _ ht
theorem coverScalar_formed (launch) {s : State} (hs : s.Formed) : Out.Formed (coverScalar launch s) := by
  unfold coverScalar
  grind [Stop.Formed, Out.Formed, !execExit_formed, !execSyncL_formed, !execRun_formed]
theorem startCover_formed {s : State} (l d fs) (hs : s.Formed) : Option.Formed State.Formed (startCover s l d fs) := by
  unfold startCover
  grind [Option.Formed, option_map_eq_match, option_getD_eq_match, !State.dropSectors_formed, !State.setPass_formed]
theorem passStart_formed {s : State} (l) (hs : s.Formed) : (passStart s l).Formed := by
  unfold passStart
  grind [option_getD_eq_match, !State.post_formed, !State.irq_formed, !passClear_formed, !passAsk_formed, !State.setPass_formed]
theorem settleFrags_formed (n d b fs) {s : State} (hs : s.Formed) : (settleFrags n d b fs s).1.Formed := by
  induction fs generalizing s with
  | nil => exact hs
  | cons f fs ih =>
    unfold settleFrags
    split
    · exact ih hs
    next keep _ =>
    have ha := applyFrag_formed (s.launch n) d b f.x f.y f.prim f.depths hs
    dsimp only
    split
    · exact hs
    next t e =>
    have ht : t.Formed := by grind [Ends]
    exact ih (State.setPass_formed _ _ (passClear_formed _ ht))
theorem startAll_formed (n d k fs) {s : State} (hs : s.Formed) : (startAll n d k fs s).Formed := by
  induction k generalizing s fs with
  | zero => exact hs
  | succ k ih =>
    cases fs with
    | nil => exact hs
    | cons f fs =>
      dsimp only [startAll]
      have hc := startCover_formed (s.launch n) d (((f :: fs.filter fun g => g.bin == f.bin)).take Config.W) hs
      split
      · exact hs
      · next e => rw [e] at hc; exact ih _ hc
theorem passHeld_formed {s : State} (n d b) (hs : s.Formed) : (passHeld s n d b).1.Formed := by
  unfold passHeld
  grind [Stop.Formed, Option.Formed, option_map_eq_match, option_getD_eq_match, !startAll_formed, !settleFrags_formed, !passClear_formed,
    !State.setPass_formed]
theorem passPixels_formed (n d b p k i) {s : State} (hs : s.Formed) : Ends (fun _ => True) State.Formed (passPixels n d b p k i s) := by
  induction k generalizing s i with
  | zero => exact hs
  | succ k ih =>
    dsimp only [passPixels]
    split
    · exact ih _ hs
    split
    · exact (applyFrag_formed _ _ _ _ _ _ _ hs).bind fun t ht => ih _ (State.setPass_formed _ _ ht)
    · exact ih _ (State.setPass_formed _ _ hs)
theorem passPrim_formed {s : State} (n d b) (hs : s.Formed) : Ends (fun _ => True) State.Formed (passPrim s n d b) := by
  refine (ends_anyhow _).bind fun vs _ => ?_
  have hk := fun q => State.post_formed (.visibilityPass n) (State.setPass_formed n q (passClear_formed (s.launch n) hs))
  dsimp only
  split
  · exact hk _
  · exact hk _
  · exact hk _
  split
  · exact (putBins_formed _ _ _ _ hs).bind fun a ha => State.post_formed _ (State.setPass_formed _ _ ha)
  · exact (ends_anyhow _).bind fun _ _ => (ends_anyhow _).bind fun _ _ => (passPixels_formed _ _ _ _ _ _ hs).bind fun _ hu =>
      State.post_formed _ (State.setPass_formed _ _ (passClear_formed _ hu))
theorem passStep_formed {s : State} (l) (hs : s.Formed) : Ends (fun _ => True) State.Formed (passStep s l) := by
  unfold passStep
  grind [Ends, Stop.Formed, Option.Formed, !State.post_formed, !passHeld_formed, !passPrim_formed]
theorem execVisibilityPass_formed (launch) {s : State} (hs : s.Formed) : Out.Formed (execVisibilityPass launch s) := by
  unfold execVisibilityPass
  grind [Stop.Formed, Out.Formed, Ends, !State.post_formed, !passStart_formed, !passAsk_formed, !passStep_formed]
theorem passEnd_formed {s : State} (l code ids) (hs : s.Formed) : Ends (fun _ => True) State.Formed (passEnd s l code ids) := by
  refine (passWrite_formed l _ 64 _ hs).map fun t ht => ?_
  exact State.post_formed (.launchComplete l.num) (State.setPass_formed l.num { l.pass with done := true, code := code } ht)
theorem passFinish_formed {s : State} (l) (hs : s.Formed) : Ends (fun _ => True) State.Formed (passFinish s l) := by
  dsimp only [passFinish]
  split
  · exact passEnd_formed l 4 none hs
  · exact (ends_anyhow _).bind fun ids _ =>
      (foldlM_ends State.Formed (fun _ _ ht => passWrite_formed _ _ _ _ ht) _ hs).bind fun t ht => passEnd_formed l _ _ (passClear_formed l ht)
theorem execPassComplete_formed (launch) {s : State} (hs : s.Formed) : Out.Formed (execPassComplete launch s) := by
  unfold execPassComplete
  grind [Stop.Formed, Out.Formed, Ends, !State.post_formed, !passFinish_formed, !passAsk_formed]
theorem execPassFault_formed (launch) {s : State} (hs : s.Formed) : Out.Formed (execPassFault launch s) := by
  unfold execPassFault
  grind [Stop.Formed, Out.Formed, !State.post_formed, !State.note_formed, !State.readBlock_formed, !gfAppend_formed, !State.setPass_formed]
theorem execDiscard_formed (r) {s : State} (hs : s.Formed) : Out.Formed (execDiscard r s) := by
  unfold execDiscard
  grind [Stop.Formed, Out.Formed, !trapP_formed, option_map_eq_match, Ends, !parkLanes_formed, !laneDo_formed, !State.setPass_formed]
theorem execVdepth_formed (r pd) {s : State} (hs : s.Formed) : Out.Formed (execVdepth r pd s) := by
  refine laneDo_formed _ hs fun x t ht => ?_
  dsimp only
  split
  · exact State.setPass_formed _ _ ht
  · trivial

/-! ### Machine/Service -/

theorem freeLf_formed {s : State} (c seq) (hs : s.Formed) : (freeLf s c seq).Formed := hs
theorem resumeWork_formed {s : State} (p given) (hs : s.Formed) : Ends State.Formed State.Formed (resumeWork s p given) := by
  unfold resumeWork
  grind [Ends, Stop.Formed, !groupTrap_formed, !parkLanes_formed, !State.askReads_formed, !State.raise_formed, !State.laneVal_formed,
    !State.remClear_formed]
theorem resumeLane_formed {s : State} (p disp nval vals) (hs : s.Formed) : Ends State.Formed State.Formed (resumeLane s p disp nval vals) := by
  unfold resumeLane
  grind [Ends, Stop.Formed, !State.acquire_formed, !resumeWork_formed]
theorem execLaneResume_formed (core seq) {s : State} (hs : s.Formed) : Out.Formed (execLaneResume core seq s) := by
  dsimp only [execLaneResume, Out.Formed]
  split
  · exact hs
  have hl := fun ch cells => State.look_formed ch cells hs
  generalize (lfqSlot s core seq + 56, 8) :: _ = cells
  have h := hl (2 ^ 64 + 2 ^ 32 * core + seq) cells
  generalize s.look _ cells = r at h
  split
  · exact State.post_formed _ h
  · exact State.post_formed _ h
  next u val =>
  have h : u.Formed := h
  split
  · exact State.post_formed _ h
  split
  · split
    · exact State.post_formed _ h
    · exact freeLf_formed _ _ h
  next g _ =>
  split
  · exact h
  have hf := State.focus_formed g.gid h
  split
  · exact h
  next t e =>
  rw [e] at hf
  have hr := fun (p : ParkRec) a b c => @resumeLane_formed { freeLf t core seq with
    ch := 2 + p.lane
    g := { (freeLf t core seq).g with parked := (freeLf t core seq).g.parked.filter fun q => !(q.core == core && q.seq == seq) } } p a b c
    (freeLf_formed core seq hf)
  grind [Ends, !State.post_formed]
theorem abortLaunch_formed {s : State} (n) (hs : s.Formed) : (abortLaunch s n).Formed := by
  refine State.post_formed _ (State.post_formed _ ?_)
  refine foldl_formed (fun _ i ht => onGroup_formed i ht fun _ hu => State.leave_formed true hu) _ ?_
  split <;> exact hs
theorem skipInsn_formed {s : State} (lane) (hs : s.Formed) : (skipInsn s lane).Formed := by
  unfold skipInsn
  split
  · exact State.next_formed hs
  · exact hs
theorem disposeGroup_formed {s : State} (t lane disp) (hs : s.Formed) : (disposeGroup s t lane disp).Formed := by
  have hg : ∀ u : State, u.Formed → ({ u.acquire .sys with g := u.g.goOn } : State).Formed := fun u hu => State.acquire_formed .sys hu
  dsimp only [disposeGroup]
  grind [!postAll_formed, !State.next_formed, !skipInsn_formed, !tryLeave_formed, !State.leave_formed, !abortLaunch_formed, !State.acquire_formed]
theorem disposePass_formed {s : State} (n disp) (hs : s.Formed) : (disposePass s n disp).Formed := by
  unfold disposePass
  grind [Ends, Stop.Formed, !State.post_formed, !State.irq_formed, !State.setLaunch_formed, !passClear_formed, !passEnd_formed,
    !State.setPass_formed]
theorem freeGf_formed {s : State} (d seq) (hs : s.Formed) : (freeGf s d seq).Formed := writeWaiting_formed _ (State.setDom_formed _ _ hs)
theorem execFaultDisposition_formed (dom seq) {s : State} (hs : s.Formed) : Out.Formed (execFaultDisposition dom seq s) := by
  dsimp only [execFaultDisposition, Out.Formed]
  split
  · exact hs
  have h := State.look_formed (2 ^ 62 + 2 * seq + dom) [(gfSlot s dom seq + 96, 8), (gfSlot s dom seq + 88, 4)] hs
  generalize s.look _ _ = r at h
  split
  · exact State.post_formed _ h
  · exact State.post_formed _ h
  next u val =>
  have h : u.Formed := h
  have hf := freeGf_formed dom seq h
  split
  · exact State.post_formed _ h
  split
  · exact hf
  split
  · exact disposePass_formed _ _ hf
  · refine onGroup_formed _ (focusBack_formed _ hf) fun t ht => ?_
    split
    · split
      · exact disposeGroup_formed _ _ _ ht
      · exact ht
    · exact ht
  · exact hf
theorem execSyscallReply_formed (gid) {s : State} (hs : s.Formed) : Out.Formed (execSyscallReply gid s) := by
  unfold execSyscallReply
  grind [Stop.Formed, Out.Formed, option_map_eq_match, option_getD_eq_match, Option.Formed, Ends, !State.post_formed, !State.acquire_formed,
    !onGroup_formed, !State.look_formed, !State.next_formed, !State.setDom_formed]
theorem fpClose_formed (core) {s : State} (hs : s.Formed) : (fpClose core s).Formed := by
  unfold fpClose
  grind [option_map_eq_match, !onGroup_formed, !groupTrap_formed, !State.setCore_formed]
theorem execFpTrapCollect_formed (core) {s : State} (hs : s.Formed) : Out.Formed (execFpTrapCollect core s) := by
  unfold execFpTrapCollect
  split
  · exact fpClose_formed _ hs
  · exact hs

/-! ### Machine/Streams -/

theorem startPrefetch_formed {s : State} (x) (hs : s.Formed) : (startPrefetch s x).Formed := by
  unfold startPrefetch
  grind [!State.post_formed]
theorem strmStart_formed {s : State} (dst src) (hs : s.Formed) : Ends Stop.Formed (fun _ => True) (strmStart s dst src) := by
  simp only [strmStart, bind, Except.bind]
  grind [Ends, Stop.Formed, !ready_formed, !drain_formed]
theorem defined_formed {s : State} (k) : Ends Stop.Formed (fun _ => True) (defined s k) := by
  unfold defined
  grind [Ends, Stop.Formed, !trapP_formed]
theorem execStrmDef_formed (k a) {s : State} (hs : s.Formed) : Out.Formed (execStrmDef k a s) := by
  refine finish_formed false hs ((strmStart_formed [] [a] hs).bind fun _ _ => (recordCheck_formed _ 64).bind fun _ _ =>
    (recordAt_formed _ 8 hs).bind fun ⟨b, t⟩ ht => ?_)
  dsimp only
  split
  · trivial
  · exact State.next_formed (startPrefetch_formed _ (@State.remClear_formed t ht))
theorem execStrmBind_formed (j k) {s : State} (hs : s.Formed) : Out.Formed (execStrmBind j k s) := by
  simp only [execStrmBind, bind, Except.bind]
  grind [Stop.Formed, Out.Formed, option_map_eq_match, Ends, !State.next_formed, !defined_formed, !strmStart_formed, !startPrefetch_formed,
    !finish_formed]
theorem execStrmPos_formed (d k) {s : State} (hs : s.Formed) : Out.Formed (execStrmPos d k s) := by
  simp only [execStrmPos, bind, Except.bind]
  grind [Stop.Formed, Out.Formed, Ends, !State.next_formed, !defined_formed, !State.wrS_formed, !strmStart_formed, !finish_formed]
theorem execStrmSeek_formed (k x) {s : State} (hs : s.Formed) : Out.Formed (execStrmSeek k x s) := by
  simp only [execStrmSeek, bind, Except.bind]
  grind [Stop.Formed, Out.Formed, !trapP_formed, Ends, !require_formed, !State.next_formed, !defined_formed, !strmStart_formed,
    !startPrefetch_formed, !finish_formed]
theorem execStrmClose_formed (k) {s : State} (hs : s.Formed) : Out.Formed (execStrmClose k s) := by
  simp only [execStrmClose, bind, Except.bind]
  grind [Stop.Formed, Out.Formed, Ends, !State.next_formed, !defined_formed, !strmStart_formed, !finish_formed]
theorem fetchElem_formed {s : State} (x n) (hs : s.Formed) : (fetchElem s x n).1.Formed := by
  simp only [fetchElem, bind, Except.bind]
  grind [Option.Formed, !lift_formed, Ends, Stop.Formed, !State.touch_formed, !arrive_formed, !elemWords_formed, !State.usedL1_formed]
theorem fetchVec_formed {s : State} (x k n) (hs : s.Formed) : (fetchVec s x k n).1.Formed := by
  induction k generalizing s n with
  | zero => exact hs
  | succ k ih =>
    dsimp only [fetchVec]
    refine ih _ ?_
    split
    · exact fetchElem_formed x n hs
    · exact hs
theorem execStreamPrefetch_formed (gid port) {s : State} (hs : s.Formed) : Out.Formed (execStreamPrefetch gid port s) := by
  unfold execStreamPrefetch
  grind [Stop.Formed, Out.Formed, Option.Formed, !State.post_formed, !onGroup_formed, !fetchVec_formed, !State.setCore_formed,
    !State.remClear_formed]
theorem execStoreEngineWrite_formed (gid port) {s : State} (hs : s.Formed) : Out.Formed (execStoreEngineWrite gid port s) := by
  refine onGroup_formed gid hs fun u hu => ?_
  split
  · exact hu
  next v q _ =>
  have hf := foldlM_ends State.Formed (fun _ (y : QStore) ht => State.put_formed y.loc y.va 4 y.w.toNat u.g.relL false ht) v.elems
    (show State.Formed { u with ch := 34 + port } from hu)
  grind [Ends, !State.post_formed, !State.dropSectors_formed]

/-! ### Machine/TapeLane -/

theorem execTapePush_formed (r n1) {s : State} (hs : s.Formed) : Out.Formed (execTapePush r n1 s) := by
  simp only [execTapePush, bind, Except.bind]
  grind [Stop.Formed, Out.Formed, !trapP_formed, option_map_eq_match, Ends, !require_formed, !tapeAppend_formed, !laneDoRegion_formed]
theorem execTapePop_formed (r n1) {s : State} (hs : s.Formed) : Out.Formed (execTapePop r n1 s) := by
  refine finish_formed true hs ((laneIssue_formed _ hs).bind fun ⟨x, t⟩ ht => (require_trap_formed _ _).bind fun _ _ =>
    (require_trap_formed _ _).bind fun _ _ => ?_)
  split
  · trivial
  split
  · exact holdPop_formed _ hs
  · exact (refillTo_formed _ _ hs ht).bind fun u hu => (require_formed _ (sramError_formed hs)).bind fun _ _ =>
      (require_formed _ (crcMismatch_formed 0 hs)).bind fun _ _ => (require_trap_formed _ _).bind fun _ _ =>
      laneDone_formed _ (State.remClear_formed (State.setTape_formed _ hu))

/-! ### Machine/Dispatch -/

theorem exec_formed (i : Instr) {s : State} (hs : s.Formed) : Out.Formed (exec i s) := by
  cases i with
  | sadd | ssub | smul | smulh | smulhn | sdiv | sdivn | srem | sremn | sand | sor | sxor | sandn | sshl | sshr | ssra | smin | smax | sminn |
    smaxn | ssow => unfold exec; exact scalar2_formed _ _ _ _ hs
  | sclz | spopc | sbrev | saddi | sandi | sori | sxori | sshli | sshri | ssrai | slhi => unfold exec; exact scalar1_formed _ _ _ hs
  | scmpEq | scmpNe | scmpLt | scmpLe | scmpLtn | scmpLen => unfold exec; exact compare2_formed _ _ _ _ hs
  | scmpiEq | scmpiNe | scmpiLt | scmpiLe | scmpiLtn | scmpiLen => unfold exec; exact compare1_formed _ _ _ hs
  | satomAdd | satomExch | satomCas | satomMin | satomMax => unfold exec; exact satom_formed _ _ _ _ _ _ hs
  | cpTensTile | cpTensConv | cpTensGather => unfold exec; exact cpTens_formed _ _ _ _ _ hs
  | collAr | collAg | collRs | collBc => unfold exec; exact coll_formed _ _ _ hs
  | replayRec | replayPlay => unfold exec; exact joinSession_formed _ _ _ hs
  | vnop | vmov | vmovi | vadd | vsub | vaddc | vsubb | vmul | vmulh | vmad | vdiv | vrem | vmin | vmax | vabs | vneg | vand | vor | vxor | vandn |
    vnot | vlop3 | vshl | vshr | vsar | vrot | vfshl | vclz | vpopc | vbrev | vbfx | vbfi | vpermb | vaddi | vmuli | vandi | vori | vxori |
    vshfi | vsad | vdot4 | vcmp | vcmpi | vsel | vclass | psetRange | psetMask | p2v | v2p | vshfl | vlogstep | vscan | vfadd | vfsub | vfmul |
    vfma | vfmin | vfmax | vfdiv | vfsqrt | vfrcp | vfrsq | vfexp2 | vflog2 | vfsin | vfcos | vftanh | vffrc | vfrnd | vfdot2 | vq4encSuper |
    vq4encScale | vq4encCode | vq4dec | ladd | lsub | lmul | ldiv | lcmp | lcvt | lrcp | lneg | vunit => unfold exec; exact laneOp_formed _ _ hs
  | mxMma | mxMma16 => unfold exec; exact mxMultiply_formed _ _ hs
  | bary | baryAdj => unfold exec; exact blockOp_formed _ _ hs
  | icinvTeam | icinvClu | icinvDev | icinvFab | icinvSys => unfold exec; exact icinv_formed hs
  | slui d imm => exact execSlui_formed d imm hs
  | ssel d a b k => exact execSsel_formed d a b k hs
  | sld d a size n off => exact execSld_formed d a size n off hs
  | sst d a size off => exact execSst_formed d a size off hs
  | sldAcq d a scope size => exact execSldAcq_formed d a scope size hs
  | sstRel a b scope size => exact execSstRel_formed a b scope size hs
  | sfenceAcq scope => exact execSfenceAcq_formed scope hs
  | sfenceRel scope => exact execSfenceRel_formed scope hs
  | sfenceAr scope => exact execSfenceAr_formed scope hs
  | sbr neg k off => exact execSbr_formed neg k off hs
  | scall d off => exact execScall_formed d off hs
  | sjr d a => exact execSjr_formed d a hs
  | run idx => exact execRun_formed idx hs
  | runr k => exact execRunr_formed k hs
  | sget d num => exact execSget_formed d num hs
  | sgetView k num => exact execSgetView_formed k num hs
  | sset num a => exact execSset_formed num a hs
  | strmDef k a => exact execStrmDef_formed k a hs
  | strmBind j k => exact execStrmBind_formed j k hs
  | strmPos d k => exact execStrmPos_formed d k hs
  | strmSeek k a => exact execStrmSeek_formed k a hs
  | strmClose k => exact execStrmClose_formed k hs
  | cpTry k t imm => exact execCpTry_formed k t imm hs
  | cluArrive d b => exact execCluArrive_formed d b hs
  | cluWait a b => exact execCluWait_formed a b hs
  | arrSet a b => exact execArrSet_formed a b hs
  | arrWait a => exact execArrWait_formed a hs
  | send a ch => exact execSend_formed a ch hs
  | recv d ch => exact execRecv_formed d ch hs
  | sendTry k a ch => exact execSendTry_formed k a ch hs
  | recvTry d k ch => exact execRecvTry_formed d k ch hs
  | launchQ a b => exact execLaunchQ_formed a b hs
  | launchTry k a b => exact execLaunchTry_formed k a b hs
  | syscall d a b => exact execSyscall_formed d a b hs
  | brk code => exact execBrk_formed code hs
  | xfer d a => exact execXfer_formed d a hs
  | gridBind g a => exact execGridBind_formed g a hs
  | gridPub g a => exact execGridPub_formed g a hs
  | gridStat d g => exact execGridStat_formed d g hs
  | tapeOpen a => exact execTapeOpen_formed a hs
  | tapeMark a => exact execTapeMark_formed a hs
  | tapeStat d => exact execTapeStat_formed d hs
  | gradSeal d a b => exact execGradSeal_formed d a b hs
  | replayChk d => exact execReplayChk_formed d hs
  | tlbinvPage a b => exact execTlbinvPage_formed a b hs
  | tlbinvSpace b => exact execTlbinvSpace_formed b hs
  | tlbinvDom b => exact execTlbinvDom_formed b hs
  | ctxSave d a b => exact execCtxSave_formed d a b hs
  | ctxLoad d a b => exact execCtxLoad_formed d a b hs
  | domSet d a b => exact execDomSet_formed d a b hs
  | wdt a => exact execWdt_formed a hs
  | vmadw o => exact execVmadw_formed o hs
  | vfcmp o => exact execVfcmp_formed o hs
  | plog o => exact execPlog_formed o hs
  | vreduce o => exact execVreduce_formed o hs
  | vballot o => exact execVballot_formed o hs
  | vtopk o => exact execVtopk_formed o hs
  | loopImm cnt n => exact execLoopImm_formed cnt n hs
  | loopReg va n => exact execLoopReg_formed va n hs
  | loopw pa cap n => exact execLoopw_formed pa cap n hs
  | emsetAnd o => exact execEmsetAnd_formed o hs
  | emsetAndn o => exact execEmsetAndn_formed o hs
  | emsetOr o => exact execEmsetOr_formed o hs
  | emsetSet o => exact execEmsetSet_formed o hs
  | emsetSetHi o => exact execEmsetSetHi_formed o hs
  | vfscale o => exact execVfscale_formed o hs
  | vcvt o => exact execVcvt_formed o hs
  | vpack o => exact execVpack_formed o hs
  | vunpack o => exact execVunpack_formed o hs
  | vstatGet o => exact execVstatGet_formed o hs
  | vstatSet o => exact execVstatSet_formed o hs
  | vstatClr o => exact execVstatClr_formed o hs
  | vsow o => exact execVsow_formed o hs
  | vld m => exact execVld_formed m hs
  | vst m => exact execVst_formed m hs
  | vatom m => exact execVatom_formed m hs
  | gradAdd m => exact execGradAdd_formed m hs
  | gld m => exact execGld_formed m hs
  | gst m => exact execGst_formed m hs
  | vfence h kind scope => exact execVfence_formed h kind scope hs
  | mxLdb m => exact execMxLdb_formed m hs
  | mxPairW m => exact execMxPairW_formed m hs
  | mxPairE m => exact execMxPairE_formed m hs
  | mxZero m => exact execMxZero_formed m hs
  | trace r any cullb => exact execTrace_formed r any cullb hs
  | hitAdj r => exact execHitAdj_formed r hs
  | tex r => exact execTex_formed r hs
  | texAdj r => exact execTexAdj_formed r hs
  | vbRd r fresh k => exact execVbRd_formed r fresh k hs
  | edgeSamp r k n1 => exact execEdgeSamp_formed r k n1 hs
  | discard r => exact execDiscard_formed r hs
  | park r code => exact execPark_formed r code hs
  | rejoin r => exact execRejoin_formed r hs
  | vdepth r pd => exact execVdepth_formed r pd hs
  | tapePush r n1 => exact execTapePush_formed r n1 hs
  | tapePop r n1 => exact execTapePop_formed r n1 hs
  | illegalOpcode w => exact execIllegalOpcode_formed w hs
  | illegalLaneOpcode w => exact execIllegalLaneOpcode_formed w hs
  | syncL => exact execSyncL_formed hs
  | region => exact execRegion_formed hs
  | barTeam => exact execBarTeam_formed hs
  | trigger => exact execTrigger_formed hs
  | exit => exact execExit_formed hs
  | yield => exact execYield_formed hs
  | tapeClose => exact execTapeClose_formed hs
  | replayOff => exact execReplayOff_formed hs
  | eret => exact execEret_formed hs
  | tlbinvAll => exact execTlbinvAll_formed hs
  | endl => exact execEndl_formed hs
  | vret => exact execVret_formed hs
  | perfctlClear v => exact execPerfctlClear_formed v hs
  | cpTryTimeout gid => exact execCpTryTimeout_formed gid hs
  | tapeMarkRet a => exact execTapeMarkRet_formed a hs
  | thresherContribution pa val => exact execThresherContribution_formed pa val hs
  | pairTimeout gid => exact execPairTimeout_formed gid hs
  | recompute gid => exact execRecompute_formed gid hs
  | streamPrefetch gid port => exact execStreamPrefetch_formed gid port hs
  | storeEngineWrite gid port => exact execStoreEngineWrite_formed gid port hs
  | copyComplete job => exact execCopyComplete_formed job hs
  | xferComplete job => exact execXferComplete_formed job hs
  | collComplete job => exact execCollComplete_formed job hs
  | headlandDelivery n => exact execHeadlandDelivery_formed n hs
  | staleHaloTimeout gid => exact execStaleHaloTimeout_formed gid hs
  | syscallReply gid => exact execSyscallReply_formed gid hs
  | laneResume core seq => exact execLaneResume_formed core seq hs
  | faultDisposition dom seq => exact execFaultDisposition_formed dom seq hs
  | fpTrapCollect core => exact execFpTrapCollect_formed core hs
  | launchPush queue offset bytes => exact execLaunchPush_formed queue offset bytes hs
  | launchTake src => exact execLaunchTake_formed src hs
  | gangPlace launch die x y quads => exact execGangPlace_formed launch die x y quads hs
  | gangCommit launch => exact execGangCommit_formed launch hs
  | teamReady team => exact execTeamReady_formed team hs
  | launchComplete launch => exact execLaunchComplete_formed launch hs
  | yieldRequest cluster req deadline areas => exact execYieldRequest_formed cluster req deadline areas hs
  | deadlineExpiry cluster areas => exact execDeadlineExpiry_formed cluster areas hs
  | forcedPreemption cluster areas => exact execForcedPreemption_formed cluster areas hs
  | saveComplete area => exact execSaveComplete_formed area hs
  | contextRestore area core => exact execContextRestore_formed area core hs
  | ticketPass launch => exact execTicketPass_formed launch hs
  | stileTimeout gid => exact execStileTimeout_formed gid hs
  | gleanerSample => exact execGleanerSample_formed hs
  | visibilityPass launch => exact execVisibilityPass_formed launch hs
  | passComplete launch => exact execPassComplete_formed launch hs
  | passFault launch => exact execPassFault_formed launch hs
  | peerTimeout gid => exact execPeerTimeout_formed gid hs
  | fabricRead p => exact execFabricRead_formed p hs
  | fabricWrite p => exact execFabricWrite_formed p hs
  | fabricAtomic p => exact execFabricAtomic_formed p hs
  | fabricVectorRead p => exact execFabricVectorRead_formed p hs
  | fabricVectorWrite p => exact execFabricVectorWrite_formed p hs
  | fabricXferData p => exact execFabricXferData_formed p hs
  | fabricCollSegment p => exact execFabricCollSegment_formed p hs
  | fabricHeadlandPacket p => exact execFabricHeadlandPacket_formed p hs
  | fabricResponse p => exact execFabricResponse_formed p hs
  | fabricBadPacket p => exact execFabricBadPacket_formed p hs
  | rateRecovery pkg => exact execRateRecovery_formed pkg hs
  | fabricPlaneDown plane => exact execFabricPlaneDown_formed plane hs
  | meshNarrow link quarter => exact execMeshNarrow_formed link quarter hs
  | meshWiden link => exact execMeshWiden_formed link hs
  | pcieLinkDown loss => exact execPcieLinkDown_formed loss hs
  | hostBar2Access dom off write len => exact execHostBar2Access_formed dom off write len hs
  | hostRegisterWrite dom off v => exact execHostRegisterWrite_formed dom off v hs
  | attestCmd dom v => exact execAttestCmd_formed dom v hs
  | attestDone dom => exact execAttestDone_formed dom hs
  | privRegisterWrite num v => exact execPrivRegisterWrite_formed num v hs
  | qfcfgWrite v => exact execQfcfgWrite_formed v hs
  | qfbaseWrite v => exact execQfbaseWrite_formed v hs
  | pinsizeWrite v => exact execPinsizeWrite_formed v hs
  | l2pqWrite die v => exact execL2pqWrite_formed die v hs
  | quotaWrite num v => exact execQuotaWrite_formed num v hs
  | dcfgWrite dom v => exact execDcfgWrite_formed dom v hs
  | ssctlWrite v => exact execSsctlWrite_formed v hs
  | fabctlWrite v => exact execFabctlWrite_formed v hs
  | svnfloorWrite v => exact execSvnfloorWrite_formed v hs
  | warmrst env => exact execWarmrst_formed env hs
  | ready => exact execReady_formed hs
  | policyInterrupt => exact execPolicyInterrupt_formed hs
  | watchdogExpiry core env => exact execWatchdogExpiry_formed core env hs
  | coldStart env => exact execColdStart_formed env hs
  | perst port env => exact execPerst_formed port env hs
  | scrubPass pa find => exact execScrubPass_formed pa find hs
  | rowSpare stack channel row => exact execRowSpare_formed stack channel row hs
  | wayDisable die slice way granary => exact execWayDisable_formed die slice way granary hs
  | powerCapThrottle => exact execPowerCapThrottle_formed hs
  | thermalThrottle => exact execThermalThrottle_formed hs
  | thermalTrip => exact execThermalTrip_formed
  | gradSealComplete job => exact execGradSealComplete_formed job hs
  | powerLoss => exact execPowerLoss_formed
  | pcieLinkUp port => exact execPcieLinkUp_formed port hs
  | pcieCompletion tag ok data => exact execPcieCompletion_formed tag ok data hs
  | issuePromotion gid lane => exact execIssuePromotion_formed gid lane hs
  | throttleRelease => exact execThrottleRelease_formed hs

/-! ### Machine/Events -/

theorem perform_formed (e) {s : State} (hs : s.Formed) : Out.Formed (perform e s) := by
  cases e with
  | copyComplete j => exact execCopyComplete_formed j hs
  | xferComplete j => exact execXferComplete_formed j hs
  | collComplete j => exact execCollComplete_formed j hs
  | gradSealComplete j => exact execGradSealComplete_formed j hs
  | streamPrefetch g p => exact execStreamPrefetch_formed g p hs
  | storeEngineWrite g p => exact execStoreEngineWrite_formed g p hs
  | recompute g => exact execRecompute_formed g hs
  | syscallReply g => exact execSyscallReply_formed g hs
  | headlandDelivery n => exact execHeadlandDelivery_formed n hs
  | launchTake x => exact execLaunchTake_formed x hs
  | gangCommit l => exact execGangCommit_formed l hs
  | teamReady t => exact execTeamReady_formed t hs
  | launchComplete l => exact execLaunchComplete_formed l hs
  | ticketPass l => exact execTicketPass_formed l hs
  | saveComplete a => exact execSaveComplete_formed a hs
  | visibilityPass l => exact execVisibilityPass_formed l hs
  | passComplete l => exact execPassComplete_formed l hs
  | passFault l => exact execPassFault_formed l hs
  | laneResume c q => exact execLaneResume_formed c q hs
  | faultDisposition d q => exact execFaultDisposition_formed d q hs
  | attestDone d => exact execAttestDone_formed d hs
  | contextRestore a c => exact execContextRestore_formed a c hs
  | startStep => exact startStep_formed hs
  | flashWrite => exact flashLands_formed hs

/-! ### Machine/Sched -/

theorem runScalar_formed (w) {s : State} (hs : s.Formed) : Out.Formed (runScalar w s) := by
  unfold runScalar
  grind [Stop.Formed, Out.Formed, !takeTrap_formed, !execIllegalOpcode_formed, !exec_formed]
theorem runLane_formed (w) {s : State} (hs : s.Formed) : Out.Formed (runLane w s) := by
  unfold runLane
  grind [Stop.Formed, Out.Formed, !takeTrap_formed, !exec_formed, !execIllegalLaneOpcode_formed]
theorem issueScalar_formed {s : State} (hs : s.Formed) : Out.Formed (issueScalar s) := by
  unfold issueScalar
  grind [Stop.Formed, Out.Formed, !takeTrap_formed, !runScalar_formed, !coverScalar_formed]
theorem issueLane_formed {s : State} (hs : s.Formed) : Out.Formed (issueLane s) := by
  unfold issueLane
  grind [Stop.Formed, Out.Formed, !takeTrap_formed, !runLane_formed]
theorem Out.map_formed {o : Out} {f : State → State} (ho : o.Formed) (hf : ∀ t : State, t.Formed → (f t).Formed) : (Out.map f o).Formed := by
  cases o with
  | next t => exact hf t ho
  | fault _ => trivial
  | refused _ => trivial
theorem issuePolicy_formed (k) {s : State} (hs : s.Formed) : Out.Formed (issuePolicy k s) := by
  unfold issuePolicy
  grind [Stop.Formed, Out.Formed, option_map_eq_match, !interrupt0_formed, !runScalar_formed, !State.enterPolicy_formed, !State.leavePolicy_formed,
    !Out.map_formed]
theorem counted_formed (lane mx free gid) {s : State} (hs : s.Formed) : (counted lane mx free gid s).Formed := by
  unfold counted
  grind []
theorem moveStream_formed (lane) {s : State} (hs : s.Formed) : Out.Formed (moveStream lane s) := by
  unfold moveStream
  grind [Stop.Formed, Out.Formed, option_map_eq_match, !State.wait_formed, !issueScalar_formed, !Out.map_formed, !counted_formed,
    !issueLane_formed]
theorem drawRest_formed {s : State} (lane) (hs : s.Formed) : (drawRest s lane).Formed := by
  unfold drawRest
  grind [option_getD_eq_match]
theorem readyStream_formed (lane) {s : State} (hs : s.Formed) : (readyStream lane s).1.Formed := by
  have hd := @drawRest_formed { s with party := .group } lane hs
  have hm := fun t ht => @moveStream_formed lane t ht
  unfold readyStream
  grind [Out.Formed]
theorem readyAll_formed {s : State} (hs : s.Formed) : (readyAll s).1.Formed := by
  refine foldl_keeps (fun a : State × List (Nat × Bool) => a.1.Formed) (fun a p ha => ?_) _ hs
  have hf := State.focus_formed p.1 ha
  grind [Option.Formed, !readyStream_formed]
theorem closeWindows_formed {s : State} (hs : s.Formed) : (closeWindows s).Formed := by
  refine foldl_formed (fun t c ht => ?_) _ hs
  split
  · exact fpClose_formed c ht
  · exact ht
theorem newCk_formed {s : State} (hs : s.Formed) : Out.Formed (newCk s) := by
  unfold newCk
  grind [Stop.Formed, Out.Formed, option_map_eq_match, !State.pump_formed, !reserve_formed, !State.retryIn_formed, !State.mapGroups_formed,
    !ripen_formed, !readyAll_formed, !execGleanerSample_formed, !closeWindows_formed]
theorem issuePick_formed (p rest) {s : State} (hs : s.Formed) : Out.Formed (issuePick p rest s) := by
  unfold issuePick
  grind [Stop.Formed, Out.Formed, Option.Formed, !moveStream_formed, !State.focus_formed]
theorem issueAt_formed (k) {s : State} (hs : s.Formed) : Out.Formed (issueAt k s) := by
  unfold issueAt
  grind [Stop.Formed, Out.Formed, option_map_eq_match, !issuePick_formed, !Out.map_formed]
theorem settleStop_formed {s : State} (hs : s.Formed) : (settleStop s).Formed := by
  unfold settleStop
  split
  · exact stopGroup_formed _ _ hs
  · exact hs
theorem takeOwed_formed {s : State} (hs : s.Formed) : (takeOwed s).Formed := by
  unfold takeOwed
  split
  · exact hs
  · exact takeTrap_formed _ _ hs
theorem loopGroup_formed {s : State} (hs : s.Formed) : Option.Formed State.Formed (loopGroup s) := by
  cases h : loopGroup s with
  | none => trivial
  | some t =>
    obtain ⟨g, _, hg⟩ := List.mem_filterMap.mp (List.mem_of_find?_eq_some h)
    have hf := State.focus_formed g.gid hs
    rw [hg] at hf
    exact hf
theorem ck_formed {s : State} (hs : s.Formed) : Out.Formed (ck s) := by
  unfold ck
  grind [Stop.Formed, Out.Formed, Option.Formed, !settleStop_formed, !drawRest_formed, !onGroup_formed, !moveStream_formed, !newCk_formed,
    !execDeadlineExpiry_formed, !loopGroup_formed, !forceGang_formed, !issueAt_formed, !takeOwed_formed]
theorem moveOff_formed (x) {s : State} (hs : s.Formed) : Out.Formed (moveOff x s) := by
  unfold moveOff
  grind [Stop.Formed, Out.Formed, !exec_formed]
theorem moveOn_formed (x) {s : State} (hs : s.Formed) : Out.Formed (moveOn x s) := by
  unfold moveOn
  grind [Stop.Formed, Out.Formed, !perform_formed, !exec_formed, !ck_formed, !issueAt_formed, !issuePolicy_formed]
theorem move_formed (x) {s : State} (hs : s.Formed) : Out.Formed (move x s) := by
  unfold move
  grind [Stop.Formed, Out.Formed, !moveOff_formed, !moveOn_formed]
theorem advance_formed {s : State} (hs : s.Formed) : Out.Formed (advance s) := by
  unfold advance
  grind [Stop.Formed, Out.Formed, !move_formed]

/-! ### Machine/Step -/

theorem step_formed {s : State} (hs : s.Formed) : Out.Formed (step s) := by
  unfold step
  grind [Stop.Formed, Out.Formed, !advance_formed]

/-- Settles O60: `step` is made of functions that keep memory in form, whatever party moves. -/
theorem everyStepKeepsTheMemorysForm : Obligations.EveryStepKeepsTheMemorysForm := by
  intro s t hs h
  have ht := step_formed hs
  rw [h] at ht
  exact ht

end Sys2Proof.Machine
end

section
/-!
# Memory is its bytes (R5)

The canonical form makes a sparse map the list of what it answers: two maps in form that answer alike are one.
-/
namespace Sys2Proof.Machine

/-- A map in form above `j` lists no key up to `j`. -/
theorem SMap.get_of_wfFrom {α : Type} [DecidableEq α] {d : α} {m : SMap α} {j k : Nat} (h : SMap.wfFrom d (some j) m = true) (hk : k ≤ j) :
    SMap.get d m k = d := by
  induction m generalizing j with
  | nil => rfl
  | cons x t ih =>
    simp only [SMap.wfFrom, Bool.and_eq_true, decide_eq_true_eq] at h
    obtain ⟨⟨hj, _⟩, ht⟩ := h
    rw [SMap.get, if_neg (by omega), ih ht (by omega)]

/-- The first key of a map in form answers a value that is not the default. -/
theorem SMap.get_first_ne {α : Type} [DecidableEq α] {d : α} {lo : Option Nat} {x : Nat × α} {t : SMap α}
    (h : SMap.wfFrom d lo (x :: t) = true) : SMap.get d (x :: t) x.1 ≠ d := by
  simp only [SMap.wfFrom, Bool.and_eq_true, bne_iff_ne] at h
  simpa [SMap.get] using h.1.2

/-- Below its first key a map in form answers the default. -/
theorem SMap.get_below_first {α : Type} [DecidableEq α] {d : α} {lo : Option Nat} {x : Nat × α} {t : SMap α} {k : Nat}
    (h : SMap.wfFrom d lo (x :: t) = true) (hk : k < x.1) : SMap.get d (x :: t) k = d := by
  simp only [SMap.wfFrom, Bool.and_eq_true] at h
  rw [SMap.get, if_neg (by omega), SMap.get_of_wfFrom h.2 (by omega)]

/-- Maps in form that answer alike are equal. -/
theorem SMap.eq_of_get_eq {α : Type} [DecidableEq α] {d : α} {m n : SMap α} {lo hi : Option Nat} (hm : SMap.wfFrom d lo m = true)
    (hn : SMap.wfFrom d hi n = true) (h : ∀ k, SMap.get d m k = SMap.get d n k) : m = n := by
  induction m generalizing n lo hi with
  | nil =>
    cases n with
    | nil => rfl
    | cons y u => exact absurd (h y.1).symm (SMap.get_first_ne hn)
  | cons x t ih =>
    cases n with
    | nil => exact absurd (h x.1) (SMap.get_first_ne hm)
    | cons y u =>
      have hxy : x.1 = y.1 := by
        rcases Nat.lt_trichotomy x.1 y.1 with hlt | heq | hgt
        · exact absurd ((h x.1).trans (SMap.get_below_first hn hlt)) (SMap.get_first_ne hm)
        · exact heq
        · exact absurd ((h y.1).symm.trans (SMap.get_below_first hm hgt)) (SMap.get_first_ne hn)
      obtain ⟨i, v⟩ := x
      obtain ⟨j, w⟩ := y
      obtain rfl : i = j := hxy
      have hvw : v = w := by simpa [SMap.get] using h i
      simp only [SMap.wfFrom, Bool.and_eq_true] at hm hn
      rw [hvw, ih hm.2 hn.2]
      intro k
      by_cases hk : k ≤ i
      · rw [SMap.get_of_wfFrom hm.2 hk, SMap.get_of_wfFrom hn.2 hk]
      · simpa [SMap.get, show i ≠ k by omega] using h k

/-- Settles O59, from the laws of the sparse maps. -/
theorem memoryReadsBackWhatWasWritten : Obligations.MemoryReadsBackWhatWasWritten :=
  ⟨fun m a n v => ⟨Memory.read_write_same m a n v, fun b hb => Memory.byte_write_other m a n v b hb,
      fun k hk => Memory.byte_write_same m a n v k hk, Memory.wf_write a n v⟩,
    fun m lo hi => ⟨Memory.wf_clear lo hi, Memory.byte_clear m lo hi⟩,
    fun _ _ hm hn h => SMap.eq_of_get_eq hm hn h,
    fun _ a n v hs => State.write_formed a n v hs,
    fun s a n v hp => write_read s a n v hp⟩

end Sys2Proof.Machine
end

section
/-!
# What the machine holds at reset (R2, R468)
-/
namespace Sys2Proof.Machine

/-- Every party's scalar context at reset lists no register, and of its conditions `c0` alone holds. -/
theorem reset_sc (p : Party) : ({ State.reset with party := p } : State).sc = {} := by
  match p with
  | .group | .policy 0 | .policy 1 | .policy 2 | .policy (_ + 3) => rfl

theorem reset_rdS (p : Party) (r : SReg) : ({ State.reset with party := p } : State).rdS r = 0 := by
  rw [State.rdS, reset_sc]
  split <;> rfl

theorem reset_rdC (p : Party) (k : CReg) : ({ State.reset with party := p } : State).rdC k = decide (k = 0) := by
  rw [State.rdC, reset_sc]
  by_cases hk : k = 0
  · simp [hk]
  · simp [BitVec.toNat_eq] at hk; simp [hk, BitVec.toNat_eq]

/-- With nothing placed, a step at reset chooses no stream. -/
theorem step_reset : ∃ t, step State.reset = .next t ∧ t.issueQ = [] ∧ t.groups = [] := ⟨_, rfl, rfl, rfl⟩

/-- Settles O57: the reset state's fields as they are, and what its parties read. -/
theorem resetHoldsNothing : Obligations.ResetHoldsNothing :=
  ⟨rfl, rfl, rfl, rfl, rfl, rfl, rfl, fun _ => rfl, reset_rdS, reset_rdC, step_reset, rfl⟩

end Sys2Proof.Machine
end

section
/-!
# Every event answers a next state

An event's meaning is a next state as it stands, or a choice between two of them.
-/
namespace Sys2Proof.Machine

theorem exec_launchPush_next (queue offset : Nat) (bytes : List Byte) (s : State) : ∃ t, exec (.launchPush queue offset bytes) s = .next t := by
  unfold exec execLaunchPush
  dsimp only
  split <;> exact ⟨_, rfl⟩

theorem exec_yieldRequest_next (cluster : Nat) (req : Bool) (deadline : Word) (areas : List (Nat × Nat)) (s : State) :
    ∃ t, exec (.yieldRequest cluster req deadline areas) s = .next t := by
  cases req <;> exact ⟨_, rfl⟩

theorem exec_watchdogExpiry_next (core : BitVec 2) (env : StartEnv) (s : State) : ∃ t, exec (.watchdogExpiry core env) s = .next t := by
  unfold exec execWatchdogExpiry
  dsimp only
  split
  · exact ⟨_, rfl⟩
  · split <;> exact ⟨_, rfl⟩

theorem exec_perst_next (port : Nat) (env : StartEnv) (s : State) : ∃ t, exec (.perst port env) s = .next t := by
  unfold exec execPerst
  dsimp only
  split <;> exact ⟨_, rfl⟩

/-- Settles O58, event by event. -/
theorem everyEventHasItsNextState : Obligations.EveryEventHasItsNextState := by
  intro s a b c d v w f bs areas ns row p env src find loss wr goes
  simp only [List.forall_mem_cons, List.not_mem_nil, false_imp_iff, implies_true, and_true]
  exact ⟨⟨⟨_, rfl⟩, ⟨_, rfl⟩, ⟨_, rfl⟩, ⟨_, rfl⟩, ⟨_, rfl⟩, ⟨_, rfl⟩, ⟨_, rfl⟩, ⟨_, rfl⟩, ⟨_, rfl⟩⟩,
    ⟨⟨_, rfl⟩, ⟨_, rfl⟩, ⟨_, rfl⟩, ⟨_, rfl⟩, ⟨_, rfl⟩, ⟨_, rfl⟩, ⟨_, rfl⟩, ⟨_, rfl⟩, ⟨_, rfl⟩⟩,
    ⟨exec_launchPush_next a b bs s, ⟨_, rfl⟩, ⟨_, rfl⟩, ⟨_, rfl⟩, ⟨_, rfl⟩, ⟨_, rfl⟩, ⟨_, rfl⟩, ⟨_, rfl⟩, ⟨_, rfl⟩, ⟨_, rfl⟩⟩,
    ⟨exec_yieldRequest_next a f w areas s, ⟨_, rfl⟩, ⟨_, rfl⟩, ⟨_, rfl⟩, ⟨_, rfl⟩⟩,
    ⟨⟨_, rfl⟩, ⟨_, rfl⟩, ⟨_, rfl⟩, ⟨_, rfl⟩, ⟨_, rfl⟩, ⟨_, rfl⟩, ⟨_, rfl⟩, ⟨_, rfl⟩, ⟨_, rfl⟩, ⟨_, rfl⟩, ⟨_, rfl⟩, ⟨_, rfl⟩⟩,
    ⟨⟨_, rfl⟩, ⟨_, rfl⟩, ⟨_, rfl⟩, ⟨_, rfl⟩, ⟨_, rfl⟩, ⟨_, rfl⟩, ⟨_, rfl⟩, ⟨_, rfl⟩, ⟨_, rfl⟩⟩,
    ⟨⟨_, rfl⟩, ⟨_, rfl⟩, ⟨_, rfl⟩, exec_watchdogExpiry_next _ env s, ⟨_, rfl⟩, exec_perst_next a env s, ⟨_, rfl⟩, ⟨_, rfl⟩, ⟨_, rfl⟩, ⟨_, rfl⟩,
      ⟨_, rfl⟩, ⟨_, rfl⟩, ⟨_, rfl⟩, ⟨_, rfl⟩, ⟨_, rfl⟩⟩⟩

end Sys2Proof.Machine
end

section
/-!
# Starts, resets, power, interrupts and sampling (R2, R109, R421 to R424, R464 to R471, R474)
-/
namespace Sys2Proof.Machine

/-! ### What a warm start keeps -/

/-- A fold over a list keeps what each step for an element of it keeps. -/
theorem foldl_keeps_mem {α β : Type} (P : β → Prop) {f : β → α → β} (l : List α) (hf : ∀ b, ∀ a ∈ l, P b → P (f b a)) {b : β} (hb : P b) :
    P (l.foldl f b) :=
  List.foldlRecOn l f hb fun b hb a ha => hf b a ha hb

/-- A memory of the listed bytes whose address meets a test. -/
theorem Memory.byte_filter (m : Memory) (p : Nat → Bool) (a : Nat) :
    Memory.byte (m.filter fun x => p x.1) a = if p a then Memory.byte m a else 0 := by
  unfold Memory.byte
  induction m with
  | nil => simp [SMap.get]
  | cons x t ih =>
    obtain ⟨i, v⟩ := x
    by_cases hi : i = a
    · subst hi
      by_cases hp : p i <;> simp_all [SMap.get]
    · by_cases hp : p i <;> simpa [hp, SMap.get, hi] using ih

/-- A dirty line that a warm start drops holds free values. -/
def dropLine (s : State) (l : Nat) : State :=
  { s with mem := (List.range 512).foldl (fun m i => Memory.setByte m (512 * l + i) ((Config.freeWord (s.fresh + i)).setWidth 8)) s.mem
           fresh := s.fresh + 512, poison := s.poison.filter fun p => p / 512 != l }

theorem lostLines_foldl (s : State) :
    lostLines s = ((((s.l2 ++ s.granary).filter (·.dirty)).map (·.line)).eraseDups).foldl dropLine s := rfl

theorem dropLine_eq (s : State) (l : Nat) :
    dropLine s l = { s with mem := (dropLine s l).mem, fresh := (dropLine s l).fresh, poison := (dropLine s l).poison } := by
  dsimp only [dropLine]

/-- Losing lines changes memory, the free values drawn and the poison alone. -/
theorem lostLines_eq (s : State) :
    lostLines s = { s with mem := (lostLines s).mem, fresh := (lostLines s).fresh, poison := (lostLines s).poison } := by
  rw [lostLines_foldl]
  refine foldl_keeps (fun t : State => t = { s with mem := t.mem, fresh := t.fresh, poison := t.poison }) (fun t l ht => ?_) _ rfl
  rw [dropLine_eq]
  generalize dropLine t l = u
  rw [ht]

/-- Bytes written elsewhere leave a byte as it is. -/
theorem Memory.byte_foldl_setByte (g : Nat → Nat) (f : Nat → Byte) (ns : List Nat) (m : Memory) (a : Nat) (h : ∀ i ∈ ns, g i ≠ a) :
    Memory.byte (ns.foldl (fun m i => Memory.setByte m (g i) (f i)) m) a = Memory.byte m a :=
  SMap.get_foldl_set (0 : Byte) f g ns m a h

theorem dropLine_byte (s : State) {l a : Nat} (h : l ≠ a / 512) : Memory.byte (dropLine s l).mem a = Memory.byte s.mem a := by
  dsimp only [dropLine]
  rw [Memory.byte_foldl_setByte (fun i => 512 * l + i)]
  intro i hi
  rw [List.mem_range] at hi
  omega

/-- A byte of no dirty line stays. -/
theorem lostLines_byte {s : State} {a : Nat} (h : ∀ y ∈ s.l2 ++ s.granary, y.dirty = true → y.line ≠ a / 512) :
    Memory.byte (lostLines s).mem a = Memory.byte s.mem a := by
  rw [lostLines_foldl]
  refine foldl_keeps_mem (fun t : State => Memory.byte t.mem a = Memory.byte s.mem a) _ (fun t l hl ht => (dropLine_byte t ?_).trans ht) rfl
  obtain ⟨y, hy, rfl⟩ := List.mem_map.mp (List.mem_eraseDups.mp hl)
  obtain ⟨hy, hd⟩ := List.mem_filter.mp hy
  exact h y hy hd

/-- What a warm start of a cause leaves. -/
def WarmLeft (s : State) (cause : Nat) (t : State) : Prop :=
  t.start.cause = cause ∧ t.start.step = 1 ∧ t.start.failed = false ∧ t.start.attempts = counterOf s.start.counter ∧
    t.start.oldUnits = some (s.start.oldUnits.getD s.units) ∧ (∀ k, (t.pol k).halted = true) ∧ t.g = {} ∧ t.launches = [] ∧
    t.engineQ = [.startStep] ∧ t.priv = { memtop := 0xC000000000, svnfloor := s.priv.svnfloor } ∧
    (∀ a, a < peerBase → (∀ y ∈ s.l2 ++ s.granary, y.dirty = true → y.line ≠ a / 512) → Memory.byte t.mem a = Memory.byte s.mem a) ∧
    ∀ a, peerBase ≤ a → Memory.byte t.mem a = 0

/-- Every policy core of a started machine is halted. -/
theorem started_halted (s : State) (env : StartEnv) (warm : Bool) (cause k : Nat) : ((started s env warm cause).pol k).halted = true := by
  match k with
  | 0 | 1 | 2 | _ + 3 => rfl

theorem started_warm (s : State) (env : StartEnv) (cause : Nat) : WarmLeft s cause (started s env true cause) := by
  have hs := lostLines_eq s
  have hmem (a : Nat) : Memory.byte (started s env true cause).mem a = if a < peerBase then Memory.byte (lostLines s).mem a else 0 := by
    have h := Memory.byte_filter (lostLines s).mem (fun b => decide (b < peerBase)) a
    simp only [decide_eq_true_eq] at h
    exact h
  refine ⟨rfl, rfl, rfl, ?_, ?_, started_halted s env true cause, rfl, rfl, rfl, ?_, fun a ha hl => ?_, fun a ha => ?_⟩
  · show counterOf (lostLines s).start.counter = _
    rw [hs]
  · show some ((lostLines s).start.oldUnits.getD (lostLines s).units) = _
    rw [hs]
  · show ({ memtop := topOf none, svnfloor := (lostLines s).priv.svnfloor } : Priv) = _
    rw [hs]
    rfl
  · rw [hmem, if_pos ha, lostLines_byte hl]
  · rw [hmem, if_neg (by omega)]

theorem warmStart_of_on {s : State} (env : StartEnv) (cause : Nat) (hon : s.start.on = true) (hw : warming s = false) :
    warmStart s env cause = started s env true cause := by
  simp [warmStart, hon, hw]

/-- A device without power, or one that already starts warm, begins no warm start. -/
theorem warmStart_of_off {s : State} (env : StartEnv) (cause : Nat) (h : s.start.on = false ∨ warming s = true) : warmStart s env cause = s := by
  rcases h with h | h <;> simp [warmStart, h]

/-! ### The steps of a start -/

/-- A start's step posts the next one unless the start has ended. -/
def thenNext (t : State) : State := if t.start.failed || t.start.safe || 9 ≤ t.start.step then t else t.post .startStep

theorem thenNext_eq (t : State) : thenNext t = { t with engineQ := (thenNext t).engineQ } := by
  unfold thenNext
  split
  · rfl
  · exact post_eq t .startStep

/-- A start that has failed stays as it is. -/
theorem thenNext_startFail (s : State) (n : Nat) : thenNext (startFail s n) = startFail s n := rfl

/-- The step fails for a reason, and memory stays. -/
def StepFails (s : State) (n : Nat) : Prop := ∃ t, perform .startStep s = .next t ∧ Spec.StartFails t n ∧ t.mem = s.mem

theorem stepFails {s : State} {n : Nat} (h : startStep s = thenNext (startFail s n)) : StepFails s n := by
  refine ⟨startFail s n, congrArg Host.Outcome.next h, ⟨rfl, rfl, fun k => ?_⟩, rfl⟩
  match k with
  | 0 | 1 | 2 | _ + 3 => rfl

theorem stepGoes {s u : State} (h : startStep s = thenNext u) : ∃ q, perform .startStep s = .next { u with engineQ := q } :=
  ⟨_, congrArg Host.Outcome.next (h.trans (thenNext_eq u))⟩

/-- A step that depends on one of the environment's answers. -/
theorem step_answer {s : State} {k n : Nat} {ok : Bool} (hk : s.start.step = k)
    (h : startStep s = thenNext (if ok then startDone s else startFail s n)) :
    (ok = true → ∃ t, perform .startStep s = .next t ∧ t.start = { s.start with step := k + 1 } ∧ t.mem = s.mem) ∧
    (ok = false → StepFails s n) := by
  subst hk
  cases ok with
  | true =>
    obtain ⟨q, hq⟩ := stepGoes h
    exact ⟨fun _ => ⟨_, hq, rfl, rfl⟩, fun hf => absurd hf (by decide)⟩
  | false => exact ⟨fun hf => absurd hf (by decide), fun _ => stepFails h⟩

theorem steps_of_answers (s : State) :
    ∀ i ∈ [(0, s.env.fusesOk, 1), (4, s.env.pllOk, 6), (6, s.env.bistOk, 8), (7, s.env.zeroFillOk, 7)], s.start.step = i.1 →
      (i.2.1 = true → ∃ t, perform .startStep s = .next t ∧ t.start = { s.start with step := i.1 + 1 } ∧ t.mem = s.mem) ∧
      (i.2.1 = false → StepFails s i.2.2) := by
  simp only [List.forall_mem_cons, List.not_mem_nil, false_imp_iff, implies_true, and_true]
  exact ⟨fun h => step_answer h (by simp only [startStep, thenNext, h]), fun h => step_answer h (by simp only [startStep, thenNext, h]),
    fun h => step_answer h (by simp only [startStep, thenNext, h]), fun h => step_answer h (by simp only [startStep, thenNext, h])⟩

/-- Step 2: the ROM raises the counter. -/
theorem step_counter (s : State) (h : s.start.step = 1) : let x := s.start
    (s.env.romOk = false → StepFails s 2) ∧ (s.env.romOk = true →
      (∀ w ws, x.writes = w :: ws → ∃ t, perform .startStep s = .next t ∧ t.start = { x.flash w with writes := ws }) ∧
      (x.writes = [] → x.raised = true ∨ 6 ≤ x.attempts → ∃ t, perform .startStep s = .next t ∧ t.start = { x with step := 2 }) ∧
      (x.writes = [] → x.raised = false → x.attempts < 6 → ∃ t, perform .startStep s = .next t ∧ t.start =
        { x with raised := true, writes := [.counter 0 (x.attempts + 1), .counter 1 (x.attempts + 1)] })) := by
  have hb : startStep s = thenNext (if s.env.romOk then startCount s else startFail s 2) := by simp only [startStep, thenNext, h]
  refine ⟨fun hr => ?_, fun hr => ?_⟩
  · rw [hr] at hb
    exact stepFails hb
  rw [hr] at hb
  have hgo {x : Start} (hx : (startCount s).start = x) : ∃ t, perform .startStep s = .next t ∧ t.start = x :=
    have ⟨_, hq⟩ := stepGoes hb
    ⟨_, hq, hx⟩
  refine ⟨fun w ws hw => hgo ?_, fun hw hd => hgo ?_, fun hw hf ha => hgo ?_⟩
  · simp only [startCount, hw]
  · rcases hd with hd | hd <;> simp [startCount, startDone, hw, hd, h]
  · simp [startCount, hw, hf, Nat.not_le.mpr ha]

/-- Step 3 depends on nothing. -/
theorem step_three (s : State) (h : s.start.step = 2) : ∃ t, perform .startStep s = .next t ∧ t.start = { s.start with step := 3 } := by
  have hb : startStep s = thenNext (startDone s) := by simp only [startStep, thenNext, h]
  obtain ⟨q, hq⟩ := stepGoes hb
  exact ⟨_, hq, by simp [startDone, h]⟩

/-- Step 4: the image is checked and started, or the safe state holds. -/
theorem step_image (s : State) (h : s.start.step = 3) : let x := s.start
    let found := startFindings s.env x.attempts
    (6 ≤ x.attempts → ∃ t, perform .startStep s = .next t ∧ t.start = { x with safe := true } ∧ t.pol0 = s.pol0 ∧ t.engineQ = s.engineQ) ∧
    (x.attempts < 6 →
      (startImage s.env x.attempts = none → StepFails s 5) ∧
      (startImage s.env x.attempts ≠ none → found.1 = false → StepFails s 3) ∧
      (found.1 = true → found.2.1 < s.priv.svnfloor.toNat → StepFails s 4) ∧
      (found.1 = true → s.priv.svnfloor.toNat ≤ found.2.1 → ∃ t, perform .startStep s = .next t ∧ t.start.step = 4 ∧ t.start.svn = found.2.1 ∧
        t.start.image = decide (3 ≤ x.attempts) ∧ t.pcode = ((startImage s.env x.attempts).map imageCode).getD [] ∧
        ∀ k, (t.pol k).halted = false ∧ (t.pol k).sc.pc = found.2.2)) := by
  have hb : startStep s = thenNext (if 6 ≤ s.start.attempts then { s with start := { s.start with safe := true } } else startImage4 s) := by
    simp only [startStep, thenNext, h]
  refine ⟨fun ha => ?_, fun ha => ?_⟩
  · have hs : thenNext { s with start := { s.start with safe := true } } = { s with start := { s.start with safe := true } } := by simp [thenNext]
    rw [if_pos ha, hs] at hb
    exact ⟨_, congrArg Host.Outcome.next hb, rfl, rfl, rfl⟩
  rw [if_neg (by omega)] at hb
  have hfail {n : Nat} (e : startImage4 s = startFail s n) : StepFails s n := stepFails (hb.trans (congrArg thenNext e))
  refine ⟨fun hi => hfail ?_, fun hi hf => ?_, fun hf hv => ?_, fun hf hv => ?_⟩
  · simp only [startImage4, hi]
  all_goals
    obtain hi' | ⟨f, hi'⟩ := Option.eq_none_or_eq_some (startImage s.env s.start.attempts)
  · exact absurd hi' hi
  · exact hfail (by simp [startImage4, hi', hf])
  · simp [startFindings, hi'] at hf
  · exact hfail (by simp [startImage4, hi', hf, hv])
  · simp [startFindings, hi'] at hf
  · have e : startImage4 s = startDone { s with
        start := { s.start with svn := (startFindings s.env s.start.attempts).2.1, entry := (startFindings s.env s.start.attempts).2.2,
                                digest := imageDigest f, image := 3 ≤ s.start.attempts }
        pcode := imageCode f
        pol0 := policyAt (startFindings s.env s.start.attempts).2.2, pol1 := policyAt (startFindings s.env s.start.attempts).2.2
        pol2 := policyAt (startFindings s.env s.start.attempts).2.2, pol3 := policyAt (startFindings s.env s.start.attempts).2.2 } := by
      simp [startImage4, hi', hf, Nat.not_lt.mpr hv]
    obtain ⟨q, hq⟩ := stepGoes (hb.trans (congrArg thenNext e))
    refine ⟨_, hq, congrArg (· + 1) h, rfl, rfl, by rw [hi']; rfl, fun k => ?_⟩
    · match k with
      | 0 | 1 | 2 | _ + 3 => exact ⟨rfl, rfl⟩

/-- With a stack retired, eight slices of memory are gone. -/
theorem topOf_retired (k : Nat) : topOf (some k) = 0xB400000000 :=
  congrArg (BitVec.ofNat 64) (show (Config.slices - 8) * Config.sliceBytes = 0xB400000000 by decide)

/-- Step 6: a stack that fails or is marked is retired; a second one fails the start. -/
theorem step_train (s : State) (h : s.start.step = 5) : let x := s.start
    let bad := (markedStacks x.repairs ++ s.env.failedStacks).eraseDups
    (2 ≤ bad.length → StepFails s 7) ∧ (bad.length < 2 → ∃ t, perform .startStep s = .next t ∧
      t.start = { x with step := 6, retired := bad.head? } ∧ t.priv.memtop = (if bad = [] then 0xC000000000 else 0xB400000000)) := by
  have hb : startStep s = thenNext (startTrain s) := by simp only [startStep, thenNext, h]
  refine ⟨fun hl => stepFails ?_, fun hl => ?_⟩
  · rw [hb, startTrain, if_pos hl]
  · rw [startTrain, if_neg (by omega)] at hb
    obtain ⟨q, hq⟩ := stepGoes hb
    refine ⟨_, hq, by simp [startDone, h], ?_⟩
    cases (markedStacks s.start.repairs ++ s.env.failedStacks).eraseDups with
    | nil => rfl
    | cons k l =>
      rw [if_neg (List.cons_ne_nil k l)]
      exact topOf_retired k

/-- Step 9: the links are trained, and the package has its number and keys. -/
theorem step_fabric (s : State) (h : s.start.step = 8) :
    ∃ t, perform .startStep s = .next t ∧ t.start = { s.start with step := 9 } ∧ t.fabric.pkg = s.env.pkg ∧ t.dom0.pkey = s.env.pkeys.1 ∧
      t.dom1.pkey = s.env.pkeys.2 ∧ ∀ p, p ∈ t.fabric.planesDown ↔ p < 72 ∧ p ∉ s.env.planesUp := by
  have hb : startStep s = thenNext (startFabric s) := by simp only [startStep, thenNext, h]
  obtain ⟨q, hq⟩ := stepGoes hb
  refine ⟨_, hq, by simp [startFabric, startDone, h], rfl, rfl, rfl, fun p => ?_⟩
  simp [startFabric, startDone]

theorem flashWrite_lands {s : State} {w : FlashWrite} {ws : List FlashWrite} (h : s.start.writes = w :: ws) :
    ∃ t, perform .flashWrite s = .next t ∧ t.start = { s.start.flash w with writes := ws } ∧ t.mem = s.mem := by
  have e : perform .flashWrite s = .next (flashLands s) := rfl
  rw [e, flashLands]
  simp only [h]
  refine ⟨_, rfl, ?_⟩
  split
  · exact ⟨rfl, rfl⟩
  · rw [post_eq]
    exact ⟨rfl, rfl⟩

/-! ### Watchdogs and READY -/

/-- An event that is posted awaits its engine. -/
theorem mem_post (s : State) (e : Ev) : e ∈ (s.post e).engineQ := by
  unfold State.post
  split
  · next h => exact List.contains_iff_mem.mp h
  · exact List.mem_append_right _ List.mem_cons_self

theorem putBit_self {n : Nat} (x : BitVec n) {k : Nat} (hk : k < n) : (putBit x k true).getLsbD k = true := by
  simp only [putBit, if_true, BitVec.getLsbD_or, BitVec.getLsbD_ofNat, Nat.testBit_two_pow_self, hk, decide_true, Bool.and_self, Bool.or_true]

/-- A policy core but core 0 starts again at the image's ENTRY. -/
theorem watchdog_restarts {s : State} {c : BitVec 2} (env : StartEnv) (hw : (s.pol c.toNat).wdt.isSome = true) (hc : c ≠ 0) :
    ∃ t, exec (.watchdogExpiry c env) s = .next t ∧ t.pol c.toNat = policyAt s.start.entry ∧ t.priv.wdstat.getLsbD c.toNat = true ∧
      t.priv.irqpend.getLsbD 4 = true ∧ t.mem = s.mem := by
  have hn : (s.pol c.toNat).wdt.isNone = false := by simpa using hw
  have e : exec (.watchdogExpiry c env) s = execWatchdogExpiry c env s := rfl
  rw [e, execWatchdogExpiry, hn]
  simp only [hc, Bool.false_eq_true, if_false]
  refine ⟨_, rfl, State.setPol_pol _ _ _, putBit_self _ ?_, putBit_self _ ?_, State.setPol_mem _ _ _⟩
  · have := c.isLt
    omega
  · omega

/-- Clearing units of memory, at a byte of the unit `u`. -/
theorem byte_foldl_clear (us : List Nat) (m : Memory) {u a : Nat} (hl : u * 2 ^ 30 ≤ a) (hh : a < (u + 1) * 2 ^ 30) :
    Memory.byte (us.foldl (fun m u => Memory.clear m (u * 2 ^ 30) ((u + 1) * 2 ^ 30)) m) a = if u ∈ us then 0 else Memory.byte m a := by
  induction us generalizing m with
  | nil => simp
  | cons v vs ih =>
    rw [List.foldl_cons, ih, Memory.byte_clear]
    have hc : v * 2 ^ 30 ≤ a ∧ a < (v + 1) * 2 ^ 30 ↔ u = v := by omega
    simp only [hc, List.mem_cons]
    by_cases hv : u = v
    · simp [hv]
    · simp [hv]

theorem ready_ready10 {s : State} (h : s.start.step = 9) :
    ∃ t, exec .ready s = .next t ∧ t.start.step = 10 ∧ t.clock = 0 ∧
      t.start.writes = s.start.writes ++ [.counter 0 0, .counter 1 0] ∧ .flashWrite ∈ t.engineQ ∧
      ∀ u a, u * 2 ^ 30 ≤ a → a < (u + 1) * 2 ^ 30 → u < 1024 →
        Memory.byte t.mem a = if (s.start.oldUnits.any fun o => SMap.get 15 o u != SMap.get 15 s.units u) then 0 else Memory.byte s.mem a := by
  have e : exec .ready s = .next (ready10 s) := by
    show Host.Outcome.next (if s.start.step = 9 then ready10 s else s) = _
    rw [if_pos h]
  refine ⟨_, e, ?_, ?_, ?_, mem_post _ _, fun u a hl hh hu => ?_⟩
  · rw [ready10, post_eq]
  · rw [ready10, post_eq]
  · rw [ready10, post_eq]
  · rw [ready10, State.post_mem, byte_foldl_clear _ _ hl hh]
    cases s.start.oldUnits with
    | none => simp
    | some o => simp [hu]

/-! ### The loss of power -/

/-- What a loss of power leaves. -/
theorem powerOff_leaves (s : State) (trip : Bool) : let t := powerOff s trip
    t.start.on = false ∧ t.start.trip = trip ∧ t.mem = [] ∧ t.g = {} ∧ t.pol0.halted = true ∧ t.edges = [] ∧ t.fabric = {} ∧
      t.priv.svnfloor = s.priv.svnfloor ∧ (s.start.writes = [] → t.start.sector = s.start.sector ∧ t.start.counter = s.start.counter) ∧
      ∀ w ws, s.start.writes = w :: ws → ∃ y ∈ [s.start.flash w, s.start.cut w], t.start.sector = y.sector ∧ t.start.counter = y.counter := by
  refine ⟨rfl, rfl, rfl, rfl, rfl, rfl, rfl, rfl, fun hw => ?_, fun w ws hw => ?_⟩
  · simp only [powerOff, hw, and_self]
  · simp only [powerOff, hw]
    split
    · exact ⟨_, List.mem_cons_self, rfl, rfl⟩
    · exact ⟨_, List.mem_cons_of_mem _ List.mem_cons_self, rfl, rfl⟩

/-! ### Interrupts -/

theorem policyInterrupt_taken {s : State} (hi : s.priv.irqpend ≠ 0) (he : s.pol0.ie = true) :
    exec .policyInterrupt s = .next { s with
      pol0 := { s.pol0 with epc := s.pol0.sc.pc, ecause := 0, pie := true, ie := false, sc := { s.pol0.sc with pc := s.pol0.evec } } } := by
  have e : exec .policyInterrupt s = .next (interrupt0 s) := rfl
  have hb : (s.priv.irqpend != 0 && s.pol0.ie) = true := by simpa [he] using hi
  rw [e, interrupt0]
  dsimp only
  rw [if_pos hb, he]

theorem policyInterrupt_none {s : State} (h : s.priv.irqpend = 0 ∨ s.pol0.ie = false) : exec .policyInterrupt s = .next s := by
  have e : exec .policyInterrupt s = .next (interrupt0 s) := rfl
  rw [e, interrupt0]
  rcases h with h | h <;> simp [h]

/-! ### The Gleaner -/

theorem sampleCore_g (s : State) (c : Nat) : (sampleCore s c).g = s.g := by
  unfold sampleCore
  dsimp only
  split <;> split
  · rfl
  · rw [State.writeBytes, write_eq]
    rfl
  · rfl
  · rw [State.writeBytes, write_eq]
    rfl

/-- With no room for samples, each core's record is dropped. -/
theorem sampleCore_drops {s : State} (h : s.priv.sssize = 0) (c : Nat) :
    sampleCore s c = { s.setCore c { s.core c with sampSlot := ((s.core c).sampSlot + 1) % 64 } with
      priv := { s.priv with ssdrop := s.priv.ssdrop + 1 } } := by
  simp [sampleCore, h, State.setCore]

/-- What samples of cores leave where there is no room. -/
theorem foldl_sampleCore_drops (cs : List Nat) {s : State} (h : s.priv.sssize = 0) :
    (cs.foldl sampleCore s).mem = s.mem ∧ (cs.foldl sampleCore s).priv = { s.priv with ssdrop := s.priv.ssdrop + BitVec.ofNat 64 cs.length } := by
  induction cs generalizing s with
  | nil => simp
  | cons c cs ih =>
    have hc := sampleCore_drops h c
    obtain ⟨hm, hp⟩ := @ih (sampleCore s c) (by rw [hc]; exact h)
    rw [List.foldl_cons, hm, hp, hc]
    have hsum : s.priv.ssdrop + 1 + BitVec.ofNat 64 cs.length = s.priv.ssdrop + BitVec.ofNat 64 (cs.length + 1) := by
      rw [Nat.add_comm, BitVec.ofNat_add, BitVec.add_assoc]
      rfl
    rw [List.length_cons, ← hsum]
    exact ⟨rfl, rfl⟩

theorem gleanerSample_none {s : State} (h : s.priv.ssctl.getLsbD 16 = false ∨ s.clock < s.sampAt) : exec .gleanerSample s = .next s := by
  have hb : (s.priv.ssctl.getLsbD 16 && decide (s.sampAt ≤ s.clock)) = false := by
    rcases h with h | h
    · simp only [h, Bool.false_and]
    · simp only [Nat.not_le.mpr h, decide_false, Bool.and_false]
  show execGleanerSample s = _
  rw [execGleanerSample, hb, if_neg Bool.false_ne_true]

theorem gleanerSample_taken {s : State} (h : s.priv.ssctl.getLsbD 16 = true) (hc : s.sampAt ≤ s.clock) :
    ∃ t, exec .gleanerSample s = .next t ∧ t.g = s.g ∧ t.sampAt = s.clock + s.priv.ssctl.toNat % 2 ^ 16 ∧
      (s.priv.sssize = 0 → SameBytes s t ∧ t.priv.ssdrop = s.priv.ssdrop + BitVec.ofNat 64 Config.cores ∧ t.priv.sswptr = s.priv.sswptr) := by
  have hb : (s.priv.ssctl.getLsbD 16 && decide (s.sampAt ≤ s.clock)) = true := by simp only [h, hc, decide_true, Bool.and_self]
  have e : exec .gleanerSample s = execGleanerSample s := rfl
  rw [e, execGleanerSample, hb, if_pos rfl]
  refine ⟨_, rfl, ?_, ?_, fun hz => ?_⟩
  · exact foldl_keeps (fun t : State => t.g = s.g) (fun t c ht => (sampleCore_g t c).trans ht) _ rfl
  · simp [bitsOf]
  · obtain ⟨hm, hp⟩ := foldl_sampleCore_drops (List.range Config.cores) hz
    dsimp only
    rw [hp, List.length_range]
    exact ⟨fun b => congrArg (Memory.byte · b) hm, rfl, rfl⟩

/-- Settles O52, clause by clause from the lemmas above. -/
theorem startPowerAndSampling : Obligations.StartPowerAndSampling := by
  intro s env goes fails x
  refine ⟨⟨_, rfl, rfl, rfl, rfl, rfl, rfl, rfl, rfl, started_halted s env false 0, rfl, rfl, rfl, rfl, rfl, rfl, rfl, rfl, rfl⟩, fun hon hw => ?_,
    fun h => ⟨congrArg Host.Outcome.next (warmStart_of_off env 3 h), congrArg Host.Outcome.next (warmStart_of_off env 1 h)⟩, steps_of_answers s,
    step_counter s, step_three s, step_image s, step_train s, step_fabric s, fun _ _ => flashWrite_lands, ⟨_, rfl, rfl, rfl, rfl⟩, fun c hw => ?_,
    fun c => watchdog_restarts env, fun hd hon hw => ?_, ready_ready10, fun h => ?_, ?_, policyInterrupt_taken, policyInterrupt_none, rfl,
    ⟨_, rfl, rfl, putBit_self _ (by decide), rfl⟩, rfl, gleanerSample_none, gleanerSample_taken⟩
  · simp only [List.forall_mem_cons, List.not_mem_nil, false_imp_iff, implies_true, and_true]
    exact ⟨⟨_, congrArg Host.Outcome.next (warmStart_of_on env 3 hon hw), started_warm s env 3⟩,
      ⟨_, congrArg Host.Outcome.next (warmStart_of_on env 1 hon hw), started_warm s env 1⟩⟩
  · show execWatchdogExpiry c env s = _
    rw [execWatchdogExpiry, hw]
    rfl
  · have e : exec (.watchdogExpiry 0 env) s = .next (warmStart s env 2) := by
      show execWatchdogExpiry 0 env s = _
      have hn : (s.pol (0 : BitVec 2).toNat).wdt.isNone = false := by
        show s.pol0.wdt.isNone = false
        simpa using hd
      rw [execWatchdogExpiry, hn]
      rfl
    rw [e, warmStart_of_on env 2 hon hw]
    exact ⟨_, rfl, congrArg Host.Outcome.next (warmStart_of_on env 3 hon hw), rfl⟩
  · show Host.Outcome.next (if s.start.step = 9 then ready10 s else s) = _
    rw [if_neg h]
  · simp only [List.forall_mem_cons, List.not_mem_nil, false_imp_iff, implies_true, and_true]
    exact ⟨⟨_, rfl, powerOff_leaves s false⟩, ⟨_, rfl, powerOff_leaves s true⟩⟩

end Sys2Proof.Machine
end

section
/-!
# Every element-wise lane instruction completes (R8, R21, R67 to R72, R458)

The proof follows the three parts of `laneOp`: the issue of an instruction that is ready (`laneIssueWith_ready`), the write of its
results (`laneWrite_notPort`, with what a write of each part of the group leaves), and the end of the instruction
(`laneFrame_laneWritten`).
-/
namespace Sys2Proof.Machine
open Forms (LView Use)

/-! ### Lane masks and their words -/

theorem getLsbD_of_mem_lanesOf {m : Word} {l : Nat} (h : l ∈ lanesOf m) : m.getLsbD l = true :=
  (List.mem_filter.mp h).2
theorem lt_of_mem_lanesOf {m : Word} {l : Nat} (h : l ∈ lanesOf m) : l < 32 :=
  List.mem_range.mp (List.mem_filter.mp h).1

/-- The key of a register's word in a lane tells the register and the lane apart. -/
theorem vregKey_inj {k j l i : Nat} (hl : l < 32) (hi : i < 32) (h : 32 * k + l = 32 * j + i) : k = j ∧ l = i := by omega

/-- A word that a value covers is covered by what is ORed onto it. -/
theorem and_or_eq_self {w a : Word} (x : Word) (h : w &&& a = w) : w &&& (a ||| x) = w := by
  rw [BitVec.and_or_distrib_left, h]; ext i; simp; tauto

/-! ### Issue -/

/-- A field that is no queue port and whose lanes hold no error reads the register file and leaves the state (R47, R458). -/
theorem readField_notPort {s0 s : State} {act : Word} {u : Use} {wide every : Bool} {o : Opd} (hp : notPort o = true)
    (hb : s0.g.badLanes (if every then BitVec.allOnes 32 else act) u wide o = []) :
    readField s0 s act u wide o every = .ok (s0.g.rdOpd s0.gteam.teamlin (use64 u wide) o, s) := by
  cases o with
  | q j => cases hp
  | _ => simp only [readField, hb]

theorem sourcePorts_eq_nil {v : LView} (h : ∀ o ∈ [v.vd, v.va, v.vb, v.vc], notPort o = true) : sourcePorts v = [] := by
  refine List.filterMap_eq_nil_iff.mpr fun o ho => ?_
  have hm : o ∈ [v.vd, v.va, v.vb, v.vc] := by
    rcases List.mem_append.mp ho with h | h
    · exact List.mem_cons_of_mem _ h
    · split at h <;> simp_all
  cases o with
  | q j => cases h _ hm
  | _ => rfl

theorem storePorts_eq_nil {v : LView} (h : notPort v.vd = true) : storePorts v = [] := by
  cases hd : v.vd with
  | q j => rw [hd] at h; cases h
  | _ => simp [storePorts, hd]

/-- Steps 3 to 5 of R67 pass for an instruction that is ready. -/
theorem laneChecks_ready {v : LView} {sw : Bool} {s : State} (h : LaneReady v sw s) : laneChecks v sw s = .ok (s.g.haz.at sw) := by
  have hwin : ((LView.spans v).all (fun x => x.1 + x.2 ≤ s.g.winsz) && (LView.predNums v).all fun p => p < s.g.predsz) = true := by
    simpa using ⟨fun a b hx => h.window (a, b) hx, h.preds⟩
  have hclash := h.hazard
  unfold Hazard.at at hclash ⊢
  simp only [laneChecks, sourcePorts_eq_nil h.ports, storePorts_eq_nil (h.ports _ List.mem_cons_self), require_ok hwin, hclash]
  rfl

/-- An instruction that is ready issues: it reads its fields and takes its position (R67, R68). -/
theorem laneIssueWith_ready {v : LView} {sw : Bool} {s : State} (h : LaneReady v sw s) :
    laneIssueWith v sw s = .ok (laneIn v s, laneStart sw s) := by
  have hwait : (!(uniforms v).any s.g.waits) = true := by simpa using h.settled
  have hbad : (!(uniforms v).any fun r => r != 0 && s.g.run.bad.getLsbD r.toNat) = true := by
    simpa [Decidable.imp_iff_not_or] using h.uniform
  have hpush : (!v.mem || s.g.pushes.isEmpty) = true := by
    cases hm : v.mem with
    | false => rfl
    | true => simp [h.pushed hm]
  have ha : readField s (laneStart sw s) (s.g.active v.h) v.ua v.wide v.va v.every = .ok (srcOf v s v.ua v.va, laneStart sw s) := by
    refine readField_notPort (h.ports _ (by simp)) ?_
    cases he : v.every with
    | false => exact h.vector (v.ua, v.va) (by simp [sourcesOf])
    | true => exact h.every he
  have hb : readField s (laneStart sw s) (s.g.active v.h) v.ub v.wide v.vb = .ok (srcOf v s v.ub v.vb, laneStart sw s) :=
    readField_notPort (h.ports _ (by simp)) (h.vector (v.ub, v.vb) (by simp [sourcesOf]))
  have hc : readField s (laneStart sw s) (s.g.active v.h) v.uc v.wide v.vc = .ok (srcOf v s v.uc v.vc, laneStart sw s) :=
    readField_notPort (h.ports _ (by simp)) (h.vector (v.uc, v.vc) (by simp [sourcesOf]))
  have hd (hr : (v.vdSrc || v.vdRead) = true) :
      readField s (laneStart sw s) (s.g.active v.h) v.ud v.wide v.vd = .ok (srcOf v s v.ud v.vd, laneStart sw s) :=
    readField_notPort (h.ports _ (by simp)) (h.vector (v.ud, v.vd) (by simp only [sourcesOf, hr]; simp))
  have hstart : ({ s with g := { s.g with haz := s.g.haz.at sw } } : State) = laneStart sw s := rfl
  simp only [laneIssueWith, needLanes_ok h.group, laneChecks_ready h, require_ok hwait, require_ok hbad, require_ok hpush, bind, Except.bind,
    hstart, ha, hb, hc, laneIn]
  by_cases hr : (v.vdSrc || v.vdRead) = true
  · simp only [hr, if_true, hd hr]
  · simp only [hr]; rfl

/-! ### What a lane instruction writes -/

/-- The vector registers of `g'` are those of `g` but for words of the registers `ks` in the lanes of a mask, which hold no error
then (R458). -/
structure WritesVec (ks : Nat → Prop) (m : Word) (g g' : Group) : Prop where
  vectors : ∀ k l, l < 32 → ¬ (ks k ∧ m.getLsbD l = true) → g'.vr k l = g.vr k l
  errors : ∀ k l, l < 32 → (32 * k + l ∈ g'.badV ↔ 32 * k + l ∈ g.badV ∧ ¬ (ks k ∧ m.getLsbD l = true))

theorem WritesVec.refl (m : Word) (g : Group) : WritesVec (fun _ => False) m g g where
  vectors _ _ _ _ := rfl
  errors _ _ _ := by simp

theorem WritesVec.trans {ks js : Nat → Prop} {m : Word} {g g' g'' : Group} (h : WritesVec ks m g g') (h' : WritesVec js m g' g'') :
    WritesVec (fun k => ks k ∨ js k) m g g'' where
  vectors k l hl hn := by
    rw [h'.vectors k l hl (by tauto), h.vectors k l hl (by tauto)]
  errors k l hl := by
    rw [h'.errors k l hl, h.errors k l hl]
    tauto

theorem WritesVec.congr {ks js : Nat → Prop} {m : Word} {g g' : Group} (h : WritesVec ks m g g') (he : ∀ k, ks k ↔ js k) :
    WritesVec js m g g' :=
  (funext fun k => propext (he k) : ks = js) ▸ h

/-- A write of one register. -/
theorem Group.putVec_writes (g : Group) (k : Nat) (m : Word) (f : Nat → Word) : WritesVec (· = k) m g (g.putVec k m f) where
  vectors j l hl hn := by
    refine SMap.get_foldl_set 0 f (fun i => 32 * k + i) (lanesOf m) g.vreg (32 * j + l) fun i hi heq => hn ?_
    obtain ⟨rfl, rfl⟩ := vregKey_inj (lt_of_mem_lanesOf hi) hl heq
    exact ⟨rfl, getLsbD_of_mem_lanesOf hi⟩
  errors j l hl := by
    have hreg : (32 * j + l) / 32 = j := by omega
    have hlane : (32 * j + l) % 32 = l := by omega
    simp only [Group.putVec, List.mem_filter, hreg, hlane, Bool.not_eq_true', Bool.and_eq_false_iff, beq_eq_false_iff_ne, not_and_or,
      Bool.not_eq_true, ne_eq]

/-- A field that names no queue port, written in the lanes of a mask: a register, or a pair in a 64-bit use. -/
def Group.putField (g : Group) (act : Word) (u : Use) (wide : Bool) (o : Opd) (f : Nat → DWord) : Group :=
  match namesReg u, o with
  | true, .v n =>
    let g := g.putVec n.toNat act fun l => (f l).setWidth 32
    if use64 u wide then g.putVec (n.toNat + 1) act fun l => (f l).extractLsb' 32 32 else g
  | _, _ => g

theorem writeField_notPort {s0 s : State} {act : Word} {u : Use} {wide : Bool} {o : Opd} {f : Nat → DWord} (hp : notPort o = true) :
    writeField s0 s act u wide o f = .ok { s with g := s.g.putField act u wide o f } := by
  unfold writeField Group.putField
  cases namesReg u with
  | false => rfl
  | true => cases o with
    | q j => cases hp
    | _ => rfl

/-- A write of a field changes the vector registers and their errors alone. -/
theorem Group.putField_eq (g : Group) (act : Word) (u : Use) (wide : Bool) (o : Opd) (f : Nat → DWord) :
    g.putField act u wide o f =
      { g with vreg := (g.putField act u wide o f).vreg, badV := (g.putField act u wide o f).badV } := by
  unfold Group.putField
  split
  · dsimp only
    split <;> rfl
  · rfl

/-- The destination is a register or a pair by the element type, a register, a pair, or none. -/
def PlainDest (v : LView) : Bool := !v.vdSrc && match v.ud with
  | .no | .raw | .el | .w32 | .w64 => true
  | _ => false

theorem Group.putField_writes {v : LView} (hv : PlainDest v = true) (g : Group) (act : Word) (f : Nat → DWord) :
    WritesVec (fun k => ∃ x ∈ LView.dst v, x.1 ≤ k ∧ k < x.1 + x.2) act g (g.putField act v.ud v.wide v.vd f) := by
  have hone (n : Nat) (f : Nat → Word) :
      WritesVec (fun k => ∃ x ∈ [(n, 1)], x.1 ≤ k ∧ k < x.1 + x.2) act g (g.putVec n act f) :=
    (g.putVec_writes n act f).congr fun k => by simp; omega
  have htwo (n : Nat) (f f' : Nat → Word) :
      WritesVec (fun k => ∃ x ∈ [(n, 2)], x.1 ≤ k ∧ k < x.1 + x.2) act g ((g.putVec n act f).putVec (n + 1) act f') :=
    ((g.putVec_writes n act f).trans (Group.putVec_writes _ (n + 1) act f')).congr fun k => by simp; omega
  have hnone : WritesVec (fun k => ∃ x ∈ ([] : List (Nat × Nat)), x.1 ≤ k ∧ k < x.1 + x.2) act g g :=
    (WritesVec.refl act g).congr fun k => by simp
  simp only [PlainDest, Bool.and_eq_true, Bool.not_eq_true'] at hv
  obtain ⟨hsrc, hud⟩ := hv
  have hdst : LView.dst v = v.ud.span v.wide v.vd := by simp [LView.dst, hsrc]
  rw [hdst]
  cases hd : v.vd with
  | v n =>
    cases hu : v.ud with
    | no | raw => exact hnone
    | w32 => exact hone _ _
    | w64 => exact htwo _ _ _
    | el => cases v.wide with
      | false => exact hone _ _
      | true => exact htwo _ _ _
    | _ => simp [hu] at hud
  | _ => cases v.ud <;> exact hnone

/-- A write of a predicate leaves everything else. -/
theorem Group.putPred_eq (g : Group) (k : PReg) (m x : Word) : g.putPred k m x = { g with preds := (g.putPred k m x).preds } := by
  unfold Group.putPred
  split <;> rfl

/-- A write of a predicate leaves the others, and its own bits outside the mask. -/
theorem Group.getLsbD_pr_putPred (g : Group) {k : PReg} {m : Word} (x : Word) {p : PReg} {l : Nat} (h : p ≠ k ∨ m.getLsbD l = false) :
    ((g.putPred k m x).pr p).getLsbD l = (g.pr p).getLsbD l := by
  by_cases hk : k = 0
  · simp only [Group.putPred, hk, if_true]
  by_cases hp : p = 0
  · simp only [Group.pr, hp, if_true]
  have hset : (g.putPred k m x).pr p = if p.toNat = k.toNat then (g.pr k &&& ~~~m) ||| (x &&& m) else g.pr p := by
    simp only [Group.putPred, if_neg hk, Group.pr, if_neg hp, SMap.get_set]
  rw [hset]
  split
  · next he =>
    obtain rfl := BitVec.eq_of_toNat_eq he
    have hm := h.resolve_left (not_not.mpr rfl)
    by_cases hl : l < 32
    · simp only [BitVec.getLsbD_or, BitVec.getLsbD_and, BitVec.getLsbD_not, hm, hl, decide_true, Bool.not_false, Bool.and_true,
        Bool.and_false, Bool.or_false]
    · simp [BitVec.getLsbD_of_ge _ _ (not_lt.mp hl)]
  · rfl

theorem Group.lst_orFlags_of_inactive (g : Group) {act : Word} (fl : Nat → Nat) {l : Nat} (h : act.getLsbD l = false) :
    (g.orFlags act fl).lst l = g.lst l :=
  foldl_keeps_mem (fun m => SMap.get 0 m l = g.lst l) (lanesOf act) (fun m j hj hm => by
    have hne : l ≠ j := by
      rintro rfl
      simp [getLsbD_of_mem_lanesOf hj] at h
    rw [SMap.get_set_other 0 m _ hne, hm]) rfl

/-- A flag once raised stays (R21). -/
theorem Group.lst_and_orFlags (g : Group) (act : Word) (fl : Nat → Nat) (l : Nat) : g.lst l &&& (g.orFlags act fl).lst l = g.lst l :=
  foldl_keeps (fun m => g.lst l &&& SMap.get 0 m l = g.lst l) (fun m j hm => by
    rw [SMap.get_set]
    split
    · next he => exact and_or_eq_self _ (he ▸ hm)
    · exact hm) (lanesOf act) (BitVec.and_self)

/-- No flag is enabled to trap: no lane raises one (R51). -/
theorem Group.enabled_eq_nil {g : Group} (act : Word) (fl : Nat → Nat) (h : g.fpte = 0) : g.enabled act fl = [] :=
  List.filterMap_eq_nil_iff.mpr fun l _ => by simp [h]

/-- Flags raised go to the lanes' status and, where one is enabled, to the core's window. -/
theorem State.raise_writes (s : State) (act : Word) (fl : Nat → Nat) :
    ∃ tab, s.raise act fl = { s with g := s.g.orFlags act fl, coreTab := tab } ∧ (s.g.fpte = 0 → tab = s.coreTab) := by
  cases he : s.g.enabled act fl with
  | nil => exact ⟨s.coreTab, by simp only [State.raise, he], fun _ => rfl⟩
  | cons x rest =>
    refine ⟨(s.raise act fl).coreTab, by simp only [State.raise, he]; rfl, fun h => ?_⟩
    rw [Group.enabled_eq_nil act fl h] at he
    cases he

/-- The group after an element-wise instruction's results: the destination, the predicate and the flags in the active lanes. -/
def laneWritten (v : LView) (x : LIn) (r : LRes) (g : Group) : Group :=
  ((g.putField x.act v.ud v.wide v.vd r.v).putPred v.pd x.act (maskOf r.p)).orFlags x.act r.fl

section
variable (v : LView) (x : LIn) (r : LRes) (g : Group)

theorem laneWritten_eq : laneWritten v x r g =
    { g with vreg := (laneWritten v x r g).vreg, badV := (laneWritten v x r g).badV, preds := (laneWritten v x r g).preds,
             lstat := (laneWritten v x r g).lstat } := by
  unfold laneWritten Group.orFlags
  rw [Group.putPred_eq, Group.putField_eq]

theorem laneWritten_writes (hv : PlainDest v = true) :
    WritesVec (fun k => ∃ y ∈ LView.dst v, y.1 ≤ k ∧ k < y.1 + y.2) x.act g (laneWritten v x r g) := by
  have h := g.putField_writes hv x.act r.v
  unfold laneWritten Group.orFlags
  rw [Group.putPred_eq]
  exact ⟨h.vectors, h.errors⟩

theorem getLsbD_pr_laneWritten {p : PReg} {l : Nat} (h : p ≠ v.pd ∨ x.act.getLsbD l = false) :
    ((laneWritten v x r g).pr p).getLsbD l = (g.pr p).getLsbD l := by
  have hfield : (g.putField x.act v.ud v.wide v.vd r.v).pr p = g.pr p := by
    rw [Group.putField_eq]
    rfl
  rw [← hfield]
  exact Group.getLsbD_pr_putPred _ (maskOf r.p) h

theorem lst_laneWritten : (laneWritten v x r g).lst = (g.orFlags x.act r.fl).lst := by
  unfold laneWritten
  rw [Group.putPred_eq, Group.putField_eq]
  rfl

/-- The state that results and the end of an instruction leave, within the frame of the statements (R8, R69, R458). -/
theorem laneFrame_laneWritten {s : State} {sw : Bool} {tab : SMap Core} (hv : PlainDest v = true) (hx : x.act = s.g.active v.h)
    (htab : s.g.fpte = 0 → tab = s.coreTab) :
    LaneFrame v sw s (laneDone v { s with g := laneWritten v x r (laneStart sw s).g, coreTab := tab }) := by
  have heq := laneWritten_eq v x r (laneStart sw s).g
  have hw := laneWritten_writes v x r (laneStart sw s).g hv
  have hflags := lst_laneWritten v x r (laneStart sw s).g
  rw [hx] at hw
  exact {
    whole := rfl
    group := by
      unfold laneDone Group.laneStep
      rw [heq]
      rfl
    run := by
      unfold laneDone Group.laneStep
      rw [heq]
      rfl
    vectors := hw.vectors
    errors := fun k l hl => ⟨fun h => ((hw.errors k l hl).mp h).1, fun h hn => (hw.errors k l hl).mpr ⟨h, hn⟩⟩
    preds := fun p l h => getLsbD_pr_laneWritten v x r (laneStart sw s).g (hx ▸ h)
    flags := fun l h => (congrFun hflags l).trans (Group.lst_orFlags_of_inactive _ r.fl (hx ▸ h))
    sticky := fun l => (congrArg (s.g.lst l &&& ·) (congrFun hflags l)).trans (Group.lst_and_orFlags _ x.act r.fl l)
    quiet := fun h => ⟨htab h, rfl⟩ }

end

/-- The results are written, and where a flag is enabled to trap the core's window takes it. -/
theorem laneWrite_notPort {v : LView} (hport : notPort v.vd = true) (x : LIn) (r : LRes) (s0 s : State) :
    ∃ tab, laneWrite v s0 x r s = .ok { s with g := laneWritten v x r s.g, coreTab := tab } ∧ (s.g.fpte = 0 → tab = s.coreTab) := by
  obtain ⟨tab, hraise, hquiet⟩ :=
    State.raise_writes { s with g := (s.g.putField x.act v.ud v.wide v.vd r.v).putPred v.pd x.act (maskOf r.p) } x.act r.fl
  rw [Group.putPred_eq, Group.putField_eq] at hquiet
  refine ⟨tab, ?_, hquiet⟩
  simp only [laneWrite, writeField_notPort hport, bind, Except.bind]
  exact congrArg Except.ok hraise

/-- An element-wise instruction that is ready completes (R8, R21, R68, R69, R458). -/
theorem laneOp_completes {v : LView} (f : LIn → LRes) {s : State} (hv : PlainDest v = true) (h : LaneReady v v.h.sw s) :
    ∃ t, laneOp v f s = .next t ∧ LaneFrame v v.h.sw s t ∧ ∀ k l, l < 32 → writesLane v s k l → 32 * k + l ∉ t.g.badV := by
  have hissue : laneIssue v s = .ok (laneIn v s, laneStart v.h.sw s) := laneIssueWith_ready h
  obtain ⟨tab, hwrite, hquiet⟩ :=
    laneWrite_notPort (h.ports _ List.mem_cons_self) (laneIn v s) (f (laneIn v s)) s (laneStart v.h.sw s)
  refine ⟨_, ?_, laneFrame_laneWritten v (laneIn v s) (f (laneIn v s)) hv rfl hquiet, fun k l hl hk hm => ?_⟩
  · simp only [laneOp, hissue, bind, Except.bind, hwrite]
    rfl
  · exact (((laneWritten_writes v (laneIn v s) (f (laneIn v s)) (laneStart v.h.sw s).g hv).errors k l hl).mp hm).2 hk

/-- An element-wise instruction is executed by `laneOp` under its view, and its destination is plain. Six of them name values before
they call `laneOp`, and unfold once more. -/
theorem exec_elementwise {i : Instr} {v : LView} (s : State) (h : Spec.elementwise i = some v) :
    (∃ f, exec i s = laneOp v f s) ∧ PlainDest v = true := by
  cases i with
  | vnop o | vmovi o | vmov o | vabs o | vneg o | vnot o | vclz o | vpopc o | vbrev o | lrcp o | lneg o | vunit o | vadd o | vsub o
  | vmul o | vmulh o | vmin o | vmax o | vand o | vor o | vxor o | vandn o | vshl o | vshr o | vsar o | vrot o | vbfx o | vmad o
  | vlop3 o | vfshl o | vbfi o | vpermb o | vaddc o | vsubb o | vdiv o | vrem o | vaddi o | vmuli o | vandi o | vori o | vxori o
  | vshfi o | vsad o | vdot4 o | vcmp o | lcmp o | vcmpi o | vsel o | vclass o | psetRange o | psetMask o | p2v o | v2p o | vshfl o
  | vlogstep o | vscan o | vfadd o | vfsub o | vfmul o | vfmin o | vfmax o | vfma o | vfdiv o | vfsqrt o | vfrcp o | vfrsq o | vfexp2 o
  | vflog2 o | vfsin o | vfcos o | vftanh o | vffrc o | vfrnd o | vfdot2 o | vq4encSuper o | vq4encScale o | vq4encCode o | vq4dec o
  | ladd o | lsub o | lmul o | ldiv o | lcvt o =>
    obtain rfl := Option.some.inj h
    unfold exec
    exact ⟨⟨_, rfl⟩, rfl⟩
  | vmadw o =>
    obtain rfl := Option.some.inj h
    unfold exec execVmadw
    exact ⟨⟨_, rfl⟩, rfl⟩
  | vfcmp o =>
    obtain rfl := Option.some.inj h
    unfold exec execVfcmp
    exact ⟨⟨_, rfl⟩, rfl⟩
  | plog o =>
    obtain rfl := Option.some.inj h
    unfold exec execPlog
    exact ⟨⟨_, rfl⟩, rfl⟩
  | vfscale o =>
    obtain rfl := Option.some.inj h
    unfold exec execVfscale
    exact ⟨⟨_, rfl⟩, rfl⟩
  | vcvt o =>
    obtain rfl := Option.some.inj h
    unfold exec execVcvt
    exact ⟨⟨_, rfl⟩, rfl⟩
  | vpack o =>
    obtain rfl := Option.some.inj h
    unfold exec execVpack
    exact ⟨⟨_, rfl⟩, rfl⟩
  | _ => cases h

/-- Settles O25: every element-wise instruction is `laneOp` under its view, which completes within the frame. -/
theorem elementwiseLaneInstructionsComplete : Obligations.ElementwiseLaneInstructionsComplete := by
  intro i v s hi h
  obtain ⟨⟨f, hexec⟩, hv⟩ := exec_elementwise s hi
  rw [hexec]
  exact laneOp_completes f hv h

end Sys2Proof.Machine
end

section
/-!
# Values of lane instructions on 32-bit words (R8, R21, R68)

What `laneOp` leaves in the active lanes' destination and status, beside the frame that it keeps.
-/
namespace Sys2Proof.Machine
open Forms (LView)

/-! ### What the active lanes hold afterwards -/

theorem mem_lanesOf {m : Word} {l : Nat} (h : m.getLsbD l = true) : l ∈ lanesOf m :=
  List.mem_filter.mpr ⟨List.mem_range.mpr (BitVec.lt_of_getLsbD h), h⟩

theorem nodup_lanesOf (m : Word) : (lanesOf m).Nodup := List.nodup_range.filter _

/-- A key that one of several updates reaches holds what that update made of its value. -/
theorem SMap.get_foldl_update {α : Type} [DecidableEq α] (d : α) (key : Nat → Nat) (f : Nat → α → α) {ls : List Nat}
    (hn : ls.Nodup) (m : SMap α) {j : Nat} (hj : j ∈ ls) (hkey : ∀ i ∈ ls, key i = key j → i = j) :
    SMap.get d (ls.foldl (fun m l => SMap.set d m (key l) (f l (SMap.get d m (key l)))) m) (key j) = f j (SMap.get d m (key j)) := by
  have hrest : ∀ (ls : List Nat) (m : SMap α), (∀ i ∈ ls, key i ≠ key j) →
      SMap.get d (ls.foldl (fun m l => SMap.set d m (key l) (f l (SMap.get d m (key l)))) m) (key j) = SMap.get d m (key j) :=
    fun ls m h => foldl_keeps_mem (fun m' => SMap.get d m' (key j) = SMap.get d m (key j)) ls
      (fun m' i hi hm => (SMap.get_set_other d m' _ (h i hi).symm).trans hm) rfl
  induction ls generalizing m with
  | nil => cases hj
  | cons i t ih =>
    obtain ⟨hi, ht⟩ := List.nodup_cons.mp hn
    rw [List.foldl_cons]
    by_cases hij : i = j
    · subst hij
      rw [hrest t _ fun k hk e => hi (hkey k (List.mem_cons_of_mem _ hk) e ▸ hk), SMap.get_set_same]
    · have hne : key j ≠ key i := fun e => hij (hkey i List.mem_cons_self e.symm)
      rw [ih ht _ ((List.mem_cons.mp hj).resolve_left (Ne.symm hij)) fun k hk => hkey k (List.mem_cons_of_mem _ hk),
        SMap.get_set_other d m _ hne]

theorem Group.vr_putVec_active (g : Group) (k : Nat) {m : Word} (f : Nat → Word) {l : Nat} (h : m.getLsbD l = true) :
    (g.putVec k m f).vr k l = f l :=
  SMap.get_foldl_update 0 (32 * k + ·) (fun l _ => f l) (nodup_lanesOf m) g.vreg (mem_lanesOf h) fun i _ e => by omega

/-- An active lane's status takes the flags that it raises (R21). -/
theorem Group.lst_orFlags_active (g : Group) {act : Word} (fl : Nat → Nat) {l : Nat} (h : act.getLsbD l = true) :
    (g.orFlags act fl).lst l = g.lst l ||| BitVec.ofNat 32 (fl l) :=
  SMap.get_foldl_update 0 id (fun l x => x ||| BitVec.ofNat 32 (fl l)) (nodup_lanesOf act) g.lstat (mem_lanesOf h) fun _ _ e => e

/-! ### Instructions on 32-bit words -/

/-- The view of an instruction on 32-bit words: its fields are those of `o`, none names a pair, and the destination is an element. -/
structure WordView (v : LView) (o : LOp) : Prop where
  hdr : v.h = o.h
  vd : v.vd = o.vd
  va : v.va = o.va
  vb : v.vb = o.vb
  vc : v.vc = o.vc
  dest : v.ud = .el
  result : v.vdSrc = false
  narrow : v.wide = false
  single : ∀ u ∈ [v.ua, v.ub, v.uc], use64 u false = false

/-- What an instruction on 32-bit words reads. -/
theorem WordView.reads {v : LView} {o : LOp} (h : WordView v o) (s : State) (l : Nat) :
    ((laneIn v s).a l).setWidth 32 = Spec.word s o.va l ∧ ((laneIn v s).b l).setWidth 32 = Spec.word s o.vb l ∧
      ((laneIn v s).c l).setWidth 32 = Spec.word s o.vc l := by
  have hread (u : Forms.Use) (x y : Opd) (hu : u ∈ [v.ua, v.ub, v.uc]) (hx : x = y) :
      (srcOf v s u x l).setWidth 32 = Spec.word s y l := by
    rw [srcOf, h.narrow, h.single u hu, hx, Spec.word]
  exact ⟨hread _ _ _ (by simp) h.va, hread _ _ _ (by simp) h.vb, hread _ _ _ (by simp) h.vc⟩

/-- Its result goes to the one register that it names. -/
theorem WordView.putField {v : LView} {o : LOp} (h : WordView v o) {n : BitVec 11} (hn : o.vd = .v n) (g : Group) (act : Word)
    (f : Nat → DWord) : g.putField act v.ud v.wide v.vd f = g.putVec n.toNat act fun l => (f l).setWidth 32 := by
  rw [h.dest, h.narrow, h.vd, hn]
  rfl

theorem vr_laneWritten (v : LView) (x : LIn) (r : LRes) (g : Group) :
    (laneWritten v x r g).vr = (g.putField x.act v.ud v.wide v.vd r.v).vr := by
  unfold laneWritten Group.orFlags
  rw [Group.putPred_eq]
  rfl

/-- An instruction on 32-bit words that is ready completes within the frame; each active lane's destination and status take the lane's
result and flags. -/
theorem laneOp_word {v : LView} {o : LOp} (f : LIn → LRes) {n : BitVec 11} {s : State} (hv : WordView v o) (hn : o.vd = .v n)
    (h : LaneReady v v.h.sw s) :
    ∃ t, laneOp v f s = .next t ∧ LaneFrame v v.h.sw s t ∧ ∀ l, (s.g.active o.h).getLsbD l = true →
      t.g.vr n.toNat l = ((f (laneIn v s)).v l).setWidth 32 ∧
      t.g.lst l = s.g.lst l ||| BitVec.ofNat 32 ((f (laneIn v s)).fl l) := by
  have hplain : PlainDest v = true := by simp [PlainDest, hv.result, hv.dest]
  have hissue : laneIssue v s = .ok (laneIn v s, laneStart v.h.sw s) := laneIssueWith_ready h
  obtain ⟨tab, hwrite, hquiet⟩ :=
    laneWrite_notPort (h.ports _ List.mem_cons_self) (laneIn v s) (f (laneIn v s)) s (laneStart v.h.sw s)
  refine ⟨_, ?_, laneFrame_laneWritten v (laneIn v s) (f (laneIn v s)) hplain rfl hquiet, fun l hl => ?_⟩
  · simp only [laneOp, hissue, bind, Except.bind, hwrite]
    rfl
  · rw [← hv.hdr] at hl
    constructor
    · exact (congrFun (congrFun (vr_laneWritten v (laneIn v s) (f (laneIn v s)) (laneStart v.h.sw s).g) n.toNat) l).trans
        ((congrArg (·.vr n.toNat l) (hv.putField hn _ _ _)).trans (Group.vr_putVec_active _ _ _ hl))
    · exact (congrFun (lst_laneWritten v (laneIn v s) (f (laneIn v s)) (laneStart v.h.sw s).g) l).trans
        (Group.lst_orFlags_active _ _ hl)

end Sys2Proof.Machine
end

section
/-!
# Values of the 32-bit integer and bitwise lane instructions (R11, R112, R115, R116, R119)

Each instruction is `laneOp` with a result function; over a type of one 32-bit element that function computes the word's operation
(`executesWord_of_wordOp`), and `laneOp_word` gives it to the active lanes.
-/
namespace Sys2Proof.Machine
open Forms (LView)

/-! ### Elements of 32 bits -/

/-- A type of one element of 32 bits. -/
structure OneWord (t : LType) : Prop where
  width : LType.ew t = 32
  count : LType.count t = 1
  wide : t.wide = false

/-- A type whose 32 bits are an integer: .s32 or .n32. -/
structure IntWord (t : LType) : Prop extends OneWord t where
  wrap : ∀ a : Word, BitVec.ofInt 32 (LType.val t a.toNat) = a

theorem oneWord_b32 : OneWord .b32 := ⟨rfl, rfl, rfl⟩
theorem oneWord_f32 : OneWord .f32 := ⟨rfl, rfl, rfl⟩

theorem val_s32 (a : Word) : LType.val .s32 a.toNat = a.toInt := by
  have hval : LType.val .s32 a.toNat = toSigned 32 a.toNat := rfl
  have hmod : a.toNat % 2 ^ 32 = a.toNat := Nat.mod_eq_of_lt a.isLt
  rw [hval, toSigned, hmod, BitVec.toInt_eq_toNat_cond]
  split <;> split <;> omega

theorem val_n32 (a : Word) : LType.val .n32 a.toNat = a.toNat := rfl

theorem intWord_s32 : IntWord .s32 := ⟨⟨rfl, rfl, rfl⟩, fun a => by rw [val_s32, BitVec.ofInt_toInt]⟩
theorem intWord_n32 : IntWord .n32 := ⟨⟨rfl, rfl, rfl⟩, fun a => by rw [val_n32, BitVec.ofInt_natCast]; simp⟩

theorem IntWord.of {t : LType} (h : t = .s32 ∨ t = .n32) : IntWord t := by
  rcases h with rfl | rfl
  · exact intWord_s32
  · exact intWord_n32
theorem OneWord.of {t : LType} (h : t = .f32 ∨ t = .b32) : OneWord t := by
  rcases h with rfl | rfl
  · exact oneWord_f32
  · exact oneWord_b32

theorem ofNat_ofInt (z : Int) : BitVec.ofNat 32 (ofInt 32 z) = BitVec.ofInt 32 z := by
  refine BitVec.eq_of_toNat_eq ?_
  rw [BitVec.toNat_ofInt, BitVec.toNat_ofNat, ofInt]
  omega

section
variable {t : LType} (ht : OneWord t)
include ht

/-- Over a type of one word the function meets the operands' low words. -/
theorem onElems_oneWord (f : List Nat → Nat × Nat) (xs : List DWord) :
    (onElems t f xs).1.setWidth 32 = BitVec.ofNat 32 (f (xs.map fun x => (x.setWidth 32).toNat)).1 ∧
      (onElems t f xs).2 = (f (xs.map fun x => (x.setWidth 32).toNat)).2 := by
  have helem (x : DWord) : elemOf 32 x 0 = (x.setWidth 32).toNat := by simp [elemOf]
  simp only [onElems, ht.width, ht.count, List.range_one, List.map_cons, List.map_nil, helem, joinElems]
  refine ⟨BitVec.eq_of_toNat_eq ?_, by simp⟩
  simp only [BitVec.toNat_setWidth, BitVec.toNat_ofNat]
  omega

theorem elems1_word (g : Nat → Nat × Nat) (x : LIn) (l : Nat) :
    ((elems1 t g x).v l).setWidth 32 = BitVec.ofNat 32 (g ((x.a l).setWidth 32).toNat).1 := by
  rw [elems1, resOf, (onElems_oneWord ht _ [x.a l]).1]
  rfl

theorem elems2_word (g : Nat → Nat → Nat × Nat) (x : LIn) (l : Nat) :
    ((elems2 t g x).v l).setWidth 32 = BitVec.ofNat 32 (g ((x.a l).setWidth 32).toNat ((x.b l).setWidth 32).toNat).1 := by
  rw [elems2, resOf, (onElems_oneWord ht _ [x.a l, x.b l]).1]
  rfl

theorem elems2_flags (g : Nat → Nat → Nat × Nat) (x : LIn) (l : Nat) :
    (elems2 t g x).fl l = (g ((x.a l).setWidth 32).toNat ((x.b l).setWidth 32).toNat).2 := by
  dsimp only [elems2, resOf]
  rw [(onElems_oneWord ht _ [x.a l, x.b l]).2]
  rfl

theorem elems3_word (g : Nat → Nat → Nat → Nat × Nat) (x : LIn) (l : Nat) :
    ((elems3 t g x).v l).setWidth 32 =
      BitVec.ofNat 32 (g ((x.a l).setWidth 32).toNat ((x.b l).setWidth 32).toNat ((x.c l).setWidth 32).toNat).1 := by
  rw [elems3, resOf, (onElems_oneWord ht _ [x.a l, x.b l, x.c l]).1]
  rfl

/-- The low word of an exact result that is not clamped (R11). -/
theorem ofNat_intRes (z : Int) : BitVec.ofNat 32 (intRes t false z).1 = BitVec.ofInt 32 z := by
  rw [← ofNat_ofInt, intRes, intoInt, ht.width]
  rfl

end

/-! ### The functions of words that instructions compute -/

/-- The low word of each lane's result is `f` of the low words of its operands. -/
def Computes (F : LIn → LRes) (f : Word → Word → Word → Word) : Prop :=
  ∀ x l, ((F x).v l).setWidth 32 = f ((x.a l).setWidth 32) ((x.b l).setWidth 32) ((x.c l).setWidth 32)

section
variable {t : LType} (ht : OneWord t)
include ht

theorem elems1_computes {g : Nat → Nat × Nat} {f : Word → Word} (h : ∀ a : Word, BitVec.ofNat 32 (g a.toNat).1 = f a) :
    Computes (elems1 t g) fun a _ _ => f a :=
  fun x l => (elems1_word ht g x l).trans (h _)

theorem elems2_computes {g : Nat → Nat → Nat × Nat} {f : Word → Word → Word}
    (h : ∀ a b : Word, BitVec.ofNat 32 (g a.toNat b.toNat).1 = f a b) : Computes (elems2 t g) fun a b _ => f a b :=
  fun x l => (elems2_word ht g x l).trans (h _ _)

theorem elems3_computes {g : Nat → Nat → Nat → Nat × Nat} {f : Word → Word → Word → Word}
    (h : ∀ a b c : Word, BitVec.ofNat 32 (g a.toNat b.toNat c.toNat).1 = f a b c) : Computes (elems3 t g) f :=
  fun x l => (elems3_word ht g x l).trans (h _ _ _)

end

/-- Wrapping arithmetic is that of words (R11, R112). -/
theorem arith2_computes {t : LType} (ht : IntWord t) {f : Int → Int → Int} {g : Word → Word → Word}
    (h : ∀ x y : Int, BitVec.ofInt 32 (f x y) = g (BitVec.ofInt 32 x) (BitVec.ofInt 32 y)) :
    Computes (elems2 t (arith2 t false f)) fun a b _ => g a b :=
  elems2_computes ht.toOneWord fun a b => by rw [arith2, ofNat_intRes ht.toOneWord, h, ht.wrap, ht.wrap]

theorem bitVec_ofInt_sub (x y : Int) : BitVec.ofInt 32 (x - y) = BitVec.ofInt 32 x - BitVec.ofInt 32 y := by
  rw [Int.sub_eq_add_neg, BitVec.ofInt_add, BitVec.ofInt_neg, BitVec.sub_eq_add_neg]

/-- VMAD keeps the low word of the exact sum. -/
theorem mad_computes {t : LType} (ht : IntWord t) :
    Computes (elems3 t fun a b c => intRes t false (LType.val t a * LType.val t b + LType.val t c)) fun a b c => a * b + c :=
  elems3_computes ht.toOneWord fun a b c => by
    rw [ofNat_intRes ht.toOneWord, BitVec.ofInt_add, BitVec.ofInt_mul, ht.wrap, ht.wrap, ht.wrap]

section
variable {t : LType} (ht : OneWord t) {q : Word → Word → Prop} [∀ a b, Decidable (q a b)]
include ht

theorem min_computes (h : ∀ a b : Word, LType.val t b.toNat < LType.val t a.toNat ↔ q a b) :
    Computes (elems2 t fun a b => plain (minElem t a b)) fun a b _ => if q a b then b else a :=
  elems2_computes ht fun a b => by
    simp only [plain, minElem, h]
    split <;> simp

theorem max_computes (h : ∀ a b : Word, LType.val t a.toNat < LType.val t b.toNat ↔ q a b) :
    Computes (elems2 t fun a b => plain (maxElem t a b)) fun a b _ => if q a b then b else a :=
  elems2_computes ht fun a b => by
    simp only [plain, maxElem, h]
    split <;> simp

end

/-- A value of 32 bits with the sign bit apart. -/
theorem and_low31 (a : Word) : BitVec.ofNat 32 (a.toNat % 2 ^ 31) = a &&& 0x7FFFFFFF := by
  refine BitVec.eq_of_toNat_eq ?_
  rw [BitVec.toNat_and, show (0x7FFFFFFF : Word).toNat = 2 ^ 31 - 1 from rfl, Nat.and_two_pow_sub_one_eq_mod, BitVec.toNat_ofNat]
  omega

theorem xor_sign (a : Word) : BitVec.ofNat 32 (a.toNat ^^^ 2 ^ 31) = a ^^^ 0x80000000 :=
  BitVec.eq_of_toNat_eq (by
    rw [BitVec.toNat_ofNat, BitVec.toNat_xor]
    exact Nat.mod_eq_of_lt (Nat.xor_lt_two_pow a.isLt (by decide)))

/-- On a type whose bits are no signed integer VNEG and VABS change the sign bit alone (R115). -/
theorem neg_computes {t : LType} (sat : Bool) (ht : t = .f32 ∨ t = .b32) :
    Computes (elems1 t fun a => if Sys2Proof.LType.signed t then intRes t sat (-LType.val t a) else plain (a ^^^ 2 ^ (LType.ew t - 1)))
      fun a _ _ => a ^^^ 0x80000000 := by
  rcases ht with rfl | rfl
  · exact elems1_computes oneWord_f32 xor_sign
  · exact elems1_computes oneWord_b32 xor_sign
theorem abs_computes {t : LType} (sat : Bool) (ht : t = .f32 ∨ t = .b32) :
    Computes (elems1 t fun a => if Sys2Proof.LType.signed t then intRes t sat (LType.val t a).natAbs else plain (a % 2 ^ (LType.ew t - 1)))
      fun a _ _ => a &&& 0x7FFFFFFF := by
  rcases ht with rfl | rfl
  · exact elems1_computes oneWord_f32 and_low31
  · exact elems1_computes oneWord_b32 and_low31

/-- VFSHL: the upper word of the pair moved left (R119). -/
theorem ofNat_funnel (a b : Word) (k : Nat) :
    BitVec.ofNat 32 ((a.toNat * 2 ^ 32 + b.toNat) * 2 ^ k / 2 ^ 32) = ((a ++ b) <<< k).extractLsb' 32 32 := by
  refine BitVec.eq_of_toNat_eq ?_
  have hpair : (a ++ b).toNat = a.toNat * 2 ^ 32 + b.toNat := by
    rw [BitVec.toNat_append, ← Nat.shiftLeft_add_eq_or_of_lt b.isLt, Nat.shiftLeft_eq]
  rw [BitVec.extractLsb'_toNat, BitVec.toNat_shiftLeft, hpair, BitVec.toNat_ofNat, Nat.shiftLeft_eq, Nat.shiftRight_eq_div_pow]
  omega

/-! ### What each instruction computes -/

theorem wordView_alu1 {o : LOp} (h : o.ty.wide = false) : WordView (Forms.alu1 o) o :=
  ⟨rfl, rfl, rfl, rfl, rfl, rfl, rfl, h, by simp [Forms.alu1, Forms.ofOp, use64]⟩
theorem wordView_alu2 {o : LOp} (h : o.ty.wide = false) : WordView (Forms.alu2 o) o :=
  ⟨rfl, rfl, rfl, rfl, rfl, rfl, rfl, h, by simp [Forms.alu2, Forms.ofOp, use64]⟩
theorem wordView_alu3 {o : LOp} (h : o.ty.wide = false) : WordView (Forms.alu3 o) o :=
  ⟨rfl, rfl, rfl, rfl, rfl, rfl, rfl, h, by simp [Forms.alu3, Forms.ofOp, use64]⟩

/-- The instruction is executed under a view on words and computes `f`. -/
structure ExecutesWord (i : Instr) (v : LView) (o : LOp) (f : Word → Word → Word → Word) : Prop where
  view : WordView v o
  computes : ∃ F, (∀ s, exec i s = laneOp v F s) ∧ Computes F f

/-- A row of `Spec.wordOp` that holds under a condition. -/
theorem wordOp_row {c : Prop} [Decidable c] {o o' : LOp} {f f' : Word → Word → Word → Word}
    (h : (if c then some (o, f) else none) = some (o', f')) : c ∧ o = o' ∧ f = f' := by
  simpa using h

theorem executesWord_of_wordOp {i : Instr} {v : LView} {o : LOp} {f : Word → Word → Word → Word} (h : Spec.wordOp i = some (o, f))
    (hv : Spec.elementwise i = some v) : ExecutesWord i v o f := by
  cases i with
  | vmov o =>
    obtain rfl := Option.some.inj hv
    obtain ⟨hb, rfl, rfl⟩ := wordOp_row h
    exact ⟨wordView_alu1 (hb ▸ rfl), fun x => { v := x.a }, fun _ => rfl, fun _ _ => rfl⟩
  | vadd o =>
    obtain rfl := Option.some.inj hv
    obtain ⟨⟨ht, hs⟩, rfl, rfl⟩ := wordOp_row h
    have ht := IntWord.of ht
    exact ⟨wordView_alu2 ht.wide, elems2 o.ty (arith2 o.ty o.sat (· + ·)), fun _ => rfl, hs ▸ arith2_computes ht BitVec.ofInt_add⟩
  | vsub o =>
    obtain rfl := Option.some.inj hv
    obtain ⟨⟨ht, hs⟩, rfl, rfl⟩ := wordOp_row h
    have ht := IntWord.of ht
    exact ⟨wordView_alu2 ht.wide, elems2 o.ty (arith2 o.ty o.sat (· - ·)), fun _ => rfl, hs ▸ arith2_computes ht bitVec_ofInt_sub⟩
  | vmul o =>
    obtain rfl := Option.some.inj hv
    obtain ⟨⟨ht, hs⟩, rfl, rfl⟩ := wordOp_row h
    have ht := IntWord.of ht
    exact ⟨wordView_alu2 ht.wide, elems2 o.ty (arith2 o.ty o.sat (· * ·)), fun _ => rfl, hs ▸ arith2_computes ht BitVec.ofInt_mul⟩
  | vmad o =>
    obtain rfl := Option.some.inj hv
    obtain ⟨⟨ht, hs⟩, rfl, rfl⟩ := wordOp_row h
    have ht := IntWord.of ht
    exact ⟨wordView_alu3 ht.wide, elems3 o.ty fun a b c => intRes o.ty o.sat (LType.val o.ty a * LType.val o.ty b + LType.val o.ty c),
      fun _ => rfl, hs ▸ mad_computes ht⟩
  | vmin o =>
    obtain rfl := Option.some.inj hv
    simp only [Spec.wordOp] at h
    split at h
    case isTrue hs =>
      obtain ⟨rfl, rfl⟩ := Prod.mk.inj (Option.some.inj h)
      exact ⟨wordView_alu2 (hs ▸ rfl), elems2 o.ty fun a b => plain (minElem o.ty a b), fun _ => rfl,
        hs ▸ min_computes intWord_s32.toOneWord fun a b => by rw [val_s32, val_s32]⟩
    case isFalse =>
      obtain ⟨hn, rfl, rfl⟩ := wordOp_row h
      exact ⟨wordView_alu2 (hn ▸ rfl), elems2 o.ty fun a b => plain (minElem o.ty a b), fun _ => rfl,
        hn ▸ min_computes intWord_n32.toOneWord fun a b => by rw [val_n32, val_n32, Int.ofNat_lt]⟩
  | vmax o =>
    obtain rfl := Option.some.inj hv
    simp only [Spec.wordOp] at h
    split at h
    case isTrue hs =>
      obtain ⟨rfl, rfl⟩ := Prod.mk.inj (Option.some.inj h)
      exact ⟨wordView_alu2 (hs ▸ rfl), elems2 o.ty fun a b => plain (maxElem o.ty a b), fun _ => rfl,
        hs ▸ max_computes intWord_s32.toOneWord fun a b => by rw [val_s32, val_s32]⟩
    case isFalse =>
      obtain ⟨hn, rfl, rfl⟩ := wordOp_row h
      exact ⟨wordView_alu2 (hn ▸ rfl), elems2 o.ty fun a b => plain (maxElem o.ty a b), fun _ => rfl,
        hn ▸ max_computes intWord_n32.toOneWord fun a b => by rw [val_n32, val_n32, Int.ofNat_lt]⟩
  | vand o =>
    obtain rfl := Option.some.inj hv
    obtain ⟨hb, rfl, rfl⟩ := wordOp_row h
    exact ⟨wordView_alu2 (hb ▸ rfl), bitwise (· &&& ·), fun _ => rfl, fun _ _ => BitVec.setWidth_and⟩
  | vor o =>
    obtain rfl := Option.some.inj hv
    obtain ⟨hb, rfl, rfl⟩ := wordOp_row h
    exact ⟨wordView_alu2 (hb ▸ rfl), bitwise (· ||| ·), fun _ => rfl, fun _ _ => BitVec.setWidth_or⟩
  | vxor o =>
    obtain rfl := Option.some.inj hv
    obtain ⟨hb, rfl, rfl⟩ := wordOp_row h
    exact ⟨wordView_alu2 (hb ▸ rfl), bitwise (· ^^^ ·), fun _ => rfl, fun _ _ => BitVec.setWidth_xor⟩
  | vandn o =>
    obtain rfl := Option.some.inj hv
    obtain ⟨hb, rfl, rfl⟩ := wordOp_row h
    exact ⟨wordView_alu2 (hb ▸ rfl), bitwise fun a b => a &&& ~~~b, fun _ => rfl, fun _ _ => by
      rw [bitwise, BitVec.setWidth_and, BitVec.setWidth_not (by decide)]⟩
  | vnot o =>
    obtain rfl := Option.some.inj hv
    obtain ⟨hb, rfl, rfl⟩ := wordOp_row h
    exact ⟨wordView_alu1 (hb ▸ rfl), fun x => { v := fun l => ~~~(x.a l) }, fun _ => rfl, fun _ _ => BitVec.setWidth_not (by decide)⟩
  | vneg o =>
    obtain rfl := Option.some.inj hv
    obtain ⟨ht, rfl, rfl⟩ := wordOp_row h
    exact ⟨wordView_alu1 (OneWord.of ht).wide, _, fun _ => rfl, neg_computes o.sat ht⟩
  | vabs o =>
    obtain rfl := Option.some.inj hv
    obtain ⟨ht, rfl, rfl⟩ := wordOp_row h
    exact ⟨wordView_alu1 (OneWord.of ht).wide, _, fun _ => rfl, abs_computes o.sat ht⟩
  | vfshl o =>
    obtain rfl := Option.some.inj hv
    obtain ⟨hb, rfl, rfl⟩ := wordOp_row h
    exact ⟨wordView_alu3 (hb ▸ rfl), elems3 o.ty fun a b c => plain ((a * 2 ^ 32 + b) * 2 ^ (c % 32) / 2 ^ 32), fun _ => rfl,
      hb ▸ elems3_computes oneWord_b32 fun a b c => ofNat_funnel a b (c.toNat % 32)⟩
  | _ => cases h

/-! ### Integer and bitwise values -/

/-- An unsaturated instruction on words gives each active lane the word's function of the lane's operands. -/
theorem wordOp_values {i : Instr} {v : LView} {o : LOp} {f : Word → Word → Word → Word} {n : BitVec 11} {s : State}
    (hi : Spec.wordOp i = some (o, f)) (hv : Spec.elementwise i = some v) (hn : o.vd = .v n) (h : LaneReady v v.h.sw s) :
    ∃ t, exec i s = .next t ∧ LaneFrame v v.h.sw s t ∧ ∀ l, (s.g.active o.h).getLsbD l = true →
      t.g.vr n.toNat l = f (Spec.word s o.va l) (Spec.word s o.vb l) (Spec.word s o.vc l) := by
  obtain ⟨hview, F, hexec, hF⟩ := executesWord_of_wordOp hi hv
  obtain ⟨t, ht, hframe, hlanes⟩ := laneOp_word F hview hn h
  refine ⟨t, (hexec s).trans ht, hframe, fun l hl => ?_⟩
  obtain ⟨ha, hb, hc⟩ := hview.reads s l
  rw [(hlanes l hl).1, hF, ha, hb, hc]

/-- A sum in a saturating .s32 element: the clamped value, and SAT where it was out of range (R11). -/
theorem intRes_s32_sat (z : Int) :
    BitVec.ofNat 32 (intRes .s32 true z).1 = BitVec.ofInt 32 (max (-2 ^ 31) (min (2 ^ 31 - 1) z)) ∧
      (intRes .s32 true z).2 = if z < -2 ^ 31 ∨ 2 ^ 31 ≤ z then fSAT else 0 := by
  have hres : intRes .s32 true z = if 2 ^ 31 - 1 < z then (ofInt 32 (2 ^ 31 - 1), fSAT)
      else if z < -2 ^ 31 then (ofInt 32 (-2 ^ 31), fSAT) else (ofInt 32 z, 0) := by
    simp [intRes, intoInt, intMax, intMin, LType.ew, Sys2Proof.LType.signed]
  rw [hres]
  split
  case isTrue hhigh => exact ⟨by rw [ofNat_ofInt, min_eq_left hhigh.le]; rfl, (if_pos (by omega)).symm⟩
  case isFalse hhigh =>
    split
    case isTrue hlow => exact ⟨by rw [ofNat_ofInt, min_eq_right (by omega), max_eq_left hlow.le], (if_pos (.inl hlow)).symm⟩
    case isFalse hlow => exact ⟨by rw [ofNat_ofInt, min_eq_right (by omega), max_eq_right (by omega)], (if_neg (by omega)).symm⟩

/-- VADD.sat on .s32. -/
theorem vadd_sat_values {o : LOp} {n : BitVec 11} {s : State} (hty : o.ty = .s32) (hsat : o.sat = true) (hn : o.vd = .v n)
    (h : LaneReady (Forms.alu2 o) o.h.sw s) :
    ∃ t, exec (.vadd o) s = .next t ∧ LaneFrame (Forms.alu2 o) o.h.sw s t ∧ ∀ l, (s.g.active o.h).getLsbD l = true →
      let x := (Spec.word s o.va l).toInt + (Spec.word s o.vb l).toInt
      t.g.vr n.toNat l = BitVec.ofInt 32 (max (-2 ^ 31) (min (2 ^ 31 - 1) x)) ∧
      t.g.lst l = (if x < -2 ^ 31 ∨ 2 ^ 31 ≤ x then s.g.lst l ||| BitVec.ofNat 32 fSAT else s.g.lst l) := by
  have hview : WordView (Forms.alu2 o) o := wordView_alu2 (hty ▸ rfl)
  obtain ⟨t, ht, hframe, hlanes⟩ := laneOp_word (elems2 o.ty (arith2 o.ty o.sat (· + ·))) hview hn h
  refine ⟨t, ht, hframe, fun l hl => ?_⟩
  obtain ⟨hval, hflags⟩ := hlanes l hl
  obtain ⟨ha, hb, -⟩ := hview.reads s l
  obtain ⟨hsum, hclamp⟩ := intRes_s32_sat ((Spec.word s o.va l).toInt + (Spec.word s o.vb l).toInt)
  rw [hty, hsat] at hval hflags
  rw [elems2_word intWord_s32.toOneWord, arith2, ha, hb, val_s32, val_s32, hsum] at hval
  rw [elems2_flags intWord_s32.toOneWord, arith2, ha, hb, val_s32, val_s32, hclamp] at hflags
  refine ⟨hval, hflags.trans ?_⟩
  split
  · rfl
  · exact BitVec.or_zero

/-- The integer and bitwise values of R112, R115, R116 and R119. -/
theorem laneIntegerValues : Spec.LaneIntegerValues :=
  ⟨fun _ _ _ _ _ _ hi hv hn h => wordOp_values hi hv hn h, fun _ _ _ hty hsat hn h => vadd_sat_values hty hsat hn h⟩

end Sys2Proof.Machine
end

section
/-!
# Values of the f32 lane instructions that round nothing (R14, R17, R18, R20)

A pattern other than a NaN reads as an infinity, a zero or a finite value by its fields (`decode_f32`). Over these readings the exact
sum, product and quotient give the infinity, the zero or the NaN of R18's rows, which settle alike under every rounding mode.
-/
namespace Sys2Proof.Machine
open Forms (LView)

/-! ### The f32 patterns that stand for no finite non-zero number (R13, R14) -/

/-- A pattern other than a NaN reads as this exact value. -/
inductive Reads32 (x : Word) : XVal → Prop
  | inf (hinf : Spec.inf32 x = true) (hzero : Spec.zero32 x = false) : Reads32 x (.inf x.msb)
  | zero (hinf : Spec.inf32 x = false) (hzero : Spec.zero32 x = true) : Reads32 x (.zero x.msb)
  | fin {m e : Int} (hinf : Spec.inf32 x = false) (hzero : Spec.zero32 x = false) (hm : m ≠ 0) (hsign : decide (m < 0) = x.msb) :
      Reads32 x (.fin m e)

theorem neg_f32 (x : Word) : f32.neg x.toNat = x.msb := by
  have hlt := x.isLt
  have hmsb : x.msb = decide (2 ^ 31 ≤ x.toNat) := BitVec.msb_eq_decide x
  have hneg : f32.neg x.toNat = (x.toNat / 2 ^ 31 % 2 == 1) := rfl
  rw [hneg, hmsb, Bool.eq_iff_iff, beq_iff_eq, decide_eq_true_eq]
  omega

theorem signInt_ne_zero {n : Bool} {m : Nat} (h : 0 < m) : signInt n m ≠ 0 := by
  cases n with
  | false => simpa [signInt] using h.ne'
  | true => simpa [signInt] using h.ne'
theorem signInt_neg {n : Bool} {m : Nat} (h : 0 < m) : decide (signInt n m < 0) = n := by
  cases n with
  | false => simp [signInt]
  | true => simpa [signInt] using h

/-- The pattern's fields decide what it reads as. -/
theorem decode_f32 (x : Word) :
    (Spec.nan32 x = true ∧ f32.decode false x.toNat = .nan) ∨ (Spec.nan32 x = false ∧ Reads32 x (f32.decode false x.toNat)) := by
  have hmag : f32.mag x.toNat = x.toNat % 2 ^ 31 := rfl
  have htop : f32.top = 0x7F7FFFFF := rfl
  have hinf : f32.inf = some 0x7F800000 := rfl
  have hfb : f32.fb = 23 := rfl
  have hfin {m : Nat} {e : Int} (hm : 0 < m) (hi : x.toNat % 2 ^ 31 < 0x7F800000) (hz : x.toNat % 2 ^ 31 ≠ 0) :
      Reads32 x (.fin (signInt x.msb m) e) :=
    .fin (decide_eq_false hi.ne) (decide_eq_false hz) (signInt_ne_zero hm) (signInt_neg hm)
  simp only [Fmt.decode, neg_f32, hmag, htop, hinf, hfb, Option.some.injEq, Bool.or_false, decide_eq_true_eq]
  split
  case isTrue htop =>
    split
    case isTrue hi => exact .inr ⟨decide_eq_false (by omega), .inf (decide_eq_true hi.symm) (decide_eq_false (by omega))⟩
    case isFalse hi => exact .inl ⟨decide_eq_true (by omega), rfl⟩
  case isFalse htop =>
    refine .inr ⟨decide_eq_false (by omega), ?_⟩
    split
    case isTrue hexp =>
      split
      case isTrue hz => exact .zero (decide_eq_false (by omega)) (decide_eq_true hz)
      case isFalse hz => exact hfin (by omega) (by omega) hz
    case isFalse hexp => exact hfin (by omega) (by omega) (by omega)

theorem decode_eq_nan_iff (x : Word) : f32.decode false x.toNat = .nan ↔ Spec.nan32 x = true := by
  rcases decode_f32 x with ⟨hn, hd⟩ | ⟨hn, hd⟩
  · simp [hn, hd]
  · refine ⟨fun h => ?_, fun h => by simp [hn] at h⟩
    rw [h] at hd
    cases hd

theorem reads32_decode {x : Word} (h : Spec.nan32 x = false) : Reads32 x (f32.decode false x.toNat) :=
  (decode_f32 x).elim (fun hn => by simp [hn.1] at h) And.right

theorem isSnan_f32 (x : Word) : f32.isSnan x.toNat = Spec.snan32 x := by
  have hbit : (f32.mag x.toNat / 2 ^ (f32.fb - 1) % 2 == 0) = !x.getLsbD 22 := by
    have hmag : f32.mag x.toNat / 2 ^ (f32.fb - 1) % 2 = x.toNat / 2 ^ 22 % 2 := by
      have : f32.mag x.toNat / 2 ^ (f32.fb - 1) = x.toNat % 2 ^ 31 / 2 ^ 22 := rfl
      omega
    rw [hmag, BitVec.getLsbD, Nat.testBit_eq_decide_div_mod_eq, Bool.eq_iff_iff]
    simp
  rw [Fmt.isSnan, Spec.snan32, hbit]
  congr 1
  rw [Bool.eq_iff_iff, beq_iff_eq, decode_eq_nan_iff]

/-! ### Signs -/

theorem Reads32.isNeg {a : Word} {x : XVal} (h : Reads32 a x) : x.isNeg = a.msb := by
  cases h with
  | inf | zero => rfl
  | fin _ _ _ hsign => exact hsign

/-- The sign bit of a word. -/
theorem and_sign (x : Word) : x &&& 0x80000000 = if x.msb then 0x80000000 else 0 :=
  BitVec.and_twoPow x 31

/-- A word is its magnitude with its sign bit. -/
theorem toNat_eq_signed (x : Word) : x.toNat = f32.signed x.msb (x.toNat % 2 ^ 31) := by
  have hlt := x.isLt
  have hsigned : f32.signed x.msb (x.toNat % 2 ^ 31) = if x.msb then 2 ^ 31 + x.toNat % 2 ^ 31 else x.toNat % 2 ^ 31 := rfl
  rw [hsigned, BitVec.msb_eq_decide]
  by_cases h : 2 ^ (32 - 1) ≤ x.toNat
  · rw [if_pos (decide_eq_true h)]
    omega
  · rw [if_neg (by simpa using h)]
    omega

theorem toNat_of_inf32 {a : Word} (h : Spec.inf32 a = true) : a.toNat = f32.signed a.msb 0x7F800000 := by
  rw [toNat_eq_signed a, of_decide_eq_true h]

theorem sign_xor (a b : Word) : (a ^^^ b) &&& 0x80000000 = if a.msb != b.msb then 0x80000000 else 0 := by
  rw [and_sign, BitVec.msb_xor]

theorem toNat_zeroOf (a b : Word) : (Spec.zeroOf a b).toNat = f32.signed (a.msb != b.msb) 0 := by
  rw [Spec.zeroOf, sign_xor]
  cases a.msb != b.msb <;> rfl

theorem toNat_infOf (a b : Word) : (Spec.infOf a b).toNat = f32.signed (a.msb != b.msb) 0x7F800000 := by
  rw [Spec.infOf, sign_xor]
  cases a.msb != b.msb <;> rfl

/-- The other sign: what stands for a value stands for its negation. -/
theorem toNat_xor_sign_mod (b : Word) : (b ^^^ 0x80000000).toNat % 2 ^ 31 = b.toNat % 2 ^ 31 := by
  rw [BitVec.toNat_xor, Nat.xor_mod_two_pow]
  exact Nat.xor_zero _

theorem Reads32.neg {b : Word} {y : XVal} (h : Reads32 b y) : Reads32 (b ^^^ 0x80000000) y.neg := by
  have hmsb : (b ^^^ 0x80000000).msb = !b.msb := by rw [BitVec.msb_xor]; exact Bool.xor_true _
  have hi : Spec.inf32 (b ^^^ 0x80000000) = Spec.inf32 b := by rw [Spec.inf32, toNat_xor_sign_mod, Spec.inf32]
  have hz : Spec.zero32 (b ^^^ 0x80000000) = Spec.zero32 b := by rw [Spec.zero32, toNat_xor_sign_mod, Spec.zero32]
  cases h with
  | inf hinf hzero => rw [XVal.neg, ← hmsb]; exact .inf (hi.trans hinf) (hz.trans hzero)
  | zero hinf hzero => rw [XVal.neg, ← hmsb]; exact .zero (hi.trans hinf) (hz.trans hzero)
  | fin hinf hzero hm hsign =>
    refine .fin (hi.trans hinf) (hz.trans hzero) (neg_ne_zero.mpr hm) ?_
    rw [hmsb, ← hsign, Bool.eq_iff_iff]
    simp
    omega

/-! ### Exact outcomes that rest on no rounding (R17, R18) -/

/-- The exact outcome and its flags give a pattern and flags under every rounding mode. -/
def SettlesTo (p : XVal × Nat) (r : Word × Nat) : Prop :=
  p.2 = r.2 ∧ ∀ rnd, f32.settle rnd false false p.1 = (r.1.toNat, 0)

theorem settlesTo_nan (fl : Nat) : SettlesTo (.nan, fl) (0x7FC00000, fl) := ⟨rfl, fun _ => rfl⟩
theorem settlesTo_inf (a b : Word) (fl : Nat) : SettlesTo (.inf (a.msb != b.msb), fl) (Spec.infOf a b, fl) :=
  ⟨rfl, fun _ => by rw [toNat_infOf]; rfl⟩
theorem settlesTo_zero (a b : Word) (fl : Nat) : SettlesTo (.zero (a.msb != b.msb), fl) (Spec.zeroOf a b, fl) :=
  ⟨rfl, fun _ => by rw [toNat_zeroOf]; rfl⟩
theorem settlesTo_self {a : Word} (h : Spec.inf32 a = true) (fl : Nat) : SettlesTo (.inf a.msb, fl) (a, fl) :=
  ⟨rfl, fun _ => by rw [toNat_of_inf32 h]; rfl⟩

section
variable {a b : Word} {x y : XVal} {r : Word × Nat} (hx : Reads32 a x) (hy : Reads32 b y)
include hx hy

theorem add_settles (rdn : Bool) (h : Spec.sum32 a b = some r) : SettlesTo (XVal.add rdn x y) r := by
  cases hx with
  | inf hai haz =>
    cases hy with
    | inf hbi hbz =>
      obtain rfl : (if a = b then (a, 0) else (0x7FC00000, fNV)) = r := by simpa [Spec.sum32, hai, hbi] using h
      have hsame : a.msb = b.msb ↔ a = b :=
        ⟨fun e => BitVec.eq_of_toNat_eq (by rw [toNat_of_inf32 hai, toNat_of_inf32 hbi, e]), fun e => e ▸ rfl⟩
      simp only [XVal.add, hsame]
      split
      · exact settlesTo_self hai 0
      · exact settlesTo_nan fNV
    | zero hbi hbz | fin hbi hbz hm hs =>
      obtain rfl : (a, 0) = r := by simpa [Spec.sum32, hai, hbi] using h
      exact settlesTo_self hai 0
  | zero hai haz | fin hai haz hm hs =>
    cases hy with
    | inf hbi hbz =>
      obtain rfl : (b, 0) = r := by simpa [Spec.sum32, hai, hbi] using h
      exact settlesTo_self hbi 0
    | zero hbi hbz | fin hbi hbz hn ht => simp [Spec.sum32, hai, hbi] at h

theorem mul_settles (h : Spec.product32 a b = some r) : SettlesTo (XVal.mul x y) r := by
  have ha := hx.isNeg
  have hb := hy.isNeg
  cases hx with
  | inf hai haz =>
    cases hy with
    | zero hbi hbz =>
      obtain rfl : (0x7FC00000, fNV) = r := by simpa [Spec.product32, hai, haz, hbi, hbz] using h
      exact settlesTo_nan fNV
    | inf hbi hbz | fin hbi hbz hm hs =>
      obtain rfl : (Spec.infOf a b, 0) = r := by simpa [Spec.product32, hai, haz, hbi, hbz] using h
      simp only [XVal.mul, hb]
      exact settlesTo_inf a b 0
  | zero hai haz =>
    cases hy with
    | inf hbi hbz =>
      obtain rfl : (0x7FC00000, fNV) = r := by simpa [Spec.product32, hai, haz, hbi, hbz] using h
      exact settlesTo_nan fNV
    | zero hbi hbz | fin hbi hbz hm hs =>
      obtain rfl : (Spec.zeroOf a b, 0) = r := by simpa [Spec.product32, hai, haz, hbi, hbz] using h
      simp only [XVal.mul, hb]
      exact settlesTo_zero a b 0
  | fin hai haz hm hs =>
    cases hy with
    | inf hbi hbz =>
      obtain rfl : (Spec.infOf a b, 0) = r := by simpa [Spec.product32, hai, haz, hbi, hbz] using h
      simp only [XVal.mul, ha, bne_comm]
      exact settlesTo_inf a b 0
    | zero hbi hbz =>
      obtain rfl : (Spec.zeroOf a b, 0) = r := by simpa [Spec.product32, hai, haz, hbi, hbz] using h
      simp only [XVal.mul, ha, bne_comm]
      exact settlesTo_zero a b 0
    | fin hbi hbz hn ht => simp [Spec.product32, hai, haz, hbi, hbz] at h

theorem div_settles (h : Spec.quotient32 a b = some r) : SettlesTo (XVal.div x y) r := by
  have hb := hy.isNeg
  cases hx with
  | inf hai haz =>
    cases hy with
    | inf hbi hbz =>
      obtain rfl : (0x7FC00000, fNV) = r := by simpa [Spec.quotient32, hai, haz, hbi, hbz] using h
      exact settlesTo_nan fNV
    | zero hbi hbz | fin hbi hbz hm hs =>
      obtain rfl : (Spec.infOf a b, 0) = r := by simpa [Spec.quotient32, hai, haz, hbi, hbz] using h
      simp only [XVal.div, hb]
      exact settlesTo_inf a b 0
  | zero hai haz =>
    cases hy with
    | zero hbi hbz =>
      obtain rfl : (0x7FC00000, fNV) = r := by simpa [Spec.quotient32, hai, haz, hbi, hbz] using h
      exact settlesTo_nan fNV
    | inf hbi hbz | fin hbi hbz hm hs =>
      obtain rfl : (Spec.zeroOf a b, 0) = r := by simpa [Spec.quotient32, hai, haz, hbi, hbz] using h
      simp only [XVal.div, hb]
      exact settlesTo_zero a b 0
  | fin hai haz hm hs =>
    cases hy with
    | inf hbi hbz =>
      obtain rfl : (Spec.zeroOf a b, 0) = r := by simpa [Spec.quotient32, hai, haz, hbi, hbz] using h
      simp only [XVal.div, XVal.isNeg, hs]
      exact settlesTo_zero a b 0
    | zero hbi hbz =>
      obtain rfl : (Spec.infOf a b, fDZ) = r := by simpa [Spec.quotient32, hai, haz, hbi, hbz] using h
      simp only [XVal.div, hs]
      exact settlesTo_inf a b fDZ
    | fin hbi hbz hn ht => simp [Spec.quotient32, hai, haz, hbi, hbz] at h

end

/-! ### The shared shape of an operation on f32 (R18) -/

/-- An exact function meets the outcomes of `f` that rest on no rounding. -/
def Meets (g : XVal → XVal → XVal × Nat) (f : Word → Word → Option (Word × Nat)) : Prop :=
  ∀ {a b : Word} {x y : XVal} {r : Word × Nat}, Reads32 a x → Reads32 b y → f a b = some r → SettlesTo (g x y) r

/-- NaN operands settle first, and then the exact outcome does (R18). -/
theorem fpOp_outcome {g : XVal → XVal → XVal × Nat} {f : Word → Word → Option (Word × Nat)} (hg : Meets g f) {a b : Word}
    {r : Word × Nat} (rnd : Rnd) (h : Spec.outcome32 f a b = some r) :
    fpOp f32 rnd false false [a.toNat, b.toNat] (on2 g) = (r.1.toNat, r.2) := by
  have hsnan : [a.toNat, b.toNat].any f32.isSnan = (Spec.snan32 a || Spec.snan32 b) := by simp [isSnan_f32]
  have hnan : ([a.toNat, b.toNat].map (f32.decode false)).contains .nan = (Spec.nan32 a || Spec.nan32 b) := by
    rw [Bool.eq_iff_iff]
    simp [eq_comm (a := XVal.nan), decode_eq_nan_iff]
  unfold Spec.outcome32 at h
  simp only [fpOp, hsnan, hnan]
  split at h
  case isTrue hs =>
    obtain rfl := Option.some.inj h
    exact if_pos hs
  case isFalse hs =>
    rw [if_neg hs]
    split at h
    case isTrue hn =>
      obtain rfl := Option.some.inj h
      exact if_pos hn
    case isFalse hn =>
      obtain ⟨ha, hb⟩ := Bool.or_eq_false_iff.mp (Bool.eq_false_iff.mpr hn)
      obtain ⟨hflags, hsettle⟩ := hg (reads32_decode ha) (reads32_decode hb) h
      rw [if_neg hn]
      simp only [List.map_cons, List.map_nil, on2, hsettle, hflags, Nat.or_zero]

theorem wordView_withLat {v : LView} {o : LOp} (h : WordView v o) (n : Nat) : WordView (v.withLat n) o :=
  ⟨h.hdr, h.vd, h.va, h.vb, h.vc, h.dest, h.result, h.narrow, h.single⟩

theorem float2_f32 {o : LOp} (h : o.ty = .f32) (op : Fmt → Nat → Nat → Nat × Nat) (x : LIn) :
    float2 o op x = elems2 .f32 (op f32) x := by
  rw [float2, h]
  rfl

/-- The instruction is executed under a view on words, by an operation on floats whose outcomes without rounding are those of `f`. -/
structure ExecutesFloat (i : Instr) (v : LView) (o : LOp) (f : Word → Word → Option (Word × Nat)) : Prop where
  view : WordView v o
  outcome : ∃ op : Fmt → Nat → Nat → Nat × Nat, (∀ s, exec i s = laneOp v (float2 o op) s) ∧
    ∀ {a b : Word} {r : Word × Nat}, Spec.outcome32 f a b = some r → op f32 a.toNat b.toNat = (r.1.toNat, r.2)

theorem executesFloat_of_float2 {i : Instr} {v : LView} {o : LOp} {f : Word → Word → Option (Word × Nat)}
    (h : Spec.float2 i = some (o, f)) (hv : Spec.elementwise i = some v) (hty : o.ty = .f32) (hsat : o.sat = false)
    (hftz : o.ftz = false) : ExecutesFloat i v o f := by
  have hview : WordView (Forms.alu2 o) o := wordView_alu2 (hty ▸ rfl)
  cases i with
  | vfadd =>
    obtain ⟨rfl, rfl⟩ := Prod.mk.inj (Option.some.inj h)
    obtain rfl := Option.some.inj hv
    refine ⟨wordView_withLat hview _, fun f => fpAdd f _ _ _, fun _ => rfl, fun hr => ?_⟩
    rw [hsat, hftz]
    exact fpOp_outcome (fun hx hy => add_settles hx hy _) _ hr
  | vfsub =>
    obtain ⟨rfl, rfl⟩ := Prod.mk.inj (Option.some.inj h)
    obtain rfl := Option.some.inj hv
    refine ⟨wordView_withLat hview _, fun f => fpSub f _ _ _, fun _ => rfl, fun hr => ?_⟩
    rw [hsat, hftz]
    exact fpOp_outcome (fun hx hy => add_settles hx hy.neg _) _ hr
  | vfmul =>
    obtain ⟨rfl, rfl⟩ := Prod.mk.inj (Option.some.inj h)
    obtain rfl := Option.some.inj hv
    refine ⟨wordView_withLat hview _, fun f => fpMul f _ _ _, fun _ => rfl, fun hr => ?_⟩
    rw [hsat, hftz]
    exact fpOp_outcome mul_settles _ hr
  | vfdiv =>
    obtain ⟨rfl, rfl⟩ := Prod.mk.inj (Option.some.inj h)
    obtain rfl := Option.some.inj hv
    refine ⟨wordView_withLat hview _, fun f => fpDiv f _ _ _, fun _ => rfl, fun hr => ?_⟩
    rw [hsat, hftz]
    exact fpOp_outcome div_settles _ hr
  | _ => cases h

/-- The floating-point outcomes of R18 that rest on no rounding. -/
theorem floatsWithoutRounding : Spec.FloatsWithoutRounding := by
  intro i v o f n s hi hv hty hsat hftz hn h
  obtain ⟨hview, op, hexec, hop⟩ := executesFloat_of_float2 hi hv hty hsat hftz
  obtain ⟨t, ht, hframe, hlanes⟩ := laneOp_word (float2 o op) hview hn h
  refine ⟨t, (hexec s).trans ht, hframe, fun l hl r hr => ?_⟩
  obtain ⟨hval, hflags⟩ := hlanes l hl
  obtain ⟨ha, hb, -⟩ := hview.reads s l
  rw [float2_f32 hty] at hval hflags
  rw [elems2_word oneWord_f32, ha, hb, hop hr] at hval
  rw [elems2_flags oneWord_f32, ha, hb, hop hr] at hflags
  exact ⟨hval.trans (by simp), hflags⟩

/-! ### The statement -/

/-- Settles O26: values of the integer and bitwise instructions, and of the floating-point ones whose outcome rests on no rounding. -/
theorem laneValues : Obligations.LaneValues := ⟨laneIntegerValues, floatsWithoutRounding⟩

end Sys2Proof.Machine
end

section
/-!
# System registers of a group (R49 to R55, R96)

The registers that the rules list are those that the model reads (`groupReg_eq_sysReg`), and the write that the model performs is the one
that the rules give (`groupWrite_eq_sysWrite`). SGET and SSET follow by the number that they name.
-/
namespace Sys2Proof.Machine

/-! ### Packed registers and their fields -/

theorem toNat_append_add {m n : Nat} (x : BitVec m) (y : BitVec n) : (x ++ y).toNat = x.toNat * 2 ^ n + y.toNat := by
  rw [BitVec.toNat_append, ← Nat.shiftLeft_add_eq_or_of_lt y.isLt, Nat.shiftLeft_eq]

theorem ite_eq_mul_toNat (b : Bool) (k : Nat) : (if b = true then k else 0) = k * b.toNat := by
  cases b <;> simp

/-- GSTAT packs the last trap's code, the parked lanes' bit, and the two modes (R50). -/
theorem gstat_eq (g : Group) : gstat g =
    0#48 ++ g.lastTrap ++ 0#5 ++ BitVec.ofBool (g.parkMask != 0) ++ BitVec.ofBool g.det ++ BitVec.ofBool g.copyTrap := by
  have hparked : (if g.parkMask = 0 then 0 else 4) = 4 * (g.parkMask != 0).toNat := by
    rw [← ite_eq_mul_toNat, ← ite_not]
    simp only [bne_iff_ne, ne_eq]
  have htrap := g.lastTrap.isLt
  have hp := Bool.toNat_le (g.parkMask != 0)
  have hd := Bool.toNat_le g.det
  have hc := Bool.toNat_le g.copyTrap
  apply BitVec.eq_of_toNat_eq
  simp only [gstat, hparked, ite_eq_mul_toNat, toNat_append_add, BitVec.toNat_ofNat, BitVec.toNat_ofBool]
  omega

/-- YIELDREQ packs the deadline and the request (R52). -/
theorem yieldReq_eq (g : Group) : yieldReq g = g.deadline ++ 0#31 ++ BitVec.ofBool g.yieldReq := by
  have hdeadline := g.deadline.isLt
  have hy := Bool.toNat_le g.yieldReq
  apply BitVec.eq_of_toNat_eq
  simp only [yieldReq, ite_eq_mul_toNat, toNat_append_add, BitVec.toNat_ofNat, BitVec.toNat_ofBool]
  omega

/-- The mask of the `len` bits from bit `lo` finds nothing when the field is zero. -/
theorem and_field_eq_zero_iff (v : DWord) {lo len : Nat} (h : lo + len ≤ 64) :
    v &&& BitVec.ofNat 64 ((2 ^ len - 1) <<< lo) = 0 ↔ v.toNat / 2 ^ lo % 2 ^ len = 0 := by
  have hm : (2 ^ len - 1) <<< lo < 2 ^ 64 := by
    have hp : 2 ^ (lo + len) ≤ 2 ^ 64 := Nat.pow_le_pow_right (by decide) h
    have hlo := Nat.two_pow_pos lo
    have hlen := Nat.two_pow_pos len
    rw [Nat.pow_add] at hp
    rw [Nat.shiftLeft_eq, Nat.sub_mul, Nat.mul_comm (2 ^ len)]
    omega
  have hand : v.toNat &&& (2 ^ len - 1) <<< lo = (v.toNat / 2 ^ lo % 2 ^ len) * 2 ^ lo := by
    rw [← Nat.shiftLeft_eq, ← Nat.shiftRight_eq_div_pow, ← Nat.and_two_pow_sub_one_eq_mod]
    refine Nat.eq_of_testBit_eq fun i => ?_
    simp only [Nat.testBit_and, Nat.testBit_shiftLeft, Nat.testBit_shiftRight]
    by_cases hi : lo ≤ i <;> simp [hi]
  rw [← BitVec.toNat_inj, BitVec.toNat_and, BitVec.toNat_ofNat, Nat.mod_eq_of_lt hm, hand]
  simp

/-- Reserved bits in two fields are zero when both fields are. -/
theorem and_fields_eq_zero_iff (v : DWord) {m : DWord} {lo len lo' len' : Nat} (h : lo + len ≤ 64) (h' : lo' + len' ≤ 64)
    (hm : m = BitVec.ofNat 64 ((2 ^ len - 1) <<< lo) ||| BitVec.ofNat 64 ((2 ^ len' - 1) <<< lo')) :
    v &&& m = 0 ↔ v.toNat / 2 ^ lo % 2 ^ len = 0 ∧ v.toNat / 2 ^ lo' % 2 ^ len' = 0 := by
  rw [hm, BitVec.and_or_distrib_left]
  exact BitVec.or_eq_zero_iff.trans (and_congr (and_field_eq_zero_iff v h) (and_field_eq_zero_iff v h'))

/-- The bits of GSTAT that no write may set (R50). -/
theorem gstat_reserved_iff (v : DWord) : v &&& 0xFFFFFFFFFFFF00F8 = 0 ↔ v.toNat / 2 ^ 16 = 0 ∧ v.toNat / 8 % 32 = 0 := by
  have hv := v.isLt
  rw [and_fields_eq_zero_iff v (lo := 16) (len := 48) (lo' := 3) (len' := 5) (by decide) (by decide) (by decide)]
  omega

/-- The bits of FPTE that no write may set (R51). -/
theorem fpte_reserved_iff (v : DWord) : v &&& ~~~fpteMask = 0 ↔ v.toNat < 2 ^ 12 ∧ v.toNat / 64 % 4 = 0 := by
  have hv := v.isLt
  rw [and_fields_eq_zero_iff v (lo := 12) (len := 52) (lo' := 6) (len' := 2) (by decide) (by decide) (by decide)]
  omega

theorem keep_zero (v : DWord) (n : Nat) : keep v 0 n = (v.extractLsb' 0 n).setWidth 64 := by
  apply BitVec.eq_of_toNat_eq
  simp [keep, bitsOf]

/-- PERFCTL's two event codes lie below 8 when the top bit of each is clear (R54). -/
theorem perfctl_codes_iff (v : DWord) :
    (v.getLsbD 7 || v.getLsbD 3) = false ↔ v.toNat % 16 < 8 ∧ v.toNat / 16 % 16 < 8 := by
  simp only [BitVec.getLsbD, Nat.testBit_eq_decide_div_mod_eq, Bool.or_eq_false_iff, decide_eq_false_iff_not]
  omega

/-! ### The registers of a group -/

theorem groupReg_eq_sysReg (s : State) (n : Nat) : groupReg s n = Spec.sysReg s n := by
  unfold Spec.sysReg
  split
  case h_3 => exact congrArg some (gstat_eq s.g)
  case h_6 => exact congrArg some (yieldReq_eq s.g)
  case h_14 => exact congrArg (fun k => some (BitVec.ofNat 64 (k + s.g.slot))) (Nat.mul_comm _ _)
  case h_15 => exact congrArg (fun k => some (BitVec.ofNat 64 k)) (by omega)
  case h_26 => simp only [groupReg]
  all_goals rfl

/-- Every register of a group has a number below those of the condition views and of the privileged registers (R49). -/
theorem lt_of_sysReg_isSome {s : State} {n : Nat} (h : (Spec.sysReg s n).isSome = true) : n < 0x20 := by
  unfold Spec.sysReg at h
  split at h
  case h_26 => cases h
  all_goals decide

theorem sysReg_isSome_of_laneSeen (s : State) {n : Nat} (h : Spec.laneSeen n) : (Spec.sysReg s n).isSome = true := by
  rcases h with rfl | rfl | rfl | rfl <;> rfl

theorem drainsFirst_iff (n : Nat) : drainsFirst n = true ↔ Spec.laneSeen n := by
  simp only [drainsFirst, Spec.laneSeen, decide_eq_true_eq]
  tauto

/-- A register that lane instructions read is ready once the lane stream has ended; any other at once (R55). -/
theorem not_waits_of_drained {s : State} {n : Nat} (hp : s.party = .group) (hd : Spec.laneSeen n → Drained s) :
    (drainsFirst n && !s.g.drained) = false := by
  by_cases h : Spec.laneSeen n
  · obtain ⟨ha, hq, hw⟩ := hd h hp
    simp [Group.drained, Group.runsDone, ha, hq, hw]
  · simp [Bool.eq_false_iff.mpr (mt (drainsFirst_iff n).mp h)]

theorem waits_of_laneSeen {s : State} {n : Nat} (hl : Spec.laneSeen n) (hd : s.g.drained = false) :
    (drainsFirst n && !s.g.drained) = true := by
  simp [(drainsFirst_iff n).mpr hl, hd]

theorem viewOf_of_lt {n : Nat} (h : n < 0x20) : viewOf n = none := by
  unfold viewOf
  split
  case h_6 => rfl
  all_goals omega

/-! ### SGET -/

section
variable {s : State} {n : Nat} (hp : s.party = .group)
include hp

theorem sysRead_assigned {v : DWord} (hv : Spec.sysReg s n = some v) :
    sysRead s n = if drainsFirst n && !s.g.drained then .error (.stall .drain) else .ok v := by
  have hn := lt_of_sysReg_isSome (hv ▸ rfl : (Spec.sysReg s n).isSome = true)
  simp only [sysRead, hp, groupReg_eq_sysReg, hv, if_neg (show ¬ 0x800 ≤ n by omega)]

theorem sysRead_unassigned (hn : n < 0x800) (hv : Spec.sysReg s n = none) : sysRead s n = .error reserved := by
  simp only [sysRead, hp, groupReg_eq_sysReg, hv, if_neg (Nat.not_le.mpr hn)]

theorem sysRead_privileged (hn : 0x800 ≤ n) : sysRead s n = .error (trapP .privilege) := by
  simp only [sysRead, hp, if_pos hn]

end

theorem exec_sget {s : State} {d : SReg} (num : BitVec 12) (hs : Settled s [d] []) :
    exec (.sget d num) s = finishS s ((sysRead s num.toNat).map fun v => (s.wrS d v).next) := by
  show execSget d num s = _
  rw [execSget, ready_ok hs]
  cases sysRead s num.toNat <;> rfl

/-- The scalar stream of a group waits. -/
theorem finishS_stall {s : State} (hp : s.party = .group) (w : Stall) :
    finishS s (.error (.stall w)) = .next { s with g := { s.g with sStall := some w } } := by
  simp only [finishS, finish, State.wait, hp]
  rfl

theorem systemRegisterReads : Spec.SystemRegisterReads := by
  intro d num s hp hs
  rw [exec_sget num hs]
  refine ⟨fun v hv hd => ⟨_, ?_, writesReg_wrS s d v⟩, fun hl hd => ?_, fun hn hv => ?_, fun hn => ?_⟩
  · rw [sysRead_assigned hp hv, not_waits_of_drained hp hd]
    rfl
  · obtain ⟨v, hv⟩ := Option.isSome_iff_exists.mp (sysReg_isSome_of_laneSeen s hl)
    rw [sysRead_assigned hp hv, waits_of_laneSeen hl hd]
    exact finishS_stall hp .drain
  · rw [sysRead_unassigned hp hn hv]
    rfl
  · rw [sysRead_privileged hp hn]
    rfl

/-! ### SSET -/

theorem writePerfctl_eq_sysWrite (g : Group) (v : DWord) : writePerfctl g v = Spec.sysWrite g v 0x009 := by
  simp only [writePerfctl, Spec.sysWrite, keep_zero]
  by_cases h : v.toNat % 16 < 8 ∧ v.toNat / 16 % 16 < 8
  · rw [if_neg (Bool.eq_false_iff.mp ((perfctl_codes_iff v).mpr h)), if_pos h]
  · rw [if_pos (eq_true_of_ne_false (mt (perfctl_codes_iff v).mp h)), if_neg h]

/-- A write that a condition admits. -/
theorem elim_ite {p q : Prop} [Decidable p] [Decidable q] (h : p ↔ q) (s : State) (g : Group) :
    (if p then .ok { s with g := g } else .error reserved : Res State) =
      (if q then some g else none).elim (.error reserved) fun g => .ok { s with g := g } := by
  by_cases hq : q
  · rw [if_pos (h.mpr hq), if_pos hq]; rfl
  · rw [if_neg (mt h.mp hq), if_neg hq]; rfl

/-- A write of a register of the group is the rules' write, and an unassigned number is refused (R49, R96). -/
theorem groupWrite_eq_sysWrite (s : State) (n : Nat) (v : DWord) : groupWrite s n v =
    ((Spec.sysReg s n).bind fun _ => Spec.sysWrite s.g v n).elim (.error reserved) fun g => .ok { s with g := g } := by
  unfold groupWrite
  split
  case h_2 => exact elim_ite (gstat_reserved_iff v) s _
  case h_3 => exact elim_ite (fpte_reserved_iff v) s _
  case h_4 => simp only [keep_zero]; rfl
  case h_5 => exact elim_ite Iff.rfl s _
  case h_7 =>
    dsimp only
    rw [writePerfctl_eq_sysWrite]
    show _ = (Spec.sysWrite s.g v 0x009).elim _ _
    cases Spec.sysWrite s.g v 0x009 <;> rfl
  case h_10 =>
    simp only [Spec.sysWrite, groupReg_eq_sysReg]
    cases Spec.sysReg s n <;> rfl
  all_goals rfl

/-- No write of a system register moves the scalar context. -/
theorem sysWrite_sc {g g' : Group} {v : DWord} {n : Nat} (h : Spec.sysWrite g v n = some g') : g'.sc = g.sc := by
  unfold Spec.sysWrite at h
  split at h
  case h_2 | h_3 | h_5 =>
    obtain ⟨-, h⟩ := Option.ite_none_right_eq_some.mp h
    exact Option.some.inj h ▸ rfl
  case h_7 =>
    obtain ⟨-, h⟩ := Option.ite_none_right_eq_some.mp h
    rw [← Option.some.inj h]
    split <;> rfl
  all_goals exact Option.some.inj h ▸ rfl

/-- A group after a write of a register, at its next word. -/
theorem next_sysWrite {s : State} {g : Group} {v : DWord} {n : Nat} (hp : s.party = .group) (h : Spec.sysWrite s.g v n = some g) :
    ({ s with g := g } : State).next = ({ s with g := g } : State).setPc (s.pc + 4) := by
  have hg : ({ s with g := g } : State).sc = s.sc := by
    rw [State.sc_group hp, State.sc_group (by exact hp)]
    exact sysWrite_sc h
  rw [State.next, hg]
  rfl

/-- SSET on a group: a privileged number, a condition view, the wait for the lane stream, and the write (R55, R96, R97). -/
theorem exec_sset {s : State} {a : SReg} (num : BitVec 12) (hp : s.party = .group) (hs : Settled s [] [a]) :
    exec (.sset num a) s = finishS s (
      if 0x800 ≤ num.toNat then .error (trapP .privilege)
      else if (viewOf num.toNat).isSome = true then .error reserved
      else if (drainsFirst num.toNat && !s.g.drained) = true then .error (.stall .drain)
      else (groupWrite s num.toNat (s.rdS a)).map State.next) := by
  show execSset num a s = _
  simp only [execSset, ready_ok hs, hp]
  cases groupWrite s num.toNat (s.rdS a) <;> rfl

theorem systemRegisterWrites : Spec.SystemRegisterWrites := by
  intro num a s hp hs
  rw [exec_sset num hp hs]
  refine ⟨fun hv hd => ?_, fun hn hv => ?_, fun hn => ?_⟩
  · have hn := lt_of_sysReg_isSome hv
    obtain ⟨x, hx⟩ := Option.isSome_iff_exists.mp hv
    rw [if_neg (by omega), viewOf_of_lt hn, not_waits_of_drained hp hd, groupWrite_eq_sysWrite, hx, Option.bind_some]
    refine ⟨fun g hg => ?_, fun hg => ?_⟩
    · rw [hg, ← next_sysWrite hp hg]
      rfl
    · rw [hg]
      rfl
  · have hwait : (drainsFirst num.toNat && !s.g.drained) = false :=
      not_waits_of_drained hp fun hl => by simpa [hv] using sysReg_isSome_of_laneSeen s hl
    rw [if_neg (by omega), hwait, groupWrite_eq_sysWrite, hv]
    cases (viewOf num.toNat).isSome <;> rfl
  · rw [if_pos hn]
    rfl

/-! ### The counters' clear -/

theorem setPc_group {s : State} (hp : s.party = .group) (a : DWord) :
    s.setPc a = { s with g := { s.g with sc := { s.g.sc with pc := a } } } := by
  rw [State.setPc, State.setSc_group hp, State.sc_group hp]

/-- PERFCTL with event codes that the rules assign takes its fields, and its CLR bit clears the counters (R54). -/
theorem sysWrite_perfctl (g : Group) {v : DWord} (h : v.toNat % 16 < 8 ∧ v.toNat / 16 % 16 < 8) :
    Spec.sysWrite g v 0x009 = some { g with
      perfctl := (v.extractLsb' 0 9).setWidth 64
      pcnt0 := if v.getLsbD 9 then 0 else g.pcnt0
      pcnt1 := if v.getLsbD 9 then 0 else g.pcnt1 } :=
  (if_pos h).trans (congrArg some (by cases v.getLsbD 9 <;> rfl))

theorem exec_perfctlClear {s : State} {g : Group} {v : DWord} (hp : s.party = .group) (hw : Spec.sysWrite s.g v 0x009 = some g) :
    exec (.perfctlClear v) s = .next (({ s with g := g } : State).setPc (s.pc + 4)) := by
  rw [← next_sysWrite hp hw]
  show execPerfctlClear v s = _
  simp only [execPerfctlClear, require_ok (beq_iff_eq.mpr hp), writePerfctl_eq_sysWrite, hw]
  rfl

theorem performanceCountersClear : Spec.PerformanceCountersClear := by
  intro v s hp hlow hhigh
  refine ⟨_, exec_perfctlClear hp (sysWrite_perfctl s.g ⟨hlow, hhigh⟩), ?_⟩
  rw [setPc_group (by exact hp)]
  exact ⟨fun h => ⟨if_pos h, if_pos h⟩, fun h => ⟨if_neg (Bool.eq_false_iff.mp h), if_neg (Bool.eq_false_iff.mp h)⟩,
    (setPc_group (by exact hp) _).symm⟩

/-- Settles O10: reads, writes, and the counters' clear. -/
theorem systemRegistersOfAGroup : Obligations.SystemRegistersOfAGroup :=
  ⟨systemRegisterReads, systemRegisterWrites, performanceCountersClear⟩

end Sys2Proof.Machine
end

section
/-!
# Queue ports as operands (R47, R48, R131, R179, R312)

A port makes issue (`MayIssue.laneIssueWith_eq`) and the write of a result (`pushOne`) depend on the stream bound to it; the rest of the
instruction is that of every element-wise one.
-/
namespace Sys2Proof.Machine
open Forms (LView Use)

/-! ### Ports -/

theorem bound_of_portOf {g : Group} {j k : Nat} {x : Stream} {store : Bool} (hport : g.portOf j = some (k, x)) (hx : x.store = store) :
    g.bound j store = true := by
  simp [Group.bound, hport, hx]

/-- A vector without a held fault raises none at its pop (R179). -/
theorem heldFault_eq_none {v : List QElem} (hv : ∀ e ∈ v, ∃ w, e = .val w) : heldFault v = none := by
  have hnil : (v.zipIdx.filterMap fun x => match x.1 with
      | .held t => some (x.2, t)
      | .val _ => none) = [] := by
    refine List.filterMap_eq_nil_iff.mpr fun y hy => ?_
    obtain ⟨w, hw⟩ := hv y.1 (List.fst_mem_of_mem_zipIdx hy)
    rw [hw]
  exact congrArg laneFault hnil

/-- What a pop supplies in a lane: the element of an active lane, and zero for a discarded one (R48). -/
def popElem (act : Word) (v : List QElem) (l : Nat) : Word :=
  match v[l]? with
  | some (.val w) => if act.getLsbD l then w else 0
  | _ => 0

theorem popElem_val {act : Word} {v : List QElem} {l : Nat} {w : Word} (h : v[l]? = some (.val w)) :
    popElem act v l = if act.getLsbD l then w else 0 := by
  simp only [popElem, h]

section
variable {s0 s : State} {j k : Nat} {x : Stream} (act : Word) (hport : s.g.portOf j = some (k, x))
include hport

theorem popOne_end (hpos : x.total ≤ x.pos) : popOne s0 s j act = .error (trapP .bounds) := by
  simp only [popOne, hport, if_pos hpos]

theorem popOne_empty (hpos : x.pos < x.total) (hq : x.loadQ = []) :
    popOne s0 s j act = .error (.stallIn (s0.post (.streamPrefetch s0.g.gid j)) .queueEmpty) := by
  simp only [popOne, hport, if_neg (Nat.not_le.mpr hpos), hq]

/-- A pop moves the stream one vector on (R179, R180). -/
theorem popOne_vector {v : List QElem} {q : List (List QElem)} (hpos : x.pos < x.total) (hq : x.loadQ = v :: q)
    (hv : ∀ e ∈ v, ∃ w, e = .val w) :
    ∃ u, popOne s0 s j act = .ok (popElem act v, u) ∧ u.g = s.g.setStream k { x with pos := x.pos + 32, loadQ := q } ∧
      u.mem = s.mem := by
  refine ⟨({ s with g := s.g.setStream k { x with pos := x.pos + 32, loadQ := q } } : State).post (.streamPrefetch s.g.gid j), ?_,
    State.post_g _ _, State.post_mem _ _⟩
  simp only [popOne, hport, if_neg (Nat.not_le.mpr hpos), hq, heldFault_eq_none hv]
  rfl

end

theorem readField_port {s0 s : State} {act : Word} {u : Use} {wide every : Bool} {j : BitVec 4} (hu : use64 u wide = false) :
    readField s0 s act u wide (.q j) every = (popOne s0 s j.toNat act).map fun x => (fun l => lo32 (x.1 l), x.2) := by
  simp only [readField, hu]
  cases popOne s0 s j.toNat act <;> rfl

/-! ### Issue -/

/-- The instruction may issue but for the port that its field va or vd names: the other checks of R67 pass, it names no uniform register,
its other sources hold no error (R458), vd is only written, and it is of no memory class (R312). -/
structure MayIssue (v : LView) (s : State) : Prop where
  group : s.party = .group
  window : ∀ x ∈ LView.spans v, x.1 + x.2 ≤ s.g.winsz
  preds : ∀ p ∈ LView.predNums v, p < s.g.predsz
  hazard : (s.g.haz.at v.h.sw).conflict v = false
  uniforms : uniforms v = []
  others : ∀ y ∈ [(v.ub, v.vb), (v.uc, v.vc)], notPort y.2 = true ∧ s.g.badLanes (s.g.active v.h) y.1 v.wide y.2 = []
  written : (v.vdSrc || v.vdRead) = false
  mem : v.mem = false

/-- Every port that the instruction names is bound in its direction (R48). -/
def portsBound (v : LView) (g : Group) : Bool :=
  (sourcePorts v).all (fun j => g.bound j false) && (storePorts v).all fun j => g.bound j true

section
variable {v : LView} {s : State} (h : MayIssue v s)
include h

theorem MayIssue.laneChecks_eq : laneChecks v v.h.sw s =
    if portsBound v s.g then .ok (s.g.haz.at v.h.sw) else .error (trapP .queueUnbound) := by
  have hwin : ((LView.spans v).all (fun x => x.1 + x.2 ≤ s.g.winsz) && (LView.predNums v).all fun p => p < s.g.predsz) = true := by
    simpa using ⟨fun a b hx => h.window (a, b) hx, h.preds⟩
  have hclash := h.hazard
  unfold Hazard.at at hclash ⊢
  cases hb : portsBound v s.g with
  | false =>
    simp only [laneChecks, require_ok hwin, require_error (show (_ && _) = false from hb)]
    rfl
  | true =>
    simp only [laneChecks, require_ok hwin, require_ok (show (_ && _) = true from hb), hclash]
    rfl

theorem MayIssue.laneIssue_unbound (hb : portsBound v s.g = false) : laneIssue v s = .error (trapP .queueUnbound) := by
  simp only [laneIssue, laneIssueWith, needLanes_ok h.group, h.laneChecks_eq, hb]
  rfl

/-- With its ports bound, the instruction's issue is that of its first source. -/
theorem MayIssue.laneIssue_eq (hb : portsBound v s.g = true) :
    laneIssue v s = (readField s (laneStart v.h.sw s) (s.g.active v.h) v.ua v.wide v.va v.every).map fun x =>
      (⟨s.g.active v.h, fun _ => 0, x.1, srcOf v s v.ub v.vb, srcOf v s v.uc v.vc⟩, x.2) := by
  obtain ⟨hpb, hvb⟩ := h.others (v.ub, v.vb) (by simp)
  obtain ⟨hpc, hvc⟩ := h.others (v.uc, v.vc) (by simp)
  have hread (t : State) : readField s t (s.g.active v.h) v.ub v.wide v.vb = .ok (srcOf v s v.ub v.vb, t) := readField_notPort hpb hvb
  have hread' (t : State) : readField s t (s.g.active v.h) v.uc v.wide v.vc = .ok (srcOf v s v.uc v.vc, t) := readField_notPort hpc hvc
  have hstart : ({ s with g := { s.g with haz := s.g.haz.at v.h.sw } } : State) = laneStart v.h.sw s := rfl
  simp only [laneIssue, laneIssueWith, needLanes_ok h.group, h.laneChecks_eq, hb, if_true, h.uniforms, h.mem, h.written, bind,
    Except.bind, hstart, hread, hread', List.any_nil, Bool.not_false, Bool.true_or, require_ok]
  cases readField s (laneStart v.h.sw s) (s.g.active v.h) v.ua v.wide v.va v.every <;> rfl

end

/-! ### How an instruction ends -/

theorem laneOp_of_issue {v : LView} {s u w : State} {x : LIn} (f : LIn → LRes) (hissue : laneIssue v s = .ok (x, u))
    (hwrite : laneWrite v s x (f x) u = .ok w) : laneOp v f s = .next (laneDone v w) := by
  simp only [laneOp, hissue, bind, Except.bind, hwrite]
  rfl

theorem laneOp_of_issue_error {v : LView} {s : State} {e : Stop} (f : LIn → LRes) (h : laneIssue v s = .error e) :
    laneOp v f s = finishL s (.error e) := by
  simp only [laneOp, h]
  rfl

/-- A lane instruction that asks an engine and waits leaves its group as it was, but for the wait (R48, R179). -/
theorem finishL_waitsFor {s : State} (hp : s.party = .group) (e : Ev) (w : Stall) :
    ∃ t, finishL s (.error (.stallIn (s.post e) w)) = .next t ∧ t.g = { s.g with lStall := some w } ∧ e ∈ t.engineQ := by
  refine ⟨_, rfl, ?_, ?_⟩
  · simp only [State.wait, State.unissue, if_true, State.post_party, hp, State.post_g]
  · simp only [State.wait, State.unissue, if_true, State.post_party, hp]
    exact mem_post s e

/-! ### Popping -/

section
variable {v : LView} {s : State} {j : BitVec 4} (h : MayIssue v s) (hva : v.va = .q j) (hua : use64 v.ua v.wide = false)
  (hb : portsBound v s.g = true)
include h hva hua hb

theorem MayIssue.laneIssue_pop : laneIssue v s =
    (popOne s (laneStart v.h.sw s) j.toNat (s.g.active v.h)).map fun x =>
      (⟨s.g.active v.h, fun _ => 0, fun l => lo32 (x.1 l), srcOf v s v.ub v.vb, srcOf v s v.uc v.vc⟩, x.2) := by
  rw [h.laneIssue_eq hb, hva, readField_port hua]
  cases popOne s (laneStart v.h.sw s) j.toNat (s.g.active v.h) <;> rfl

theorem MayIssue.laneOp_popError {e : Stop} (f : LIn → LRes) (he : popOne s (laneStart v.h.sw s) j.toNat (s.g.active v.h) = .error e) :
    laneOp v f s = finishL s (.error e) := by
  refine laneOp_of_issue_error f ?_
  rw [h.laneIssue_pop hva hua hb, he]
  rfl

end

/-- What an instruction has read whose first source is a port's vector. -/
def popIn (v : LView) (s : State) (vec : List QElem) : LIn :=
  { act := s.g.active v.h
    d := fun _ => 0
    a := fun l => lo32 (popElem (s.g.active v.h) vec l)
    b := srcOf v s v.ub v.vb
    c := srcOf v s v.uc v.vc }

/-- An instruction whose first source is a port's vector and whose result goes to a register completes: the stream moves on, and the active
lanes of the register take the result. -/
theorem MayIssue.laneOp_pop {v : LView} {s : State} {j : BitVec 4} {n : BitVec 11} {k : Nat} {x : Stream} {vec : List QElem}
    {q : List (List QElem)} (h : MayIssue v s) (hva : v.va = .q j) (hua : use64 v.ua v.wide = false) (hb : portsBound v s.g = true)
    (hvd : v.vd = .v n) (hud : v.ud = .el) (hwide : v.wide = false) (f : LIn → LRes) (hport : s.g.portOf j.toNat = some (k, x))
    (hpos : x.pos < x.total) (hq : x.loadQ = vec :: q) (hvec : ∀ e ∈ vec, ∃ w, e = .val w) :
    ∃ t, laneOp v f s = .next t ∧ SameBytes s t ∧ t.g.stream k = { x with pos := x.pos + 32, loadQ := q } ∧
      (∀ l, (s.g.active v.h).getLsbD l = true → t.g.vr n.toNat l = ((f (popIn v s vec)).v l).setWidth 32) ∧
      ∀ m l, l < 32 → (m ≠ n.toNat ∨ (s.g.active v.h).getLsbD l = false) → t.g.vr m l = s.g.vr m l := by
  obtain ⟨u, hpop, hug, hum⟩ := popOne_vector (s0 := s) (s := laneStart v.h.sw s) (s.g.active v.h) hport hpos hq hvec
  have hissue : laneIssue v s = .ok (popIn v s vec, u) := by
    rw [h.laneIssue_pop hva hua hb, hpop]
    rfl
  have hplain : PlainDest v = true := by
    simp [PlainDest, (Bool.or_eq_false_iff.mp h.written).1, hud]
  have hdst (m : Nat) : (∃ y ∈ LView.dst v, y.1 ≤ m ∧ m < y.1 + y.2) → m = n.toNat := by
    simp [LView.dst, (Bool.or_eq_false_iff.mp h.written).1, hud, hvd, hwide, Use.span]
    omega
  obtain ⟨tab, hwrite, -⟩ := laneWrite_notPort (v := v) (hvd ▸ rfl) (popIn v s vec) (f (popIn v s vec)) s u
  have hstreams : (laneWritten v (popIn v s vec) (f (popIn v s vec)) u.g).streams = u.g.streams := by
    rw [laneWritten_eq]
  have hvr : u.g.vr = s.g.vr := hug ▸ rfl
  refine ⟨_, laneOp_of_issue f hissue hwrite, fun b => congrArg (Memory.byte · b) hum, ?_, fun l hl => ?_, fun m l hl hm => ?_⟩
  · refine (congrArg (fun m => SMap.get {} m k) (hstreams.trans (congrArg Group.streams hug))).trans ?_
    exact SMap.get_set_same _ _ _ _
  · have hfield := vr_laneWritten v (popIn v s vec) (f (popIn v s vec)) u.g
    rw [hud, hwide, hvd] at hfield
    exact (congrFun (congrFun hfield n.toNat) l).trans (Group.vr_putVec_active _ _ _ hl)
  · rw [← hvr]
    refine (laneWritten_writes v (popIn v s vec) (f (popIn v s vec)) u.g hplain).vectors m l hl ?_
    rintro ⟨hk, hact⟩
    rcases hm with hm | hm
    · exact hm (hdst m hk)
    · rw [show (popIn v s vec).act = s.g.active v.h from rfl, hm] at hact
      cases hact

/-! ### VMOV and VSHFL from a port -/

theorem srcOk_unused {wide : Bool} {o : Opd} (h : Forms.Use.srcOk .no wide o = true) : o = .v 0 := by
  cases o with
  | v n => exact congrArg Opd.v (beq_iff_eq.mp h)
  | _ => cases h

theorem badLanes_unused (g : Group) (act : Word) (wide : Bool) (o : Opd) : g.badLanes act .no wide o = [] := by
  cases o with
  | v n =>
    refine List.filter_eq_nil_iff.mpr fun l _ => ?_
    simp [Use.vregs]
  | _ => rfl

/-- The fields that VMOV does not use are zero (R47). -/
theorem vmov_unused {o : LOp} (hwf : (Instr.vmov o).WellFormed) : o.vb = .v 0 ∧ o.vc = .v 0 := by
  have hok : (Forms.alu1 o).ok = true := (Bool.and_eq_true_iff.mp hwf).1
  obtain ⟨hok, hc⟩ := Bool.and_eq_true_iff.mp hok
  obtain ⟨-, hb⟩ := Bool.and_eq_true_iff.mp hok
  exact ⟨srcOk_unused hb, srcOk_unused hc⟩

section
variable {o : LOp} {s : State} (hwf : (Instr.vmov o).WellFormed) (hp : s.party = .group) (hguard : o.h.guard.toNat < s.g.predsz)
  (hpreds : 0 < s.g.predsz) (hpd : o.pd = 0)
include hwf hp hguard hpreds hpd

theorem mayIssue_vmov (hwin : ∀ x ∈ LView.spans (Forms.alu1 o), x.1 + x.2 ≤ s.g.winsz)
    (hhaz : (s.g.haz.at o.h.sw).conflict (Forms.alu1 o) = false) (huni : ∀ r, o.va ≠ .s r) : MayIssue (Forms.alu1 o) s where
  group := hp
  window := hwin
  preds := by simpa [LView.predNums, Forms.alu1, Forms.ofOp, hpd] using ⟨hguard, hpreds⟩
  hazard := hhaz
  uniforms := by
    obtain ⟨hb, hc⟩ := vmov_unused hwf
    cases ha : o.va with
    | s r => exact absurd ha (huni r)
    | _ => simp [uniforms, Forms.alu1, Forms.ofOp, ha, hb, hc]
  others := by
    obtain ⟨hb, hc⟩ := vmov_unused hwf
    simp [Forms.alu1, Forms.ofOp, hb, hc, notPort, badLanes_unused]
  written := rfl
  mem := rfl

theorem mayIssue_vshfl {n b : BitVec 11} {j : BitVec 4} (hty : o.ty = .b32) (hva : o.va = .q j) (hvd : o.vd = .v n) (hvb : o.vb = .v b)
    (hn : n.toNat < s.g.winsz) (hbw : b.toNat < s.g.winsz) (hhaz : (s.g.haz.at o.h.sw).conflict (Forms.vshfl o) = false)
    (hbad : s.g.badLanes (s.g.active o.h) .w32 false o.vb = []) : MayIssue (Forms.vshfl o) s where
  group := hp
  window := by simpa [LView.spans, Forms.vshfl, Forms.ofOp, Use.span, hty, hva, hvd, hvb, LType.wide] using ⟨hn, hbw⟩
  preds := by simpa [LView.predNums, Forms.vshfl, Forms.ofOp, hpd] using ⟨hguard, hpreds⟩
  hazard := hhaz
  uniforms := by simp [uniforms, Forms.vshfl, Forms.ofOp, hva, hvb, (vmov_unused hwf).2]
  others := by
    rw [hvb] at hbad
    simpa [Forms.vshfl, Forms.ofOp, hty, hvb, (vmov_unused hwf).2, notPort, badLanes_unused, LType.wide] using hbad
  written := rfl
  mem := rfl

end

theorem portsBound_pop {v : LView} {g : Group} {j : BitVec 4} {n b c : BitVec 11} (hva : v.va = .q j) (hvd : v.vd = .v n)
    (hvb : v.vb = .v b) (hvc : v.vc = .v c) (hsrc : v.vdSrc = false) : portsBound v g = g.bound j.toNat false := by
  simp [portsBound, sourcePorts, storePorts, hva, hvd, hvb, hvc, hsrc]

/-- A value of 32 bits read as an operand of 64 and written back (R10). -/
theorem setWidth_lo32 (w : Word) : (lo32 w).setWidth 32 = w := by
  simp [lo32]

theorem toNat_lo32 (w : Word) : (lo32 w).toNat = w.toNat := by
  simp only [lo32, BitVec.toNat_setWidth]
  omega

/-- Mode 0 of a shuffle reads the lane that its operand names (R132). -/
theorem shflSrc_index {b l : Nat} (hb : b < 32) : shflSrc 0 false b l = some b := by
  have hrange : 0 ≤ (b : Int) ∧ (b : Int) < Config.W := ⟨Int.natCast_nonneg b, Int.ofNat_lt.mpr hb⟩
  unfold shflSrc
  exact if_pos hrange

theorem exec_vmov (o : LOp) (s : State) : exec (.vmov o) s = laneOp (Forms.alu1 o) (fun x => { v := x.a }) s := by
  unfold exec
  rfl

/-- What a shuffle gives its lanes (R132). -/
def shflResult (o : LOp) (x : LIn) : LRes :=
  let src (l : Nat) := shflSrc (Forms.xf o 0 2) (Forms.xf o 2 1 == 1) (x.b l).toNat l
  { v := fun l => x.a ((src l).getD l), p := fun l => (src l).isSome }

theorem exec_vshfl (o : LOp) (s : State) : exec (.vshfl o) s = laneOp (Forms.vshfl o) (shflResult o) s := by
  unfold exec
  rfl

/-- A shuffle of mode 0 gives a lane what the lane that it names has read. -/
theorem shflResult_index {o : LOp} {x : LIn} {l m : Nat} (hx : o.x.toNat % 8 = 0) (hm : (x.b l).toNat = m) (hlt : m < 32) :
    (shflResult o x).v l = x.a m := by
  have hmode : Forms.xf o 0 2 = 0 := by simp [Forms.xf]; omega
  have hdist : (Forms.xf o 2 1 == 1) = false := by simp [Forms.xf, Nat.shiftRight_eq_div_pow]; omega
  simp only [shflResult, hmode, hdist, hm, shflSrc_index hlt, Option.getD_some]

theorem queuePortsPop : Spec.QueuePortsPop := by
  intro o n j s hva hvd hty hwf hp hn hpreds hguard hpd hhaz
  obtain ⟨hb, hc⟩ := vmov_unused hwf
  have hmay : MayIssue (Forms.alu1 o) s := by
    refine mayIssue_vmov hwf hp hguard hpreds hpd ?_ hhaz (by simp [hva])
    simpa [LView.spans, Forms.alu1, Forms.ofOp, Use.span, hty, hva, hvd, LType.wide] using hn
  have hports : portsBound (Forms.alu1 o) s.g = s.g.bound j.toNat false := portsBound_pop hva hvd hb hc rfl
  have hwide : o.ty.wide = false := hty ▸ rfl
  rw [exec_vmov, exec_vshfl]
  refine ⟨fun hbound => ?_, fun k x hport hload => ?_⟩
  · exact laneOp_of_issue_error _ (hmay.laneIssue_unbound (hports.trans hbound))
  have hbound : s.g.bound j.toNat false = true := bound_of_portOf hport hload
  refine ⟨fun hend => ?_, fun hpos hq => ?_, fun v q hpos hq hvals hlen => ?_,
    fun v q b hvb hx hbw hpos hq hvals hlen hhaz' hbad => ?_⟩
  · exact hmay.laneOp_popError hva hwide (hports.trans hbound) _ (popOne_end _ hport hend)
  · rw [hmay.laneOp_popError hva hwide (hports.trans hbound) _ (popOne_empty _ hport hpos hq)]
    exact finishL_waitsFor hp (.streamPrefetch s.g.gid j.toNat) .queueEmpty
  · obtain ⟨t, ht, hmem, hstream, hact, hrest⟩ :=
      hmay.laneOp_pop hva hwide (hports.trans hbound) hvd rfl hwide (fun x => { v := x.a }) hport hpos hq hvals
    refine ⟨t, ht, hmem, hstream, fun l w hl hw => ?_, hrest⟩
    rw [hact l hl]
    show (lo32 (popElem (s.g.active o.h) v l)).setWidth 32 = w
    rw [setWidth_lo32, popElem_val hw, if_pos hl]
  · have hmay' := mayIssue_vshfl hwf hp hguard hpreds hpd hty hva hvd hvb hn hbw hhaz' hbad
    have hports' : portsBound (Forms.vshfl o) s.g = s.g.bound j.toNat false := portsBound_pop hva hvd hvb hc rfl
    obtain ⟨t, ht, hmem, hstream, hact, -⟩ :=
      hmay'.laneOp_pop hva hwide (hports'.trans hbound) hvd rfl hwide (shflResult o) hport hpos hq hvals
    refine ⟨t, ht, hmem, hstream, fun l m w hl hm hw => ?_⟩
    have hsrc : ((popIn (Forms.vshfl o) s v).b l).toNat = m := by
      show (s.g.rdOpd s.gteam.teamlin false o.vb l).toNat = m
      rw [hvb, ← hm]
      exact toNat_lo32 _
    have hlt : m < 32 := hlen ▸ (List.getElem?_eq_some_iff.mp hw).1
    rw [hact l hl, shflResult_index hx hsrc hlt]
    show (lo32 (popElem (s.g.active o.h) v m)).setWidth 32 = _
    rw [setWidth_lo32, popElem_val hw]

/-! ### Pushing -/

/-- What accesses leave behind changes the translations and the caches alone. -/
theorem touchAll_eq (s : State) (vs : List DWord) (store : Bool) :
    s.touchAll vs store = { s with tlb := (s.touchAll vs store).tlb, l1 := (s.touchAll vs store).l1, l2 := (s.touchAll vs store).l2,
                                   granary := (s.touchAll vs store).granary } := by
  refine foldl_keeps (fun t : State => t = { s with tlb := t.tlb, l1 := t.l1, l2 := t.l2, granary := t.granary }) (fun t va ht => ?_) vs rfl
  rw [touch_eq]
  generalize t.touch va store = u
  rw [ht]

/-- The accesses of a push: the elements of the active lanes within the count, in lane order (R179). -/
def pushElems (act : Word) (x : Stream) : List (Nat × DWord) :=
  ((lanesOf act).filter fun l => x.pos + l < x.total).map fun l => (l, x.base + BitVec.ofInt 64 (x.offset (x.pos + l)))

section
variable {s0 s : State} {j k : Nat} {x : Stream} (act : Word) (f : Nat → Word) (hport : s.g.portOf j = some (k, x))
include hport

theorem pushOne_end (hpos : x.total ≤ x.pos) : pushOne s0 s j act f = .error (trapP .bounds) := by
  have hleft : decide (x.pos < x.total) = false := decide_eq_false (Nat.not_lt.mpr hpos)
  simp only [pushOne, hport, require_error hleft]
  rfl

theorem pushOne_full (hpos : x.pos < x.total) (hfull : 8 ≤ (s.g.pushes.filter fun v => v.port == j).length) :
    pushOne s0 s j act f = .error (.stallIn (s0.post (.storeEngineWrite s0.g.gid j)) .queueFull) := by
  have hroom : (decide ((s.g.pushes.filter fun v => v.port == j).length < 8) && (s.g.replay.isNone || s.g.pushes.isEmpty)) = false := by
    simp [Nat.not_lt.mpr hfull]
  simp only [pushOne, hport, require_ok (decide_eq_true hpos), require_error hroom]
  rfl

/-- With room at the port and outside a replay session, a push is the translation of its elements and their hand-over to the engine. -/
theorem pushOne_room (hpos : x.pos < x.total) (hroom : ¬ 8 ≤ (s.g.pushes.filter fun v => v.port == j).length) (hr : s.g.replay = none) :
    pushOne s0 s j act f = (laneLocs s (pushElems act x) 4 .store .plainStore).map fun ls =>
      (({ s.touchAll (ls.map (·.va)) true with
          g := { s.g.setStream k { x with pos := x.pos + 32 } with
            pushes := s.g.pushes ++ [⟨j, ls.map fun y => ⟨y.loc, f y.lane, y.va⟩⟩] } } : State).post
        (.storeEngineWrite s.g.gid j)) := by
  have hfree : (decide ((s.g.pushes.filter fun v => v.port == j).length < 8) &&
      ((none : Option Replay).isNone || s.g.pushes.isEmpty)) = true := by
    simp [Nat.not_le.mp hroom]
  have hsame (vs : List DWord) : (s.touchAll vs true).g = s.g := by
    rw [touchAll_eq]
  simp only [pushOne, hport, require_ok (decide_eq_true hpos), require_ok hfree, hr, bind, Except.bind, pushElems]
  cases laneLocs s _ 4 .store .plainStore with
  | error e => rfl
  | ok ls =>
    simp only [hsame]
    rfl

/-- A push hands its elements to the store engine and moves the stream one vector on (R179, R312). -/
theorem pushOne_vector (hpos : x.pos < x.total) (hroom : ¬ 8 ≤ (s.g.pushes.filter fun v => v.port == j).length) (hr : s.g.replay = none)
    {ls : List LaneLoc} (hls : laneLocs s (pushElems act x) 4 .store .plainStore = .ok ls) :
    ∃ u, pushOne s0 s j act f = .ok u ∧ u.mem = s.mem ∧ .storeEngineWrite s.g.gid j ∈ u.engineQ ∧
      u.g = { s.g with
        streams := SMap.set {} s.g.streams k { x with pos := x.pos + 32 }
        pushes := s.g.pushes ++ [⟨j, ls.map fun y => ⟨y.loc, f y.lane, y.va⟩⟩] } := by
  refine ⟨_, (pushOne_room act f hport hpos hroom hr).trans (congrArg (Except.map _) hls), ?_, mem_post _ _, State.post_g _ _⟩
  rw [State.post_mem, touchAll_eq]

end

theorem writeField_port {s0 s : State} {act : Word} {u : Use} {wide : Bool} {j : BitVec 4} {f : Nat → DWord} (hu : namesReg u = true)
    (hw : use64 u wide = false) : writeField s0 s act u wide (.q j) f = pushOne s0 s j.toNat act fun l => (f l).setWidth 32 := by
  simp only [writeField, hu, hw]
  cases pushOne s0 s j.toNat act fun l => (f l).setWidth 32 <;> rfl

/-- Flags that no lane raises leave each lane's status (R21). -/
theorem Group.lst_orFlags_none (g : Group) (act : Word) (l : Nat) : (g.orFlags act fun _ => 0).lst l = g.lst l := by
  cases hl : act.getLsbD l with
  | false => exact Group.lst_orFlags_of_inactive g _ hl
  | true => exact (Group.lst_orFlags_active g _ hl).trans BitVec.or_zero

/-- VMOV to a port writes its result by the port's push. -/
theorem writeField_vmov {o : LOp} {s : State} {j : BitVec 4} {n : BitVec 11} (hva : o.va = .v n) (hvd : o.vd = .q j)
    (hwide : o.ty.wide = false) (t : State) :
    writeField s t (laneIn (Forms.alu1 o) s).act (Forms.alu1 o).ud (Forms.alu1 o).wide (Forms.alu1 o).vd (laneIn (Forms.alu1 o) s).a =
      pushOne s t j.toNat (s.g.active o.h) (s.g.vr n.toNat) := by
  have hval : (fun l => ((laneIn (Forms.alu1 o) s).a l).setWidth 32) = s.g.vr n.toNat := by
    funext l
    show (s.g.rdOpd s.gteam.teamlin o.ty.wide o.va l).setWidth 32 = _
    rw [hva, hwide]
    exact setWidth_lo32 _
  have huse : use64 .el o.ty.wide = false := hwide
  show writeField s t (s.g.active o.h) .el o.ty.wide o.vd _ = _
  rw [hvd, writeField_port rfl huse, hval]

section
variable {o : LOp} {s : State} {j : BitVec 4} {n : BitVec 11} (h : MayIssue (Forms.alu1 o) s) (hb : portsBound (Forms.alu1 o) s.g = true)
  (hva : o.va = .v n) (hvd : o.vd = .q j) (hwide : o.ty.wide = false) (hbad : s.g.badLanes (s.g.active o.h) .el false o.va = [])
include h hb hva hvd hwide hbad

/-- VMOV to a port is its push, and then its end. -/
theorem exec_vmov_push : exec (.vmov o) s =
    finishL s ((pushOne s (laneStart o.h.sw s) j.toNat (s.g.active o.h) (s.g.vr n.toNat)).map fun u =>
      laneDone (Forms.alu1 o) (({ u with g := u.g.putPred o.pd (s.g.active o.h) (maskOf fun _ => false) } : State).raise
        (s.g.active o.h) fun _ => 0)) := by
  have hread : readField s (laneStart o.h.sw s) (s.g.active o.h) .el o.ty.wide o.va false =
      .ok (srcOf (Forms.alu1 o) s .el o.va, laneStart o.h.sw s) := by
    refine readField_notPort (hva ▸ rfl) ?_
    rw [hwide]
    exact hbad
  have hissue : laneIssue (Forms.alu1 o) s = .ok (laneIn (Forms.alu1 o) s, laneStart o.h.sw s) :=
    (h.laneIssue_eq hb).trans (congrArg (Except.map _) hread)
  rw [exec_vmov]
  simp only [laneOp, hissue, bind, Except.bind, laneWrite, writeField_vmov hva hvd hwide]
  cases pushOne s (laneStart o.h.sw s) j.toNat (s.g.active o.h) (s.g.vr n.toNat) <;> rfl

end

theorem portsBound_push {o : LOp} {g : Group} {j : BitVec 4} {n : BitVec 11} (hwf : (Instr.vmov o).WellFormed) (hva : o.va = .v n)
    (hvd : o.vd = .q j) : portsBound (Forms.alu1 o) g = g.bound j.toNat true := by
  obtain ⟨hb, hc⟩ := vmov_unused hwf
  simp [portsBound, sourcePorts, storePorts, Forms.alu1, Forms.ofOp, hva, hvd, hb, hc]

theorem queuePortsPush : Spec.QueuePortsPush := by
  intro o n j s hvd hva hty hwf hp hn hguard hpreds hpd hhaz hbad
  have hmay : MayIssue (Forms.alu1 o) s := by
    refine mayIssue_vmov hwf hp hguard hpreds hpd ?_ hhaz (by simp [hva])
    simpa [LView.spans, Forms.alu1, Forms.ofOp, Use.span, hty, hva, hvd, LType.wide] using hn
  have hports := portsBound_push (g := s.g) hwf hva hvd
  have hwide : o.ty.wide = false := hty ▸ rfl
  refine ⟨fun hbound => ?_, fun k x hport hstore => ?_⟩
  · rw [exec_vmov]
    exact laneOp_of_issue_error _ (hmay.laneIssue_unbound (hports.trans hbound))
  have hport' : (laneStart o.h.sw s).g.portOf j.toNat = some (k, x) := hport
  have hbound := hports.trans (bound_of_portOf hport hstore)
  rw [exec_vmov_push hmay hbound hva hvd hwide hbad]
  refine ⟨fun hend => ?_, fun hpos hfull => ?_, fun hpos hroom hr e he => ?_, fun hpos hroom hr ls hls => ?_⟩
  · rw [pushOne_end _ _ hport' hend]
    rfl
  · rw [pushOne_full _ _ hport' hpos hfull]
    exact finishL_waitsFor hp (.storeEngineWrite s.g.gid j.toNat) .queueFull
  · rw [pushOne_room _ _ hport' hpos hroom hr, show laneLocs _ (pushElems _ x) 4 .store .plainStore = _ from he]
    rfl
  · obtain ⟨u, hu, hmem, hev, hg⟩ := pushOne_vector (s0 := s) (s.g.active o.h) (s.g.vr n.toNat) hport' hpos hroom hr hls
    obtain ⟨tab, hraise, -⟩ := State.raise_writes u (s.g.active o.h) fun _ => 0
    have hpred : ({ u with g := u.g.putPred o.pd (s.g.active o.h) (maskOf fun _ => false) } : State) = u := by
      rw [hpd]
      rfl
    have hlst (l : Nat) : (u.g.orFlags (s.g.active o.h) fun _ => 0).lst l = s.g.lst l := by
      rw [Group.lst_orFlags_none, hg]
      rfl
    rw [hu, Except.map, hpred, hraise]
    refine ⟨_, rfl, fun b => congrArg (Memory.byte · b) hmem, ?_, ?_, hev, hlst, ?_, ?_⟩ <;> rw [hg]
    · exact SMap.get_set_same _ _ _ _
    all_goals rfl

/-- Settles O29: what an instruction takes from a load-bound port, and what it gives a store-bound one. -/
theorem queuePorts : Obligations.QueuePorts := ⟨queuePortsPop, queuePortsPush⟩

end Sys2Proof.Machine
end

section
/-!
# Fields of words, and their codes (R16, R47, R58, R61, R63, R65, R169, R185, R186)

A code of a field is read back as what it stands for, and nothing else has that code: each reading function of the
decoder is the inverse of the encoder's function.
-/
namespace Sys2Proof

/-! ### Fields -/

theorem extractLsb'_extractLsb' {n s k i j : Nat} {w : BitVec n} (h : i + j ≤ k) :
    (w.extractLsb' s k).extractLsb' i j = w.extractLsb' (s + i) j := by
  refine BitVec.eq_of_getLsbD_eq fun l hl => ?_
  simp only [BitVec.getLsbD_extractLsb', hl, decide_true, Bool.true_and, Nat.add_assoc, show i + l < k by omega]

/-- A word is its low bits below high bits that its number shows. -/
theorem eq_append_extractLsb' {n m : Nat} {w : BitVec (n + m)} {x : BitVec n} (h : w.toNat / 2 ^ m = x.toNat) :
    w = x ++ w.extractLsb' 0 m := by
  have hx : w.extractLsb' m n = x := BitVec.eq_of_toNat_eq <| by
    rw [BitVec.extractLsb'_toNat, Nat.shiftRight_eq_div_pow, h, Nat.mod_eq_of_lt x.isLt]
  rw [← hx, BitVec.extractLsb'_append_extractLsb'_eq_extractLsb' (Nat.zero_add m).symm, BitVec.extractLsb'_eq_self]

theorem eq_ofNat_of_toNat_eq {n k : Nat} {b : BitVec n} (h : b.toNat = k) : b = BitVec.ofNat n k := by
  rw [← h, BitVec.ofNat_toNat, BitVec.setWidth_eq]

theorem zero_eq_field {n i j : Nat} {w : BitVec n} (h : (w.extractLsb' i j == 0) = true) :
    0#j = w.extractLsb' i j := (eq_of_beq h).symm

theorem eq_one_of_ne_zero {b : BitVec 1} (h : ¬ (b == 0) = true) : b = 1#1 := by revert h b; decide

@[simp] theorem ofBool_beq_one (x : Bool) : (BitVec.ofBool x == 1) = x := by cases x <;> rfl
@[simp] theorem ofBool_of_beq_one (b : BitVec 1) : BitVec.ofBool (b == 1) = b := by revert b; decide

namespace Decode

open BitVec (extractLsb'_toNat extractLsb'_eq_self extractLsb'_append_eq_right extractLsb'_append_eq_of_le
  extractLsb'_append_eq_of_add_le extractLsb'_append_extractLsb'_eq_extractLsb')

/-! ### Codes -/

theorem scopeOf_eq_some_iff {b : BitVec 3} {x : Scope} : scopeOf b = some x ↔ b = Encode.scope x := by
  cases x <;> revert b <;> decide
theorem sizeOf_eq_iff {b : BitVec 2} {x : MSize} : sizeOf b = x ↔ b = Encode.size x := by
  cases x <;> revert b <;> decide
theorem rndOf_eq_some_iff {b : BitVec 3} {x : Rnd} : rndOf b = some x ↔ b = Encode.rnd x := by
  cases x <;> revert b <;> decide
theorem typeOf_eq_some_iff {b : BitVec 4} {x : LType} : typeOf b = some x ↔ b = Encode.type x := by
  cases x <;> revert b <;> decide
theorem atomOf_eq_some_iff {b : BitVec 4} {x : AtomOp} : atomOf b = some x ↔ b = Encode.atom x := by
  cases x <;> revert b <;> decide
theorem orderOf_eq_iff {b : BitVec 2} {x : MOrder} : orderOf b = x ↔ b = Encode.order x := by
  cases x <;> revert b <;> decide
theorem kindOf_eq_some_iff {b : BitVec 2} {x : FenceKind} : kindOf b = some x ↔ b = Encode.kind x := by
  cases x <;> revert b <;> decide

theorem eq_opd_of_opdOf {b : BitVec 12} {o : Opd} (h : opdOf b = some o) : b = Encode.opd o := by
  unfold opdOf at h
  split at h
  · cases h
    exact eq_append_extractLsb' (n := 1) (m := 11) (x := 0) (show b.toNat / 2 ^ 11 = 0 by omega)
  split at h
  · cases h
    exact eq_append_extractLsb' (n := 6) (m := 6) (x := 0x20) (show b.toNat / 2 ^ 6 = 0x20 by omega)
  split at h
  · cases h
    exact eq_append_extractLsb' (n := 8) (m := 4) (x := 0x84) (show b.toNat / 2 ^ 4 = 0x84 by omega)
  · split at h <;> cases h <;> exact eq_ofNat_of_toNat_eq ‹_›

theorem opdOf_opd (o : Opd) : opdOf (Encode.opd o) = some o := by
  cases o with
  | v n =>
    have hn : (0#1 ++ n).toNat = 0 + n.toNat := Machine.toNat_append_add ..
    rw [Encode.opd, opdOf, if_pos (by omega), extractLsb'_append_eq_right]
  | s n =>
    have hn : (0x20#6 ++ n).toNat = 0x800 + n.toNat := Machine.toNat_append_add ..
    rw [Encode.opd, opdOf, if_neg (by omega), if_pos (by omega), extractLsb'_append_eq_right]
  | q n =>
    have hn : (0x84#8 ++ n).toNat = 0x840 + n.toNat := Machine.toNat_append_add ..
    rw [Encode.opd, opdOf, if_neg (by omega), if_neg (by omega), if_pos (by omega), extractLsb'_append_eq_right]
  | _ => rfl

theorem opdOf_eq_some_iff {b : BitVec 12} {o : Opd} : opdOf b = some o ↔ b = Encode.opd o :=
  ⟨eq_opd_of_opdOf, fun h => h ▸ opdOf_opd o⟩

/-! ### The parts of a lane word (R63) -/

theorem lw_fields (w : LaneWord) :
    Encode.lw (w.extractLsb' 86 10) (w.extractLsb' 77 9) (w.extractLsb' 65 12) (w.extractLsb' 53 12)
    (w.extractLsb' 41 12) (w.extractLsb' 29 12) (w.extractLsb' 0 29) = w := by
  simp (disch := decide) only [Encode.lw, extractLsb'_append_extractLsb'_eq_extractLsb', extractLsb'_eq_self]

theorem hdr_header (w : LaneWord) : Encode.hdr (header w) = w.extractLsb' 77 9 := by
  simp (disch := decide) only [Encode.hdr, header, PReg, ofBool_of_beq_one,
    extractLsb'_append_extractLsb'_eq_extractLsb']

section
variable (op : BitVec 10) (h : BitVec 9) (d a b c : BitVec 12) (m : BitVec 29)
theorem lw_op : (Encode.lw op h d a b c m).extractLsb' 86 10 = op := by
  simp (disch := decide) only [Encode.lw, extractLsb'_append_eq_of_le, Nat.reduceSub, extractLsb'_eq_self]
theorem lw_h : (Encode.lw op h d a b c m).extractLsb' 77 9 = h := by
  simp (disch := decide) only [Encode.lw, extractLsb'_append_eq_of_le, Nat.reduceSub, extractLsb'_append_eq_right]
theorem lw_vd : (Encode.lw op h d a b c m).extractLsb' 65 12 = d := by
  simp (disch := decide) only [Encode.lw, extractLsb'_append_eq_of_le, Nat.reduceSub, extractLsb'_append_eq_right]
theorem lw_va : (Encode.lw op h d a b c m).extractLsb' 53 12 = a := by
  simp (disch := decide) only [Encode.lw, extractLsb'_append_eq_of_le, Nat.reduceSub, extractLsb'_append_eq_right]
theorem lw_vb : (Encode.lw op h d a b c m).extractLsb' 41 12 = b := by
  simp (disch := decide) only [Encode.lw, extractLsb'_append_eq_of_le, Nat.reduceSub, extractLsb'_append_eq_right]
theorem lw_vc : (Encode.lw op h d a b c m).extractLsb' 29 12 = c := by
  simp (disch := decide) only [Encode.lw, extractLsb'_append_eq_of_le, Nat.reduceSub, extractLsb'_append_eq_right]
theorem lw_mod {i j : Nat} (hm : i + j ≤ 29) : (Encode.lw op h d a b c m).extractLsb' i j = m.extractLsb' i j :=
  extractLsb'_append_eq_of_add_le hm
end

theorem header_lw (op : BitVec 10) (h : LHdr) (d a b c : BitVec 12) (m : BitVec 29) :
    header (Encode.lw op (Encode.hdr h) d a b c m) = h := by
  have hw : ∀ i j, i + j ≤ 9 → (Encode.lw op (Encode.hdr h) d a b c m).extractLsb' (77 + i) j = (Encode.hdr h).extractLsb' i j :=
      fun i j hi => by
    rw [← extractLsb'_extractLsb' hi, lw_h]
  rw [header, hw 8 1 (by decide), hw 1 7 (by decide), hw 0 1 (by decide)]
  simp (disch := decide) only [Encode.hdr, PReg, extractLsb'_append_eq_of_le, extractLsb'_append_eq_of_add_le,
    Nat.reduceSub, extractLsb'_eq_self, ofBool_beq_one]

theorem opds_eq_some_iff {w : LaneWord} {d a b c : Opd} :
    opds w = some (d, a, b, c) ↔ w.extractLsb' 65 12 = Encode.opd d ∧
    w.extractLsb' 53 12 = Encode.opd a ∧ w.extractLsb' 41 12 = Encode.opd b ∧ w.extractLsb' 29 12 = Encode.opd c := by
  simp [opds, Option.bind_eq_some_iff, opdOf_eq_some_iff]

theorem opds_lw (op : BitVec 10) (h : BitVec 9) (d a b c : Opd) (m : BitVec 29) :
    opds (Encode.lw op h (Encode.opd d) (Encode.opd a) (Encode.opd b) (Encode.opd c) m) = some (d, a, b, c) :=
  opds_eq_some_iff.mpr ⟨lw_vd .., lw_va .., lw_vb .., lw_vc ..⟩

/-! ### Well-formed results -/

theorem need_eq_ok_iff {z : Bool} {i j : Instr} : need z i = .ok j ↔ z = true ∧ i.WellFormed ∧ i = j := by
  rw [need]
  split <;> simp_all [Instr.WellFormed]

theorem chk_eq_ok_iff {o : Option Instr} {i : Instr} : chk o = .ok i ↔ o = some i ∧ i.WellFormed := by
  cases o with
  | none => simp [chk]
  | some j =>
    rw [chk, need_eq_ok_iff, Option.some.injEq]
    exact ⟨fun ⟨_, hj, h⟩ => ⟨h, h ▸ hj⟩, fun ⟨h, hi⟩ => ⟨rfl, h ▸ hi, h⟩⟩

/-! ### The forms of a lane word -/

/-- A word whose operand fields are read is laid out of them (R63). -/
theorem lw_of_opds {w : LaneWord} {d a b c : Opd} (h : opds w = some (d, a, b, c)) :
    w = Encode.lw (w.extractLsb' 86 10) (Encode.hdr (header w)) (Encode.opd d) (Encode.opd a) (Encode.opd b) (Encode.opd c)
      (w.extractLsb' 0 29) := by
  obtain ⟨hd, ha, hb, hc⟩ := opds_eq_some_iff.mp h
  rw [← hd, ← ha, ← hb, ← hc, hdr_header, lw_fields]

section
variable {op : BitVec 10} {w : LaneWord} {i : Instr}

theorem parseOp_encOp {o : LOp} {k : LOp → Instr} (h : (k o).WellFormed) :
    parseOp (Encode.encOp op o) k = .ok (k o) := by
  have ht : typeOf (Encode.type o.ty) = some o.ty := typeOf_eq_some_iff.mpr rfl
  have hr : rndOf (Encode.rnd o.rnd) = some o.rnd := rndOf_eq_some_iff.mpr rfl
  refine chk_eq_ok_iff.mpr ⟨congrArg (Option.map k) (?_ : lop _ = some o), h⟩
  simp (disch := decide) only [lop, Encode.encOp, opds_lw, header_lw, lw_mod, PReg, extractLsb'_append_eq_of_le,
    extractLsb'_append_eq_of_add_le,
    extractLsb'_eq_self, Nat.reduceSub, ofBool_beq_one, Option.bind_eq_bind, Option.bind_some, ht, hr, Option.pure_def]

theorem of_parseOp {k : LOp → Instr} (h : parseOp w k = .ok i) :
    i.WellFormed ∧ ∃ o, i = k o ∧ w = Encode.encOp (w.extractLsb' 86 10) o := by
  obtain ⟨hi, hwf⟩ := chk_eq_ok_iff.mp h
  obtain ⟨o, ho, rfl⟩ := Option.map_eq_some_iff.mp hi
  simp only [lop, Option.bind_eq_bind, Option.bind_eq_some_iff, typeOf_eq_some_iff, rndOf_eq_some_iff,
    Option.pure_def, Option.some.injEq] at ho
  obtain ⟨⟨d, a, b, c⟩, ho, t, ht, r, hr, rfl⟩ := ho
  refine ⟨hwf, _, rfl, (lw_of_opds ho).trans ?_⟩
  rw [Encode.encOp, ← ht, ← hr]
  simp (disch := decide) only [ofBool_of_beq_one, PReg, extractLsb'_append_extractLsb'_eq_extractLsb']

theorem parseImm_encImm {m : LImm} {k : LImm → Instr} (h : (k m).WellFormed) :
    parseImm (Encode.encImm op m) k = .ok (k m) := by
  have ht : typeOf (Encode.type m.ty) = some m.ty := typeOf_eq_some_iff.mpr rfl
  refine chk_eq_ok_iff.mpr ⟨congrArg (Option.map k) (?_ : limm _ = some m), h⟩
  simp (disch := decide) only [limm, header, Encode.encImm, Encode.hdr, opdOf_opd, PReg, extractLsb'_append_eq_of_le,
    extractLsb'_append_eq_of_add_le,
    extractLsb'_eq_self, Nat.reduceSub, ofBool_beq_one, Option.bind_eq_bind, Option.bind_some, ht]
  rfl

theorem of_parseImm {k : LImm → Instr} (h : parseImm w k = .ok i) :
    i.WellFormed ∧ ∃ m, i = k m ∧ w = Encode.encImm (w.extractLsb' 86 10) m := by
  obtain ⟨hi, hwf⟩ := chk_eq_ok_iff.mp h
  obtain ⟨m, hm, rfl⟩ := Option.map_eq_some_iff.mp hi
  simp only [limm, Option.bind_eq_bind, Option.bind_eq_some_iff, opdOf_eq_some_iff, typeOf_eq_some_iff,
    Option.pure_def,
    Option.ite_none_right_eq_some, Option.some.injEq, Bool.and_eq_true, beq_iff_eq] at hm
  obtain ⟨d, hd, a, ha, t, ht, ⟨hz : _ = 0#12, hz' : _ = 0#4⟩, rfl⟩ := hm
  refine ⟨hwf, _, rfl, ?_⟩
  rw [Encode.encImm, ← hd, ← ha, ← ht, ← hz, ← hz', hdr_header]
  simp (disch := decide) only [ofBool_of_beq_one, extractLsb'_append_extractLsb'_eq_extractLsb', extractLsb'_eq_self]

theorem parseMem_encMem {m : LMem} {k : LMem → Instr} (h : (k m).WellFormed) :
    parseMem (Encode.encMem op m) k = .ok (k m) := by
  have ht : typeOf (Encode.type m.ty) = some m.ty := typeOf_eq_some_iff.mpr rfl
  have hs : sizeOf (Encode.size m.size) = m.size := sizeOf_eq_iff.mpr rfl
  refine chk_eq_ok_iff.mpr ⟨?_, h⟩
  simp (disch := decide) only [Encode.encMem, opds_lw, header_lw, lw_mod, extractLsb'_append_eq_of_le,
    extractLsb'_append_eq_of_add_le,
    extractLsb'_eq_self, Nat.reduceSub, ofBool_beq_one, Option.bind_eq_bind, Option.bind_some, ht, hs]
  rfl

theorem of_parseMem {k : LMem → Instr} (h : parseMem w k = .ok i) :
    i.WellFormed ∧ ∃ m, i = k m ∧ w = Encode.encMem (w.extractLsb' 86 10) m := by
  obtain ⟨hi, hwf⟩ := chk_eq_ok_iff.mp h
  simp only [Option.bind_eq_bind, Option.bind_eq_some_iff, typeOf_eq_some_iff, Option.pure_def,
    Option.ite_none_right_eq_some, Option.some.injEq,
    Bool.and_eq_true, beq_iff_eq] at hi
  obtain ⟨⟨d, a, b, c⟩, ho, t, ht, ⟨hz : _ = 0#11, hz' : _ = 0#8⟩, rfl⟩ := hi
  have hs := sizeOf_eq_iff.mp (rfl : sizeOf (w.extractLsb' 9 2) = _)
  refine ⟨hwf, _, rfl, (lw_of_opds ho).trans ?_⟩
  rw [Encode.encMem, ← ht, ← hs, ← hz, ← hz']
  simp (disch := decide) only [ofBool_of_beq_one, extractLsb'_append_extractLsb'_eq_extractLsb']

theorem parseAtom_encAtom {m : LAtom} (h : (Instr.vatom m).WellFormed) :
    parseAtom (Encode.encAtom op m) = .ok (.vatom m) := by
  have ht : typeOf (Encode.type m.ty) = some m.ty := typeOf_eq_some_iff.mpr rfl
  have ha : atomOf (Encode.atom m.op) = some m.op := atomOf_eq_some_iff.mpr rfl
  have hr : orderOf (Encode.order m.order) = m.order := orderOf_eq_iff.mpr rfl
  have hs : scopeOf (Encode.scope m.scope) = some m.scope := scopeOf_eq_some_iff.mpr rfl
  refine chk_eq_ok_iff.mpr ⟨?_, h⟩
  simp (disch := decide) only [Encode.encAtom, opds_lw, header_lw, lw_mod, extractLsb'_append_eq_of_le,
    extractLsb'_append_eq_of_add_le,
    extractLsb'_eq_self, Nat.reduceSub, ofBool_beq_one, Option.bind_eq_bind, Option.bind_some, ht, ha, hr, hs]
  rfl

theorem of_parseAtom (h : parseAtom w = .ok i) :
    i.WellFormed ∧ ∃ m, i = .vatom m ∧ w = Encode.encAtom (w.extractLsb' 86 10) m := by
  obtain ⟨hi, hwf⟩ := chk_eq_ok_iff.mp h
  simp only [Option.bind_eq_bind, Option.bind_eq_some_iff, typeOf_eq_some_iff, atomOf_eq_some_iff,
    scopeOf_eq_some_iff, Option.pure_def,
    Option.ite_none_right_eq_some, Option.some.injEq, Bool.and_eq_true, beq_iff_eq] at hi
  obtain ⟨⟨d, a, b, c⟩, ho, t, ht, op, hop, sc, hsc, ⟨hz : _ = 0#11, hz' : _ = 0#4⟩, rfl⟩ := hi
  have hr := orderOf_eq_iff.mp (rfl : orderOf (w.extractLsb' 7 2) = _)
  refine ⟨hwf, _, rfl, (lw_of_opds ho).trans ?_⟩
  rw [Encode.encAtom, ← ht, ← hop, ← hr, ← hsc, ← hz, ← hz']
  simp (disch := decide) only [ofBool_of_beq_one, extractLsb'_append_extractLsb'_eq_extractLsb']

theorem parseGrid_encGrid {m : LGrid} {k : LGrid → Instr} (h : (k m).WellFormed) :
    parseGrid (Encode.encGrid op m) k = .ok (k m) := by
  have ht : typeOf (Encode.type m.ty) = some m.ty := typeOf_eq_some_iff.mpr rfl
  refine chk_eq_ok_iff.mpr ⟨?_, h⟩
  simp (disch := decide) only [Encode.encGrid, SReg, opds_lw, header_lw, lw_mod, extractLsb'_append_eq_of_le,
    extractLsb'_append_eq_of_add_le,
    extractLsb'_eq_self, Nat.reduceSub, Option.bind_eq_bind, Option.bind_some, ht]
  rfl

theorem of_parseGrid {k : LGrid → Instr} (h : parseGrid w k = .ok i) :
    i.WellFormed ∧ ∃ m, i = k m ∧ w = Encode.encGrid (w.extractLsb' 86 10) m := by
  obtain ⟨hi, hwf⟩ := chk_eq_ok_iff.mp h
  simp only [Option.bind_eq_bind, Option.bind_eq_some_iff, typeOf_eq_some_iff, Option.pure_def,
    Option.ite_none_right_eq_some, Option.some.injEq,
    Bool.and_eq_true, beq_iff_eq] at hi
  obtain ⟨⟨d, a, b, c⟩, ho, t, ht, ⟨hz : _ = 0#12, hz' : _ = 0#3⟩, rfl⟩ := hi
  refine ⟨hwf, _, rfl, (lw_of_opds ho).trans ?_⟩
  rw [Encode.encGrid, ← ht, ← hz, ← hz']
  simp (disch := decide) only [SReg, extractLsb'_append_extractLsb'_eq_extractLsb']

theorem parseMx_encMx {m : LMx} {side : Bool} {k : LMx → Instr} (h : (k m).WellFormed) :
    parseMx (Encode.encMx op side m) side k = .ok (k m) := by
  refine chk_eq_ok_iff.mpr ⟨?_, h⟩
  simp (disch := decide) only [Encode.encMx, opds_lw, header_lw, lw_mod, extractLsb'_append_eq_of_le,
    extractLsb'_append_eq_of_add_le,
    extractLsb'_eq_self, Nat.reduceSub, ofBool_beq_one, Option.bind_eq_bind, Option.bind_some, beq_self_eq_true, Bool.and_true]
  rfl

theorem of_parseMx {side : Bool} {k : LMx → Instr} (h : parseMx w side k = .ok i) :
    i.WellFormed ∧ ∃ m, i = k m ∧ w = Encode.encMx (w.extractLsb' 86 10) side m := by
  obtain ⟨hi, hwf⟩ := chk_eq_ok_iff.mp h
  simp only [Option.bind_eq_bind, Option.bind_eq_some_iff, Option.pure_def, Option.ite_none_right_eq_some,
    Option.some.injEq,
    Bool.and_eq_true, beq_iff_eq] at hi
  obtain ⟨⟨d, a, b, c⟩, ho, ⟨hz : _ = 0#3, rfl⟩, rfl⟩ := hi
  refine ⟨hwf, _, rfl, (lw_of_opds ho).trans ?_⟩
  rw [Encode.encMx, ← hz]
  simp (disch := decide) only [ofBool_of_beq_one, extractLsb'_append_extractLsb'_eq_extractLsb']

theorem parseRen_encRen {r : LRen} {m : BitVec 29} {zero : Bool} {k : LRen → Instr} (hz : zero = true)
    (h : (k r).WellFormed) :
    parseRen (Encode.encRen op r m) zero k = .ok (k r) := by
  refine chk_eq_ok_iff.mpr ⟨?_, h⟩
  simp only [Encode.encRen, opds_lw, header_lw, Option.bind_eq_bind, Option.bind_some, hz]
  rfl

theorem of_parseRen {zero : Bool} {k : LRen → Instr} (h : parseRen w zero k = .ok i) :
    i.WellFormed ∧ zero = true ∧ ∃ r, i = k r ∧ w = Encode.encRen (w.extractLsb' 86 10) r (w.extractLsb' 0 29) := by
  obtain ⟨hi, hwf⟩ := chk_eq_ok_iff.mp h
  simp only [Option.bind_eq_bind, Option.bind_eq_some_iff, Option.pure_def, Option.ite_none_right_eq_some,
    Option.some.injEq] at hi
  obtain ⟨⟨d, a, b, c⟩, ho, hz, rfl⟩ := hi
  exact ⟨hwf, hz, _, rfl, lw_of_opds ho⟩

end

end Decode
end Sys2Proof
end

section
/-!
# Lane words and lane instructions determine one another (R63 to R66, R181, R224, R238)

A word whose opcode is a form's is laid out by that form (`encode_of_form`), and the form reads back what it has laid out
(`parseOp_encOp` and its like). Both directions then go through the opcodes: `encode_lane_of_ok` along the decoder's table,
`lane_ok_of_encode` along the constructors.
-/
namespace Sys2Proof
namespace Decode

open BitVec (extractLsb'_toNat extractLsb'_eq_self extractLsb'_append_eq_right extractLsb'_append_eq_of_le
  extractLsb'_append_eq_of_add_le extractLsb'_append_extractLsb'_eq_extractLsb')

/-! ### Words with few fields -/

theorem lw_mod_only (op : BitVec 10) (m : BitVec 29) : Encode.lw op 0 0 0 0 0 m = op ++ 0#57 ++ m := by
  refine .trans ?_ (lw_fields _)
  simp (disch := decide) only [extractLsb'_append_eq_of_le, extractLsb'_append_eq_of_add_le, extractLsb'_eq_self,
    Nat.reduceSub, BitVec.extractLsb'_zero]
  rfl
theorem lw_va_only (op : BitVec 10) (a : BitVec 12) (m : BitVec 29) :
    Encode.lw op 0 0 a 0 0 m = op ++ 0#21 ++ a ++ 0#24 ++ m := by
  refine .trans ?_ (lw_fields _)
  simp (disch := decide) only [extractLsb'_append_eq_of_le, extractLsb'_append_eq_of_add_le, extractLsb'_eq_self,
    Nat.reduceSub, BitVec.extractLsb'_zero]
  rfl
theorem lw_header_only (op : BitVec 10) (h : BitVec 9) (x : BitVec 3) (y : BitVec 2) :
    Encode.lw op h 0 0 0 0 (0#24 ++ x ++ y) = op ++ h ++ 0#72 ++ x ++ y := by
  have hm : (op ++ h ++ 0#72 ++ x ++ y).extractLsb' 0 29 = 0#24 ++ x ++ y := by
    rw [← extractLsb'_append_extractLsb'_eq_extractLsb' (start₂ := 2) (len₁ := 2) (len₂ := 24 + 3) rfl,
      ← extractLsb'_append_extractLsb'_eq_extractLsb' (start₂ := 5) (len₁ := 3) (len₂ := 24) rfl]
    simp (disch := decide) only [extractLsb'_append_eq_of_le, extractLsb'_append_eq_of_add_le, extractLsb'_eq_self,
      Nat.reduceSub, BitVec.extractLsb'_zero]
  refine .trans ?_ (lw_fields _)
  rw [hm]
  simp (disch := decide) only [extractLsb'_append_eq_of_le, extractLsb'_append_eq_of_add_le, extractLsb'_eq_self,
    Nat.reduceSub, BitVec.extractLsb'_zero]
  rfl

theorem lw_op_only (op : BitVec 10) : Encode.lw op 0 0 0 0 0 0 = op ++ 0#86 := by
  refine .trans ?_ (lw_fields _)
  simp (disch := decide) only [extractLsb'_append_eq_of_le, extractLsb'_append_eq_of_add_le, extractLsb'_eq_self,
    Nat.reduceSub, BitVec.extractLsb'_zero]
  rfl

theorem ofNat_op {w : LaneWord} {n : Nat} (h : (w.extractLsb' 86 10).toNat = n) :
    BitVec.ofNat 10 n = w.extractLsb' 86 10 :=
  (eq_ofNat_of_toNat_eq h).symm

/-- A word of one form is the word of its instruction, whose opcode and form are the word's. -/
theorem encode_of_form {α : Type} {enc : BitVec 10 → α → LaneWord} {k : α → Instr} {w : LaneWord} {n : Nat}
    {i : Instr} (hop : (w.extractLsb' 86 10).toNat = n)
    (hk : ∀ x, Encode.lane (k x) = some (enc (BitVec.ofNat 10 n) x))
    (h : i.WellFormed ∧ ∃ x, i = k x ∧ w = enc (w.extractLsb' 86 10) x) : i.WellFormed ∧ Encode.lane i = some w := by
  obtain ⟨hwf, x, rfl, hx⟩ := h
  exact ⟨hwf, by rw [hk, ofNat_op hop, ← hx]⟩

/-- The rendering opcodes have modifiers of their own, which the word's hold where `zero` says that the rest is zero. -/
theorem encode_of_ren {k : LRen → Instr} {m : BitVec 29} {w : LaneWord} {n : Nat} {zero : Bool} {i : Instr}
    (h : parseRen w zero k = .ok i)
    (hop : (w.extractLsb' 86 10).toNat = n) (hk : ∀ r, Encode.lane (k r) = some (Encode.encRen (BitVec.ofNat 10 n) r m))
    (hm : zero = true → m = w.extractLsb' 0 29) : i.WellFormed ∧ Encode.lane i = some w := by
  obtain ⟨hwf, hz, r, rfl, hw⟩ := of_parseRen h
  exact ⟨hwf, by rw [hk, ofNat_op hop, hm hz, ← hw]⟩

theorem encode_lane_of_need {z : Bool} {i j : Instr} {w : LaneWord} (h : need z i = .ok j)
    (hi : z = true → Encode.lane i = some w) :
    j.WellFormed ∧ Encode.lane j = some w := by
  obtain ⟨hz, hwf, rfl⟩ := need_eq_ok_iff.mp h
  exact ⟨hwf, hi hz⟩

theorem encode_of_parsePset {w : LaneWord} {i : Instr} (hop : (w.extractLsb' 86 10).toNat = 0x049)
    (h : parsePset w = .ok i) :
    i.WellFormed ∧ Encode.lane i = some w := by
  unfold parsePset at h
  split at h <;> exact encode_of_form hop (fun _ => rfl) (of_parseOp h)

theorem encode_of_parseEmset {w : LaneWord} {i : Instr} (hop : (w.extractLsb' 86 10).toNat = 0x075)
    (h : parseEmset w = .ok i) :
    i.WellFormed ∧ Encode.lane i = some w := by
  unfold parseEmset at h
  split at h
  case h_4 => split at h <;> exact encode_of_form hop (fun _ => rfl) (of_parseOp h)
  all_goals exact encode_of_form hop (fun _ => rfl) (of_parseOp h)

theorem encode_of_parseQ4 {w : LaneWord} {i : Instr} (hop : (w.extractLsb' 86 10).toNat = 0x0C3)
    (h : parseQ4 w = .ok i) :
    i.WellFormed ∧ Encode.lane i = some w := by
  unfold parseQ4 at h
  split at h
  case h_4 => cases h
  all_goals exact encode_of_form hop (fun _ => rfl) (of_parseOp h)

theorem encode_of_parseStat {w : LaneWord} {i : Instr} (hop : (w.extractLsb' 86 10).toNat = 0x0EA)
    (h : parseStat w = .ok i) :
    i.WellFormed ∧ Encode.lane i = some w := by
  unfold parseStat at h
  split at h
  case h_4 => cases h
  all_goals exact encode_of_form hop (fun _ => rfl) (of_parseOp h)

theorem encode_of_parseFence {w : LaneWord} {i : Instr} (hop : (w.extractLsb' 86 10).toNat = 0x10C)
    (h : parseFence w = .ok i) :
    i.WellFormed ∧ Encode.lane i = some w := by
  obtain ⟨hi, hwf⟩ := chk_eq_ok_iff.mp h
  simp only [Option.bind_eq_bind, Option.bind_eq_some_iff, kindOf_eq_some_iff, scopeOf_eq_some_iff, Option.pure_def,
    Option.ite_none_right_eq_some, Option.some.injEq, beq_iff_eq] at hi
  obtain ⟨k, hk, sc, hsc, hz : _ = 0#72, rfl⟩ := hi
  refine ⟨hwf, congrArg some ?_⟩
  show Encode.lw (BitVec.ofNat 10 0x10C) _ 0 0 0 0 (0#24 ++ Encode.scope sc ++ Encode.kind k) = w
  rw [ofNat_op hop, lw_header_only, hdr_header, ← hk, ← hsc, ← hz]
  simp (disch := decide) only [extractLsb'_append_extractLsb'_eq_extractLsb', extractLsb'_eq_self]

theorem encode_of_parseLoop {w : LaneWord} {i : Instr} (hop : (w.extractLsb' 86 10).toNat = 0x070)
    (h : parseLoop w = .ok i) :
    i.WellFormed ∧ Encode.lane i = some w := by
  unfold parseLoop at h
  split at h
  case isTrue hb =>
    have hb : _ = 0#1 := eq_of_beq hb
    refine encode_lane_of_need h fun hz => congrArg some ?_
    have hz : _ = 0#57 := eq_of_beq hz
    show Encode.lw (BitVec.ofNat 10 0x070) _ _ _ _ _ _ = w
    rw [ofNat_op hop, lw_mod_only, ← hz, ← hb]
    simp (disch := decide) only [extractLsb'_append_extractLsb'_eq_extractLsb', extractLsb'_eq_self]
  case isFalse hb =>
    obtain ⟨hi, hwf⟩ := chk_eq_ok_iff.mp h
    simp only [Option.bind_eq_bind, Option.bind_eq_some_iff, opdOf_eq_some_iff, Option.pure_def,
      Option.ite_none_right_eq_some, Option.some.injEq, Bool.and_eq_true, beq_iff_eq] at hi
    obtain ⟨a, ha, ⟨⟨hz : _ = 0#21, hz' : _ = 0#24⟩, hz'' : _ = 0#20⟩, rfl⟩ := hi
    have hm : w.extractLsb' 8 21 = 1#21 := by
      rw [← extractLsb'_append_extractLsb'_eq_extractLsb' (start₂ := 9) (len₁ := 1) (len₂ := 20) rfl, hz'',
        eq_one_of_ne_zero hb]
      rfl
    refine ⟨hwf, congrArg some ?_⟩
    show Encode.lw (BitVec.ofNat 10 0x070) _ _ _ _ _ _ = w
    rw [ofNat_op hop, ← ha, lw_va_only, ← hz, ← hz', ← hm]
    simp (disch := decide) only [extractLsb'_append_extractLsb'_eq_extractLsb', extractLsb'_eq_self]

theorem encode_of_loopw {w : LaneWord} {i : Instr} (hop : (w.extractLsb' 86 10).toNat = 0x071)
    (h : need (w.extractLsb' 29 57 == 0) (.loopw (w.extractLsb' 8 7) (w.extractLsb' 15 14) (w.extractLsb' 0 8)) = .ok i) :
    i.WellFormed ∧ Encode.lane i = some w := by
  refine encode_lane_of_need h fun hz => congrArg some ?_
  show Encode.lw (BitVec.ofNat 10 0x071) _ _ _ _ _ _ = w
  rw [ofNat_op hop, lw_mod_only, zero_eq_field hz]
  simp (disch := decide) only [PReg, extractLsb'_append_extractLsb'_eq_extractLsb', extractLsb'_eq_self]

/-- ENDL and VRET have no fields (R143). -/
theorem encode_of_bare {w : LaneWord} {i j : Instr} {n : Nat} (hop : (w.extractLsb' 86 10).toNat = n)
    (hi : Encode.lane i = some (Encode.lw (BitVec.ofNat 10 n) 0 0 0 0 0 0)) (h : need (w.extractLsb' 0 86 == 0) i = .ok j) :
    j.WellFormed ∧ Encode.lane j = some w := by
  refine encode_lane_of_need h fun hz => hi.trans (congrArg some ?_)
  rw [ofNat_op hop, lw_op_only, zero_eq_field hz]
  simp (disch := decide) only [extractLsb'_append_extractLsb'_eq_extractLsb', extractLsb'_eq_self]

theorem encode_of_parsePair {w : LaneWord} {i : Instr} (hop : (w.extractLsb' 86 10).toNat = 0x143)
    (h : (if w.extractLsb' 15 1 == 0 then parseMx w false .mxPairW else parseMx w true .mxPairE) = .ok i) :
    i.WellFormed ∧ Encode.lane i = some w := by
  split at h
  · exact encode_of_form (enc := (Encode.encMx · false)) hop (fun _ => rfl) (of_parseMx h)
  · exact encode_of_form (enc := (Encode.encMx · true)) hop (fun _ => rfl) (of_parseMx h)

theorem encode_lane_of_ok {w : LaneWord} {i : Instr} (h : lane w = .ok i) :
    i.WellFormed ∧ Encode.lane i = some w := by
  unfold lane at h
  split at h
  -- opcodes with one instruction of one form; a rendering opcode is left with its modifiers
  any_goals (with_reducible refine encode_of_form ‹_› ?_ (of_parseOp h)); exact fun _ => rfl
  any_goals (with_reducible refine encode_of_form ‹_› ?_ (of_parseImm h)); exact fun _ => rfl
  any_goals (with_reducible refine encode_of_form ‹_› ?_ (of_parseMem h)); exact fun _ => rfl
  any_goals (with_reducible refine encode_of_form ‹_› ?_ (of_parseGrid h)); exact fun _ => rfl
  any_goals (with_reducible refine encode_of_form (enc := (Encode.encMx · false)) ‹_› ?_ (of_parseMx h)); exact fun _ => rfl
  any_goals with_reducible refine encode_of_ren h ‹_› (by with_unfolding_all exact fun _ => rfl) fun hz => ?_
  -- opcodes with members, and those without a form
  · exact encode_of_parsePset ‹_› h
  · exact encode_of_parseLoop ‹_› h
  · exact encode_of_loopw ‹_› h
  · exact encode_of_bare ‹_› rfl h
  · exact encode_of_bare ‹_› rfl h
  · exact encode_of_parseEmset ‹_› h
  · exact encode_of_parseQ4 ‹_› h
  · exact encode_of_parseStat ‹_› h
  · exact encode_of_form ‹_› (fun _ => rfl) (of_parseAtom h)
  · exact encode_of_parseFence ‹_› h
  · exact encode_of_parsePair ‹_› h
  -- the modifiers of the rendering opcodes: none, one named field, several
  any_goals exact zero_eq_field hz
  any_goals
    rw [zero_eq_field hz]
    simp (disch := decide) only [ofBool_of_beq_one, SReg, extractLsb'_append_extractLsb'_eq_extractLsb']
  · simp only [Bool.and_eq_true] at hz
    obtain ⟨⟨hz, hz'⟩, hz''⟩ := hz
    rw [zero_eq_field hz, zero_eq_field hz', zero_eq_field hz'']
    simp (disch := decide) only [ofBool_of_beq_one, SReg, extractLsb'_append_extractLsb'_eq_extractLsb']
  · simp only [Bool.and_eq_true] at hz
    obtain ⟨hz, hz'⟩ := hz
    rw [zero_eq_field hz, zero_eq_field hz']
    simp (disch := decide) only [PReg, extractLsb'_append_extractLsb'_eq_extractLsb']
  · cases h

/-! ### The word of an instruction decodes to it -/

theorem encOp_op {op : BitVec 10} {o : LOp} : (Encode.encOp op o).extractLsb' 86 10 = op := lw_op ..
theorem encImm_op {op : BitVec 10} {m : LImm} : (Encode.encImm op m).extractLsb' 86 10 = op := by
  simp (disch := decide) only [Encode.encImm, extractLsb'_append_eq_of_le, Nat.reduceSub, extractLsb'_eq_self]
theorem encMem_op {op : BitVec 10} {m : LMem} : (Encode.encMem op m).extractLsb' 86 10 = op := lw_op ..
theorem encAtom_op {op : BitVec 10} {m : LAtom} : (Encode.encAtom op m).extractLsb' 86 10 = op := lw_op ..
theorem encGrid_op {op : BitVec 10} {m : LGrid} : (Encode.encGrid op m).extractLsb' 86 10 = op := lw_op ..
theorem encMx_op {op : BitVec 10} {side : Bool} {m : LMx} :
    (Encode.encMx op side m).extractLsb' 86 10 = op := lw_op ..
theorem encMx_side {op : BitVec 10} {side : Bool} {m : LMx} :
    ((Encode.encMx op side m).extractLsb' 15 1 == 0) = !side := by
  rw [Encode.encMx, lw_mod _ _ _ _ _ _ _ (by decide)]
  simp (disch := decide) only [extractLsb'_append_eq_of_le, extractLsb'_append_eq_of_add_le, Nat.reduceSub]
  cases side <;> rfl
theorem encRen_op {op : BitVec 10} {r : LRen} {m : BitVec 29} :
    (Encode.encRen op r m).extractLsb' 86 10 = op := lw_op ..
theorem encRen_mod {op : BitVec 10} {r : LRen} {m : BitVec 29} {i j : Nat} (h : i + j ≤ 29) :
    (Encode.encRen op r m).extractLsb' i j = m.extractLsb' i j := lw_mod _ _ _ _ _ _ _ h

/-! ### The bits of x that select a member -/

theorem encOp_xf {op : BitVec 10} {o : LOp} {i j : Nat} (h : i + j ≤ 13) :
    ((Encode.encOp op o).extractLsb' i j).toNat = Forms.xf o i j := by
  rw [Encode.encOp, lw_mod _ _ _ _ _ _ _ (by omega), extractLsb'_append_eq_of_add_le h, extractLsb'_toNat, Forms.xf]

theorem encOp_bit {op : BitVec 10} {o : LOp} {i : Nat} (h : i + 1 ≤ 13) :
    ((Encode.encOp op o).extractLsb' i 1 == 0) = decide (Forms.xf o i 1 = 0) := by
  rw [← encOp_xf h (op := op), Bool.eq_iff_iff, beq_iff_eq, decide_eq_true_iff, BitVec.toNat_eq]
  rfl

/-- The bits of x that no name of a form covers are zero (R64). -/
theorem xf_of_acc {o : LOp} {tys : List LType} {rnd sat pd ftz : Bool} {xm : BitVec 13} {i j : Nat}
    (h : Forms.acc o tys rnd sat pd ftz xm = true)
    (hm : xm.extractLsb' i j = 0) (hj : i + j ≤ 13) : Forms.xf o i j = 0 := by
  simp only [Forms.acc, Bool.and_eq_true, beq_iff_eq] at h
  obtain ⟨-, hx⟩ := h
  have hbits : o.x.extractLsb' i j = 0 := BitVec.eq_of_getLsbD_eq fun l hl => by
    have hxl := congrArg (BitVec.getLsbD · (i + l)) hx
    have hml := congrArg (BitVec.getLsbD · l) hm
    simp only [BitVec.getLsbD_and, BitVec.getLsbD_not, BitVec.getLsbD_extractLsb', hl, decide_true, Bool.true_and,
      show i + l < 13 by omega] at hxl hml ⊢
    rw [hml] at hxl
    simpa using hxl
  rw [Forms.xf, ← extractLsb'_toNat, hbits]
  rfl

theorem parseFence_lw {h : LHdr} {k : FenceKind} {sc : Scope} {op : BitVec 10} :
    parseFence (Encode.lw op (Encode.hdr h) 0 0 0 0 (0#24 ++ Encode.scope sc ++ Encode.kind k)) = .ok (.vfence h k sc) := by
  have hk : kindOf (Encode.kind k) = some k := kindOf_eq_some_iff.mpr rfl
  have hs : scopeOf (Encode.scope sc) = some sc := scopeOf_eq_some_iff.mpr rfl
  refine chk_eq_ok_iff.mpr ⟨?_, rfl⟩
  rw [header_lw, lw_header_only]
  simp (disch := decide) only [extractLsb'_append_eq_of_le, extractLsb'_append_eq_of_add_le,
    extractLsb'_eq_self, Nat.reduceSub, Option.bind_eq_bind, Option.bind_some, hk, hs]
  rfl

theorem lane_ok_of_encode {i : Instr} {w : LaneWord} (hwf : i.WellFormed) (hw : Encode.lane i = some w) :
    lane w = .ok i := by
  cases i with
  | vnop o | vmov o | vadd o | vsub o | vaddc o | vsubb o | vmul o | vmulh o | vmad o | vmadw o | vdiv o
  | vrem o | vmin o | vmax o | vabs o | vneg o | vand o | vor o | vxor o | vandn o | vnot o | vlop3 o | vshl o
  | vshr o | vsar o | vrot o | vfshl o | vclz o | vpopc o | vbrev o | vbfx o | vbfi o | vpermb o | vsad o
  | vdot4 o | vcmp o | vfcmp o | vsel o | vclass o | plog o | p2v o | v2p o | vshfl o | vlogstep o | vreduce o
  | vscan o | vballot o | vtopk o | vfadd o | vfsub o | vfmul o | vfma o | vfmin o | vfmax o | vfdiv o
  | vfsqrt o | vfrcp o | vfrsq o | vfexp2 o | vflog2 o | vfsin o | vfcos o | vftanh o | vffrc o | vfrnd o
  | vfscale o | vfdot2 o | vcvt o | vpack o | vunpack o | vq4dec o | ladd o | lsub o | lmul o | ldiv o | lcmp o
  | lcvt o | lrcp o | lneg o | vsow o | vunit o =>
    obtain rfl := Option.some.inj hw
    rw [lane, encOp_op]
    exact parseOp_encOp hwf
  | vmovi m | vaddi m | vmuli m | vandi m | vori m | vxori m | vshfi m | vcmpi m =>
    obtain rfl := Option.some.inj hw
    rw [lane, encImm_op]
    exact parseImm_encImm hwf
  | vld m | vst m | gradAdd m =>
    obtain rfl := Option.some.inj hw
    rw [lane, encMem_op]
    exact parseMem_encMem hwf
  | vatom m =>
    obtain rfl := Option.some.inj hw
    rw [lane, encAtom_op]
    exact parseAtom_encAtom hwf
  | gld m | gst m =>
    obtain rfl := Option.some.inj hw
    rw [lane, encGrid_op]
    exact parseGrid_encGrid hwf
  | mxLdb m | mxMma m | mxMma16 m | mxZero m =>
    obtain rfl := Option.some.inj hw
    rw [lane, encMx_op]
    exact parseMx_encMx hwf
  | hitAdj r | tex r | texAdj r | discard r | rejoin r =>
    obtain rfl := Option.some.inj hw
    rw [lane, encRen_op]
    exact parseRen_encRen (by rw [encRen_mod (by decide)]; rfl) hwf
  | trace r any cullb | vbRd r fresh k | bary r lin | baryAdj r lin | edgeSamp r k n1 | park r code
  | vdepth r pd | tapePush r n1 | tapePop r n1 =>
    obtain rfl := Option.some.inj hw
    rw [lane, encRen_op]
    show parseRen _ _ (fun r => _) = _
    simp (disch := decide) only [encRen_mod, SReg, PReg, extractLsb'_append_eq_of_le, extractLsb'_append_eq_of_add_le,
      extractLsb'_eq_self, Nat.reduceSub, ofBool_beq_one]
    exact parseRen_encRen rfl hwf
  | mxPairW m | mxPairE m =>
    obtain rfl := Option.some.inj hw
    rw [lane, encMx_op]
    show (if _ then parseMx _ _ _ else parseMx _ _ _) = _
    rw [encMx_side]
    exact parseMx_encMx hwf
  | psetRange o =>
    obtain rfl := Option.some.inj hw
    obtain ⟨-, hacc⟩ := Bool.and_eq_true_iff.mp hwf
    rw [lane, encOp_op]
    show parsePset _ = _
    rw [parsePset, encOp_bit (by decide), xf_of_acc hacc rfl (by decide)]
    exact parseOp_encOp hwf
  | psetMask o =>
    obtain rfl := Option.some.inj hw
    obtain ⟨-, hx⟩ := Bool.and_eq_true_iff.mp hwf
    rw [lane, encOp_op]
    show parsePset _ = _
    rw [parsePset, encOp_bit (by decide), eq_of_beq hx]
    exact parseOp_encOp hwf
  | vq4encCode o =>
    obtain rfl := Option.some.inj hw
    obtain ⟨-, hacc⟩ := Bool.and_eq_true_iff.mp hwf
    rw [lane, encOp_op]
    show parseQ4 _ = _
    rw [parseQ4, encOp_xf (by decide), xf_of_acc hacc rfl (by decide)]
    exact parseOp_encOp hwf
  | vq4encScale o | vq4encSuper o =>
    obtain rfl := Option.some.inj hw
    obtain ⟨-, hx⟩ := Bool.and_eq_true_iff.mp hwf
    rw [lane, encOp_op]
    show parseQ4 _ = _
    rw [parseQ4, encOp_xf (by decide), eq_of_beq hx]
    exact parseOp_encOp hwf
  | vstatGet o =>
    obtain rfl := Option.some.inj hw
    obtain ⟨-, hacc⟩ := Bool.and_eq_true_iff.mp hwf
    rw [lane, encOp_op]
    show parseStat _ = _
    rw [parseStat, encOp_xf (by decide), xf_of_acc hacc rfl (by decide)]
    exact parseOp_encOp hwf
  | vstatSet o | vstatClr o =>
    obtain rfl := Option.some.inj hw
    obtain ⟨-, hx⟩ := Bool.and_eq_true_iff.mp hwf
    rw [lane, encOp_op]
    show parseStat _ = _
    rw [parseStat, encOp_xf (by decide), eq_of_beq hx]
    exact parseOp_encOp hwf
  | emsetAnd o | emsetAndn o | emsetOr o =>
    obtain rfl := Option.some.inj hw
    obtain ⟨-, hx⟩ := Bool.and_eq_true_iff.mp hwf
    rw [lane, encOp_op]
    show parseEmset _ = _
    rw [parseEmset, encOp_xf (by decide), eq_of_beq hx]
    exact parseOp_encOp hwf
  | emsetSet o =>
    obtain rfl := Option.some.inj hw
    obtain ⟨hacc, hx⟩ := Bool.and_eq_true_iff.mp hwf
    obtain ⟨hacc, -⟩ := Bool.and_eq_true_iff.mp hacc
    obtain ⟨-, hacc⟩ := Bool.and_eq_true_iff.mp hacc
    rw [lane, encOp_op]
    show parseEmset _ = _
    rw [parseEmset, encOp_xf (by decide), eq_of_beq hx, encOp_bit (by decide), xf_of_acc hacc rfl (by decide)]
    exact parseOp_encOp hwf
  | emsetSetHi o =>
    obtain rfl := Option.some.inj hw
    obtain ⟨-, hx⟩ := Bool.and_eq_true_iff.mp hwf
    have hx : Forms.xf o 8 3 = 7 := eq_of_beq hx
    have hlo : Forms.xf o 8 2 = 3 := by simp only [Forms.xf, Nat.shiftRight_eq_div_pow] at hx ⊢; omega
    have hhi : Forms.xf o 10 1 = 1 := by simp only [Forms.xf, Nat.shiftRight_eq_div_pow] at hx ⊢; omega
    rw [lane, encOp_op]
    show parseEmset _ = _
    rw [parseEmset, encOp_xf (by decide), hlo, encOp_bit (by decide), hhi]
    exact parseOp_encOp hwf
  | vfence h k sc =>
    obtain rfl := Option.some.inj hw
    rw [lane, lw_op]
    exact parseFence_lw
  | loopImm cnt n =>
    obtain rfl := Option.some.inj hw
    rw [lane, lw_op]
    show parseLoop _ = _
    rw [parseLoop, lw_mod_only]
    simp (disch := decide) only [extractLsb'_append_eq_of_le, extractLsb'_append_eq_of_add_le, extractLsb'_eq_self,
      Nat.reduceSub]
    rfl
  | loopReg va n =>
    obtain rfl := Option.some.inj hw
    rw [lane, lw_op]
    show parseLoop _ = _
    rw [parseLoop, lw_va_only]
    simp (disch := decide) only [extractLsb'_append_eq_of_le, extractLsb'_append_eq_of_add_le, extractLsb'_eq_self,
      Nat.reduceSub,
      Option.bind_eq_bind]
    simp only [Nat.reduceAdd, Nat.reduceSub, extractLsb'_eq_self, opdOf_opd, Option.bind_some]
    exact chk_eq_ok_iff.mpr ⟨rfl, hwf⟩
  | loopw pa cap n =>
    obtain rfl := Option.some.inj hw
    rw [lane, lw_op]
    show need _ _ = _
    rw [lw_mod_only]
    simp (disch := decide) only [extractLsb'_append_eq_of_le, extractLsb'_append_eq_of_add_le, extractLsb'_eq_self,
      Nat.reduceSub, PReg]
    rfl
  | endl | vret =>
    obtain rfl := Option.some.inj hw
    rfl
  | _ => cases hw

end Decode

/-- Settles O54: a word is its opcode and the fields of its form, and no two opcodes or members share a word. -/
theorem laneEncodingsRoundTrip : Obligations.LaneEncodingsRoundTrip :=
  ⟨fun _ _ hwf hw => Decode.lane_ok_of_encode hwf hw, fun _ _ h => Decode.encode_lane_of_ok h⟩

end Sys2Proof
end

section
/-!
# Scalar words and scalar instructions determine one another (R58 to R62)

Each major's decoding function is turned round once (`encode_of_decArith` and its like); `encode_scalar_of_ok` goes through the majors,
`scalar_ok_of_encode` through the constructors, major by major.
-/
namespace Sys2Proof
namespace Decode

open BitVec (extractLsb'_toNat extractLsb'_eq_self extractLsb'_append_eq_right extractLsb'_append_eq_of_le
  extractLsb'_append_eq_of_add_le extractLsb'_append_extractLsb'_eq_extractLsb')

/-! ### The fields of a scalar word (R58) -/

theorem s3_fields (w : Word) :
    Encode.s3 (w.extractLsb' 26 6) (w.extractLsb' 20 6) (w.extractLsb' 14 6) (w.extractLsb' 8 6) (w.extractLsb' 0 8) = w := by
  simp (disch := decide) only [Encode.s3, extractLsb'_append_extractLsb'_eq_extractLsb', extractLsb'_eq_self]
theorem si_fields (w : Word) :
    Encode.si (w.extractLsb' 26 6) (w.extractLsb' 20 6) (w.extractLsb' 14 6) (w.extractLsb' 0 14) = w := by
  simp (disch := decide) only [Encode.si, extractLsb'_append_extractLsb'_eq_extractLsb', extractLsb'_eq_self]
theorem sj_fields (w : Word) :
    Encode.sj (w.extractLsb' 26 6) (w.extractLsb' 20 6) (w.extractLsb' 0 20) = w := by
  simp (disch := decide) only [Encode.sj, extractLsb'_append_extractLsb'_eq_extractLsb', extractLsb'_eq_self]

section
variable (m d a b : BitVec 6) (fn : BitVec 8) (imm : BitVec 14) (off : BitVec 20)
@[simp] theorem s3_major : (Encode.s3 m d a b fn).extractLsb' 26 6 = m := by
  simp (disch := decide) only [Encode.s3, extractLsb'_append_eq_of_le, Nat.reduceSub, extractLsb'_eq_self]
@[simp] theorem s3_d : (Encode.s3 m d a b fn).extractLsb' 20 6 = d := by
  simp (disch := decide) only [Encode.s3, extractLsb'_append_eq_of_le, Nat.reduceSub, extractLsb'_append_eq_right]
@[simp] theorem s3_a : (Encode.s3 m d a b fn).extractLsb' 14 6 = a := by
  simp (disch := decide) only [Encode.s3, extractLsb'_append_eq_of_le, Nat.reduceSub, extractLsb'_append_eq_right]
@[simp] theorem s3_b : (Encode.s3 m d a b fn).extractLsb' 8 6 = b := by
  simp (disch := decide) only [Encode.s3, extractLsb'_append_eq_of_le, Nat.reduceSub, extractLsb'_append_eq_right]
@[simp] theorem s3_fn : (Encode.s3 m d a b fn).extractLsb' 0 8 = fn := extractLsb'_append_eq_right
@[simp] theorem si_major : (Encode.si m d a imm).extractLsb' 26 6 = m := by
  simp (disch := decide) only [Encode.si, extractLsb'_append_eq_of_le, Nat.reduceSub, extractLsb'_eq_self]
@[simp] theorem si_d : (Encode.si m d a imm).extractLsb' 20 6 = d := by
  simp (disch := decide) only [Encode.si, extractLsb'_append_eq_of_le, Nat.reduceSub, extractLsb'_append_eq_right]
@[simp] theorem si_a : (Encode.si m d a imm).extractLsb' 14 6 = a := by
  simp (disch := decide) only [Encode.si, extractLsb'_append_eq_of_le, Nat.reduceSub, extractLsb'_append_eq_right]
@[simp] theorem si_imm : (Encode.si m d a imm).extractLsb' 0 14 = imm := extractLsb'_append_eq_right
@[simp] theorem sj_major : (Encode.sj m d off).extractLsb' 26 6 = m := by
  simp (disch := decide) only [Encode.sj, extractLsb'_append_eq_of_le, Nat.reduceSub, extractLsb'_eq_self]
@[simp] theorem sj_d : (Encode.sj m d off).extractLsb' 20 6 = d := by
  simp (disch := decide) only [Encode.sj, extractLsb'_append_eq_of_le, Nat.reduceSub, extractLsb'_append_eq_right]
@[simp] theorem sj_off : (Encode.sj m d off).extractLsb' 0 20 = off := extractLsb'_append_eq_right
end

/-! ### A word that decodes is the instruction's -/

theorem encode_scalar_of_need {z : Bool} {i j : Instr} {w : Word} (h : need z i = .ok j)
    (hi : z = true → Encode.scalar i = some w) :
    j.WellFormed ∧ Encode.scalar j = some w := by
  obtain ⟨hz, hwf, rfl⟩ := need_eq_ok_iff.mp h
  exact ⟨hwf, hi hz⟩

theorem needScope_eq_ok_iff {z : Bool} {sc : Option Scope} {k : Scope → Instr} {j : Instr} :
    needScope z sc k = .ok j ↔ ∃ s, sc = some s ∧ need z (k s) = .ok j := by
  cases sc with
  | none => simp [needScope]
  | some s => simp [needScope]

theorem low_three {b : BitVec 6} {c : BitVec 3} (h : b.extractLsb' 3 3 = c) : c ++ b.extractLsb' 0 3 = b := by
  rw [← h]
  simp (disch := decide) only [extractLsb'_append_extractLsb'_eq_extractLsb', extractLsb'_eq_self]
theorem low_four {b : BitVec 6} {c : BitVec 2} (h : b.extractLsb' 4 2 = c) : c ++ b.extractLsb' 0 4 = b := by
  rw [← h]
  simp (disch := decide) only [extractLsb'_append_extractLsb'_eq_extractLsb', extractLsb'_eq_self]
theorem low_five {b : BitVec 6} {c : BitVec 1} (h : b.extractLsb' 5 1 = c) : c ++ b.extractLsb' 0 5 = b := by
  rw [← h]
  simp (disch := decide) only [extractLsb'_append_extractLsb'_eq_extractLsb', extractLsb'_eq_self]

theorem size_sizeOf (b : BitVec 2) : Encode.size (sizeOf b) = b := (sizeOf_eq_iff.mp rfl).symm

/-- The parts of the fn field of majors 0x0C and 0x0D (R61). -/
theorem afn_of_fields {fn : BitVec 8} {sel : BitVec 3} {sc : Scope} (hsel : fn.extractLsb' 5 3 = sel)
    (hsc : scopeOf (fn.extractLsb' 2 3) = some sc) :
    Encode.afn sel sc (fn.extractLsb' 0 2) = fn := by
  rw [Encode.afn, ← scopeOf_eq_some_iff.mp hsc, ← hsel]
  simp (disch := decide) only [extractLsb'_append_extractLsb'_eq_extractLsb', extractLsb'_eq_self]

/-- The selector and the reserved bits of majors 0x17 and 0x18 above the low bits (R61, R178). -/
theorem low_twelve {x : BitVec 14} {c : BitVec 2} (h : x.extractLsb' 12 2 = c) :
    c ++ x.extractLsb' 0 12 = x := by
  rw [← h]
  simp (disch := decide) only [extractLsb'_append_extractLsb'_eq_extractLsb', extractLsb'_eq_self]
theorem strm_of_fields {x : BitVec 14} {sel : BitVec 3} {c : BitVec 10} (hsel : x.extractLsb' 11 3 = sel)
    (hz : x.extractLsb' 4 7 = 0#7)
    (hc : c = sel ++ 0#7) : c ++ x.extractLsb' 0 4 = x := by
  rw [hc, ← hz, ← hsel]
  simp (disch := decide) only [extractLsb'_append_extractLsb'_eq_extractLsb', extractLsb'_eq_self]
theorem strmBind_of_fields {x : BitVec 14} {sel : BitVec 3} {c : BitVec 6} (hsel : x.extractLsb' 11 3 = sel)
    (hz : x.extractLsb' 8 3 = 0#3)
    (hc : c = sel ++ 0#3) : c ++ x.extractLsb' 4 4 ++ x.extractLsb' 0 4 = x := by
  rw [hc, ← hz, ← hsel]
  simp (disch := decide) only [extractLsb'_append_extractLsb'_eq_extractLsb', extractLsb'_eq_self]
theorem sys_of_fields {x : BitVec 14} {p q : BitVec 1} {c : BitVec 2} (hp : x.extractLsb' 13 1 = p)
    (hq : x.extractLsb' 12 1 = q)
    (hc : c = p ++ q) : c ++ x.extractLsb' 0 12 = x := by
  rw [hc, ← hp, ← hq]
  simp (disch := decide) only [extractLsb'_append_extractLsb'_eq_extractLsb', extractLsb'_eq_self]

theorem shift_of_fields {x : BitVec 14} {p : BitVec 2} {c : BitVec 8} (hp : x.extractLsb' 12 2 = p)
    (hz : x.extractLsb' 6 6 = 0#6)
    (hc : c = p ++ 0#6) : c ++ x.extractLsb' 0 6 = x := by
  rw [hc, ← hp, ← hz]
  simp (disch := decide) only [extractLsb'_append_extractLsb'_eq_extractLsb', extractLsb'_eq_self]
theorem tens_of_fields {x : BitVec 14} {p : BitVec 2} (hp : x.extractLsb' 12 2 = p) :
    p ++ x.extractLsb' 6 6 ++ x.extractLsb' 0 6 = x := by
  rw [← hp]
  simp (disch := decide) only [extractLsb'_append_extractLsb'_eq_extractLsb', extractLsb'_eq_self]
theorem sld_of_fields {x : BitVec 14} (hz : x.extractLsb' 10 1 = 0#1) :
    Encode.size (sizeOf (x.extractLsb' 12 2)) ++
    BitVec.ofBool (x.extractLsb' 11 1 == 1) ++ 0#1 ++ x.extractLsb' 0 10 = x := by
  rw [size_sizeOf, ofBool_of_beq_one, ← hz]
  simp (disch := decide) only [extractLsb'_append_extractLsb'_eq_extractLsb', extractLsb'_eq_self]
theorem sst_of_fields {x : BitVec 14} (hz : x.extractLsb' 10 2 = 0#2) :
    Encode.size (sizeOf (x.extractLsb' 12 2)) ++ 0#2 ++ x.extractLsb' 0 10 = x := by
  rw [size_sizeOf, ← hz]
  simp (disch := decide) only [extractLsb'_append_extractLsb'_eq_extractLsb', extractLsb'_eq_self]
theorem fn_low_three {x : BitVec 8} (hz : x.extractLsb' 3 5 = 0#5) : 0#5 ++ x.extractLsb' 0 3 = x := by
  rw [← hz]
  simp (disch := decide) only [extractLsb'_append_extractLsb'_eq_extractLsb', extractLsb'_eq_self]
theorem sbr_of_fields {w : Word} {p : BitVec 6} (hp : w.extractLsb' 26 6 = p) :
    p ++ BitVec.ofBool (w.extractLsb' 25 1 == 1) ++ w.extractLsb' 22 3 ++ w.extractLsb' 0 22 = w := by
  rw [ofBool_of_beq_one, ← hp]
  simp (disch := decide) only [extractLsb'_append_extractLsb'_eq_extractLsb', extractLsb'_eq_self]

section
variable {d a b : SReg} {fn : BitVec 8} {imm : BitVec 14} {i : Instr}

theorem encode_of_decArith (h : decArith d a b fn.toNat = .ok i) :
    i.WellFormed ∧ Encode.scalar i = some (Encode.s3 1 d a b fn) := by
  unfold decArith at h
  split at h
  case h_25 => cases h
  all_goals
    obtain rfl := eq_ofNat_of_toNat_eq ‹fn.toNat = _›
    exact encode_scalar_of_need h fun hz => congrArg some (by simp_all)

theorem encode_of_decSync (h : decSync d a b fn.toNat = .ok i) :
    i.WellFormed ∧ Encode.scalar i = some (Encode.s3 0x1B d a b fn) := by
  unfold decSync at h
  split at h
  case h_6 => cases h
  all_goals
    obtain rfl := eq_ofNat_of_toNat_eq ‹fn.toNat = _›
    exact encode_scalar_of_need h fun hz => congrArg some (by simp_all [low_four])

theorem encode_of_decChan (h : decChan d a b fn.toNat = .ok i) :
    i.WellFormed ∧ Encode.scalar i = some (Encode.s3 0x1C d a b fn) := by
  unfold decChan at h
  split at h
  case h_5 => cases h
  all_goals
    obtain rfl := eq_ofNat_of_toNat_eq ‹fn.toNat = _›
    exact encode_scalar_of_need h fun hz => congrArg some (by simp_all [Encode.creg, low_three, low_five])

theorem encode_of_decLaunch (h : decLaunch d a b fn.toNat = .ok i) :
    i.WellFormed ∧ Encode.scalar i = some (Encode.s3 0x1D d a b fn) := by
  unfold decLaunch at h
  split at h
  case h_6 => cases h
  all_goals
    obtain rfl := eq_ofNat_of_toNat_eq ‹fn.toNat = _›
    exact encode_scalar_of_need h fun hz => congrArg some (by simp_all [Encode.creg, low_three])

theorem encode_of_decCall (h : decCall d a b fn.toNat = .ok i) :
    i.WellFormed ∧ Encode.scalar i = some (Encode.s3 0x1E d a b fn) := by
  unfold decCall at h
  split at h
  case h_8 => cases h
  all_goals
    obtain rfl := eq_ofNat_of_toNat_eq ‹fn.toNat = _›
    exact encode_scalar_of_need h fun hz => congrArg some (by simp_all)

theorem encode_of_decGrid (h : decGrid d a b fn.toNat = .ok i) :
    i.WellFormed ∧ Encode.scalar i = some (Encode.s3 0x20 d a b fn) := by
  unfold decGrid at h
  split at h
  case h_4 => cases h
  all_goals
    obtain rfl := eq_ofNat_of_toNat_eq ‹fn.toNat = _›
    exact encode_scalar_of_need h fun hz => congrArg some (by simp_all [low_four])

theorem encode_of_decTape (h : decTape d a b fn.toNat = .ok i) :
    i.WellFormed ∧ Encode.scalar i = some (Encode.s3 0x21 d a b fn) := by
  unfold decTape at h
  split at h
  case h_5 => cases h
  all_goals
    obtain rfl := eq_ofNat_of_toNat_eq ‹fn.toNat = _›
    exact encode_scalar_of_need h fun hz => congrArg some (by simp_all)

theorem encode_of_decColl (h : decColl d a b fn.toNat = .ok i) :
    i.WellFormed ∧ Encode.scalar i = some (Encode.s3 0x23 d a b fn) := by
  unfold decColl at h
  split at h
  case h_5 => cases h
  all_goals
    obtain rfl := eq_ofNat_of_toNat_eq ‹fn.toNat = _›
    exact encode_scalar_of_need h fun hz => congrArg some (by simp_all)

theorem encode_of_decReplay (h : decReplay d a b fn.toNat = .ok i) :
    i.WellFormed ∧ Encode.scalar i = some (Encode.s3 0x24 d a b fn) := by
  unfold decReplay at h
  split at h
  case h_5 => cases h
  all_goals
    obtain rfl := eq_ofNat_of_toNat_eq ‹fn.toNat = _›
    exact encode_scalar_of_need h fun hz => congrArg some (by simp_all)

theorem encode_of_decCmp (h : decCmp (d.extractLsb' 0 3) (d.extractLsb' 3 3 == 0) a b fn.toNat = .ok i) :
    i.WellFormed ∧ Encode.scalar i = some (Encode.s3 7 d a b fn) := by
  unfold decCmp at h
  split at h
  case h_7 => cases h
  all_goals
    obtain rfl := eq_ofNat_of_toNat_eq ‹fn.toNat = _›
    refine encode_scalar_of_need h fun hz => congrArg some ?_
    rw [Encode.creg, low_three (c := 0#3) (eq_of_beq hz)]
    rfl

theorem encode_of_decCmpi (h : decCmpi (d.extractLsb' 0 3) a imm (d.extractLsb' 3 3).toNat = .ok i) :
    i.WellFormed ∧ Encode.scalar i = some (Encode.si 8 d a imm) := by
  unfold decCmpi at h
  split at h
  case h_7 => cases h
  all_goals
    have hd := low_three (eq_ofNat_of_toNat_eq ‹(d.extractLsb' 3 3).toNat = _›)
    exact encode_scalar_of_need h fun _ => congrArg (fun x => some (Encode.si 8 x a imm)) hd

theorem encode_of_decAcq (h : decAcq d a b fn = .ok i) :
    i.WellFormed ∧ Encode.scalar i = some (Encode.s3 0x0C d a b fn) := by
  unfold decAcq at h
  dsimp only at h
  split at h
  case h_8 => cases h
  all_goals
    have hsel := eq_ofNat_of_toNat_eq ‹(fn.extractLsb' 5 3).toNat = _›
    obtain ⟨s, hs, h⟩ := needScope_eq_ok_iff.mp h
    have hfn := afn_of_fields hsel hs
    refine encode_scalar_of_need h fun hz => congrArg some ?_
    rw [size_sizeOf]
  · exact eq_of_beq hz ▸ congrArg (Encode.s3 0x0C d a 0) hfn
  · exact eq_of_beq hz ▸ congrArg (Encode.s3 0x0C 0 a b) hfn
  all_goals exact congrArg (Encode.s3 0x0C d a b) hfn

theorem encode_of_decFence (h : decFence (d == 0 && a == 0 && b == 0) fn = .ok i) :
    i.WellFormed ∧ Encode.scalar i = some (Encode.s3 0x0D d a b fn) := by
  unfold decFence at h
  dsimp only at h
  split at h
  case h_4 => cases h
  all_goals
    have hsel := eq_ofNat_of_toNat_eq ‹(fn.extractLsb' 5 3).toNat = _›
    obtain ⟨s, hs, h⟩ := needScope_eq_ok_iff.mp h
    have hfn := afn_of_fields hsel hs
    refine encode_scalar_of_need h fun hz => congrArg some ?_
    simp only [Bool.and_eq_true, beq_iff_eq] at hz
    obtain ⟨⟨⟨rfl, rfl⟩, rfl⟩, hz⟩ := hz
    exact congrArg (Encode.s3 0x0D 0 0 0) (hz ▸ hfn)

theorem encode_of_decSys (h : decSys d a imm = .ok i) :
    i.WellFormed ∧ Encode.scalar i = some (Encode.si 0x17 d a imm) := by
  unfold decSys at h
  dsimp only at h
  split at h
  case isTrue h13 =>
    split at h
    all_goals
      refine encode_scalar_of_need h fun hz => congrArg some ?_
      simp only [Bool.and_eq_true, beq_iff_eq] at hz
    · obtain ⟨⟨h12, rfl⟩, hd⟩ := hz
      rw [Encode.creg, low_three (c := 0#3) hd]
      exact congrArg (Encode.si 0x17 d 0) (sys_of_fields (eq_of_beq h13) h12 rfl)
    · obtain ⟨h12, rfl⟩ := hz
      exact congrArg (Encode.si 0x17 d 0) (sys_of_fields (eq_of_beq h13) h12 rfl)
  case isFalse h13 =>
    refine encode_scalar_of_need h fun hz => congrArg some ?_
    simp only [Bool.and_eq_true, beq_iff_eq] at hz
    obtain ⟨h12, rfl⟩ := hz
    exact congrArg (Encode.si 0x17 0 a) (sys_of_fields (eq_one_of_ne_zero h13) h12 rfl)

theorem encode_of_decStrm (h : decStrm d a imm = .ok i) :
    i.WellFormed ∧ Encode.scalar i = some (Encode.si 0x18 d a imm) := by
  unfold decStrm at h
  dsimp only at h
  split at h
  case h_6 => cases h
  all_goals
    have hsel := eq_ofNat_of_toNat_eq ‹(imm.extractLsb' 11 3).toNat = _›
    refine encode_scalar_of_need h fun hz => congrArg some ?_
    simp only [Bool.and_eq_true, beq_iff_eq] at hz
  · obtain ⟨rfl, hz⟩ := hz
    exact congrArg (Encode.si 0x18 0 a) (strm_of_fields hsel hz rfl)
  · obtain ⟨⟨rfl, rfl⟩, hz⟩ := hz
    exact congrArg (Encode.si 0x18 0 0) (strmBind_of_fields hsel hz rfl)
  · obtain ⟨rfl, hz⟩ := hz
    exact congrArg (Encode.si 0x18 d 0) (strm_of_fields hsel hz rfl)
  · obtain ⟨rfl, hz⟩ := hz
    exact congrArg (Encode.si 0x18 0 a) (strm_of_fields hsel hz rfl)
  · obtain ⟨⟨rfl, rfl⟩, hz⟩ := hz
    exact congrArg (Encode.si 0x18 0 0) (strm_of_fields hsel hz rfl)

theorem encode_of_decPriv {m : Nat} (h : decPriv m d a b fn.toNat = .ok i) :
    i.WellFormed ∧ Encode.scalar i = some (Encode.s3 (BitVec.ofNat 6 m) d a b fn) := by
  unfold decPriv at h
  dsimp only at h
  split at h
  case h_10 => cases h
  all_goals
    obtain rfl := eq_ofNat_of_toNat_eq ‹fn.toNat = _›
    exact encode_scalar_of_need h fun hz => congrArg some (by simp_all)
end

section
variable {w : Word} {i : Instr} {n : Nat}

theorem encode_of_s3 (hm : (w.extractLsb' 26 6).toNat = n)
    (h : i.WellFormed ∧ Encode.scalar i =
      some (Encode.s3 (BitVec.ofNat 6 n) (w.extractLsb' 20 6) (w.extractLsb' 14 6) (w.extractLsb' 8 6) (w.extractLsb' 0 8))) :
    i.WellFormed ∧ Encode.scalar i = some w := by
  rwa [← eq_ofNat_of_toNat_eq hm, s3_fields] at h

theorem encode_of_si (hm : (w.extractLsb' 26 6).toNat = n)
    (h : i.WellFormed ∧ Encode.scalar i =
      some (Encode.si (BitVec.ofNat 6 n) (w.extractLsb' 20 6) (w.extractLsb' 14 6) (w.extractLsb' 0 14))) :
    i.WellFormed ∧ Encode.scalar i = some w := by
  rwa [← eq_ofNat_of_toNat_eq hm, si_fields] at h

theorem encode_of_sj (hm : (w.extractLsb' 26 6).toNat = n)
    (h : i.WellFormed ∧ Encode.scalar i =
      some (Encode.sj (BitVec.ofNat 6 n) (w.extractLsb' 20 6) (w.extractLsb' 0 20))) :
    i.WellFormed ∧ Encode.scalar i = some w := by
  rwa [← eq_ofNat_of_toNat_eq hm, sj_fields] at h

/-- SYNC.L and REGION have no fields (R58). -/
theorem encode_of_bareScalar {j : Instr} (hm : (w.extractLsb' 26 6).toNat = n)
    (hi : Encode.scalar i = some (Encode.sj (BitVec.ofNat 6 n) 0 0))
    (h : need (w.extractLsb' 0 26 == 0) i = .ok j) : j.WellFormed ∧ Encode.scalar j = some w := by
  refine encode_of_sj hm (encode_scalar_of_need h fun hz => hi.trans ?_)
  have hd : w.extractLsb' 20 6 = (w.extractLsb' 0 26).extractLsb' 20 6 := by rw [extractLsb'_extractLsb' (by decide)]
  have hoff : w.extractLsb' 0 20 = (w.extractLsb' 0 26).extractLsb' 0 20 := by rw [extractLsb'_extractLsb' (by decide)]
  rw [hd, hoff, eq_of_beq hz]
  rfl

theorem encode_scalar_of_ok (h : scalar w = .ok i) : i.WellFormed ∧ Encode.scalar i = some w := by
  unfold scalar at h
  dsimp only at h
  split at h
  · exact encode_of_s3 ‹_› (encode_of_decArith h)
  · exact encode_of_si ‹_› (encode_scalar_of_need h fun _ => rfl)
  · split at h
    case h_4 => cases h
    all_goals
      have hx := low_twelve (eq_ofNat_of_toNat_eq ‹(BitVec.extractLsb' 12 2 _).toNat = _›)
      exact encode_of_si ‹_› (encode_scalar_of_need h fun _ => congrArg (fun x => some (Encode.si 3 _ _ x)) hx)
  · split at h
    case h_4 => cases h
    all_goals
      have hx := eq_ofNat_of_toNat_eq ‹(BitVec.extractLsb' 12 2 _).toNat = _›
      exact encode_of_si ‹_› (encode_scalar_of_need h fun hz =>
        congrArg (fun x => some (Encode.si 4 _ _ x)) (shift_of_fields hx (eq_of_beq hz) rfl))
  · exact encode_of_sj ‹_› (encode_scalar_of_need h fun _ => rfl)
  · exact encode_of_sj ‹_› (encode_scalar_of_need h fun _ => rfl)
  · exact encode_of_s3 ‹_› (encode_of_decCmp h)
  · exact encode_of_si ‹_› (encode_of_decCmpi h)
  · exact encode_of_s3 ‹_› (encode_scalar_of_need h fun hz =>
      congrArg (fun x => some (Encode.s3 9 _ _ _ x)) (fn_low_three (eq_of_beq hz)))
  · exact encode_of_si ‹_› (encode_scalar_of_need h fun hz =>
      congrArg (fun x => some (Encode.si 0x0A _ _ x)) (sld_of_fields (eq_of_beq hz)))
  · exact encode_of_si ‹_› (encode_scalar_of_need h fun hz =>
      congrArg (fun x => some (Encode.si 0x0B _ _ x)) (sst_of_fields (eq_of_beq hz)))
  · exact encode_of_s3 ‹_› (encode_of_decAcq h)
  · exact encode_of_s3 ‹_› (encode_of_decFence h)
  · have hm := eq_ofNat_of_toNat_eq ‹(w.extractLsb' 26 6).toNat = _›
    exact encode_scalar_of_need h fun _ => congrArg some (sbr_of_fields hm)
  · exact encode_of_sj ‹_› (encode_scalar_of_need h fun _ => rfl)
  · refine encode_of_s3 ‹_› (encode_scalar_of_need h fun hz => ?_)
    obtain ⟨hb, hfn⟩ := Bool.and_eq_true_iff.mp hz
    rw [eq_of_beq hb, eq_of_beq hfn]
    rfl
  · split at h
    case isTrue =>
      refine encode_of_sj ‹_› (encode_scalar_of_need h fun hz => ?_)
      rw [eq_of_beq hz]
      rfl
    case isFalse hd =>
      refine encode_of_si ‹_› (encode_scalar_of_need h fun hz => ?_)
      obtain ⟨hd', hz⟩ := Bool.and_eq_true_iff.mp hz
      rw [← low_five (eq_one_of_ne_zero hd), eq_of_beq hd', eq_of_beq hz]
      rfl
  · exact encode_of_bareScalar ‹_› rfl h
  · exact encode_of_bareScalar ‹_› rfl h
  · exact encode_of_si ‹_› (encode_of_decSys h)
  · exact encode_of_si ‹_› (encode_of_decStrm h)
  · split at h
    case h_4 => cases h
    all_goals
      have hx := eq_ofNat_of_toNat_eq ‹(BitVec.extractLsb' 12 2 _).toNat = _›
      exact encode_of_si ‹_› (encode_scalar_of_need h fun _ =>
        congrArg (fun x => some (Encode.si 0x19 _ _ x)) (tens_of_fields hx))
  · refine encode_of_si ‹_› (encode_scalar_of_need h fun hz =>
      congrArg (fun x => some (Encode.si 0x1A x _ _)) (low_three (eq_of_beq hz)))
  · exact encode_of_s3 ‹_› (encode_of_decSync h)
  · exact encode_of_s3 ‹_› (encode_of_decChan h)
  · exact encode_of_s3 ‹_› (encode_of_decLaunch h)
  · exact encode_of_s3 ‹_› (encode_of_decCall h)
  · split at h
    case isTrue =>
      refine encode_of_s3 ‹_› (encode_scalar_of_need h fun hz => ?_)
      obtain ⟨hb, hfn⟩ := Bool.and_eq_true_iff.mp hz
      rw [eq_of_beq hb, eq_of_beq hfn]
      rfl
    case isFalse => cases h
  · exact encode_of_s3 ‹_› (encode_of_decGrid h)
  · exact encode_of_s3 ‹_› (encode_of_decTape h)
  · split at h
    case isTrue hfn =>
      refine encode_of_s3 ‹_› (encode_scalar_of_need h fun _ => ?_)
      rw [eq_of_beq hfn]
      rfl
    case isFalse => cases h
  · exact encode_of_s3 ‹_› (encode_of_decColl h)
  · exact encode_of_s3 ‹_› (encode_of_decReplay h)
  · exact encode_of_s3 rfl (encode_of_decPriv h)
end

/-! ### The word of an instruction decodes to it -/

theorem ok_of_wf {z : Bool} {i : Instr} (hz : z = true) (h : i.WellFormed) :
    need z i = .ok i := need_eq_ok_iff.mpr ⟨hz, h, rfl⟩

theorem creg_low (k : CReg) : (Encode.creg k).extractLsb' 0 3 = k := extractLsb'_append_eq_right
theorem creg_high (k : CReg) : (Encode.creg k).extractLsb' 3 3 = 0 := BitVec.extractLsb'_append_eq_left
theorem sizeOf_size (x : MSize) : sizeOf (Encode.size x) = x := sizeOf_eq_iff.mpr rfl
theorem afn_sel (sel : BitVec 3) (sc : Scope) (sz : BitVec 2) :
    (Encode.afn sel sc sz).extractLsb' 5 3 = sel := by
  simp (disch := decide) only [Encode.afn, extractLsb'_append_eq_of_le, extractLsb'_eq_self, Nat.reduceSub]
theorem afn_scope (sel : BitVec 3) (sc : Scope) (sz : BitVec 2) :
    scopeOf ((Encode.afn sel sc sz).extractLsb' 2 3) = some sc := by
  rw [scopeOf_eq_some_iff]
  simp (disch := decide) only [Encode.afn, extractLsb'_append_eq_of_le, extractLsb'_append_eq_of_add_le,
    extractLsb'_eq_self, Nat.reduceSub]
theorem afn_size (sel : BitVec 3) (sc : Scope) (sz : BitVec 2) : (Encode.afn sel sc sz).extractLsb' 0 2 = sz :=
  extractLsb'_append_eq_right

section
variable (c : BitVec 2) (num : BitVec 12)
theorem sys_number : (c ++ num).extractLsb' 0 12 = num := extractLsb'_append_eq_right
theorem sys_reserved :
    (c ++ num).extractLsb' 12 1 = c.extractLsb' 0 1 := extractLsb'_append_eq_of_le (by decide)
theorem sys_selector :
    (c ++ num).extractLsb' 13 1 = c.extractLsb' 1 1 := extractLsb'_append_eq_of_le (by decide)
end

theorem scalar_ok_of_encode {i : Instr} {w : Word} (hwf : i.WellFormed) (hw : Encode.scalar i = some w) :
    scalar w = .ok i := by
  cases i with
  -- three registers and a function code, each a field as it stands
  | sadd d a b | ssub d a b | smul d a b | smulh d a b | smulhn d a b | sdiv d a b | sdivn d a b | srem d a b
  | sremn d a b | sand d a b | sor d a b | sxor d a b | sandn d a b | sshl d a b | sshr d a b | ssra d a b
  | smin d a b | smax d a b | sminn d a b | smaxn d a b | sclz d a | spopc d a | sbrev d a | ssow d a b
  | sjr d a | syscall d a b | brk code | icinvTeam | icinvClu | icinvDev | icinvFab | icinvSys | xfer d a
  | tapeOpen a | tapeMark a | tapeStat d | tapeClose | gradSeal d a b | collAr d a | collAg d a | collRs d a
  | collBc d a | replayRec a b | replayPlay a b | replayChk d | replayOff | eret | tlbinvPage a b
  | tlbinvSpace b | tlbinvDom b | tlbinvAll | ctxSave d a b | ctxLoad d a b | domSet d a b | wdt a =>
    obtain rfl := Option.some.inj hw
    rw [scalar, s3_major, s3_d, s3_a, s3_b, s3_fn]
    exact ok_of_wf rfl hwf
  -- three registers and a function code, some of them in parts
  | scmpEq k a b | scmpNe k a b | scmpLt k a b | scmpLe k a b | scmpLtn k a b | scmpLen k a b | ssel d a b k
  | barTeam | cluArrive d b | cluWait a b | arrSet a b | arrWait a | send a ch | recv d ch | sendTry k a ch
  | recvTry d k ch | launchQ a b | launchTry k a b | trigger | exit | yield | gridBind g a | gridPub g a
  | gridStat d g =>
    obtain rfl := Option.some.inj hw
    simp (disch := decide) only [scalar, s3_major, s3_d, s3_a, s3_b, s3_fn, decCmp, decSync, decChan, decLaunch,
      decGrid, creg_low, creg_high, CReg, extractLsb'_append_eq_of_le, extractLsb'_append_eq_of_add_le,
      extractLsb'_eq_self, BitVec.reduceToNat, Nat.reduceSub]
    exact ok_of_wf rfl hwf
  -- a selector, a scope and a size in the function code
  | sldAcq d a sc sz | sstRel a b sc sz | satomAdd d a b sc sz | satomExch d a b sc sz | satomCas d a b sc sz
  | satomMin d a b sc sz | satomMax d a b sc sz | sfenceAcq sc | sfenceRel sc | sfenceAr sc =>
    obtain rfl := Option.some.inj hw
    simp (disch := decide) only [scalar, s3_major, s3_d, s3_a, s3_b, s3_fn, decAcq, decFence, afn_sel, afn_scope,
      afn_size, sizeOf_size, needScope, BitVec.reduceToNat]
    exact ok_of_wf rfl hwf
  -- two registers and an immediate
  | saddi d a imm | runr k =>
    obtain rfl := Option.some.inj hw
    rw [scalar, si_major, si_d, si_a, si_imm]
    exact ok_of_wf rfl hwf
  | sandi d a imm | sori d a imm | sxori d a imm | sshli d a n | sshri d a n | ssrai d a n | scmpiEq k a imm
  | scmpiNe k a imm | scmpiLt k a imm | scmpiLe k a imm | scmpiLtn k a imm | scmpiLen k a imm | sld d a sz n off
  | sst d a sz off | strmDef k a | strmBind j k | strmPos d k | strmSeek k a | strmClose k | cpTensTile t l c p
  | cpTensConv t l c p | cpTensGather t l c p | cpTry k t imm =>
    obtain rfl := Option.some.inj hw
    simp (disch := decide) only [scalar, si_major, si_d, si_a, si_imm, decCmpi, decStrm, creg_low, creg_high, CReg, SReg,
      sizeOf_size, ofBool_beq_one, extractLsb'_append_eq_of_le, extractLsb'_append_eq_of_add_le, extractLsb'_eq_self,
      BitVec.reduceToNat, Nat.reduceSub]
    exact ok_of_wf rfl hwf
  -- a register and an offset
  | slui d imm | slhi d imm | scall d off | run idx =>
    obtain rfl := Option.some.inj hw
    rw [scalar, sj_major, sj_d, sj_off]
    exact ok_of_wf rfl hwf
  | sbr neg k off =>
    obtain rfl := Option.some.inj hw
    have hm : (0x10#6 ++ BitVec.ofBool neg ++ k ++ off).extractLsb' 26 6 = 0x10#6 := by
      simp (disch := decide) only [CReg, extractLsb'_append_eq_of_le, extractLsb'_eq_self, Nat.reduceSub]
    rw [scalar, hm]
    show need true (.sbr _ _ _) = _
    simp (disch := decide) only [CReg, extractLsb'_append_eq_of_le, extractLsb'_append_eq_of_add_le,
      extractLsb'_eq_self, Nat.reduceSub, ofBool_beq_one]
    exact ok_of_wf rfl hwf
  | syncL | region =>
    obtain rfl := Option.some.inj hw
    rfl
  | sget d num =>
    obtain rfl := Option.some.inj hw
    have hview : (!(decide (0x020 ≤ num) && decide (num ≤ 0x024))) = true := hwf
    have hnum : ¬ (0x020 ≤ num ∧ num ≤ 0x024) := by
      rintro ⟨hlo, hhi⟩
      rw [decide_eq_true hlo, decide_eq_true hhi] at hview
      cases hview
    simp (disch := decide) only [scalar, si_major, si_d, si_a, si_imm, decSys, BitVec.reduceToNat,
      sys_number, sys_reserved, sys_selector, hnum, if_false]
    exact ok_of_wf rfl hwf
  | sgetView k num =>
    obtain rfl := Option.some.inj hw
    have hview : (decide (0x020 ≤ num) && decide (num ≤ 0x024)) = true := hwf
    have hnum : 0x020 ≤ num ∧ num ≤ 0x024 := by simpa using hview
    simp (disch := decide) only [scalar, si_major, si_d, si_a, si_imm, decSys, BitVec.reduceToNat,
      sys_number, sys_reserved, sys_selector, hnum, creg_low, creg_high]
    exact ok_of_wf rfl hwf
  | sset num a =>
    obtain rfl := Option.some.inj hw
    simp (disch := decide) only [scalar, si_major, si_d, si_a, si_imm, decSys, BitVec.reduceToNat,
      sys_number, sys_reserved, sys_selector]
    exact ok_of_wf rfl hwf
  | _ => cases hw

end Decode

/-- Settles O53: a word is its major and the fields of its format, and no two members of a major share a word. -/
theorem scalarEncodingsRoundTrip : Obligations.ScalarEncodingsRoundTrip :=
  ⟨fun _ _ hwf hw => Decode.scalar_ok_of_encode hwf hw, fun _ _ h => Decode.encode_scalar_of_ok h⟩

/-! ### The words that the spec works out -/

theorem scalarWords_encode : ∀ x ∈ Spec.scalarWords, x.2.WellFormed ∧ Encode.scalar x.2 = some x.1 := by decide
theorem laneWords_encode : ∀ x ∈ Spec.laneWords, x.2.WellFormed ∧ Encode.lane x.2 = some x.1 := by decide

/-- Settles O55: each word is the one that the encoder gives its statement, and an encoding is read back. -/
theorem workedWordsDecode : Obligations.WorkedWordsDecode := by
  refine ⟨fun x hx => ?_, fun x hx => ?_⟩
  · obtain ⟨hwf, hw⟩ := scalarWords_encode x hx
    exact scalarEncodingsRoundTrip.1 x.2 x.1 hwf hw
  · obtain ⟨hwf, hw⟩ := laneWords_encode x hx
    exact laneEncodingsRoundTrip.1 x.2 x.1 hwf hw

end Sys2Proof
end

section
/-!
# The checks of an issuing lane instruction in their order (R67, R68, R92, R312, R458)

`laneChecks` stops at the first of its three checks that fails, and `laneIssueWith` at the first check after them; an instruction that
passes all of them is one that is ready, whose issue is known (`laneIssueWith_ready`).
-/
namespace Sys2Proof.Machine
open Forms (LView Use)

/-- The instruction names registers and predicates of the group alone (R67 step 3). -/
def registersInside (v : LView) (g : Group) : Bool :=
  ((LView.spans v).all fun x => x.1 + x.2 ≤ g.winsz) && (LView.predNums v).all fun p => p < g.predsz

theorem registersInside_iff {v : LView} {g : Group} :
    registersInside v g = true ↔ (∀ x ∈ LView.spans v, x.1 + x.2 ≤ g.winsz) ∧ ∀ p ∈ LView.predNums v, p < g.predsz := by
  simp only [registersInside, Bool.and_eq_true, List.all_eq_true, decide_eq_true_eq]

theorem portsBound_iff {v : LView} {g : Group} :
    portsBound v g = true ↔ (∀ j ∈ sourcePorts v, g.bound j false = true) ∧ ∀ j ∈ storePorts v, g.bound j true = true := by
  simp only [portsBound, Bool.and_eq_true, List.all_eq_true]

section
variable {v : LView} {sw : Bool} {s : State}

/-! ### Registers, ports and hazards -/

theorem laneChecks_outside (h : registersInside v s.g = false) :
    laneChecks v sw s = .error (.trap { code := .bounds }) := by
  simp only [laneChecks, require_error (show (_ && _) = false from h)]
  rfl

section
variable (hin : registersInside v s.g = true)
include hin

theorem laneChecks_unbound (h : portsBound v s.g = false) :
    laneChecks v sw s = .error (.trap { code := .queueUnbound }) := by
  simp only [laneChecks, require_ok (show (_ && _) = true from hin), require_error (show (_ && _) = false from h)]
  rfl

variable (hports : portsBound v s.g = true)
include hports

theorem laneChecks_clash (h : (s.g.haz.at sw).conflict v = true) :
    laneChecks v sw s = .error (.trap { code := .hazard }) := by
  unfold Hazard.at at h
  simp only [laneChecks, require_ok (show (_ && _) = true from hin), require_ok (show (_ && _) = true from hports), h]
  rfl

theorem laneChecks_pass (h : (s.g.haz.at sw).conflict v = false) : laneChecks v sw s = .ok (s.g.haz.at sw) := by
  unfold Hazard.at at h ⊢
  simp only [laneChecks, require_ok (show (_ && _) = true from hin), require_ok (show (_ && _) = true from hports), h]
  rfl

end

/-! ### Uniform registers and pushes -/

section
variable (hp : s.party = .group)
include hp

theorem laneIssueWith_of_checks_error {e : Stop} (h : laneChecks v sw s = .error e) :
    laneIssueWith v sw s = .error e := by
  simp only [laneIssueWith, needLanes_ok hp, h]
  rfl

variable {haz : Hazard} (hchecks : laneChecks v sw s = .ok haz)
include hchecks

theorem laneIssueWith_waits (h : ∃ r ∈ uniforms v, s.g.waits r = true) :
    laneIssueWith v sw s = .error (.stall .scoreboard) := by
  have hwait : (!(uniforms v).any s.g.waits) = false := by simpa using h
  simp only [laneIssueWith, needLanes_ok hp, hchecks, require_error hwait]
  rfl

variable (hwaits : ¬ ∃ r ∈ uniforms v, s.g.waits r = true)
include hwaits

theorem laneIssueWith_bad (h : ∃ r ∈ uniforms v, r ≠ 0 ∧ s.g.run.bad.getLsbD r.toNat = true) :
    laneIssueWith v sw s = .error (registerError s []) := by
  have hwait : (!(uniforms v).any s.g.waits) = true := by simpa using hwaits
  have hbad : (!(uniforms v).any fun r => r != 0 && s.g.run.bad.getLsbD r.toNat) = false := by simpa using h
  simp only [laneIssueWith, needLanes_ok hp, hchecks, require_ok hwait, require_error hbad]
  rfl

theorem laneIssueWith_pushes (hgood : ¬ ∃ r ∈ uniforms v, r ≠ 0 ∧ s.g.run.bad.getLsbD r.toNat = true)
    (hm : v.mem = true)
    (h : s.g.pushes ≠ []) : laneIssueWith v sw s = .error (.stall .pushWait) := by
  have hwait : (!(uniforms v).any s.g.waits) = true := by simpa using hwaits
  have hbad : (!(uniforms v).any fun r => r != 0 && s.g.run.bad.getLsbD r.toNat) = true := by simpa using hgood
  have hpush : (!v.mem || s.g.pushes.isEmpty) = false := by simp [hm, h]
  simp only [laneIssueWith, needLanes_ok hp, hchecks, require_ok hwait, require_ok hbad, require_error hpush]
  rfl

end

end

/-- Settles O24, check by check. -/
theorem laneIssueChecksInOrder : Obligations.LaneIssueChecksInOrder := by
  intro v sw s hp inside bound clash waits bad
  have outside (h : ¬ inside) : registersInside v s.g = false := Bool.eq_false_iff.mpr (h ∘ registersInside_iff.mp)
  have unbound (h : ¬ bound) : portsBound v s.g = false := Bool.eq_false_iff.mpr (h ∘ portsBound_iff.mp)
  have passes (hin : inside) (hb : bound) (hc : ¬ clash) : laneChecks v sw s = .ok (s.g.haz.at sw) :=
    laneChecks_pass (registersInside_iff.mpr hin) (portsBound_iff.mpr hb) (Bool.eq_false_iff.mpr hc)
  refine ⟨fun h => ?_, fun hin h => ?_, fun hin hb h => ?_, fun hin hb hc h => ?_, fun hin hb hc hw h => ?_,
    fun hin hb hc hw hg hm h => ?_,
    laneIssueWith_ready⟩
  · exact laneIssueWith_of_checks_error hp (laneChecks_outside (outside h))
  · exact laneIssueWith_of_checks_error hp (laneChecks_unbound (registersInside_iff.mpr hin) (unbound h))
  · exact laneIssueWith_of_checks_error hp (laneChecks_clash (registersInside_iff.mpr hin) (portsBound_iff.mpr hb) h)
  · exact laneIssueWith_waits hp (passes hin hb hc) h
  · exact laneIssueWith_bad hp (passes hin hb hc) hw h
  · exact laneIssueWith_pushes hp (passes hin hb hc) hw hg hm h

end Sys2Proof.Machine
end

section
/-!
# A step fetches, decodes and performs one instruction of one party (R57, R62, R67, R102, R373)

`step` moves one party (`step_issue`, `step_policy`, …); a stream's move is its next instruction (`moveStream_scalar`, `moveStream_lane`),
which is what its word decodes to (`runScalar_ok`, `runLane_ok`, and the words that are no instruction).
-/
namespace Sys2Proof.Machine

/-! ### A decoded word -/

section
variable {s : State} {w : Word} {x : LaneWord} {i : Instr}

theorem runScalar_ok (h : Decode.scalar w = .ok i) : runScalar w s = exec i s := by simp only [runScalar, h]
theorem runScalar_illegal (h : Decode.scalar w = .error .illegalOpcode) :
    runScalar w s = exec (.illegalOpcode w) s := by
  simp only [runScalar, h]
  rfl
theorem runScalar_reserved (hp : s.party = .group) (h : Decode.scalar w = .error .reservedField) :
    runScalar w s =
    .next (takeTrap s false { code := if 0x30 ≤ w.toNat / 2 ^ 26 ∧ w.toNat / 2 ^ 26 ≤ 0x35 then .privilege else .reservedField }) := by
  simp only [runScalar, h, hp, beq_self_eq_true, Bool.true_and, Bool.and_eq_true, decide_eq_true_eq]

theorem runLane_ok (h : Decode.lane x = .ok i) : runLane x s = exec i s := by simp only [runLane, h]
theorem runLane_illegal (h : Decode.lane x = .error .illegalOpcode) :
    runLane x s = exec (.illegalLaneOpcode x) s := by
  simp only [runLane, h]
  rfl
theorem runLane_reserved (h : Decode.lane x = .error .reservedField) :
    runLane x s = .next (takeTrap s true { code := .reservedField }) := by
  simp only [runLane, h]

/-! ### A stream's next word -/

theorem issueScalar_ok (hc : ∀ l b, s.g.prog ≠ .coverage l b) (hf : fetchWord s s.g.sc.pc = .ok w) :
    issueScalar s = runScalar w s := by
  unfold issueScalar
  split
  · exact absurd ‹_› (hc _ _)
  · simp only [hf]
theorem issueScalar_error {f : Trap} (hc : ∀ l b, s.g.prog ≠ .coverage l b)
    (hf : fetchWord s s.g.sc.pc = .error f) :
    issueScalar s = .next (takeTrap s false f) := by
  unfold issueScalar
  split
  · exact absurd ‹_› (hc _ _)
  · simp only [hf]

theorem issueLane_ok {r : Run} (hr : s.g.lane.active = some r) (hx : laneWordAt s r.lpc = .ok x) :
    issueLane s = runLane x s := by
  simp only [issueLane, hr, hx]

theorem nextWord_of_fetched {r : Run} (hr : s.g.lane.active = some r) (hx : laneWordAt s r.lpc = .ok x) :
    nextWord s = some x := by
  simp only [nextWord, hr, Option.bind_some, hx]

end

/-! ### Moving a stream -/

/-- A group's stream as the party that moves. -/
def State.asStream (t : State) (lane : Bool) : State := { t with party := .group, ch := if lane then 1 else 0 }
/-- The stream as its instruction begins: it no longer waits. -/
def State.begin (w : State) (lane : Bool) : State := { w with g := w.g.clearStall lane }

@[simp] theorem Group.clearStall_prog (g : Group) (lane : Bool) :
    (g.clearStall lane).prog = g.prog := by cases lane <;> rfl
@[simp] theorem Group.clearStall_lane (g : Group) (lane : Bool) :
    (g.clearStall lane).lane = g.lane := by cases lane <;> rfl

/-- The move of a stream, said of the stream as the party that moves. -/
theorem moveStream_eq (t : State) (lane : Bool) : moveStream lane t =
    if !can (t.asStream lane) (t.asStream lane).g lane then .next (t.asStream lane)
    else if (t.asStream lane).sourceWaits (t.asStream lane).g.gid (t.asStream lane).ch then .next ((t.asStream lane).wait lane .fabricRate)
    else
      Out.map (counted lane ((if lane then nextWord (t.asStream lane) else none).any isMatrix)
          ((if lane then nextWord (t.asStream lane) else none).any takesNoCk) (t.asStream lane).g.gid)
        ((if lane then issueLane else issueScalar) ((t.asStream lane).begin lane)) := rfl

section
variable {t : State} {lane : Bool}

theorem moveStream_stays (h : can (t.asStream lane) (t.asStream lane).g lane = false) :
    moveStream lane t = .next (t.asStream lane) := by
  simp [moveStream_eq, h]

theorem moveStream_waits (hcan : can (t.asStream lane) (t.asStream lane).g lane = true)
    (h : (t.asStream lane).sourceWaits (t.asStream lane).g.gid (t.asStream lane).ch = true) :
    moveStream lane t = .next ((t.asStream lane).wait lane .fabricRate) := by
  simp [moveStream_eq, hcan, h]

theorem moveStream_scalar (hcan : can (t.asStream false) (t.asStream false).g false = true)
    (hgo : (t.asStream false).sourceWaits (t.asStream false).g.gid (t.asStream false).ch = false) :
    moveStream false t = Out.map (counted false false false (t.asStream false).g.gid) (issueScalar ((t.asStream false).begin false)) := by
  simp [moveStream_eq, hcan, hgo]

theorem moveStream_lane {x : LaneWord} (hcan : can (t.asStream true) (t.asStream true).g true = true)
    (hgo : (t.asStream true).sourceWaits (t.asStream true).g.gid (t.asStream true).ch = false) (hx : nextWord (t.asStream true) = some x) :
    moveStream true t =
      Out.map (counted true (isMatrix x) (takesNoCk x) (t.asStream true).g.gid) (issueLane ((t.asStream true).begin true)) := by
  simp [moveStream_eq, hcan, hgo, hx]

end

/-! ### The party that a step moves -/

theorem step_planned {s : State} {a : Agent} {rest : List Agent} (hplan : s.plan = a :: rest) :
    step s = move a { s with plan := rest } := by
  simp only [step, advance, hplan]
theorem step_on {s : State} {a : Agent} {rest : List Agent} (hon : s.start.on = true)
    (hplan : s.plan = a :: rest) :
    step s = moveOn a { s with plan := rest } := by
  rw [step_planned hplan]
  simp only [move, hon, if_true]

/-- A chosen stream moves alone, or beside the group's other stream without a fault (R395). -/
theorem issueAt_eq_issuePick {s : State} {k : Nat} {p : Nat × Bool} (hk : s.issueQ[k]? = some p)
    (h : (if (s.issueQ.eraseIdx k).contains (p.1, !p.2) then faultOf p.1 (issuePick p (s.issueQ.eraseIdx k) s) else none) = none) :
    issueAt k s = issuePick p (s.issueQ.eraseIdx k) s := by
  unfold issueAt
  rw [hk]
  dsimp only
  rw [h]

theorem step_issue {s t : State} {k gid : Nat} {lane : Bool} {rest : List Agent} (hon : s.start.on = true)
    (hplan : s.plan = .issue k :: rest)
    (hk : s.issueQ[k]? = some (gid, lane))
    (ht : ({ s with plan := rest, issueQ := s.issueQ.eraseIdx k } : State).focus gid = some t)
    (halone : (s.issueQ.eraseIdx k).contains (gid, !lane) = false ∨
      faultOf gid (issuePick (gid, lane) (s.issueQ.eraseIdx k) { s with plan := rest }) = none) : step s = moveStream lane t := by
  have hone : (if (s.issueQ.eraseIdx k).contains (gid, !lane) then
      faultOf gid (issuePick (gid, lane) (s.issueQ.eraseIdx k) { s with plan := rest }) else none) = none := by
    rcases halone with h | h
    · rw [if_neg (by rw [h]; decide)]
    · rw [h, ite_self]
  calc step s = issueAt k { s with plan := rest } := step_on hon hplan
    _ = issuePick (gid, lane) (s.issueQ.eraseIdx k) { s with plan := rest } := issueAt_eq_issuePick hk hone
    _ = moveStream lane t := by simp only [issuePick, ht]

/-! ### Policy cores (R102, R467) -/

/-- A policy core as the party that moves. -/
def State.asPolicy (s : State) (k : Nat) : State := { s.enterPolicy k with ch := 2 ^ 17 + k }

theorem issuePolicy_eq (s : State) (k : Nat) : issuePolicy k s =
    if ((s.asPolicy k).pol k).halted then .next ((s.asPolicy k).leavePolicy k)
    else if k = 0 && (s.asPolicy k).priv.irqpend != 0 && (s.asPolicy k).pol0.ie then .next ((interrupt0 (s.asPolicy k)).leavePolicy k)
    else match (s.asPolicy k).pcode.find? fun x => x.1 == ((s.asPolicy k).pol k).sc.pc.toNat with
      | none => .fault .noFirmware
      | some (_, w) => Out.map (State.leavePolicy · k) (runScalar w (s.asPolicy k)) := rfl

section
variable {s : State} {k : Nat}

theorem issuePolicy_halted (h : ((s.asPolicy k).pol k).halted = true) :
    issuePolicy k s = .next ((s.asPolicy k).leavePolicy k) := by
  rw [issuePolicy_eq, if_pos h]

variable (hrun : ((s.asPolicy k).pol k).halted = false)
  (hint : k ≠ 0 ∨ (s.asPolicy k).priv.irqpend = 0 ∨ (s.asPolicy k).pol0.ie = false)
include hrun hint

theorem issuePolicy_code {a : Nat} {w : Word}
    (hw : (s.asPolicy k).pcode.find? (fun x => x.1 == ((s.asPolicy k).pol k).sc.pc.toNat) = some (a, w)) :
    issuePolicy k s = Out.map (State.leavePolicy · k) (runScalar w (s.asPolicy k)) := by
  have hno : ¬ (decide (k = 0) && (s.asPolicy k).priv.irqpend != 0 && (s.asPolicy k).pol0.ie) = true := by
    rcases hint with h | h | h <;> simp [h]
  rw [issuePolicy_eq, if_neg (by rw [hrun]; decide), if_neg hno, hw]

theorem issuePolicy_noCode (hw : (s.asPolicy k).pcode.find? (fun x => x.1 == ((s.asPolicy k).pol k).sc.pc.toNat) = none) :
    issuePolicy k s = .fault .noFirmware := by
  have hno : ¬ (decide (k = 0) && (s.asPolicy k).priv.irqpend != 0 && (s.asPolicy k).pol0.ie) = true := by
    rcases hint with h | h | h <;> simp [h]
  rw [issuePolicy_eq, if_neg (by rw [hrun]; decide), if_neg hno, hw]

end

/-! ### A device without power (R2) -/

theorem moveOff_stays {a : Agent} {s : State} (h : a ≠ .external) : moveOff a s = .next s := by
  cases a with
  | external => exact absurd rfl h
  | _ => rfl

theorem step_off {s : State} {a : Agent} {rest : List Agent} (hoff : s.start.on = false)
    (hplan : s.plan = a :: rest) :
    step s = moveOff a { s with plan := rest } := by
  rw [step_planned hplan]
  simp [move, hoff]

/-- Settles O56, party by party. -/
theorem aStepRunsTheDecodedInstruction : Obligations.AStepRunsTheDecodedInstruction := by
  refine ⟨?_, ?_, ?_, ?_, ?_, ?_, ?_, ?_⟩
  · intro s t k rest gid lane hon hplan hk q v ht halone w u
    have hstep : step s = moveStream lane t := step_issue hon hplan hk ht halone
    refine ⟨fun h => hstep.trans (moveStream_stays h), fun hcan h => hstep.trans (moveStream_waits hcan h), ?_, ?_⟩
    · intro hcan hgo hlane hc goes
      subst hlane
      have hmove := hstep.trans (moveStream_scalar hcan hgo)
      have hc' : ∀ l b, u.g.prog ≠ .coverage l b := hc
      refine ⟨fun x i hf hi => ?_, fun x hf hi => ?_, fun x hf hi => ?_, fun f hf => ?_⟩
      · exact hmove.trans (congrArg _ ((issueScalar_ok hc' hf).trans (runScalar_ok hi)))
      · exact hmove.trans (congrArg _ ((issueScalar_ok hc' hf).trans (runScalar_illegal hi)))
      · exact hmove.trans (congrArg _ ((issueScalar_ok hc' hf).trans (runScalar_reserved rfl hi)))
      · exact hmove.trans (congrArg _ (issueScalar_error hc' hf))
    · intro hcan hgo hlane r x hr hw hx goes
      subst hlane
      have hmove := hstep.trans (moveStream_lane hcan hgo (nextWord_of_fetched hr hw))
      have hr' : u.g.lane.active = some r := hr
      refine ⟨fun i hi => ?_, fun hi => ?_, fun hi => ?_⟩
      · exact hmove.trans (congrArg _ ((issueLane_ok hr' hx).trans (runLane_ok hi)))
      · exact hmove.trans (congrArg _ ((issueLane_ok hr' hx).trans (runLane_illegal hi)))
      · exact hmove.trans (congrArg _ ((issueLane_ok hr' hx).trans (runLane_reserved hi)))
  · intro s rest k hon hplan u
    have hstep : step s = issuePolicy k { s with plan := rest } := step_on hon hplan
    refine ⟨fun h => hstep.trans (issuePolicy_halted h), fun hrun hint => ⟨fun a w i hw hi => ?_, fun hw => ?_⟩⟩
    · exact hstep.trans ((issuePolicy_code hrun hint hw).trans (congrArg _ (runScalar_ok hi)))
    · exact hstep.trans (issuePolicy_noCode hrun hint hw)
  · intro s hplan
    simp only [step, advance, hplan]
  · exact fun s rest hon hplan => step_on hon hplan
  · intro s k rest e hon hplan he
    rw [step_on hon hplan]
    simp only [moveOn, he]
  · intro s rest i more hon hplan hin
    rw [step_on hon hplan]
    simp only [moveOn, hin]
  · exact fun s a rest hoff hplan ha => (step_off hoff hplan).trans (moveOff_stays ha)
  · intro s rest env more hoff hplan hin
    rw [step_off hoff hplan]
    simp only [moveOff, hin, powersUp, if_true]

end Sys2Proof.Machine
end

section
/-!
# Scalar register instructions (R80 to R87)

Each value that the rules give is the one that the model computes, so every row of `Spec.arith`, `Spec.arithImm` and
`Spec.compares` runs one of the three shared shapes `scalar2`, `scalar1` and `compare2` with the row's own function. Completion and
division follow from the shapes.
-/
namespace Sys2Proof.Machine

/-! ### Values -/

@[simp] theorem dw_toNat (x : DWord) : dw x.toNat = x := by
  rw [dw, BitVec.ofNat_toNat, BitVec.setWidth_eq]

theorem sub_eq_ofInt (x y : DWord) : x - y = BitVec.ofInt 64 (x.toInt - y.toInt) := by
  apply BitVec.eq_of_toInt_eq
  rw [BitVec.toInt_sub, BitVec.toInt_ofInt]

theorem mul_eq_ofNat (x y : DWord) : x * y = BitVec.ofNat 64 (x.toNat * y.toNat) := by
  apply BitVec.eq_of_toNat_eq
  simp

/-- The upper half of the signed product (R81). -/
theorem mulh_eq_extractLsb' (x y : DWord) :
    BitVec.ofInt 64 (x.toInt * y.toInt / 2 ^ 64) = (x.signExtend 128 * y.signExtend 128).extractLsb' 64 64 := by
  have hprod : x.signExtend 128 * y.signExtend 128 = BitVec.ofInt 128 (x.toInt * y.toInt) := by
    rw [BitVec.ofInt_mul, BitVec.signExtend, BitVec.signExtend]
  rw [hprod, ← BitVec.setWidth_ushiftRight_eq_extractLsb]
  apply BitVec.eq_of_toNat_eq
  simp only [BitVec.toNat_setWidth, BitVec.toNat_ushiftRight, BitVec.toNat_ofInt, Nat.shiftRight_eq_div_pow]
  generalize x.toInt * y.toInt = z
  omega

/-- The upper half of the unsigned product (R81). -/
theorem mulhn_eq_extractLsb' (x y : DWord) :
    dw (x.toNat * y.toNat / 2 ^ 64) = (x.setWidth 128 * y.setWidth 128).extractLsb' 64 64 := by
  have hlt : x.toNat * y.toNat < 2 ^ 64 * 2 ^ 64 := Nat.mul_lt_mul'' x.isLt y.isLt
  have hx : x.toNat % 2 ^ 128 = x.toNat := Nat.mod_eq_of_lt (by omega)
  have hy : y.toNat % 2 ^ 128 = y.toNat := Nat.mod_eq_of_lt (by omega)
  rw [← BitVec.setWidth_ushiftRight_eq_extractLsb]
  apply BitVec.eq_of_toNat_eq
  simp only [dw, BitVec.toNat_setWidth, BitVec.toNat_ushiftRight, BitVec.toNat_mul, BitVec.toNat_ofNat, Nat.shiftRight_eq_div_pow, hx, hy]
  rw [Nat.mod_eq_of_lt (a := _ * _) (by omega)]

theorem toSigned_toNat (x : DWord) : toSigned 64 x.toNat = x.toInt := by
  have hx := x.isLt
  rw [toSigned, BitVec.toInt_eq_toNat_cond, Nat.mod_eq_of_lt hx]
  split <;> split <;> omega

theorem dw_ofInt (z : Int) : dw (ofInt 64 z) = BitVec.ofInt 64 z := by
  apply BitVec.eq_of_toNat_eq
  simp only [dw, ofInt, BitVec.toNat_ofNat, BitVec.toNat_ofInt]
  omega

/-- A divisor of zero (R12): the quotient is all ones, the remainder the dividend. -/
theorem divRem_zero (signed : Bool) (x : DWord) :
    dw (divRem 64 signed x.toNat (0 : DWord).toNat).1 = BitVec.allOnes 64 ∧ dw (divRem 64 signed x.toNat (0 : DWord).toNat).2 = x := by
  rw [divRem, if_pos (by decide), Nat.mod_eq_of_lt x.isLt]
  exact ⟨rfl, dw_toNat x⟩

theorem toNat_mod_ne_zero {y : DWord} (h : y ≠ 0) : ¬ y.toNat % 2 ^ 64 = 0 := by
  rw [Nat.mod_eq_of_lt y.isLt]
  exact toNat_ne h

theorem divRem_signed (x : DWord) {y : DWord} (h : y ≠ 0) :
    dw (divRem 64 true x.toNat y.toNat).1 = x.sdiv y ∧ dw (divRem 64 true x.toNat y.toNat).2 = x.srem y := by
  simp only [divRem, if_neg (toNat_mod_ne_zero h), if_true, toSigned_toNat, dw_ofInt]
  refine ⟨BitVec.eq_of_toInt_eq ?_, BitVec.eq_of_toInt_eq ?_⟩
  · rw [BitVec.toInt_ofInt, BitVec.toInt_sdiv]
  · rw [BitVec.toInt_ofInt, ← BitVec.toInt_srem, BitVec.toInt_bmod_cancel]

theorem divRem_unsigned (x : DWord) {y : DWord} (h : y ≠ 0) :
    dw (divRem 64 false x.toNat y.toNat).1 = x / y ∧ dw (divRem 64 false x.toNat y.toNat).2 = x % y := by
  rw [divRem, if_neg (toNat_mod_ne_zero h), if_neg Bool.false_ne_true, Nat.mod_eq_of_lt x.isLt, Nat.mod_eq_of_lt y.isLt]
  exact ⟨dw_toNat (x / y), dw_toNat (x % y)⟩

theorem shiftLeft_eq_ofNat (x : DWord) (n : Nat) : x <<< n = BitVec.ofNat 64 (x.toNat * 2 ^ n) := by
  apply BitVec.eq_of_toNat_eq
  simp [Nat.shiftLeft_eq]

theorem ushiftRight_eq_ofNat (x : DWord) (n : Nat) : x >>> n = BitVec.ofNat 64 (x.toNat / 2 ^ n) := by
  rw [← Nat.shiftRight_eq_div_pow, ← BitVec.toNat_ushiftRight, BitVec.ofNat_toNat, BitVec.setWidth_eq]

theorem sshiftRight_eq_ofInt (x : DWord) (n : Nat) : x.sshiftRight n = BitVec.ofInt 64 (x.toInt / 2 ^ n) := by
  rw [BitVec.sshiftRight_eq, Int.shiftRight_eq_div_pow]
  norm_cast

/-- Of two values that a strict order does not separate either is the least. -/
theorem ite_lt_eq_ite_le {x y : DWord} {lt : Bool} {le : Prop} [Decidable le] (hlt : lt = true → le) (hle : lt = false → le → x = y) :
    (if lt then x else y) = if le then x else y := by
  cases lt with
  | true => rw [if_pos rfl, if_pos (hlt rfl)]
  | false =>
    rw [if_neg Bool.false_ne_true]
    split
    case isTrue h => exact (hle rfl h).symm
    case isFalse => rfl

theorem smin_smax_eq (x y : DWord) :
    ((if x.slt y then x else y) = if x.toInt ≤ y.toInt then x else y) ∧ ((if x.slt y then y else x) = if x.toInt ≤ y.toInt then y else x) := by
  have hlt : x.slt y = true → x.toInt ≤ y.toInt := fun h => (BitVec.slt_iff_toInt_lt.mp h).le
  have heq : x.slt y = false → x.toInt ≤ y.toInt → x = y := fun h hle =>
    BitVec.eq_of_toInt_eq (le_antisymm hle (not_lt.mp fun hl => Bool.eq_false_iff.mp h (BitVec.slt_iff_toInt_lt.mpr hl)))
  exact ⟨ite_lt_eq_ite_le hlt heq, ite_lt_eq_ite_le hlt fun h hle => (heq h hle).symm⟩

theorem sminn_smaxn_eq (x y : DWord) :
    ((if x.ult y then x else y) = if x.toNat ≤ y.toNat then x else y) ∧ ((if x.ult y then y else x) = if x.toNat ≤ y.toNat then y else x) := by
  have hlt : x.ult y = true → x.toNat ≤ y.toNat := fun h => (BitVec.ult_iff_lt.mp h).le
  have heq : x.ult y = false → x.toNat ≤ y.toNat → x = y := fun h hle =>
    BitVec.eq_of_toNat_eq (le_antisymm hle (not_lt.mp fun hl => Bool.eq_false_iff.mp h (BitVec.ult_iff_lt.mpr hl)))
  exact ⟨ite_lt_eq_ite_le hlt heq, ite_lt_eq_ite_le hlt fun h hle => (heq h hle).symm⟩

/-- `popNat` counts the bits that are set. -/
theorem popNat_eq_countP (w x : Nat) : popNat w x = (List.range w).countP fun i => x.testBit i := by
  induction w generalizing x with
  | zero => rfl
  | succ w ih =>
    have hlow : x % 2 = if x.testBit 0 = true then 1 else 0 := by
      have := Nat.mod_two_eq_zero_or_one x
      rcases this with h | h <;> simp [h]
    have hrest : ((fun i => x.testBit i) ∘ Nat.succ) = fun i => (x / 2).testBit i := by
      funext i
      simp [Nat.testBit_succ]
    rw [popNat, ih, List.range_succ_eq_map, List.countP_cons, List.countP_map, Nat.add_comm, hlow, hrest]

theorem revNat_lt (w x : Nat) : revNat w x < 2 ^ w := by
  induction w generalizing x with
  | zero => simp [revNat]
  | succ w ih =>
    have := ih (x / 2)
    rw [revNat, Nat.pow_succ]
    have := Nat.mod_lt x (show 0 < 2 by decide)
    have := Nat.mul_le_mul_right (2 ^ w) (show x % 2 ≤ 1 by omega)
    omega

/-- `revNat` reverses the low bits. -/
theorem testBit_revNat (w x i : Nat) : (revNat w x).testBit i = (decide (i < w) && x.testBit (w - 1 - i)) := by
  induction w generalizing x with
  | zero => simp [revNat]
  | succ w ih =>
    rw [revNat, Nat.mul_comm, Nat.testBit_two_pow_mul_add _ (revNat_lt w (x / 2)), ih]
    by_cases hi : i < w
    · rw [if_pos hi, show w + 1 - 1 - i = (w - 1 - i) + 1 by omega, Nat.testBit_succ]
      simp [hi, show i < w + 1 by omega]
    · rw [if_neg hi]
      by_cases he : i = w
      · simp [he]
      · obtain ⟨k, hk⟩ : ∃ k, i - w = k + 1 := ⟨i - w - 1, by omega⟩
        have : x % 2 / 2 = 0 := by omega
        rw [hk, Nat.testBit_succ, this]
        simp [show ¬ i < w + 1 by omega]

theorem rev_eq_reverse (x : DWord) : dw (revNat 64 x.toNat) = x.reverse := by
  apply BitVec.eq_of_getLsbD_eq
  intro i hi
  rw [dw, BitVec.getLsbD_ofNat, testBit_revNat, BitVec.getLsbD_reverse, BitVec.getMsbD_eq_getLsbD]
  simp [hi, BitVec.getLsbD]

theorem clz_eq (x : DWord) : dw (clzNat 64 x.toNat) = BitVec.ofNat 64 (if x = 0 then 64 else 63 - Nat.log2 x.toNat) := by
  rw [dw, clzNat]
  congr 1
  exact if_congr (BitVec.toNat_inj (y := 0)) rfl rfl

theorem sow32_eq_sow (c k : Word) : sow32 c k = Spec.sow c k := by
  have hround : ∀ x : Word, sowRound x = BitVec.ofNat 32 ((x ^^^ (x >>> 16)).toNat * 0x2C9EB3A5) := fun x => by
    apply BitVec.eq_of_toNat_eq
    rw [sowRound, BitVec.toNat_mul, BitVec.toNat_ofNat]
    rfl
  simp only [sow32, Spec.sow, hround]

theorem addi_eq (imm : BitVec 14) (x : DWord) : x + simm imm = BitVec.ofInt 64 (x.toInt + imm.toInt) := by
  rw [BitVec.ofInt_add, BitVec.ofInt_toInt]
  rfl

theorem slui_eq (imm : BitVec 20) : (imm ++ (0 : BitVec 12)).signExtend 64 = BitVec.ofInt 64 (imm.toInt * 2 ^ 12) := by
  have h : (imm ++ (0 : BitVec 12)).toNat = imm.toNat * 2 ^ 12 :=
    (toNat_append_add imm 0).trans (Nat.add_zero _)
  rw [BitVec.signExtend, BitVec.toInt_eq_toNat_cond, h, BitVec.toInt_eq_toNat_cond]
  congr 1
  split <;> split <;> omega

theorem slhi_eq (x : DWord) (imm : BitVec 20) :
    imm.signExtend 32 ++ x.setWidth 32 = BitVec.ofInt 64 ((x.toNat % 2 ^ 32 : Nat) + imm.toInt * 2 ^ 32) := by
  apply BitVec.eq_of_toNat_eq
  rw [toNat_append_add, BitVec.signExtend, BitVec.toNat_ofInt, BitVec.toNat_ofInt, BitVec.toNat_setWidth]
  omega

/-! ### Every row of the rules' tables is one of the shared shapes -/

theorem ready_discards_zero (s : State) (dst src : List SReg) : ready s dst (src ++ [0]) = ready s dst src := by
  have hp : (dst ++ (src ++ [0])).any s.pending = (dst ++ src).any s.pending := by
    simp [State.pending]
  have hb : ((src ++ [0]).any fun r => r != 0 && s.sc.bad.getLsbD r.toNat) = src.any fun r => r != 0 && s.sc.bad.getLsbD r.toNat := by
    simp
  rw [ready, ready, hp, hb]

/-- An instruction of one source is one of two whose second is `s0`. -/
theorem scalar1_eq_scalar2 (d a : SReg) (f : DWord → DWord) (s : State) : scalar1 d a f s = scalar2 d a 0 (fun x _ => f x) s := by
  rw [scalar1, scalar2, ← ready_discards_zero s [d] [a]]
  rfl

theorem compare1_eq_compare2 (k : CReg) (a : SReg) (f : DWord → Bool) (s : State) :
    compare1 k a f s = compare2 k a 0 (fun x _ => f x) s := by
  rw [compare1, compare2, ← ready_discards_zero s [] [a]]
  rfl

theorem scalar2_congr {f g : DWord → DWord → DWord} (h : ∀ x y, f x y = g x y) (d a b : SReg) (s : State) :
    scalar2 d a b f s = scalar2 d a b g s := by
  rw [show f = g from funext₂ h]

theorem scalar1_congr {f g : DWord → DWord} (h : ∀ x, f x = g x) (d a : SReg) (s : State) : scalar1 d a f s = scalar1 d a g s := by
  rw [show f = g from funext h]

theorem compare2_congr {f g : DWord → DWord → Bool} (h : ∀ x y, f x y = g x y) (k : CReg) (a b : SReg) (s : State) :
    compare2 k a b f s = compare2 k a b g s := by
  rw [show f = g from funext₂ h]

theorem bne_eq_decide_ne (x y : DWord) : (x != y) = decide (x ≠ y) := by
  rw [Bool.eq_iff_iff, bne_iff_ne, decide_eq_true_iff]

/-- The division of R12 by cases on its divisor. -/
theorem divRem_cases {q r : DWord → DWord → DWord} {signed : Bool}
    (h : ∀ x y : DWord, y ≠ 0 → dw (divRem 64 signed x.toNat y.toNat).1 = q x y ∧ dw (divRem 64 signed x.toNat y.toNat).2 = r x y)
    (x y : DWord) : dw (divRem 64 signed x.toNat y.toNat).1 = (if y = 0 then BitVec.allOnes 64 else q x y) ∧
      dw (divRem 64 signed x.toNat y.toNat).2 = if y = 0 then x else r x y := by
  by_cases hy : y = 0
  · rw [hy, if_pos rfl, if_pos rfl]
    exact divRem_zero signed x
  · rw [if_neg hy, if_neg hy]
    exact h x y hy

theorem exec_arith {i : Instr} {d a b : SReg} {f : DWord → DWord → DWord} (s : State) (h : Spec.arith i = some (d, a, b, f)) :
    exec i s = scalar2 d a b f s := by
  cases i with
  | sadd | sand | sor | sxor | sandn => cases h; unfold exec; rfl
  | ssub => cases h; unfold exec; exact scalar2_congr sub_eq_ofInt ..
  | smul => cases h; unfold exec; exact scalar2_congr mul_eq_ofNat ..
  | smulh => cases h; unfold exec; exact scalar2_congr mulh_eq_extractLsb' ..
  | smulhn => cases h; unfold exec; exact scalar2_congr mulhn_eq_extractLsb' ..
  | sdiv => cases h; unfold exec; exact scalar2_congr (fun x y => (divRem_cases (fun x _ => divRem_signed x) x y).1) ..
  | srem => cases h; unfold exec; exact scalar2_congr (fun x y => (divRem_cases (fun x _ => divRem_signed x) x y).2) ..
  | sdivn => cases h; unfold exec; exact scalar2_congr (fun x y => (divRem_cases (fun x _ => divRem_unsigned x) x y).1) ..
  | sremn => cases h; unfold exec; exact scalar2_congr (fun x y => (divRem_cases (fun x _ => divRem_unsigned x) x y).2) ..
  | sshl => cases h; unfold exec; exact scalar2_congr (fun x y => shiftLeft_eq_ofNat x (cnt y)) ..
  | sshr => cases h; unfold exec; exact scalar2_congr (fun x y => ushiftRight_eq_ofNat x (cnt y)) ..
  | ssra => cases h; unfold exec; exact scalar2_congr (fun x y => sshiftRight_eq_ofInt x (cnt y)) ..
  | smin => cases h; unfold exec; exact scalar2_congr (fun x y => (smin_smax_eq x y).1) ..
  | smax => cases h; unfold exec; exact scalar2_congr (fun x y => (smin_smax_eq x y).2) ..
  | sminn => cases h; unfold exec; exact scalar2_congr (fun x y => (sminn_smaxn_eq x y).1) ..
  | smaxn => cases h; unfold exec; exact scalar2_congr (fun x y => (sminn_smaxn_eq x y).2) ..
  | sclz => cases h; unfold exec; exact (scalar1_eq_scalar2 ..).trans (scalar2_congr (fun x _ => clz_eq x) ..)
  | spopc => cases h; unfold exec; exact (scalar1_eq_scalar2 ..).trans (scalar2_congr (fun x _ => congrArg dw (popNat_eq_countP 64 x.toNat)) ..)
  | sbrev => cases h; unfold exec; exact (scalar1_eq_scalar2 ..).trans (scalar2_congr (fun x _ => rev_eq_reverse x) ..)
  | ssow =>
    cases h
    unfold exec
    exact scalar2_congr (fun x y => by
      rw [sow32_eq_sow, ← BitVec.setWidth_eq_extractLsb' (by decide), ← BitVec.setWidth_eq_extractLsb' (by decide)]) ..
  | _ => cases h

theorem exec_arithImm {i : Instr} {d a : SReg} {f : DWord → DWord} (s : State) (h : Spec.arithImm i = some (d, a, f)) :
    exec i s = scalar1 d a f s := by
  cases i with
  | saddi _ _ imm =>
    cases h
    unfold exec
    exact scalar1_congr (addi_eq imm) ..
  | sandi | sori | sxori => cases h; unfold exec; exact scalar1_congr (fun x => by rw [BitVec.ofNat_toNat]) ..
  | sshli _ _ n => cases h; unfold exec; exact scalar1_congr (fun x => shiftLeft_eq_ofNat x n.toNat) ..
  | sshri _ _ n => cases h; unfold exec; exact scalar1_congr (fun x => ushiftRight_eq_ofNat x n.toNat) ..
  | ssrai _ _ n => cases h; unfold exec; exact scalar1_congr (fun x => sshiftRight_eq_ofInt x n.toNat) ..
  | slui d imm =>
    cases h
    show execSlui d imm s = _
    rw [execSlui, slui_eq, scalar1, ← ready_discards_zero s [d] []]
    rfl
  | slhi _ imm => cases h; unfold exec; exact scalar1_congr (fun x => slhi_eq x imm) ..
  | _ => cases h

theorem exec_compares {i : Instr} {k : CReg} {a b : SReg} {f : DWord → DWord → Bool} (s : State) (h : Spec.compares i = some (k, a, b, f)) :
    exec i s = compare2 k a b f s := by
  have hsimm : ∀ imm : BitVec 14, (simm imm).toInt = imm.toInt := fun imm => BitVec.toInt_signExtend_of_le (by decide)
  cases i with
  | scmpEq => cases h; unfold exec; exact compare2_congr (fun x y => beq_eq_decide x y) ..
  | scmpNe => cases h; unfold exec; exact compare2_congr (fun x y => bne_eq_decide_ne x y) ..
  | scmpLt => cases h; unfold exec; exact compare2_congr (fun x y => BitVec.slt_eq_decide) ..
  | scmpLe => cases h; unfold exec; exact compare2_congr (fun x y => BitVec.sle_eq_decide) ..
  | scmpLtn | scmpLen => cases h; unfold exec; rfl
  | scmpiEq _ _ imm => cases h; unfold exec; exact (compare1_eq_compare2 ..).trans (compare2_congr (fun x _ => beq_eq_decide x (simm imm)) ..)
  | scmpiNe _ _ imm => cases h; unfold exec; exact (compare1_eq_compare2 ..).trans (compare2_congr (fun x _ => bne_eq_decide_ne x (simm imm)) ..)
  | scmpiLt _ _ imm =>
    cases h
    unfold exec
    exact (compare1_eq_compare2 ..).trans (compare2_congr (fun x _ => by rw [BitVec.slt_eq_decide, hsimm]) ..)
  | scmpiLe _ _ imm =>
    cases h
    unfold exec
    exact (compare1_eq_compare2 ..).trans (compare2_congr (fun x _ => by rw [BitVec.sle_eq_decide, hsimm]) ..)
  | scmpiLtn | scmpiLen => cases h; unfold exec; exact compare1_eq_compare2 ..
  | _ => cases h

/-! ### Completion -/

theorem exec_ssel {s : State} {d a b : SReg} {k : CReg} (hs : Settled s [d] [a, b]) :
    exec (.ssel d a b k) s = .next ((s.wrS d (if s.rdC k then s.rdS a else s.rdS b)).next) := by
  show execSsel d a b k s = _
  rw [execSsel, ready_ok hs]
  rfl

/-- Settles O1, table by table. -/
theorem scalarRegisterInstructionsWriteTheirValues : Obligations.ScalarRegisterInstructionsWriteTheirValues := by
  refine ⟨fun i d a b f s hi hs => ?_, fun i d a f s hi hs => ?_, fun i k a b f s hi hs => ?_, fun d a b k s hs => ?_⟩
  · exact ⟨_, (exec_arith s hi).trans (scalar2_next f hs), writesReg_wrS ..⟩
  · exact ⟨_, (exec_arithImm s hi).trans (scalar1_next f hs), writesReg_wrS ..⟩
  · exact ⟨_, (exec_compares s hi).trans (compare2_next f hs), writesCond_wrC ..⟩
  · refine ⟨_, exec_ssel hs, writesReg_wrS .., fun hk => ?_⟩
    rw [hk]
    exact writesReg_wrS ..

/-! ### Division (R12, R82) -/

/-- The signed division of R12 by a divisor that is not zero, away from the one overflow. -/
theorem sdiv_srem_eq (x : DWord) {y : DWord} (hy : y ≠ 0) (ho : ¬(x.toInt = -2 ^ 63 ∧ y.toInt = -1)) :
    (x.sdiv y).toInt = x.toInt.tdiv y.toInt ∧ x.toInt = (x.sdiv y).toInt * y.toInt + (x.srem y).toInt ∧
      (x.srem y).toInt.natAbs < y.toInt.natAbs ∧ (x.srem y ≠ 0 → (x.srem y).toInt.sign = x.toInt.sign) := by
  have hy0 : y.toInt ≠ 0 := fun h => hy (BitVec.eq_of_toInt_eq h)
  have hq : (x.sdiv y).toInt = x.toInt.tdiv y.toInt := by
    apply BitVec.toInt_sdiv_of_ne_or_ne
    by_contra hboth
    obtain ⟨rfl, rfl⟩ := not_or.mp hboth |>.imp not_not.mp not_not.mp
    exact ho (by decide)
  refine ⟨hq, ?_, ?_, fun hr => ?_⟩
  · rw [hq, BitVec.toInt_srem, Int.mul_comm, Int.mul_tdiv_add_tmod]
  · rw [BitVec.toInt_srem, Int.natAbs_tmod]
    exact Nat.mod_lt _ (Int.natAbs_pos.mpr hy0)
  · have hr0 : x.toInt.tmod y.toInt ≠ 0 := fun h => hr (BitVec.eq_of_toInt_eq ((BitVec.toInt_srem ..).trans h))
    rw [BitVec.toInt_srem]
    rcases lt_or_ge x.toInt 0 with hneg | hpos
    · have := Int.tmod_nonneg y.toInt (show 0 ≤ -x.toInt by omega)
      rw [Int.neg_tmod] at this
      rw [Int.sign_eq_neg_one_of_neg hneg, Int.sign_eq_neg_one_of_neg (by omega)]
    · have := Int.tmod_nonneg y.toInt hpos
      have hx : x.toInt ≠ 0 := fun h => hr0 (by rw [h, Int.zero_tmod])
      rw [Int.sign_eq_one_of_pos (by omega), Int.sign_eq_one_of_pos (by omega)]

/-- Settles O2: the rules' quotient and remainder, by cases on the divisor. -/
theorem scalarDivisionFollowsR82 : Obligations.ScalarDivisionFollowsR82 := by
  intro d a b s hs x y
  refine ⟨_, _, _, _, _, _, _, _, (exec_arith s rfl).trans (scalar2_next _ hs), writesReg_wrS .., (exec_arith s rfl).trans (scalar2_next _ hs),
    writesReg_wrS .., (exec_arith s rfl).trans (scalar2_next _ hs), writesReg_wrS .., (exec_arith s rfl).trans (scalar2_next _ hs),
    writesReg_wrS .., fun hy => ?_, fun ho => ?_, fun hy => ?_, fun hy => ?_⟩
  · exact ⟨if_pos hy, if_pos hy, if_pos hy, if_pos hy⟩
  · obtain ⟨hx, hy⟩ := ho
    have hx : x = BitVec.intMin 64 := BitVec.eq_of_toInt_eq (hx.trans (by decide))
    have hy : y = -1#64 := BitVec.eq_of_toInt_eq (hy.trans (by decide))
    simp only [show s.rdS a = x from rfl, show s.rdS b = y from rfl, hx, hy]
    decide
  · rw [if_neg hy.1, if_neg hy.1]
    exact sdiv_srem_eq x hy.1 hy.2
  · rw [if_neg hy, if_neg hy, BitVec.toNat_udiv, BitVec.toNat_umod, Nat.mul_comm]
    exact ⟨(Nat.div_add_mod ..).symm, Nat.mod_lt _ (Nat.pos_of_ne_zero (toNat_ne hy))⟩

end Sys2Proof.Machine
end

section
/-!
# A store's data register that holds an error (R56, R80, R172, R458)

R56 and R458 have a source that holds an uncorrectable error raise UNCORRECTABLE_DATA, and SST reads its data register. The model names
that register among SST's destinations alone: it waits for the register's pending write, and stores a value that holds an error.
-/
namespace Sys2Proof.Machine

/-- Policy core 0 where `s1` holds an uncorrectable error. -/
def flawedData : State := { State.reset with party := .policy 0, pol0 := { State.reset.pol0 with sc := { bad := 2 } } }

/-- Where an instruction of policy core 0 leaves its PC, and the cause of the trap it has taken. -/
def pcAndCause : Out → Option (DWord × DWord)
  | .next t => some ((t.pol 0).sc.pc, (t.pol 0).ecause)
  | _ => none

/-- The store of `s1` completes where the rule has it trap. -/
theorem flawed_store_completes : pcAndCause (exec (.sst 1 0 .byte 0) flawedData) = some (4, 0) := by decide

theorem flawed_store_trap :
    pcAndCause (.next (takeTrap (flawedData.errRecord 1 0 flawedData.gteam.core 0 0) false (restartAt .uncorrectableData 0))) =
      some (0, 0x30) := by decide

/-- Refutes O5: SST of a data register that holds an uncorrectable error stores it and moves on. -/
theorem not_scalarMemoryWaitsAndFaults : ¬ Obligations.ScalarMemoryWaitsAndFaults := by
  intro ⟨hwaits, _⟩
  have hfault := (hwaits (.sst 1 0 .byte 0) [] [0, 1] flawedData rfl).2 (by decide) ⟨1, by decide, by decide⟩
  have houtcome := congrArg pcAndCause hfault
  rw [flawed_store_completes, flawed_store_trap] at houtcome
  exact absurd houtcome (by decide)

end Sys2Proof.Machine
end

section
/-!
# Drains, fences, regions, branches and runs (R88 to R94, R175, R213)

Each instruction is its checks, in order, and then one change of the state: a check that passes is rewritten away, and one that fails is
the outcome.
-/
namespace Sys2Proof.Machine

/-- The scalar context is that of the party that moves, so what leaves the parties' contexts leaves it. -/
theorem State.sc_congr {s t : State} (hp : t.party = s.party) (hg : t.g.sc = s.g.sc) (hpol : t.pol = s.pol) : t.sc = s.sc := by
  unfold State.sc
  rw [hp, hg, hpol]

/-! ### Drains (R93, R213) -/

theorem exec_drains {i : Instr} (s : State) (h : Spec.drains i = true) : exec i s = finishS s (drain s >>= fun _ => .ok s.next) := by
  cases i with
  | syncL | icinvTeam | icinvClu | icinvDev | icinvFab | icinvSys => rfl
  | _ => cases h

/-! ### Fences (R175) -/

theorem acquire_eq_afterAcquire (s : State) (sc : Scope) : s.acquire sc = Spec.afterAcquire s (some sc) := by
  rcases s.party_cases with hp | ⟨k, hp⟩ <;> cases sc <;> simp only [State.acquire, Spec.afterAcquire, State.dropSectors, hp]

theorem afterAcquire_eq (s : State) (acq : Option Scope) : Spec.afterAcquire s acq = { s with l1 := (Spec.afterAcquire s acq).l1 } := by
  cases acq with
  | none => rfl
  | some sc =>
    rw [← acquire_eq_afterAcquire]
    exact acquire_eq s sc

theorem afterFence_some (s : State) (acq : Option Scope) (sc : Scope) :
    Spec.afterFence s (some sc) acq = (Spec.afterAcquire s acq).fenced false sc := by
  have hparty : (Spec.afterAcquire s acq).party = s.party := by rw [afterAcquire_eq]
  unfold State.fenced Spec.afterFence
  rw [hparty]
  by_cases h : s.party = .group ∧ sc = .sys
  · simp [h, hparty]
  · rw [if_neg (by simpa using h), if_neg (by simpa using h)]

theorem afterFence_none (s : State) (acq : Option Scope) : Spec.afterFence s none acq = Spec.afterAcquire s acq := if_neg (by simp)

/-- A fence leaves the registers as they are. -/
theorem afterFence_sc (s : State) (rel acq : Option Scope) : (Spec.afterFence s rel acq).sc = s.sc := by
  unfold Spec.afterFence
  rw [afterAcquire_eq]
  dsimp only
  split <;> exact State.sc_congr rfl rfl rfl

/-- A fence is its release, then its effect on L1 and on the stream's later stores. -/
theorem exec_fences {i : Instr} {rel acq : Option Scope} (s : State) (h : Spec.fences i = some (rel, acq)) :
    exec i s = finishS s (rel.elim (.ok ()) s.release >>= fun _ => .ok (Spec.afterFence s rel acq).next) := by
  cases i with
  | sfenceAcq sc =>
    cases h
    show finishS s (.ok (s.acquire sc).next) = _
    rw [acquire_eq_afterAcquire, ← afterFence_none]
    rfl
  | sfenceRel sc =>
    cases h
    rw [afterFence_some]
    rfl
  | sfenceAr sc =>
    cases h
    rw [afterFence_some, ← acquire_eq_afterAcquire]
    rfl
  | _ => cases h

theorem release_waits {s : State} {sc : Scope} (hp : s.party = .group) (hsc : sc = .fab ∨ sc = .sys) (h : s.fabDone = false) :
    s.release sc = .error (.stall .peer) := by
  rcases hsc with rfl | rfl <;> simp only [State.release, hp, require_error h]

/-! ### Regions (R94) -/

theorem exec_region (s : State) : exec .region s = finishS s (drain s >>= fun _ => .ok s.endRegion.next) := rfl

/-- The end of a region by an instruction of a group, which goes on at the next word. -/
theorem endRegion_next {s : State} (hp : s.party = .group) :
    s.endRegion.next = ({ s with g := s.g.endRegion (s.pc + 4) } : State).setPc (s.pc + 4) := by
  have hregion : s.endRegion = { s with g := s.g.endRegion (s.pc + 4) } := by
    simp only [State.endRegion, hp, State.pc, State.sc_group hp]
  have hsc : s.endRegion.sc = s.sc := by
    rw [hregion]
    exact State.sc_congr rfl rfl rfl
  rw [State.next, hsc, hregion]
  rfl

/-- Settles O7, instruction by instruction. -/
theorem drainsFencesAndRegions : Obligations.DrainsFencesAndRegions := by
  refine ⟨fun i s hi hd => ?_, fun i s rel acq hi hrel => ?_, fun i s sc acq hi hp hsc hdone => ?_, fun s hp hd => ?_, fun k s hp => ?_,
    fun i s hi hp hwait => ?_⟩
  · rw [exec_drains s hi, drain_ok hd]
    rfl
  · have hgo : rel.elim (.ok ()) s.release = .ok () := by
      cases rel with
      | none => rfl
      | some sc => exact release_ok (hrel sc rfl)
    rw [exec_fences s hi, hgo]
    show Host.Outcome.next (State.setPc _ ((Spec.afterFence s rel acq).sc.pc + 4)) = _
    rw [afterFence_sc]
    rfl
  · rw [exec_fences s hi]
    show finishS s (s.release sc >>= _) = _
    rw [release_waits hp hsc hdone]
    exact finishS_stall hp .peer
  · refine ⟨s.endRegion.next, ?_, ?_⟩
    · rw [exec_region, drain_ok hd]
      rfl
    · rw [endRegion_next hp, setPc_group (by exact hp)]
      exact ⟨rfl, rfl, (setPc_group (by exact hp) _).symm⟩
  · rw [exec_region, drain_ok fun hg => by simp [hp] at hg]
    simp only [State.endRegion, hp]
    rfl
  · obtain ⟨k, hk⟩ : ∃ k, exec i s = finishS s (drain s >>= k) := by
      rcases hi with hi | rfl
      · exact ⟨_, exec_drains s hi⟩
      · exact ⟨_, exec_region s⟩
    rw [hk, drain_stall hp hwait]
    exact finishS_stall hp .drain

/-! ### Branches, calls and jumps (R88, R89) -/

theorem target_ok {a : DWord} (h : canonical a = true) : target a = .ok a := if_pos h
theorem target_error {a : DWord} (h : canonical a = false) : target a = .error (trapP .protection 4 a) :=
  if_neg (Bool.eq_false_iff.mp h)

theorem branchesCallsAndJumps : Spec.BranchesCallsAndJumps := by
  refine ⟨?_, ?_, ?_⟩
  · intro neg k off s dst
    have hexec : exec (.sbr neg k off) s = finishS s (if s.rdC k != neg then target dst >>= fun a => .ok (s.setPc a) else .ok s.next) := rfl
    refine ⟨fun h => ?_, fun h hc => ?_, fun h hc => ?_⟩
    · rw [hexec, h, bne_self_eq_false]
      rfl
    · rw [hexec, if_pos (bne_iff_ne.mpr h), target_ok hc]
      rfl
    · rw [hexec, if_pos (bne_iff_ne.mpr h), target_error hc]
      rfl
  · intro d off s hs dst
    have hexec : exec (.scall d off) s = finishS s (target dst >>= fun a => .ok ((s.wrS d (s.pc + 4)).setPc a)) := by
      show execScall d off s = _
      rw [execScall, ready_ok hs]
      rfl
    refine ⟨fun hc => ?_, fun hc => ?_⟩
    · rw [hexec, target_ok hc]
      rfl
    · rw [hexec, target_error hc]
      rfl
  · intro d a s hs dst
    have hexec : exec (.sjr d a) s = finishS s (require (dst.toNat % 4 = 0) (trapP .misaligned 0 dst) >>= fun _ =>
        target dst >>= fun t => .ok ((s.wrS d (s.pc + 4)).setPc t)) := by
      show execSjr d a s = _
      rw [execSjr, ready_ok hs]
      rfl
    refine ⟨fun ha hc => ?_, fun ha => ?_, fun ha hc => ?_⟩
    · rw [hexec, require_ok (decide_eq_true ha), target_ok hc]
      rfl
    · rw [hexec, require_error (decide_eq_false ha)]
      rfl
    · rw [hexec, require_ok (decide_eq_true ha), target_error hc]
      rfl

/-! ### Runs (R90 to R92) -/

/-- The lane stream's runs with one more that starts at a lane index. -/
def LaneCtx.withRun (l : LaneCtx) (c : SCtx) (n : Nat) : LaneCtx :=
  let r : Run := { lpc := n, snap := c.sreg, wait := c.tok, num := l.count, bad := c.bad }
  let m := { l with count := l.count + 1 }
  if m.active.isNone then { m with active := some r } else { m with queue := m.queue ++ [r] }

theorem enqueue_eq (s : State) (n : Nat) : enqueue s n =
    if 8 ≤ s.g.lane.runs then .error (.stall .runQueueFull)
    else .ok { s with g := { s.g with lane := s.g.lane.withRun s.g.sc n } } := rfl

/-- RUN and RUNR on a group enqueue the run that they name. -/
theorem exec_enqueues {i : Instr} {n : Nat} {s : State} (hp : s.party = .group)
    (h : (∃ idx, i = .run idx ∧ n = idx.toNat) ∨ (∃ k, i = .runr k ∧ n = (s.rdS k).toNat ∧ Settled s [] [k] ∧ n < 2 ^ 20)) :
    exec i s = finishS s (enqueue s n >>= fun t => .ok t.next) := by
  obtain ⟨idx, rfl, rfl⟩ | ⟨k, rfl, rfl, hs, hn⟩ := h
  · show execRun idx s = _
    simp only [execRun, hp]
  · show execRunr k s = _
    simp only [execRunr, hp, ready_ok hs, require_ok (decide_eq_true hn)]
    rfl

theorem runsAreEnqueued : Spec.RunsAreEnqueued := by
  refine ⟨fun i n s hp h => ⟨fun hroom => ?_, fun hfull => ?_⟩, fun k s hp hs hn => ?_, fun k i s hp h => ?_⟩
  · have hsc : ({ s with g := { s.g with lane := s.g.lane.withRun s.g.sc n } } : State).sc = s.sc := State.sc_congr rfl rfl rfl
    rw [exec_enqueues hp h, enqueue_eq, if_neg (Nat.not_le.mpr hroom)]
    exact congrArg (fun c : SCtx => Host.Outcome.next (State.setPc _ (c.pc + 4))) hsc
  · rw [exec_enqueues hp h, enqueue_eq, if_pos hfull]
    exact finishS_stall hp .runQueueFull
  · show execRunr k s = _
    simp only [execRunr, hp, ready_ok hs, require_error (decide_eq_false (Nat.not_lt.mpr hn))]
    rfl
  · obtain ⟨n, rfl⟩ | ⟨r, rfl⟩ := h
    · show execRun n s = _
      simp only [execRun, hp]
      rfl
    · show execRunr r s = _
      simp only [execRunr, hp]
      rfl

/-- Settles O8: control flow by the target's checks, runs by the room in the queue. -/
theorem scalarControlFlow : Obligations.ScalarControlFlow := ⟨branchesCallsAndJumps, runsAreEnqueued⟩

end Sys2Proof.Machine
end

section
/-!
# Condition views, and the traps of a policy core (R97, R102, R105)

A view is one bit of a register that SGET reads without a wait, and its word is SGET's with a condition register for a destination. The
trap statement of a policy core leaves out the error record that a trap over an uncorrectable error writes first (R461), which refutes it.
-/
namespace Sys2Proof.Machine

/-! ### Views of a group (R97) -/

theorem viewOf_views {x : Nat × Nat × Nat} (hx : x ∈ Spec.views) : viewOf (BitVec.ofNat 12 x.1).toNat = some x.2 := by
  revert x
  decide

/-- The register behind a view is assigned, and SGET reads it without a wait. -/
theorem sysReg_views {x : Nat × Nat × Nat} (s : State) (hx : x ∈ Spec.views) :
    (∃ v, Spec.sysReg s x.2.1 = some v) ∧ ¬ Spec.laneSeen x.2.1 ∧ (BitVec.ofNat 12 x.2.1).toNat = x.2.1 := by
  simp only [Spec.views, List.mem_cons, List.not_mem_nil, or_false] at hx
  rcases hx with rfl | rfl | rfl | rfl | rfl <;> exact ⟨⟨_, rfl⟩, by simp [Spec.laneSeen], rfl⟩

theorem sysRead_views {x : Nat × Nat × Nat} {s : State} {v : DWord} (hp : s.party = .group) (hx : x ∈ Spec.views)
    (hv : Spec.sysReg s x.2.1 = some v) : sysRead s x.2.1 = .ok v := by
  obtain ⟨-, hseen, -⟩ := sysReg_views s hx
  rw [sysRead_assigned hp hv, not_waits_of_drained hp fun h => absurd h hseen]
  rfl

/-! ### The word of a view -/

theorem view_word (d : BitVec 6) (num : BitVec 12) :
    0x17#6 ++ d ++ 0#6 ++ 0#2 ++ num = Encode.si 0x17 d 0 (0#2 ++ num) := by
  apply BitVec.eq_of_toNat_eq
  simp only [Encode.si, toNat_append_add, BitVec.toNat_ofNat, BitVec.ofNat_eq_ofNat]
  omega

theorem scalar_view {x : Nat × Nat × Nat} (d : BitVec 6) (hx : x ∈ Spec.views) :
    Decode.scalar (Encode.si 0x17 d 0 (0#2 ++ BitVec.ofNat 12 x.1)) =
      Decode.need (d.extractLsb' 3 3 == 0) (.sgetView (d.extractLsb' 0 3) (BitVec.ofNat 12 x.1)) := by
  have hrange : 0x020 ≤ BitVec.ofNat 12 x.1 ∧ BitVec.ofNat 12 x.1 ≤ 0x024 := by
    revert x
    decide
  rw [Decode.scalar, Decode.si_major, Decode.si_d, Decode.si_a, Decode.si_imm]
  show Decode.decSys d 0 _ = _
  rw [Decode.decSys, Decode.sys_number, Decode.sys_reserved, Decode.sys_selector]
  rw [if_pos (by decide), if_pos hrange]
  rfl

theorem wellFormed_sgetView {x : Nat × Nat × Nat} (k : CReg) (hx : x ∈ Spec.views) :
    (Instr.sgetView k (BitVec.ofNat 12 x.1)).WellFormed := by
  show (0x020 ≤ BitVec.ofNat 12 x.1 && BitVec.ofNat 12 x.1 ≤ 0x024) = true
  revert x
  decide

/-- Settles O9: SGET and SSET of a view by its number, and its word by the fields. -/
theorem conditionViewsFollowR97 : Obligations.ConditionViewsFollowR97 := by
  refine ⟨fun x k s hx hp => ?_, fun x a s hx hp hs => ?_, fun x d hx => ?_⟩
  · obtain ⟨⟨v, hv⟩, hseen, hnum⟩ := sysReg_views s hx
    refine ⟨_, v, hv, ?_, writesCond_wrC s k _, fun d hs => ?_⟩
    · show execSgetView k (BitVec.ofNat 12 x.1) s = _
      rw [execSgetView, viewOf_views hx]
      dsimp only
      rw [sysRead_views hp hx hv]
      rfl
    · have hread := (systemRegisterReads d (BitVec.ofNat 12 x.2.1) s hp hs).1
      rw [hnum] at hread
      exact hread v hv fun h => absurd h hseen
  · have hlow : ¬ 0x800 ≤ (BitVec.ofNat 12 x.1).toNat := by
      revert x
      decide
    rw [exec_sset _ hp hs, if_neg hlow, viewOf_views hx]
    rfl
  · rw [view_word, scalar_view d hx]
    split
    case isTrue hd => exact Decode.ok_of_wf (beq_iff_eq.mpr hd) (wellFormed_sgetView _ hx)
    case isFalse hd =>
      rw [Decode.need, beq_eq_false_iff_ne.mpr hd]
      rfl

/-! ### Traps of a policy core (R102) -/

/-- Policy core 0 as the machine starts. -/
def policyAtReset : State := { State.reset with party := .policy 0 }

/-- A trap that consumes an uncorrectable error leaves its record in the error queue. -/
theorem takeTrap_flawed_errwptr : (takeTrap policyAtReset false (flawed 0 0 0)).priv.errwptr = 1 := by decide

/-- Refutes O11: a policy core's trap over an uncorrectable error reports the error beside the registers that the statement lists. -/
theorem not_policyCoreRegistersAndTraps : ¬ Obligations.PolicyCoreRegistersAndTraps := by
  intro ⟨_, htrap, _⟩
  have herr := congrArg (fun t : State => t.priv.errwptr) (htrap 0 policyAtReset false (flawed 0 0 0) rfl)
  dsimp only at herr
  rw [takeTrap_flawed_errwptr] at herr
  exact absurd herr (by decide)

end Sys2Proof.Machine
end

section
/-!
# The counter generator's instructions (R39, R84, R166)

SSOW is a row of the arithmetic table. VSOW writes the generator's word, and with `.x2` a second one beside it, in the active lanes: a
change of vector registers alone, which the frame of a lane instruction admits.
-/
namespace Sys2Proof.Machine
open Forms (LView)

/-- Registers of the destination written in the active lanes, and the end of the instruction, within the frame of the statements. -/
theorem laneFrame_of_writesVec {v : LView} {sw : Bool} {s : State} {g : Group}
    (hw : WritesVec (fun k => ∃ x ∈ LView.dst v, x.1 ≤ k ∧ k < x.1 + x.2) (s.g.active v.h) (laneStart sw s).g g)
    (hg : g = { (laneStart sw s).g with vreg := g.vreg, badV := g.badV }) :
    LaneFrame v sw s (laneDone v { laneStart sw s with g := g }) where
  whole := rfl
  group := by
    unfold laneDone Group.laneStep
    rw [hg]
    rfl
  run := by
    unfold laneDone Group.laneStep
    rw [hg]
    rfl
  vectors := hw.vectors
  errors k l hl := ⟨fun h => ((hw.errors k l hl).mp h).1, fun h hn => (hw.errors k l hl).mpr ⟨h, hn⟩⟩
  preds p l _ := by
    unfold laneDone Group.laneStep
    rw [hg]
    rfl
  flags l _ := by
    unfold laneDone Group.laneStep
    rw [hg]
    rfl
  sticky l := by
    unfold laneDone Group.laneStep
    rw [hg]
    exact BitVec.and_self
  quiet _ := ⟨rfl, rfl⟩

/-- The generator's words of the lanes that an instruction has read; `k` goes into the key. -/
def sowWord (x : LIn) (k : Word) (l : Nat) : Word := sow32 ((x.a l).setWidth 32) ((x.b l).setWidth 32 ^^^ k)

/-- What VSOW leaves of the vector registers. -/
def sowWritten (o : LOp) (n : Nat) (x : LIn) (g : Group) : Group :=
  if Forms.xf o 0 1 = 1 then (g.putVec n x.act (sowWord x 0)).putVec (n + 1) x.act (sowWord x 0x5A5A5A5A)
  else g.putVec n x.act (sowWord x 0)

theorem sowWritten_eq (o : LOp) (n : Nat) (x : LIn) (g : Group) :
    sowWritten o n x g = { g with vreg := (sowWritten o n x g).vreg, badV := (sowWritten o n x g).badV } := by
  unfold sowWritten
  split <;> rfl

theorem sowWritten_writes (o : LOp) {n : BitVec 11} (hn : o.vd = .v n) (x : LIn) (g : Group) :
    WritesVec (fun k => ∃ y ∈ LView.dst (Forms.vsow o), y.1 ≤ k ∧ k < y.1 + y.2) x.act g (sowWritten o n.toNat x g) := by
  unfold sowWritten
  split
  case isTrue hx =>
    have hdst : LView.dst (Forms.vsow o) = [(n.toNat, 2)] := by simp [Forms.vsow, LView.dst, hx, Forms.ofOp, hn, Forms.Use.span]
    refine ((g.putVec_writes n.toNat x.act _).trans (Group.putVec_writes _ (n.toNat + 1) x.act _)).congr fun k => ?_
    rw [hdst]
    simp
    omega
  case isFalse hx =>
    have hdst : LView.dst (Forms.vsow o) = [(n.toNat, 1)] := by simp [Forms.vsow, LView.dst, hx, Forms.ofOp, hn, Forms.Use.span]
    refine (g.putVec_writes n.toNat x.act _).congr fun k => ?_
    rw [hdst]
    simp
    omega

/-- The words that VSOW leaves in an active lane. -/
theorem vr_sowWritten (o : LOp) (n : Nat) (x : LIn) (g : Group) {l : Nat} (hl : x.act.getLsbD l = true) :
    (sowWritten o n x g).vr n l = sowWord x 0 l ∧
      (o.x.getLsbD 0 = true → (sowWritten o n x g).vr (n + 1) l = sowWord x 0x5A5A5A5A l) := by
  have hbit : Forms.xf o 0 1 = 1 ↔ o.x.getLsbD 0 = true := by
    simp [Forms.xf, BitVec.getLsbD, Nat.testBit_zero]
  unfold sowWritten
  split
  case isTrue hx =>
    refine ⟨?_, fun _ => Group.vr_putVec_active _ _ _ hl⟩
    rw [(Group.putVec_writes _ (n + 1) x.act _).vectors n l (BitVec.lt_of_getLsbD hl) (by simp)]
    exact Group.vr_putVec_active g n _ hl
  case isFalse hx => exact ⟨Group.vr_putVec_active g n _ hl, fun h => absurd (hbit.mpr h) hx⟩

theorem vsow_completes {o : LOp} {n : BitVec 11} {s : State} (hn : o.vd = .v n) (h : LaneReady (Forms.vsow o) o.h.sw s) :
    exec (.vsow o) s = .next (laneDone (Forms.vsow o)
      { laneStart o.h.sw s with g := sowWritten o n.toNat (laneIn (Forms.vsow o) s) (laneStart o.h.sw s).g }) := by
  have hissue : laneIssue (Forms.vsow o) s = .ok (laneIn (Forms.vsow o) s, laneStart o.h.sw s) := laneIssueWith_ready h
  have hlow (w : Nat → Word) : (fun l => (lo32 (w l)).setWidth 32) = w := funext fun l => setWidth_lo32 (w l)
  show execVsow o s = _
  simp only [execVsow, laneDo, hissue, bind, Except.bind]
  unfold sowWritten
  by_cases hx : Forms.xf o 0 1 = 1
  · simp only [if_pos hx, hn]
    rfl
  · simp only [if_neg hx, hn]
    refine congrArg (fun w => Host.Outcome.next (laneDone (Forms.vsow o)
      { laneStart o.h.sw s with g := (laneStart o.h.sw s).g.putVec n.toNat (s.g.active o.h) w })) ?_
    exact hlow _

/-- Settles O28: SSOW as a row of the table, VSOW by the words it writes in the active lanes. -/
theorem theGeneratorsWord : Obligations.TheGeneratorsWord := by
  refine ⟨by decide, fun d a b s hs => ⟨_, ?_, writesReg_wrS s d _⟩, fun o n s hn h => ⟨_, vsow_completes hn h, ?_, fun l hl => ?_⟩⟩
  · show execSsow d a b s = _
    rw [execSsow, scalar2_next _ hs, sow32_eq_sow]
  · exact laneFrame_of_writesVec (sowWritten_writes o hn (laneIn (Forms.vsow o) s) _) (sowWritten_eq ..)
  · have hwords (k : Word) : sowWord (laneIn (Forms.vsow o) s) k l = Spec.sow (Spec.word s o.va l) (Spec.word s o.vb l ^^^ k) := sow32_eq_sow ..
    obtain ⟨hfirst, hsecond⟩ := vr_sowWritten o n.toNat (laneIn (Forms.vsow o) s) (laneStart o.h.sw s).g hl
    exact ⟨hfirst.trans ((hwords 0).trans (congrArg _ BitVec.xor_zero)), fun hx => (hsecond hx).trans (hwords _)⟩

end Sys2Proof.Machine
end

-- ==== Records in memory: the bytes a field stands in ====
section
/-!
# Records in memory

A record is a list of little-endian fields (R399 to R401, R461). These lemmas say what a field of a record reads as once the record
has been written, and what a clean write leaves of the poison marks.
-/
namespace Sys2Proof.Machine

@[simp] theorem leBytes_length (n v : Nat) : (leBytes n v).length = n := by
  induction n generalizing v with
  | zero => rfl
  | succ n ih => rw [leBytes, List.length_cons, ih]

@[simp] theorem ofBytes_leBytes (n v : Nat) : ofBytes (leBytes n v) = v % 256 ^ n := by
  induction n generalizing v with
  | zero => simp [leBytes, ofBytes, Nat.mod_one]
  | succ n ih =>
    rw [leBytes, ofBytes, ih, BitVec.toNat_ofNat, Nat.pow_succ' (m := 256) (n := n), Nat.mod_mul]

theorem ofBytes_drop (b : List Byte) (i : Nat) : ofBytes (b.drop i) = ofBytes b / 256 ^ i := by
  induction i generalizing b with
  | zero => simp
  | succ i ih =>
    cases b with
    | nil => simp [ofBytes]
    | cons x b =>
      have hx : x.toNat < 256 := x.isLt
      have hd : ofBytes (x :: b) / 256 = ofBytes b := by rw [ofBytes]; omega
      rw [List.drop_succ_cons, ih, Nat.pow_succ, Nat.mul_comm (256 ^ i), ← Nat.div_div_eq_div_mul, hd]

theorem ofBytes_take (b : List Byte) (n : Nat) : ofBytes (b.take n) = ofBytes b % 256 ^ n := by
  induction n generalizing b with
  | zero => simp [ofBytes, Nat.mod_one]
  | succ n ih =>
    cases b with
    | nil => simp [ofBytes]
    | cons x b =>
      have hx : x.toNat < 256 := x.isLt
      have hm : ofBytes (x :: b) % 256 = x.toNat := by rw [ofBytes]; omega
      have hd : ofBytes (x :: b) / 256 = ofBytes b := by rw [ofBytes]; omega
      rw [List.take_succ_cons, ofBytes, ih, Nat.pow_succ, Nat.mul_comm (256 ^ n), Nat.mod_mul, hm, hd]

theorem fieldOf_eq (b : List Byte) (i n : Nat) : fieldOf b i n = ofBytes b / 256 ^ i % 256 ^ n := by
  rw [fieldOf, ofBytes_take, ofBytes_drop]

/-- The first field of a record. -/
theorem fieldOf_first (n v : Nat) (r : List Byte) : fieldOf (leBytes n v ++ r) 0 n = v % 256 ^ n := by
  rw [fieldOf, List.drop_zero, List.take_left' (leBytes_length n v), ofBytes_leBytes]

/-- A later field of a record stands in what follows its first part. -/
theorem fieldOf_later (b r : List Byte) (i n : Nat) (h : b.length ≤ i) : fieldOf (b ++ r) i n = fieldOf r (i - b.length) n := by
  rw [fieldOf, fieldOf, List.drop_append, List.drop_eq_nil_of_le h, List.nil_append]

theorem fieldOf_skip (k v : Nat) (r : List Byte) (i n : Nat) (h : k ≤ i) : fieldOf (leBytes k v ++ r) i n = fieldOf r (i - k) n := by
  simpa using fieldOf_later (leBytes k v) r i n (by simpa using h)

/-- A field of a record's first part. -/
theorem fieldOf_within (b r : List Byte) (i n : Nat) (h : i + n ≤ b.length) : fieldOf (b ++ r) i n = fieldOf b i n := by
  rw [fieldOf, fieldOf, List.drop_append_of_le_length (by omega), List.take_append_of_le_length (by rw [List.length_drop]; omega)]

namespace Memory

/-- A range within a written one reads the value's digits there. -/
theorem read_write_within (m : Memory) (a N v i n : Nat) (h : i + n ≤ N) :
    read (write m a N v) (a + i) n = v / 256 ^ i % 256 ^ n := by
  induction n generalizing i with
  | zero => simp [read, Nat.mod_one]
  | succ n ih =>
    have hdiv : v / 256 ^ (i + 1) = v / 256 ^ i / 256 := by rw [Nat.pow_succ, Nat.div_div_eq_div_mul]
    rw [read, byte_write_same _ _ _ _ _ (by omega), Nat.add_assoc, ih (i + 1) (by omega), hdiv, Nat.pow_succ, Nat.mul_comm (256 ^ n),
      Nat.mod_mul, BitVec.toNat_ofNat]

end Memory

/-- A written record reads back field by field. -/
theorem writeBytes_read {s : State} {key : Nat} {b : List Byte} (h : poisoned s key b.length = false) (i n : Nat)
    (hi : i + n ≤ b.length) : Memory.read (s.writeBytes key b).mem (key + i) n = fieldOf b i n := by
  rw [State.writeBytes, write_clean s _ _ _ h, Memory.read_write_within _ _ _ _ _ _ hi, fieldOf_eq]

theorem writeBytes_read_other (s : State) (key : Nat) (b : List Byte) (a n : Nat) (h : a + n ≤ key ∨ key + b.length ≤ a) :
    Memory.read (s.writeBytes key b).mem a n = Memory.read s.mem a n := by
  induction n generalizing a with
  | zero => rfl
  | succ n ih => rw [Memory.read, Memory.read, ih (a + 1) (by omega), State.writeBytes, write_other _ _ _ _ _ (by omega)]

theorem writeBytes_byte_other (s : State) (key : Nat) (b : List Byte) (a : Nat) (h : a < key ∨ key + b.length ≤ a) :
    Memory.byte (s.writeBytes key b).mem a = Memory.byte s.mem a := write_other _ _ _ _ _ h

theorem writeBytes_eq (s : State) (key : Nat) (b : List Byte) :
    s.writeBytes key b = { s with mem := (s.writeBytes key b).mem, poison := (s.writeBytes key b).poison } := write_eq _ _ _ _

theorem poisonKey_mono {a b : Nat} (h : a ≤ b) : poisonKey a ≤ poisonKey b := by
  unfold poisonKey poisonUnit home1Base home2Base
  split <;> split <;> omega

/-- A range within a clean one is clean. -/
theorem poisoned_within {s : State} {a n b k : Nat} (h : poisoned s a n = false) (hb : a ≤ b) (hk : b + k ≤ a + n) (k0 : 0 < k) :
    poisoned s b k = false := by
  rw [poisoned, List.any_eq_false] at h ⊢
  intro p hp hin
  have hlo := poisonKey_mono hb
  have hhi : poisonKey (b + k - 1) ≤ poisonKey (a + n - 1) := poisonKey_mono (by omega)
  have := h p hp
  simp only [Bool.and_eq_true, decide_eq_true_eq] at this hin
  omega

/-- A write makes no poison. -/
theorem poisoned_write (s : State) (key m v : Nat) {a n : Nat} (h : poisoned s a n = false) : poisoned (s.write key m v) a n = false := by
  unfold State.write
  split
  · exact h
  · rw [poisoned, List.any_eq_false] at h ⊢
    exact fun p hp => h p (List.mem_filter.mp hp).1

theorem poisoned_writeBytes (s : State) (key : Nat) (b : List Byte) {a n : Nat} (h : poisoned s a n = false) :
    poisoned (s.writeBytes key b) a n = false := poisoned_write _ _ _ _ h

end Sys2Proof.Machine
end

-- ==== A stray group: O12 ====
section
/-!
# Traps of a group

The statement relates the trap of a group to the configuration block read in the state before the trap; the model reads it after the
group's waits are given up. Where the group's team is none of the device's teams, giving up the waits replaces another team's record,
and the error record of a block in that team's scratch memory names another core.
-/
namespace Sys2Proof.Machine

/-- There is room for an error record. -/
def State.errRoom (s : State) : Prop := ¬ s.priv.errsize.toNat / 32 ≤ s.priv.errwptr.toNat - s.priv.errrptr.toNat

/-- Where the next error record is written. -/
def State.errSlot (s : State) : Nat := s.priv.errbase.toNat + 32 * (s.priv.errwptr.toNat % (s.priv.errsize.toNat / 32))

/-- A record of an uncorrectable error in memory carries its unit in bytes 10 and 11 (R461). -/
theorem errRecord_unit {s : State} (hr : s.errRoom) (hp : poisoned s s.errSlot 32 = false) (cls struct unit info addr : Nat) :
    Memory.read (s.errRecord cls struct unit info addr).mem (s.errSlot + 10) 2 = unit % 256 ^ 2 := by
  unfold State.errRecord
  dsimp only
  rw [if_neg hr, State.irq_mem]
  refine (writeBytes_read (by simp only [List.length_append, leBytes_length]; exact hp) 10 2 (by simp)).trans ?_
  simp only [List.append_assoc]
  rw [fieldOf_skip _ _ _ _ _ (by omega), fieldOf_skip _ _ _ _ _ (by omega), fieldOf_skip _ _ _ _ _ (by omega), fieldOf_first]

/-- An error record changes the error queue, the free words, memory and its poison marks only. -/
theorem errRecord_eq (s : State) (cls struct unit info addr : Nat) : s.errRecord cls struct unit info addr =
    { s with
      priv := (s.errRecord cls struct unit info addr).priv
      fresh := (s.errRecord cls struct unit info addr).fresh
      mem := (s.errRecord cls struct unit info addr).mem
      poison := (s.errRecord cls struct unit info addr).poison } := by
  unfold State.errRecord
  dsimp only
  split
  · rfl
  · rw [writeBytes_eq]; rfl

theorem errRecord_dom (s : State) (cls struct unit info addr d : Nat) : (s.errRecord cls struct unit info addr).dom d = s.dom d := by
  rw [errRecord_eq]; rfl

theorem errRecord_gdom (s : State) (cls struct unit info addr : Nat) : (s.errRecord cls struct unit info addr).gdom = s.gdom := by
  rw [errRecord_eq]; rfl

/-- A group of team 1, which the device does not hold; team 0 holds the domain's configuration block in its scratch memory, where a word
is uncorrectable, and the one slot of the domain's fault queue is taken. -/
def strayGroup : State :=
  { State.reset with
    party := .group
    g := { team := 1, phase := .running }
    teams := [{ tid := 0, core := 5 }]
    poison := [2 ^ 60]
    dom0 := { dcfg := 2 ^ 60, gfLive := [⟨1, none, none, false⟩] } }

/-- A configuration block that holds an uncorrectable error leaves an error record of the block's place. -/
theorem readBlock_poisoned {s : State} {d : Nat} (h : poisoned s (s.dom d).dcfg.toNat 256 = true) :
    s.readBlock d = s.errRecord 1 3 (unitOf s (s.dom d).dcfg.toNat 0).2 0 (s.dom d).dcfg.toNat := if_pos h

/-- A trap of a group that is neither stopping nor awaiting an answer, where its fault queue is full. -/
theorem takeTrap_full_mem {s : State} {lane : Bool} {t : Trap} (hp : s.party = .group) (he : t.errAt = none)
    (hb : (inFlight s s.g true || inFlight s s.g false) = false) (hr : s.g.phase = .running)
    (hf : gfFull (s.abandon.readBlock s.gdom) (s.abandon.readBlock s.gdom).gdom = true) :
    (takeTrap s lane t).mem = (s.abandon.readBlock s.gdom).mem := by
  have hn : s.note t = s := by rw [State.note, he]
  simp only [takeTrap, hp, groupTrap, hn, hr, hb, stopGroup, hf, Bool.false_eq_true, if_false, if_true]

theorem strayGroup_units : (unitOf strayGroup.abandon (2 ^ 60) 0).2 = 0 ∧ (unitOf strayGroup (2 ^ 60) 0).2 = 5 := by decide

theorem strayGroup_dcfg : (strayGroup.dom 0).dcfg.toNat = 2 ^ 60 ∧ (strayGroup.abandon.dom 0).dcfg.toNat = 2 ^ 60 := by decide

theorem strayGroup_poisoned : poisoned strayGroup (2 ^ 60) 256 = true ∧ poisoned strayGroup.abandon (2 ^ 60) 256 = true := by decide

theorem strayGroup_readBlock : strayGroup.readBlock 0 = strayGroup.errRecord 1 3 5 0 (2 ^ 60) := by
  obtain ⟨hc, -⟩ := strayGroup_dcfg
  rw [readBlock_poisoned (hc ▸ strayGroup_poisoned.1), hc, strayGroup_units.2]

theorem strayGroup_abandon_readBlock : strayGroup.abandon.readBlock 0 = strayGroup.abandon.errRecord 1 3 0 0 (2 ^ 60) := by
  obtain ⟨-, hc⟩ := strayGroup_dcfg
  rw [readBlock_poisoned (hc ▸ strayGroup_poisoned.2), hc, strayGroup_units.1]

theorem strayGroup_unit_read : Memory.read (strayGroup.readBlock 0).mem 10 2 = 5 := by
  rw [strayGroup_readBlock]
  exact errRecord_unit (s := strayGroup) (by unfold State.errRoom; decide) (by decide) 1 3 5 0 (2 ^ 60)

theorem strayGroup_abandon_unit_read : Memory.read (strayGroup.abandon.readBlock 0).mem 10 2 = 0 := by
  rw [strayGroup_abandon_readBlock]
  exact errRecord_unit (s := strayGroup.abandon) (by unfold State.errRoom; decide) (by decide) 1 3 0 0 (2 ^ 60)

/-- The queue is full in both states: the block read is the reset one, of one slot. -/
theorem strayGroup_full : gfFull (strayGroup.abandon.readBlock 0) 0 = true := by
  rw [strayGroup_abandon_readBlock, gfFull, dcbGfqLog2, dcb, errRecord_dom]
  decide

theorem strayGroup_gdom : strayGroup.gdom = 0 ∧ (strayGroup.abandon.readBlock 0).gdom = 0 := by
  rw [strayGroup_abandon_readBlock, errRecord_gdom]
  decide

theorem strayGroup_trap_mem :
    (takeTrap strayGroup false { code := .illegalOpcode }).mem = (strayGroup.abandon.readBlock 0).mem := by
  obtain ⟨hg, hu⟩ := strayGroup_gdom
  have h := takeTrap_full_mem (s := strayGroup) (lane := false) (t := { code := .illegalOpcode }) rfl rfl (by decide) rfl
  rw [hg, hu] at h
  exact h strayGroup_full

/-- Refutes O12: the unit in the error record of an unreadable configuration block is another core's once the stray group's waits are
given up. -/
theorem not_groupTraps : ¬ Obligations.GroupTraps := by
  intro h
  obtain ⟨-, hs⟩ := h.1 strayGroup false { code := .illegalOpcode } rfl
  obtain ⟨-, -, -, hstop⟩ := hs rfl
  obtain ⟨-, -, -, -, -, -, -, -, -, -, -, hfull, -⟩ := hstop (by decide) (by intro x l hx; cases hx)
  have hm := (hfull (by
    rw [strayGroup_gdom.1, strayGroup_readBlock, dcbGfqLog2, dcb, errRecord_dom]
    decide)).2
  rw [strayGroup_trap_mem, strayGroup_gdom.1] at hm
  have h0 := strayGroup_abandon_unit_read
  rw [hm, strayGroup_unit_read] at h0
  exact absurd h0 (by decide)

end Sys2Proof.Machine
end

-- ==== System calls: O13 ====
section
/-!
# SYSCALL

The request of a system call (R99) as one record, the state that the call leaves, and the record's fields read back.
-/
namespace Sys2Proof.Machine

/-! ### Rows of equal length -/

theorem length_flatten_rows {k : Nat} {L : List (List Byte)} (h : ∀ x ∈ L, x.length = k) : L.flatten.length = k * L.length := by
  induction L with
  | nil => rfl
  | cons x L ih =>
    rw [List.flatten_cons, List.length_append, h x (by simp), ih fun y hy => h y (by simp [hy]), List.length_cons, Nat.mul_succ,
      Nat.add_comm]

/-- A field of a row stands in that row of the whole. -/
theorem fieldOf_row {k : Nat} {L : List (List Byte)} (h : ∀ x ∈ L, x.length = k) {j i n : Nat} (hj : j < L.length) (hi : i + n ≤ k)
    (r : List Byte) : fieldOf (L.flatten ++ r) (k * j + i) n = fieldOf L[j] i n := by
  induction L generalizing j with
  | nil => simp at hj
  | cons x L ih =>
    have hx : x.length = k := h x (by simp)
    rw [List.flatten_cons, List.append_assoc]
    cases j with
    | zero => rw [Nat.mul_zero, Nat.zero_add, fieldOf_within _ _ _ _ (by omega), List.getElem_cons_zero]
    | succ j =>
      rw [fieldOf_later _ _ _ _ (by rw [hx, Nat.mul_succ]; omega), List.getElem_cons_succ,
        ← ih (fun y hy => h y (by simp [hy])) (Nat.lt_of_succ_lt_succ hj)]
      congr 1
      rw [hx, Nat.mul_succ]
      omega

/-! ### What a notification and the end of a region leave -/

theorem putRecord_local (s : State) (d : Nat) {key : Nat} (b : List Byte) (h : isHost key = false) :
    s.putRecord d key b = s.writeBytes key b := by simp [State.putRecord, h]

theorem setDom_dom_same (s : State) (d : Nat) (x : Domain) : (s.setDom d x).dom d = x := by
  unfold State.setDom State.dom
  split <;> rfl

/-- Only what a record and its notification may change differs: memory and its poison, a domain's record, pending interrupts and what
goes to the host. -/
def Recorded (s t : State) : Prop :=
  ∃ priv out d0 d1 mem poison, t = { s with priv := priv, hostOut := out, dom0 := d0, dom1 := d1, mem := mem, poison := poison }

theorem Recorded.trans {s t u : State} (h : Recorded s t) (k : Recorded t u) : Recorded s u := by
  obtain ⟨_, _, _, _, _, _, rfl⟩ := h
  obtain ⟨_, _, _, _, _, _, rfl⟩ := k
  exact ⟨_, _, _, _, _, _, rfl⟩

theorem Recorded.g {s t : State} (h : Recorded s t) : t.g = s.g := by obtain ⟨_, _, _, _, _, _, rfl⟩ := h; rfl
theorem Recorded.party {s t : State} (h : Recorded s t) : t.party = s.party := by obtain ⟨_, _, _, _, _, _, rfl⟩ := h; rfl
theorem Recorded.engineQ {s t : State} (h : Recorded s t) : t.engineQ = s.engineQ := by obtain ⟨_, _, _, _, _, _, rfl⟩ := h; rfl

theorem recorded_setDom (s : State) (d : Nat) (x : Domain) : Recorded s (s.setDom d x) := by
  unfold State.setDom
  split <;> exact ⟨_, _, _, _, _, _, rfl⟩

theorem recorded_putRecord (s : State) (d key : Nat) (b : List Byte) : Recorded s (s.putRecord d key b) := by
  unfold State.putRecord
  split
  · exact ⟨_, _, _, _, _, _, rfl⟩
  · exact ⟨_, _, _, _, _, _, writeBytes_eq s key b⟩

theorem recorded_notify (s : State) (d code vec : Nat) : Recorded s (s.notify d code vec) ∧ (s.notify d code vec).mem = s.mem := by
  unfold State.notify State.message
  dsimp only
  split
  · exact ⟨⟨_, _, _, _, _, _, rfl⟩, rfl⟩
  · split
    · exact ⟨⟨_, _, _, _, _, _, rfl⟩, rfl⟩
    · split
      · exact ⟨recorded_setDom _ _ _, State.setDom_mem _ _ _⟩
      · exact ⟨⟨_, _, _, _, _, _, rfl⟩, rfl⟩

theorem notify_scSeq (s : State) (d code vec : Nat) : ((s.notify d code vec).dom d).scSeq = (s.dom d).scSeq := by
  unfold State.notify State.message
  dsimp only
  split
  · rfl
  · split
    · rfl
    · split
      · rw [setDom_dom_same]
      · rfl

theorem endRegion_group {s : State} (hp : s.party = .group) : s.endRegion = { s with g := s.g.endRegion (s.g.sc.pc + 4) } := by
  simp only [State.endRegion, hp]

/-- A scalar context in which a register awaits its value. -/
def SCtx.await (c : SCtx) (r : SReg) : SCtx := if r = 0 then c else { c with tok := putBit c.tok r.toNat true }

theorem setTok_group {s : State} (hp : s.party = .group) (r : SReg) : s.setTok r = { s with g := { s.g with sc := s.g.sc.await r } } := by
  unfold State.setTok SCtx.await
  split
  · rfl
  · rw [State.setSc_group hp, State.sc_group hp]

/-- The end of a region at an instruction that leaves a register waiting. -/
theorem endRegion_setTok {s : State} (hp : s.party = .group) (r : SReg) :
    s.endRegion.setTok r = { s with g := { s.g.endRegion (s.pc + 4) with sc := s.g.sc.await r } } := by
  have he := endRegion_group hp
  have hparty : s.endRegion.party = .group := by rw [he]; exact hp
  rw [setTok_group hparty, he, State.pc, State.sc_group hp]
  rfl

theorem SCtx.await_pc (c : SCtx) (r : SReg) : (c.await r).pc = c.pc := by
  unfold SCtx.await
  split <;> rfl

theorem SCtx.await_tok (c : SCtx) {r : SReg} (h : r ≠ 0) : (c.await r).tok.getLsbD r.toNat = true := by
  rw [SCtx.await, if_neg h, putBit_getLsbD _ _ _ _ r.isLt]
  simp

/-! ### The request -/

/-- The words of the lanes of `em`, a row of NREQ words for each (R99). -/
def requestRows (g : Group) (vreq nreq : Nat) : List (List Byte) :=
  (lanesOf g.em).map fun l => ((List.range nreq).map fun j => leBytes 4 (g.vr (vreq + j) l).toNat).flatten

/-- Bytes 0 to 63 of a request (R99). -/
def requestHead (s : State) (b : SReg) (nreq seq len : Nat) : List Byte :=
  leBytes 8 (s.rdS b).toNat ++ leBytes 4 s.gteam.teamlin ++ leBytes 2 (gslotOf s.gteam s.g) ++
    leBytes 1 nreq ++ leBytes 1 Config.W ++ leBytes 16 s.g.em.toNat ++ leBytes 8 s.pc.toNat ++
    leBytes 8 s.g.regcnt.toNat ++ leBytes 8 seq ++ leBytes 4 len ++ leBytes 4 0

/-- A request's bytes, its head, its words and zeros (R99). -/
def requestRecord (s : State) (b : SReg) (vreq nreq seq : Nat) : List Byte :=
  let words := (requestRows s.g vreq nreq).flatten
  let body := requestHead s b nreq seq ((64 + words.length + 63) / 64 * 64) ++ words
  body ++ List.replicate (3072 - body.length) 0

/-- The request stands in its slot with DONE zero, and the domain has been told (R99, R399). -/
def requested (s : State) (b : SReg) (vreq nreq : Nat) : State :=
  let dm := s.dom s.gdom
  let seq := dm.scSeq + 1
  let slot := syscallSlot s s.gdom seq
  let s1 := (s.putRecord s.gdom slot (requestRecord s b vreq nreq seq)).putRecord s.gdom (slot + 3080) (leBytes 8 0)
  (s1.setDom s.gdom { dm with scSeq := seq, scLive := dm.scLive ++ [seq] }).notify s.gdom 0x20 (dcbScqVec s s.gdom)

/-- The state that SYSCALL leaves (R98, R99). -/
def suspended (s : State) (d b : SReg) (vreq nreq vrep : Nat) (rep : Bool) : State :=
  let t := (requested s b vreq nreq).endRegion.setTok d
  { t with
    g := { t.g with lastTrap := 0x20, phase := .suspended ((s.dom s.gdom).scSeq + 1) d rep vrep s.g.em }
    engineQ := t.engineQ ++ [.syscallReply s.g.gid] }

theorem recorded_requested (s : State) (b : SReg) (vreq nreq : Nat) : Recorded s (requested s b vreq nreq) :=
  (((recorded_putRecord _ _ _ _).trans (recorded_putRecord _ _ _ _)).trans (recorded_setDom _ _ _)).trans (recorded_notify _ _ _ _).1

theorem requested_scSeq (s : State) (b : SReg) (vreq nreq : Nat) :
    ((requested s b vreq nreq).dom s.gdom).scSeq = (s.dom s.gdom).scSeq + 1 := by
  unfold requested
  dsimp only
  rw [notify_scSeq, setDom_dom_same]

theorem requested_mem {s : State} (b : SReg) (vreq nreq : Nat) (hq : isHost (syscallSlot s s.gdom ((s.dom s.gdom).scSeq + 1)) = false)
    (hz : isHost (syscallSlot s s.gdom ((s.dom s.gdom).scSeq + 1) + 3080) = false) :
    (requested s b vreq nreq).mem =
      ((s.writeBytes (syscallSlot s s.gdom ((s.dom s.gdom).scSeq + 1))
          (requestRecord s b vreq nreq ((s.dom s.gdom).scSeq + 1))).writeBytes
        (syscallSlot s s.gdom ((s.dom s.gdom).scSeq + 1) + 3080) (leBytes 8 0)).mem := by
  unfold requested
  dsimp only
  rw [(recorded_notify _ _ _ _).2, State.setDom_mem, putRecord_local _ _ _ hz, putRecord_local _ _ _ hq]

/-- The group waits in the call, its region ended and `sd` pending. -/
theorem suspended_eq {s : State} (hp : s.party = .group) (d b : SReg) (vreq nreq vrep : Nat) (rep : Bool) :
    suspended s d b vreq nreq vrep rep =
      { requested s b vreq nreq with
        g := { s.g.endRegion (s.pc + 4) with
          sc := s.g.sc.await d, lastTrap := 0x20, phase := .suspended ((s.dom s.gdom).scSeq + 1) d rep vrep s.g.em }
        engineQ := s.engineQ ++ [.syscallReply s.g.gid] } := by
  have hr := recorded_requested s b vreq nreq
  have hparty : (requested s b vreq nreq).party = .group := hr.party.trans hp
  have hpc : (requested s b vreq nreq).pc = s.pc := by rw [State.pc, State.pc, State.sc_group hparty, State.sc_group hp, hr.g]
  simp only [suspended, endRegion_setTok hparty, hr.g, hr.engineQ, hpc]

theorem exec_syscall_ok {d a b : SReg} {s : State} (hp : s.party = .group) (hs : Settled s [d] [a, b]) (hd : Drained s) {x : Nat}
    (hx : (s.rdS a).toNat = x) (hr : bitsOf x 49 15 = 0 ∧ bitsOf x 43 5 = 0 ∧ bitsOf x 18 14 = 0 ∧ bitsOf x 11 5 = 0)
    (hw : bitsOf x 0 11 + (bitsOf x 16 2 + 1) ≤ s.g.winsz ∧ (!(bitsOf x 48 1 == 1) ∨ bitsOf x 32 11 < s.g.winsz))
    (hb : (s.g.badV.any fun k =>
      bitsOf x 0 11 ≤ k / 32 && k / 32 < bitsOf x 0 11 + (bitsOf x 16 2 + 1) && s.g.em.getLsbD (k % 32)) = false)
    (hq : ((s.dom s.gdom).scLive.any fun q =>
      slotOf q (dcbScqLog2 s s.gdom) == slotOf ((s.dom s.gdom).scSeq + 1) (dcbScqLog2 s s.gdom)) = false) :
    exec (.syscall d a b) s =
      .next (suspended s d b (bitsOf x 0 11) (bitsOf x 16 2 + 1) (bitsOf x 32 11) (bitsOf x 48 1 == 1)) := by
  subst hx
  show execSyscall d a b s = _
  simp only [execSyscall, hp, ready_ok hs, drain_ok hd, decide_eq_true hr, decide_eq_true hw, hb, hq, Bool.not_false,
    require_ok (b := true) rfl]
  rfl

end Sys2Proof.Machine
end

-- ==== The fields of a system call's request: O13 ====
section
/-!
# The request of a system call, field by field
-/
namespace Sys2Proof.Machine

@[simp] theorem requestHead_length (s : State) (b : SReg) (nreq seq len : Nat) : (requestHead s b nreq seq len).length = 64 := by
  simp [requestHead]

theorem mod_pow_bytes {w : Nat} (x : BitVec w) (n : Nat) (h : w ≤ 8 * n) : x.toNat % 256 ^ n = x.toNat := by
  refine Nat.mod_eq_of_lt (x.isLt.trans_le ?_)
  rw [show 256 = 2 ^ 8 from rfl, ← Nat.pow_mul]
  exact Nat.pow_le_pow_right (by omega) h

/-- The fields of a request's head (R99), whatever follows it. -/
theorem requestHead_fields (s : State) (b : SReg) {nreq len : Nat} (seq : Nat) (hn : nreq ≤ 4) (hl : len < 2 ^ 32) (r : List Byte) :
    let h := requestHead s b nreq seq len ++ r
    fieldOf h 0 8 = (s.rdS b).toNat ∧ fieldOf h 8 4 = s.gteam.teamlin % 2 ^ 32 ∧
    fieldOf h 12 2 = (256 * s.gteam.core + s.g.slot) % 2 ^ 16 ∧ fieldOf h 14 1 = nreq ∧ fieldOf h 15 1 = 32 ∧
    fieldOf h 16 16 = s.g.em.toNat ∧ fieldOf h 32 8 = s.pc.toNat ∧ fieldOf h 40 8 = s.g.regcnt.toNat ∧
    fieldOf h 48 8 = seq % 2 ^ 64 ∧ fieldOf h 56 4 = len := by
  simp only [requestHead, List.append_assoc]
  simp only [fieldOf_skip, fieldOf_first, Nat.reduceLeDiff, Nat.reduceSub, gslotOf]
  have h64 (x : DWord) : x.toNat % 256 ^ 8 = x.toNat := mod_pow_bytes x 8 (by omega)
  exact ⟨h64 _, rfl, by rw [Nat.mul_comm 256]; rfl, Nat.mod_eq_of_lt (by omega), rfl, mod_pow_bytes _ 16 (by omega), h64 _, h64 _, rfl,
    Nat.mod_eq_of_lt hl⟩

theorem length_lanesOf_le (m : Word) : (lanesOf m).length ≤ 32 :=
  (List.length_filter_le _ _).trans_eq (by simp [Config.W])

theorem requestRow_length (g : Group) (vreq nreq l : Nat) :
    (((List.range nreq).map fun j => leBytes 4 (g.vr (vreq + j) l).toNat).flatten).length = 4 * nreq := by
  rw [length_flatten_rows (k := 4) (by simp), List.length_map, List.length_range]

theorem requestRows_length (g : Group) (vreq nreq : Nat) : ∀ x ∈ requestRows g vreq nreq, x.length = 4 * nreq := by
  intro x hx
  obtain ⟨l, -, rfl⟩ := List.mem_map.mp hx
  exact requestRow_length g vreq nreq l

theorem requestWords_length (g : Group) (vreq nreq : Nat) :
    (requestRows g vreq nreq).flatten.length = 4 * nreq * (lanesOf g.em).length := by
  rw [length_flatten_rows (requestRows_length g vreq nreq), requestRows, List.length_map]

/-- The word of a lane's register stands at the lane's place among the lanes of `em`. -/
theorem requestWords_field (g : Group) {vreq nreq j l : Nat} (hj : j < nreq) (hl : g.em.getLsbD l = true) (r : List Byte) :
    fieldOf ((requestRows g vreq nreq).flatten ++ r) (4 * (nreq * (lanesOf g.em).idxOf l + j)) 4 = (g.vr (vreq + j) l).toNat := by
  have hi : (lanesOf g.em).idxOf l < (lanesOf g.em).length := List.idxOf_lt_length_of_mem (mem_lanesOf hl)
  have hoff : 4 * (nreq * (lanesOf g.em).idxOf l + j) = 4 * nreq * (lanesOf g.em).idxOf l + (4 * j + 0) := by
    rw [Nat.mul_add, Nat.mul_assoc]
    rfl
  have hlt : (g.vr (vreq + j) l).toNat % 256 ^ 4 = (g.vr (vreq + j) l).toNat := Nat.mod_eq_of_lt (g.vr (vreq + j) l).isLt
  rw [hoff, fieldOf_row (requestRows_length g vreq nreq) (by rw [requestRows, List.length_map]; exact hi) (by omega)]
  simp only [requestRows, List.getElem_map, List.getElem_idxOf]
  have hrow := fieldOf_row (k := 4) (L := (List.range nreq).map fun j => leBytes 4 (g.vr (vreq + j) l).toNat) (by simp) (j := j)
    (i := 0) (n := 4) (by simpa using hj) (by omega) []
  rw [List.append_nil] at hrow
  rw [hrow, List.getElem_map, List.getElem_range]
  have hfirst := fieldOf_first 4 (g.vr (vreq + j) l).toNat []
  rwa [List.append_nil, hlt] at hfirst

theorem requestRecord_length {s : State} (b : SReg) {vreq nreq : Nat} (seq : Nat) (h : nreq ≤ 4) :
    (requestRecord s b vreq nreq seq).length = 3072 := by
  have hl := length_lanesOf_le s.g.em
  have hw : 4 * nreq * (lanesOf s.g.em).length ≤ 16 * 32 := Nat.mul_le_mul (by omega) hl
  simp only [requestRecord, List.length_append, requestHead_length, requestWords_length, List.length_replicate]
  omega

/-- A request's length in multiples of 64 bytes (R99). -/
def requestLen (g : Group) (nreq : Nat) : Nat := (64 + 4 * nreq * (lanesOf g.em).length + 63) / 64 * 64

/-- What follows a request's head: its words, then zeros. -/
def requestTail (s : State) (b : SReg) (vreq nreq seq : Nat) : List Byte :=
  (requestRows s.g vreq nreq).flatten ++
    List.replicate (3072 - (requestHead s b nreq seq (requestLen s.g nreq) ++ (requestRows s.g vreq nreq).flatten).length) 0

theorem requestRecord_eq (s : State) (b : SReg) (vreq nreq seq : Nat) : requestRecord s b vreq nreq seq =
    requestHead s b nreq seq (requestLen s.g nreq) ++ requestTail s b vreq nreq seq := by
  simp only [requestRecord, requestWords_length, requestTail, requestLen, List.append_assoc]

theorem requestLen_lt (g : Group) {nreq : Nat} (h : nreq ≤ 4) : requestLen g nreq < 2 ^ 32 := by
  have hw : 4 * nreq * (lanesOf g.em).length ≤ 16 * 32 := Nat.mul_le_mul (by omega) (length_lanesOf_le g.em)
  rw [requestLen]
  omega

/-! ### The request in memory -/

section
variable {s : State} {slot : Nat} (hslot : syscallSlot s s.gdom ((s.dom s.gdom).scSeq + 1) = slot)
  (hclean : poisoned s slot 4096 = false) (hq : isHost slot = false) (hz : isHost (slot + 3080) = false) (b : SReg) (vreq : Nat)
  {nreq : Nat} (hn : nreq ≤ 4)
include hslot hq hz

theorem requested_mem_slot : (requested s b vreq nreq).mem =
    ((s.writeBytes slot (requestRecord s b vreq nreq ((s.dom s.gdom).scSeq + 1))).writeBytes (slot + 3080) (leBytes 8 0)).mem := by
  subst hslot
  exact requested_mem b vreq nreq hq hz

include hn

theorem requested_outside : SameBytesOutside s (requested s b vreq nreq) slot 4096 := by
  intro a ha
  have hlen := requestRecord_length b (vreq := vreq) (s := s) ((s.dom s.gdom).scSeq + 1) hn
  rw [requested_mem_slot hslot hq hz, writeBytes_byte_other _ _ _ _ (by rw [leBytes_length]; omega),
    writeBytes_byte_other _ _ _ _ (by rw [hlen]; omega)]

include hclean

theorem requested_read (i n : Nat) (h : i + n ≤ 3072) : Memory.read (requested s b vreq nreq).mem (slot + i) n =
    fieldOf (requestRecord s b vreq nreq ((s.dom s.gdom).scSeq + 1)) i n := by
  have hlen := requestRecord_length b (vreq := vreq) (s := s) ((s.dom s.gdom).scSeq + 1) hn
  rw [requested_mem_slot hslot hq hz, writeBytes_read_other _ _ _ _ _ (by omega),
    writeBytes_read (by rw [hlen]; exact poisoned_within hclean (by omega) (by omega) (by omega)) _ _ (by rw [hlen]; omega)]

omit hn in
theorem requested_done : Memory.read (requested s b vreq nreq).mem (slot + 3080) 8 = 0 := by
  have hc := poisoned_writeBytes s slot (requestRecord s b vreq nreq ((s.dom s.gdom).scSeq + 1)) hclean
  have hc8 := poisoned_within (b := slot + 3080) (k := 8) hc (by omega) (by omega) (by omega)
  rw [requested_mem_slot hslot hq hz]
  exact (writeBytes_read (key := slot + 3080) (by rw [leBytes_length]; exact hc8) 0 8 (by rw [leBytes_length])).trans rfl

end

theorem suspended_sc {s : State} (hp : s.party = .group) (d b : SReg) (vreq nreq vrep : Nat) (rep : Bool) :
    (suspended s d b vreq nreq vrep rep).sc = s.g.sc.await d := by
  have hparty : (requested s b vreq nreq).party = .group := (recorded_requested s b vreq nreq).party.trans hp
  have hsus : (suspended s d b vreq nreq vrep rep).party = .group := by rw [suspended_eq hp]; exact hparty
  rw [State.sc_group hsus, suspended_eq hp]

/-- What a system call leaves beside its request. -/
theorem suspended_facts {s : State} (hp : s.party = .group) (d b : SReg) (vreq nreq vrep : Nat) (rep : Bool) :
    let t := suspended s d b vreq nreq vrep rep
    t.g.phase = .suspended ((s.dom s.gdom).scSeq + 1) d rep vrep s.g.em ∧ t.g.lastTrap = 0x20 ∧
      t.g.regcnt = s.g.regcnt + 1 ∧ t.g.region.pc = s.pc + 4 ∧ t.pc = s.pc ∧ (d ≠ 0 → t.pending d = true) ∧
      (s.dom s.gdom).scSeq + 1 = (t.dom s.gdom).scSeq ∧ t.g.vreg = s.g.vreg ∧ t.g.em = s.g.em ∧
      t.mem = (requested s b vreq nreq).mem := by
  have hsc := suspended_sc hp d b vreq nreq vrep rep
  have hpc : (suspended s d b vreq nreq vrep rep).pc = s.pc := by
    rw [State.pc, hsc, SCtx.await_pc, State.pc, State.sc_group hp]
  have hpend : d ≠ 0 → (suspended s d b vreq nreq vrep rep).pending d = true := by
    intro hd
    simp only [State.pending, hsc, SCtx.await_tok _ hd, Bool.and_true, bne_iff_ne, ne_eq, hd, not_false_eq_true]
  have hseq : (s.dom s.gdom).scSeq + 1 = ((suspended s d b vreq nreq vrep rep).dom s.gdom).scSeq := by
    rw [suspended_eq hp]
    exact (requested_scSeq s b vreq nreq).symm
  have hg : (suspended s d b vreq nreq vrep rep).g = { s.g.endRegion (s.pc + 4) with
      sc := s.g.sc.await d, lastTrap := 0x20, phase := .suspended ((s.dom s.gdom).scSeq + 1) d rep vrep s.g.em } := by
    rw [suspended_eq hp]
  dsimp only
  rw [hg]
  exact ⟨rfl, rfl, rfl, rfl, hpc, hpend, hseq, rfl, rfl, by rw [suspended_eq hp]⟩

/-- The request of a system call stands in its slot, DONE zero (R99). -/
theorem requested_facts {s : State} (b : SReg) (vreq : Nat) {nreq : Nat} (hn : nreq ≤ 4) {slot q : Nat}
    (hseq : (s.dom s.gdom).scSeq + 1 = q)
    (hslot : syscallSlot s s.gdom q = slot) (hclean : poisoned s slot 4096 = false)
    (hq : isHost slot = false) (hz : isHost (slot + 3080) = false) :
    let t := requested s b vreq nreq
    SameBytesOutside s t slot 4096 ∧
      Memory.read t.mem slot 8 = (s.rdS b).toNat ∧ Memory.read t.mem (slot + 8) 4 = s.gteam.teamlin % 2 ^ 32 ∧
      Memory.read t.mem (slot + 12) 2 = (256 * s.gteam.core + s.g.slot) % 2 ^ 16 ∧
      Memory.read t.mem (slot + 56) 4 = (64 + 4 * nreq * (lanesOf s.g.em).length + 63) / 64 * 64 ∧
      Memory.read t.mem (slot + 14) 1 = nreq ∧ Memory.read t.mem (slot + 15) 1 = 32 ∧
      Memory.read t.mem (slot + 16) 16 = s.g.em.toNat ∧ Memory.read t.mem (slot + 32) 8 = s.pc.toNat ∧
      Memory.read t.mem (slot + 40) 8 = s.g.regcnt.toNat ∧ Memory.read t.mem (slot + 48) 8 = q % 2 ^ 64 ∧
      Memory.read t.mem (slot + 3080) 8 = 0 ∧
      (∀ j l, j < nreq → l < 32 → s.g.em.getLsbD l = true →
        Memory.read t.mem (slot + 64 + 4 * (nreq * (lanesOf s.g.em).idxOf l + j)) 4 = (s.g.vr (vreq + j) l).toNat) := by
  have hslot' : syscallSlot s s.gdom ((s.dom s.gdom).scSeq + 1) = slot := by rw [hseq, hslot]
  have hread := requested_read hslot' hclean hq hz b vreq hn
  rw [hseq] at hread
  obtain ⟨f0, f8, f12, f14, f15, f16, f32, f40, f48, f56⟩ :=
    requestHead_fields s b q hn (requestLen_lt s.g hn) (requestTail s b vreq nreq q)
  simp only [← requestRecord_eq] at f0 f8 f12 f14 f15 f16 f32 f40 f48 f56
  have hfield : ∀ {i n v : Nat}, i + n ≤ 3072 → fieldOf (requestRecord s b vreq nreq q) i n = v →
      Memory.read (requested s b vreq nreq).mem (slot + i) n = v := fun hi hf => (hread _ _ hi).trans hf
  refine ⟨requested_outside hslot' hq hz b vreq hn, hfield (i := 0) (by omega) f0, hfield (by omega) f8, hfield (by omega) f12,
    hfield (by omega) f56, hfield (by omega) f14, hfield (by omega) f15, hfield (by omega) f16, hfield (by omega) f32,
    hfield (by omega) f40, hfield (by omega) f48, ?_, ?_⟩
  · exact requested_done (nreq := nreq) hslot' hclean hq hz b vreq
  · intro j l hj hl hem
    have hi : (lanesOf s.g.em).idxOf l < (lanesOf s.g.em).length := List.idxOf_lt_length_of_mem (mem_lanesOf hem)
    have h32 := length_lanesOf_le s.g.em
    have hrow : nreq * (lanesOf s.g.em).idxOf l ≤ 4 * 31 := Nat.mul_le_mul hn (by omega)
    rw [Nat.add_assoc]
    refine hfield (by omega) ?_
    rw [requestRecord_eq, fieldOf_later _ _ _ _ (by rw [requestHead_length]; omega), requestHead_length, Nat.add_sub_cancel_left]
    exact requestWords_field s.g hj hem _

/-- Settles O13: the request's record read back field by field, and the state the call leaves. -/
theorem systemCallsSuspend : Obligations.SystemCallsSuspend := by
  intro d a b s hp hs hd x vreq nreq vrep rep q n at_ h49 h43 h18 h11 hwin hrep hbad hlive hclean hq hz
  have hb16 : bitsOf x 16 2 + 1 = nreq := by simp [bitsOf, nreq, Nat.shiftRight_eq_div_pow]
  have hb0 : bitsOf x 0 11 = vreq := by simp [bitsOf, vreq]
  have hb32 : bitsOf x 32 11 = vrep := by simp [bitsOf, vrep, Nat.shiftRight_eq_div_pow]
  have hb48 : (bitsOf x 48 1 == 1) = decide rep := by
    simp only [bitsOf, rep, Nat.shiftRight_eq_div_pow, pow_one]
    rfl
  have hn : nreq ≤ 4 := by omega
  have hexec := exec_syscall_ok (x := x) hp hs hd rfl
    ⟨by simpa [bitsOf, Nat.shiftRight_eq_div_pow] using Nat.mod_eq_zero_of_dvd (h49 ▸ dvd_zero _),
      by simpa [bitsOf, Nat.shiftRight_eq_div_pow] using h43, by simpa [bitsOf, Nat.shiftRight_eq_div_pow] using h18,
      by simpa [bitsOf, Nat.shiftRight_eq_div_pow] using h11⟩
  rw [hb16, hb0, hb32, hb48] at hexec
  have hbad' : (s.g.badV.any fun k => vreq ≤ k / 32 && k / 32 < vreq + nreq && s.g.em.getLsbD (k % 32)) = false := by
    rw [List.any_eq_false]
    intro k hk
    simpa [and_assoc] using hbad k hk
  have hlive' : ((s.dom s.gdom).scLive.any fun m => slotOf m (dcbScqLog2 s s.gdom) == slotOf q (dcbScqLog2 s s.gdom)) = false := by
    rw [List.any_eq_false]
    intro m hm
    simpa [slotOf] using hlive m hm
  have hexec := hexec ⟨hwin, by by_cases h : rep <;> simp [h, hrep]⟩ hbad' hlive'
  obtain ⟨hphase, htrap, hcnt, hregion, hpc, hpend, hseq, hvreg, hem, hmem⟩ :=
    suspended_facts hp d b vreq nreq vrep (decide rep)
  refine ⟨_, hexec, hphase, htrap, hcnt, hregion, hpc, hpend, hseq, hvreg, hem, ?_⟩
  rw [SameBytesOutside, hmem]
  exact requested_facts (slot := at_) b vreq hn rfl rfl hclean hq hz

end Sys2Proof.Machine
end

-- ==== Privileged instructions: O23 ====
section
/-!
# Privileged instructions

On a core each of them stops at its first check; on a policy core the checks pass, and what is left of each definition is its effect.
-/
namespace Sys2Proof.Machine

theorem needPolicy_error {s : State} (h : s.party = .group) : needPolicy s = .error (trapP .privilege) := by simp [needPolicy, h]

theorem exec_privileged_onACore {s : State} {i : Instr} (hi : Spec.privileged i = true) (hp : s.party = .group) :
    exec i s = .next (takeTrap s false { code := .privilege }) := by
  have hn := needPolicy_error hp
  cases i with
  | eret => show execEret s = _; rw [execEret, hn]; rfl
  | tlbinvPage a b => show execTlbinvPage a b s = _; rw [execTlbinvPage, tlbinv, hn]; rfl
  | tlbinvSpace b => show execTlbinvSpace b s = _; rw [execTlbinvSpace, tlbinv, hn]; rfl
  | tlbinvDom b => show execTlbinvDom b s = _; rw [execTlbinvDom, tlbinv, hn]; rfl
  | tlbinvAll => show execTlbinvAll s = _; rw [execTlbinvAll, hn]; rfl
  | ctxSave d a b => show execCtxSave d a b s = _; rw [execCtxSave, hn]; rfl
  | ctxLoad d a b => show execCtxLoad d a b s = _; rw [execCtxLoad, hn]; rfl
  | domSet d a b => show execDomSet d a b s = _; rw [execDomSet, hn]; rfl
  | wdt a => show execWdt a s = _; rw [execWdt, hn]; rfl
  | _ => cases hi

/-! ### What a scalar instruction's end leaves -/

theorem State.setSc_tlb_units (s : State) (c : SCtx) : (s.setSc c).tlb = s.tlb ∧ (s.setSc c).units = s.units := by
  unfold State.setSc
  split
  · exact ⟨rfl, rfl⟩
  · unfold State.setPol
    split <;> exact ⟨rfl, rfl⟩

@[simp] theorem State.next_tlb (s : State) : s.next.tlb = s.tlb := (s.setSc_tlb_units _).1
@[simp] theorem State.next_units (s : State) : s.next.units = s.units := (s.setSc_tlb_units _).2
@[simp] theorem State.wrS_units (s : State) (d : SReg) (v : DWord) : (s.wrS d v).units = s.units := by
  unfold State.wrS
  split
  · rfl
  · exact (s.setSc_tlb_units _).2

/-! ### Outcomes on a policy core -/

section
variable {s : State} {k : Nat} (hp : s.party = .policy k)
include hp

theorem takeTrap_policy (lane : Bool) (c : TrapCode) : takeTrap s lane { code := c } = policyTrap s k { code := c } := by
  simp only [takeTrap, hp]
  rfl

theorem finishS_trap_policy (c : TrapCode) : finishS s (.error (trapP c)) = .next (policyTrap s k { code := c }) := by
  rw [← takeTrap_policy hp false]
  rfl

theorem finishS_stall_policy (w : Stall) : finishS s (.error (.stall w)) = .next s := by
  simp only [finishS, finish, State.wait, hp]

theorem finishS_stallIn_policy (t : State) (w : Stall) (ht : t.party = s.party) : finishS s (.error (.stallIn t w)) = .next t := by
  simp only [finishS, finish, State.wait, State.unissue, Bool.false_eq_true, if_false, ht, hp]

/-! ### Removal from the translation caches (R106) -/

theorem tlbinv_ok {src : List SReg} {b : DWord} (sel : Nat → Nat → TlbEntry → Bool) (hs : Settled s [] src) (hb : b.toNat < 2 ^ 18) :
    tlbinv src b sel s =
      .ok { s with tlb := s.tlb.filter fun e => !sel (b.toNat / 2 ^ 16) (b.toNat % 2 ^ 16) e }.next := by
  have h18 : bitsOf b.toNat 18 46 = 0 := by rw [bitsOf, Nat.shiftRight_eq_div_pow, Nat.div_eq_of_lt hb, Nat.zero_mod]
  have h16 : bitsOf b.toNat 16 2 = b.toNat / 2 ^ 16 := by
    rw [bitsOf, Nat.shiftRight_eq_div_pow]
    omega
  have h0 : bitsOf b.toNat 0 16 = b.toNat % 2 ^ 16 := rfl
  rw [tlbinv, needPolicy_ok hp, ready_ok hs, require_ok (decide_eq_true h18), h16, h0]
  rfl

theorem tlbinv_error {src : List SReg} {b : DWord} (sel : Nat → Nat → TlbEntry → Bool) (hs : Settled s [] src) (hb : 2 ^ 18 ≤ b.toNat) :
    tlbinv src b sel s = .error reserved := by
  have h18 : bitsOf b.toNat 18 46 ≠ 0 := by
    have := b.isLt
    rw [bitsOf, Nat.shiftRight_eq_div_pow]
    omega
  rw [tlbinv, needPolicy_ok hp, ready_ok hs, require_error (decide_eq_false h18)]
  rfl

theorem finishS_tlbinv {src : List SReg} {b : DWord} (sel : Nat → Nat → TlbEntry → Bool) (hs : Settled s [] src) (hb : b.toNat < 2 ^ 18) :
    ∃ t, finishS s (tlbinv src b sel s) = .next t ∧ t = { s with tlb := t.tlb }.next ∧
      ∀ e, e ∈ t.tlb ↔ e ∈ s.tlb ∧ sel (b.toNat / 2 ^ 16) (b.toNat % 2 ^ 16) e = false := by
  rw [tlbinv_ok hp sel hs hb]
  refine ⟨_, rfl, ?_, ?_⟩
  · rw [State.next_tlb]
  · intro e
    rw [State.next_tlb, List.mem_filter, Bool.not_eq_true']

/-! ### Contexts (R107) -/

/-- The group that `sa` names for CTX.SAVE. -/
def savedGroup (s : State) (x : Nat) : Option Group :=
  s.groups.find? fun g => g.slot == x % 64 && (s.team g.team).core == x / 2 ^ 8 % 2 ^ 8

omit hp in
theorem savedGroup_eq (x : Nat) :
    (s.groups.find? fun g => g.slot == bitsOf x 0 6 && (s.team g.team).core == bitsOf x 8 8) = savedGroup s x := by
  simp only [bitsOf, Nat.shiftRight_eq_div_pow, savedGroup, pow_zero, Nat.div_one, Nat.reducePow]

/-- The groups of a team on their way out, as a save asks it of them. -/
def forced (s : State) (g : Group) : State :=
  let u := s.mapGroups fun x => if x.live && x.team == g.team && x.leave == .stay then { x with leave := .forcing } else x
  settleForced u (teamGroups u g.team)

section
variable {d a b : SReg} (hs : Settled s [d] [a, b])
include hs

theorem exec_ctxSave_none (hg : savedGroup s (s.rdS a).toNat = none) :
    exec (.ctxSave d a b) s = .next ((s.wrS d 0x8000000000000001).next) := by
  show execCtxSave d a b s = _
  simp only [execCtxSave, needPolicy_ok hp, ready_ok hs, savedGroup_eq, hg]
  rfl

variable {g : Group} (hg : savedGroup s (s.rdS a).toNat = some g)
include hg

theorem exec_ctxSave_area (ha : (s.rdS b).toNat % 4096 ≠ 0) :
    exec (.ctxSave d a b) s = .next ((s.wrS d 0x8000000000000003).next) := by
  show execCtxSave d a b s = _
  simp only [execCtxSave, needPolicy_ok hp, ready_ok hs, savedGroup_eq, hg, if_pos (Or.inl ha)]
  rfl

variable (ha : (s.rdS b).toNat % 4096 = 0)
  (hm : (s.rdS b).toNat + areaBytes (geometry s (s.team g.team)).2.2.1 ≤ s.priv.memtop.toNat)
include ha hm

theorem exec_ctxSave_left (hl : ∀ x ∈ teamGroups (forced s g) g.team, x.left = true) :
    exec (.ctxSave d a b) s =
      .next ((({ saveTeam (forced s g) (s.rdS b).toNat g.team with party := s.party }).wrS d 0).next) := by
  have hbad : ¬ ((s.rdS b).toNat % 4096 ≠ 0 ∨ s.priv.memtop.toNat <
      (s.rdS b).toNat + areaBytes (geometry s (s.team g.team)).2.2.1) := by omega
  have hall : (teamGroups (forced s g) g.team).all Group.left = true := List.all_eq_true.mpr hl
  show execCtxSave d a b s = _
  simp only [execCtxSave, needPolicy_ok hp, ready_ok hs, savedGroup_eq, hg, if_neg hbad]
  exact congrArg (finishS s) (if_pos hall)

theorem exec_ctxSave_waits (hl : ∃ x ∈ teamGroups (forced s g) g.team, x.left = false) :
    exec (.ctxSave d a b) s = .next { forced s g with party := s.party } := by
  have hbad : ¬ ((s.rdS b).toNat % 4096 ≠ 0 ∨ s.priv.memtop.toNat <
      (s.rdS b).toNat + areaBytes (geometry s (s.team g.team)).2.2.1) := by omega
  have hall : ¬ (teamGroups (forced s g) g.team).all Group.left = true := by
    obtain ⟨x, hx, hn⟩ := hl
    intro h
    rw [List.all_eq_true.mp h x hx] at hn
    cases hn
  show execCtxSave d a b s = _
  simp only [execCtxSave, needPolicy_ok hp, ready_ok hs, savedGroup_eq, hg, if_neg hbad]
  exact (congrArg (finishS s) (if_neg hall)).trans (finishS_stallIn_policy hp _ _ rfl)

end

section
variable {d a b : SReg} (hs : Settled s [d] [a, b])
include hs

theorem exec_ctxLoad_flaw {p : Nat} (hf : imageFlaw s (s.rdS b).toNat = some p) :
    exec (.ctxLoad d a b) s = .next (takeTrap s false (flawed (s.rdS b) p 0)) := by
  show execCtxLoad d a b s = _
  simp only [execCtxLoad, needPolicy_ok hp, ready_ok hs, hf]
  rfl

variable (hf : imageFlaw s (s.rdS b).toNat = none)
include hf

theorem exec_ctxLoad_some {v : DWord} {t : State} (hr : restoreTeam s (s.rdS b).toNat ((s.rdS a).toNat / 2 ^ 8 % 2 ^ 8) = some (v, t)) :
    exec (.ctxLoad d a b) s = .next ((t.wrS d v).next) := by
  show execCtxLoad d a b s = _
  simp only [execCtxLoad, needPolicy_ok hp, ready_ok hs, hf, bitsOf, Nat.shiftRight_eq_div_pow, hr]
  rfl

theorem exec_ctxLoad_waits (hr : restoreTeam s (s.rdS b).toNat ((s.rdS a).toNat / 2 ^ 8 % 2 ^ 8) = none) :
    exec (.ctxLoad d a b) s = .next s := by
  show execCtxLoad d a b s = _
  simp only [execCtxLoad, needPolicy_ok hp, ready_ok hs, hf, bitsOf, Nat.shiftRight_eq_div_pow, hr]
  exact finishS_stall_policy hp _

end

/-! ### Ownership and watchdogs (R108, R109) -/

section
variable {d a b : SReg} (hs : Settled s [d] [a, b])
include hs

theorem exec_domSet_reserved {x y : Nat} (hx : (s.rdS a).toNat = x) (hy : (s.rdS b).toNat = y)
    (h : 2 < x / 2 ^ 60 ∨ (2 ≤ y ∧ y ≠ 15) ∨ (x / 2 ^ 60 = 1 ∧ x % 2 ^ 16 < 128 ∧ y ≠ 15 ∧ x % 2 ^ 16 / 64 ≠ y)) :
    exec (.domSet d a b) s = .next (policyTrap s k { code := .reservedField }) := by
  have hx64 : x < 2 ^ 64 := hx ▸ (s.rdS a).isLt
  have hkind : x / 2 ^ 60 % 2 ^ 4 = x / 2 ^ 60 := Nat.mod_eq_of_lt (by omega)
  show execDomSet d a b s = _
  simp only [execDomSet, needPolicy_ok hp, ready_ok hs, hx, hy, bitsOf, Nat.shiftRight_eq_div_pow, hkind, pow_zero, Nat.div_one]
  by_cases hk : x / 2 ^ 60 ≤ 2 ∧ (y < 2 ∨ y = 15)
  · obtain ⟨h1, hq, hy15, hqy⟩ : x / 2 ^ 60 = 1 ∧ x % 2 ^ 16 < 128 ∧ y ≠ 15 ∧ x % 2 ^ 16 / 64 ≠ y := by omega
    have hother : (!(x / 2 ^ 60 == 1 && decide (x % 2 ^ 16 < 128) && y != 15 && x % 2 ^ 16 / 64 != y)) = false := by
      simp only [h1, beq_self_eq_true, decide_eq_true hq, bne_iff_ne.mpr hy15, bne_iff_ne.mpr hqy, Bool.and_self, Bool.not_true]
    rw [require_ok (decide_eq_true hk), hother, require_error rfl]
    exact finishS_trap_policy hp _
  · rw [require_error (decide_eq_false hk)]
    exact finishS_trap_policy hp _

theorem exec_domSet_ok {x y : Nat} (hx : (s.rdS a).toNat = x) (hy : (s.rdS b).toNat = y) {v : DWord} {t : State} (hd : y < 2 ∨ y = 15)
    (h : (x / 2 ^ 60 = 0 ∧ domCore s (x % 2 ^ 8) y = (v, t)) ∨
      (x / 2 ^ 60 = 1 ∧ (x % 2 ^ 16 < 128 → y = 15 ∨ x % 2 ^ 16 / 64 = y) ∧ domQueue s (x % 2 ^ 16) y = (v, t)) ∨
      (x / 2 ^ 60 = 2 ∧ domUnit s (x % 2 ^ 10) y = (v, t))) :
    exec (.domSet d a b) s = .next ((t.wrS d v).next) := by
  have hx64 : x < 2 ^ 64 := hx ▸ (s.rdS a).isLt
  have hkind : x / 2 ^ 60 % 2 ^ 4 = x / 2 ^ 60 := Nat.mod_eq_of_lt (by omega)
  have hk : x / 2 ^ 60 ≤ 2 ∧ (y < 2 ∨ y = 15) := ⟨by omega, hd⟩
  show execDomSet d a b s = _
  simp only [execDomSet, needPolicy_ok hp, ready_ok hs, hx, hy, bitsOf, Nat.shiftRight_eq_div_pow, hkind, pow_zero, Nat.div_one,
    require_ok (decide_eq_true hk)]
  obtain ⟨h0, hv⟩ | ⟨h1, hq, hv⟩ | ⟨h2, hv⟩ := h
  · simp only [h0, hv]
    rfl
  · have hother : (!(1 == 1 && decide (x % 2 ^ 16 < 128) && y != 15 && x % 2 ^ 16 / 64 != y)) = true := by
      simpa [imp_iff_not_or, or_assoc] using hq
    simp only [h1, hv, hother]
    rfl
  · simp only [h2, hv]
    rfl

end

theorem exec_wdt {a : SReg} (hs : Settled s [] [a]) {x : Nat} (hx : (s.rdS a).toNat = x) (h : x < 2 ^ 32) :
    exec (.wdt a) s = .next ((s.setPol k { s.pol k with wdt := if x = 0 then none else some (BitVec.ofNat 32 x) }).next) := by
  have h32 : bitsOf x 32 32 = 0 := by rw [bitsOf, Nat.shiftRight_eq_div_pow, Nat.div_eq_of_lt h, Nat.zero_mod]
  have hw : (s.rdS a).setWidth 32 = BitVec.ofNat 32 x := by rw [← hx, BitVec.ofNat_toNat]
  have hz : BitVec.ofNat 32 x = 0 ↔ x = 0 := by
    rw [← BitVec.toNat_inj, BitVec.toNat_ofNat, Nat.mod_eq_of_lt h]
    rfl
  have hk : s.polk = k := by simp only [State.polk, hp]
  show execWdt a s = _
  simp only [execWdt, needPolicy_ok hp, ready_ok hs, hx, require_ok (decide_eq_true h32), hk, hw, hz]
  rfl

theorem exec_wdt_reserved {a : SReg} (hs : Settled s [] [a]) (h : 2 ^ 32 ≤ (s.rdS a).toNat) :
    exec (.wdt a) s = .next (policyTrap s k { code := .reservedField }) := by
  have h32 : bitsOf (s.rdS a).toNat 32 32 ≠ 0 := by
    have := (s.rdS a).isLt
    rw [bitsOf, Nat.shiftRight_eq_div_pow]
    omega
  show execWdt a s = _
  simp only [execWdt, needPolicy_ok hp, ready_ok hs, require_error (decide_eq_false h32)]
  exact finishS_trap_policy hp _

end

/-- A unit that changes its domain is zero-filled, but for a warm start's (R293, R469). -/
theorem domUnit_cleared {s : State} {u dom : Nat} (hc : (u + 1) * 2 ^ 30 ≤ capacity s) (hn : SMap.get 15 s.units u ≠ dom)
    (ho : s.start.oldUnits = none) :
    ∃ t, domUnit s u dom = (0, t) ∧ SMap.get 15 t.units u = dom ∧
      ∀ p, u * 2 ^ 30 ≤ p → p < (u + 1) * 2 ^ 30 → Memory.byte t.mem p = 0 := by
  have hcap : ¬ capacity s ≤ u * 2 ^ 30 := by omega
  have hold : ¬ ((SMap.get 15 s.units u = 15 && s.start.oldUnits.any fun o => SMap.get 15 o u == dom) = true) := by simp [ho]
  refine ⟨_, (if_neg hcap).trans ((if_neg hn).trans (if_neg hold)), SMap.get_set_same _ _ _ _, fun p hlo hhi => ?_⟩
  exact (Memory.byte_clear _ _ _ _).trans (if_pos ⟨hlo, hhi⟩)

theorem settled_sub {s : State} {dst src dst' src' : List SReg} (h : Settled s dst src) (hd : ∀ r ∈ dst', r ∈ dst)
    (hs : ∀ r ∈ src', r ∈ src) : Settled s dst' src' := by
  obtain ⟨hpend, hflaw⟩ := h
  refine ⟨fun r hr => hpend r (List.mem_append.mpr ?_), fun r hr => hflaw r (hs r hr)⟩
  exact (List.mem_append.mp hr).imp (hd r) (hs r)

theorem privilegedInstructionsOnACore : Spec.PrivilegedInstructionsOnACore := fun _ _ hi hp => exec_privileged_onACore hi hp

theorem privilegedInstructionsOnAPolicyCore : Spec.PrivilegedInstructionsOnAPolicyCore := by
  intro s k a b d hp hs x y
  have hab : Settled s [] [a, b] := settled_sub hs (by simp) (by simp)
  have ha : Settled s [] [a] := settled_sub hs (by simp) (by simp)
  have hb : Settled s [] [b] := settled_sub hs (by simp) (by simp)
  refine ⟨?_, fun hy => ⟨?_, ?_, ?_⟩, ?_, exec_ctxSave_none hp hs, fun g hg => ⟨exec_ctxSave_area hp hs hg, fun h0 hm =>
      ⟨exec_ctxSave_left hp hs hg h0 hm, exec_ctxSave_waits hp hs hg h0 hm⟩⟩,
    fun hf => ⟨fun _ _ => exec_ctxLoad_some hp hs hf, exec_ctxLoad_waits hp hs hf⟩, fun _ => exec_ctxLoad_flaw hp hs,
    exec_domSet_reserved hp hs rfl rfl, fun _ _ => exec_domSet_ok hp hs rfl rfl, ?_, exec_wdt hp ha rfl, exec_wdt_reserved hp ha⟩
  · show execTlbinvAll s = _
    rw [execTlbinvAll, needPolicy_ok hp]
    rfl
  · obtain ⟨t, ht, heq, hmem⟩ := finishS_tlbinv hp (fun d asn e => e.dom == d && e.asn == asn &&
      e.base == x / pageBytes e.level * pageBytes e.level) hab hy
    exact ⟨t, ht, heq, fun e => (hmem e).trans (by simp [y])⟩
  · obtain ⟨t, ht, heq, hmem⟩ := finishS_tlbinv hp (fun d asn e => e.dom == d && e.asn == asn) hb hy
    exact ⟨t, ht, heq, fun e => (hmem e).trans (by simp [y])⟩
  · obtain ⟨t, ht, heq, hmem⟩ := finishS_tlbinv hp (fun d _ e => e.dom == d) hb hy
    exact ⟨t, ht, heq, fun e => (hmem e).trans (by simp [y])⟩
  · intro hy i hi
    have htrap := finishS_trap_policy hp .reservedField
    simp only [List.mem_cons, List.not_mem_nil, or_false] at hi
    rcases hi with rfl | rfl | rfl
    · exact (congrArg (finishS s) (tlbinv_error hp _ hab hy)).trans htrap
    · exact (congrArg (finishS s) (tlbinv_error hp _ hb hy)).trans htrap
    · exact (congrArg (finishS s) (tlbinv_error hp _ hb hy)).trans htrap
  · intro h2 hd hc hn ho
    obtain ⟨t, hv, hu, hz⟩ := domUnit_cleared hc hn ho
    refine ⟨_, exec_domSet_ok hp hs rfl rfl hd (.inr (.inr ⟨h2, hv⟩)), ?_, fun p hlo hhi => ?_⟩
    · rw [State.next_units, State.wrS_units, hu]
    · rw [State.next_mem, State.wrS_mem, hz p hlo hhi]

/-- Settles O23: on a core by the first check of each definition, on a policy core by the lemma of each instruction. -/
theorem privilegedInstructions : Obligations.PrivilegedInstructions :=
  ⟨privilegedInstructionsOnACore, privilegedInstructionsOnAPolicyCore⟩

end Sys2Proof.Machine
end

-- ==== Answers: what the device finds, and a system call's reply: O46 ====
section
/-!
# Answers of agents

What the device finds when it looks at a record (R441), the group in focus, and the reply of a system call (R100).
-/
namespace Sys2Proof.Machine

/-! ### The group in focus -/

theorem State.focus_self {s : State} (hl : s.g.live = true) (hp : s.party = .group) : s.focus s.g.gid = some s := by
  unfold State.focus
  rw [if_pos (by rw [hl, beq_self_eq_true]; rfl), ← hp]

theorem onGroup_self {s : State} (hl : s.g.live = true) (hp : s.party = .group) (f : State → State) : onGroup s s.g.gid f = f s := by
  rw [onGroup, State.focus_self hl hp]

/-! ### What a look finds -/

theorem look_local (s : State) (ch : Nat) {cells : List (Nat × Nat)} (h : ∀ c ∈ cells, isRemote c.1 = false) :
    s.look ch cells = .ok ({ ({ s with ch := ch } : State).remClear with ch := s.ch }, some ({ s with ch := ch } : State).seen) := by
  have hnone : (cells.filter fun c => isRemote c.1) = [] := List.filter_eq_nil_iff.mpr fun c hc => by rw [h c hc]; decide
  have hreads : ({ s with ch := ch } : State).remReads cells = .ok [] := by
    rw [State.remReads, hnone]
    rfl
  rw [State.look, hreads]

/-- A look that is answered changes the requests alone. -/
theorem look_ok {s u : State} {ch : Nat} {cells : List (Nat × Nat)} {o : Option (Nat → Nat → Nat)} (h : s.look ch cells = .ok (u, o)) :
    u = { s with remote := u.remote } := by
  unfold State.look at h
  dsimp only at h
  split at h
  · cases h
    rw [remClear_eq]
  · cases h
    rw [remClear_eq]
  · cases h
  · cases h

/-! ### The reply of a system call -/

theorem Group.deliver_frame (g : Group) (r : SReg) (v : DWord) :
    (g.deliver r v).vreg = g.vreg ∧ (g.deliver r v).sc = g.sc.deliver r v ∧ (g.deliver r v).call = g.call := by
  unfold Group.deliver SCtx.deliver
  split <;> exact ⟨rfl, rfl, rfl⟩

theorem SCtx.deliver_pc (c : SCtx) (r : SReg) (v : DWord) : (c.deliver r v).pc = c.pc := by
  unfold SCtx.deliver
  split <;> rfl

theorem SCtx.deliver_same (c : SCtx) {r : SReg} (v : DWord) (h : r ≠ 0) :
    SMap.get 0 (c.deliver r v).sreg r.toNat = v ∧ (c.deliver r v).tok.getLsbD r.toNat = false := by
  rw [SCtx.deliver, if_neg h]
  refine ⟨SMap.get_set_same _ _ _ _, ?_⟩
  rw [putBit_getLsbD _ _ _ _ r.isLt]
  simp

theorem SCtx.deliver_other (c : SCtx) {r q : SReg} (v : DWord) (h : q ≠ r) :
    SMap.get 0 (c.deliver r v).sreg q.toNat = SMap.get 0 c.sreg q.toNat := by
  unfold SCtx.deliver
  split
  · rfl
  · exact SMap.get_set_other _ _ _ (toNat_ne h)

/-- The group with its reply, status and vector (R100). -/
def Group.replied (g : Group) (d : SReg) (rep : Bool) (vrep : Nat) (em : Word) (status : Nat) (word : Nat → Word) : Group :=
  let g := g.deliver d (BitVec.ofNat 64 status)
  if rep then g.putVec vrep em word else g

theorem Group.replied_sc (g : Group) (d : SReg) (rep : Bool) (vrep : Nat) (em : Word) (status : Nat) (word : Nat → Word) :
    (g.replied d rep vrep em status word).sc = g.sc.deliver d (BitVec.ofNat 64 status) ∧
      (g.replied d rep vrep em status word).call = g.call := by
  obtain ⟨-, hsc, hcall⟩ := g.deliver_frame d (BitVec.ofNat 64 status)
  unfold Group.replied
  dsimp only
  split <;> exact ⟨hsc, hcall⟩

theorem Group.vr_replied_active (g : Group) (d : SReg) {vrep : Nat} {em : Word} (status : Nat) (word : Nat → Word) {l : Nat}
    (h : em.getLsbD l = true) : (g.replied d true vrep em status word).vr vrep l = word l :=
  Group.vr_putVec_active _ vrep word h

theorem Group.vr_replied_other (g : Group) (d : SReg) {rep : Bool} {vrep : Nat} {em : Word} (status : Nat) (word : Nat → Word) {k l : Nat}
    (hl : l < 32) (h : rep = false ∨ k ≠ vrep ∨ em.getLsbD l = false) : (g.replied d rep vrep em status word).vr k l = g.vr k l := by
  have hdel : (g.deliver d (BitVec.ofNat 64 status)).vr k l = g.vr k l := by rw [Group.vr, Group.vr, (g.deliver_frame _ _).1]
  unfold Group.replied
  dsimp only
  split
  next hrep =>
    refine ((Group.putVec_writes _ vrep em word).vectors k l hl ?_).trans hdel
    rintro ⟨rfl, hem⟩
    rcases h with h | h | h
    · rw [hrep] at h; cases h
    · exact h rfl
    · rw [hem] at h; cases h
  next => exact hdel

/-- The state after a system call's reply: its slot is free and the group goes on past the call. -/
def answered (u : State) (seq : Nat) (g : Group) : State :=
  ({ (u.acquire .sys).setDom u.gdom { u.dom u.gdom with scLive := (u.dom u.gdom).scLive.filter (· != seq) } with
      party := .group, g := { g with call := none, phase := if g.call.isSome then g.phase else .running } } : State).next

theorem next_group {s : State} (hp : s.party = .group) :
    s.next = { s with g := { s.g with sc := { s.g.sc with pc := s.g.sc.pc + 4 } } } := by
  rw [State.next, setPc_group hp, State.sc_group hp]

theorem answered_g (u : State) (seq : Nat) {g : Group} (hc : g.call = none) :
    (answered u seq g).g = { g with call := none, phase := .running, sc := { g.sc with pc := g.sc.pc + 4 } } := by
  rw [answered, next_group rfl, hc]
  rfl

theorem answered_party (u : State) (seq : Nat) (g : Group) : (answered u seq g).party = .group := by
  rw [answered, State.next_party]

theorem answered_mem (u : State) (seq : Nat) (g : Group) : (answered u seq g).mem = u.mem := by
  rw [answered, State.next_mem]
  dsimp only
  rw [State.setDom_mem, acquire_eq]

/-- The cells of a system call's record that the device looks at: DONE, the status and the vector. -/
def replyCells (a : Nat) : List (Nat × Nat) := (a + 3080, 8) :: (a + 3072, 8) :: (List.range 32).map fun l => (a + 3088 + 4 * l, 4)

/-- A group in focus that waits in a system call (R99). -/
structure InCall (s : State) (seq : Nat) (d : SReg) (rep : Bool) (vrep : Nat) (em : Word) : Prop where
  live : s.g.live = true
  party : s.party = .group
  phase : s.g.phase = .suspended seq d rep vrep em
  call : s.g.call = none
  leave : s.g.leave = .stay

section
variable {s u : State} {seq : Nat} {d : SReg} {rep : Bool} {vrep : Nat} {em : Word} (h : InCall s seq d rep vrep em)
include h

theorem exec_syscallReply_again
    (hf : s.look (2 ^ 63 + 2 * seq + s.gdom) (replyCells (syscallSlot s s.gdom seq)) = .error u ∨
      s.look (2 ^ 63 + 2 * seq + s.gdom) (replyCells (syscallSlot s s.gdom seq)) = .ok (u, none)) :
    exec (.syscallReply s.g.gid) s = .next (u.post (.syscallReply s.g.gid)) := by
  have hc : s.g.call.getD s.g.phase = .suspended seq d rep vrep em := by rw [h.call, h.phase]; rfl
  show execSyscallReply s.g.gid s = _
  rw [replyCells] at hf
  rcases hf with hf | hf <;> simp only [execSyscallReply, onGroup_self h.live h.party, hc, hf]

theorem exec_syscallReply_found {val : Nat → Nat → Nat}
    (hf : s.look (2 ^ 63 + 2 * seq + s.gdom) (replyCells (syscallSlot s s.gdom seq)) = .ok (u, some val)) :
    exec (.syscallReply s.g.gid) s = .next (if val (syscallSlot s s.gdom seq + 3080) 8 = 0 then u.post (.syscallReply s.g.gid)
      else answered u seq (s.g.replied d rep vrep em (val (syscallSlot s s.gdom seq + 3072) 8)
        fun l => BitVec.ofNat 32 (val (syscallSlot s s.gdom seq + 3088 + 4 * l) 4))) := by
  have hc : s.g.call.getD s.g.phase = .suspended seq d rep vrep em := by rw [h.call, h.phase]; rfl
  have hu := look_ok hf
  have hg : u.g = s.g := by rw [hu]
  have hd : u.gdom = s.gdom := by rw [hu]; rfl
  have hleave : (s.g.leave != .stay) = false := by rw [h.leave]; rfl
  show execSyscallReply s.g.gid s = _
  rw [replyCells] at hf
  simp only [execSyscallReply, onGroup_self h.live h.party, hc, hf, hg, hleave, Bool.or_false, decide_eq_true_eq]
  split
  next => rfl
  next =>
    rw [answered, hd]
    rfl

/-- What a reply delivers, and what it leaves. -/
theorem answered_facts (hm : u.mem = s.mem) (status : Nat) (word : Nat → Word) :
    let t := answered u seq (s.g.replied d rep vrep em status word)
    t.g.phase = .running ∧ t.pc = s.pc + 4 ∧ SameBytes s t ∧
      (d ≠ 0 → t.rdS d = BitVec.ofNat 64 status ∧ t.pending d = false) ∧ (∀ r, r ≠ d → t.rdS r = s.rdS r) ∧
      (rep = true → ∀ l, em.getLsbD l = true → t.g.vr vrep l = word l) ∧
      (∀ k l, l < 32 → (rep = false ∨ k ≠ vrep ∨ em.getLsbD l = false) → t.g.vr k l = s.g.vr k l) := by
  intro t
  obtain ⟨hsc, hcall⟩ := s.g.replied_sc d rep vrep em status word
  have hg : t.g = _ := answered_g u seq (hcall.trans h.call)
  have htsc : t.sc = { s.g.sc.deliver d (BitVec.ofNat 64 status) with pc := s.g.sc.pc + 4 } := by
    rw [State.sc_group (answered_party u seq _), hg]
    dsimp only
    rw [hsc, SCtx.deliver_pc]
  refine ⟨by rw [hg], ?_, ?_, ?_, ?_, ?_, ?_⟩
  · rw [State.pc, htsc, State.pc, State.sc_group h.party]
  · intro b
    rw [answered_mem, hm]
  · intro hd
    obtain ⟨hv, ht⟩ := s.g.sc.deliver_same (BitVec.ofNat 64 status) hd
    rw [State.rdS_ne _ hd, State.pending, htsc]
    exact ⟨hv, by rw [ht, Bool.and_false]⟩
  · intro r hr
    by_cases h0 : r = 0
    · rw [h0]
      rfl
    · rw [State.rdS_ne _ h0, State.rdS_ne _ h0, htsc, State.sc_group h.party]
      exact SCtx.deliver_other _ _ hr
  · intro hrep l hl
    rw [hg, hrep]
    exact Group.vr_replied_active _ _ _ _ hl
  · intro k l hl hn
    rw [hg]
    exact Group.vr_replied_other _ _ _ _ hl hn

end

end Sys2Proof.Machine
end

-- ==== Answers to parked lanes: O46 ====
section
/-!
# Answers to parked lanes

The disposition of a lane's record (R258): its values stand in the block of its destination, or it is killed.
-/
namespace Sys2Proof.Machine

/-! ### A block of registers in one lane -/

theorem getLsbD_foldl_mask (f : Nat → Bool) {ls : List Nat} (hls : ∀ l ∈ ls, l < 32) (m : Word) (j : Nat) :
    (ls.foldl (fun m l => if f l then m ||| BitVec.ofNat 32 (2 ^ l) else m) m).getLsbD j =
      (m.getLsbD j || (decide (j ∈ ls) && f j)) := by
  induction ls generalizing m with
  | nil => simp
  | cons l ls ih =>
    have hstep : (if f l then m ||| BitVec.ofNat 32 (2 ^ l) else m).getLsbD j = (m.getLsbD j || (decide (j = l) && f l)) := by
      have hbit := putBit_getLsbD m l j true (hls l (by simp))
      rw [putBit, if_pos rfl] at hbit
      split
      next hf => rw [hbit, hf]; by_cases h : j = l <;> simp [h]
      next hf => simp [hf]
    rw [List.foldl_cons, ih fun k hk => hls k (by simp [hk]), hstep]
    by_cases h : j = l
    · subst h
      cases f j <;> simp
    · simp [h]

/-- The mask of a test has the bits of the lanes that pass it. -/
theorem getLsbD_maskOf (f : Nat → Bool) {j : Nat} (h : j < 32) : (maskOf f).getLsbD j = f j := by
  have hls : ∀ l ∈ List.range Config.W, l < 32 := fun l hl => List.mem_range.mp hl
  rw [maskOf, getLsbD_foldl_mask f hls]
  simp [h, Config.W]

theorem Group.putBlock_append (g : Group) (first l : Nat) (ws : List Word) (w : Word) :
    g.putBlock first l (ws ++ [w]) = (g.putBlock first l ws).putVec (first + ws.length) (maskOf fun k => k == l) fun _ => w := by
  rw [Group.putBlock, Group.putBlock, List.zipIdx_append, List.foldl_append]
  simp

/-- A block changes vector registers alone. -/
theorem Group.putBlock_eq (g : Group) (first l : Nat) (ws : List Word) :
    g.putBlock first l ws = { g with vreg := (g.putBlock first l ws).vreg, badV := (g.putBlock first l ws).badV } := by
  induction ws using List.reverseRecOn with
  | nil => rfl
  | append_singleton ws w ih =>
    rw [Group.putBlock_append, Group.putVec, ih]

/-- A lane's block holds its words, one in each register. -/
theorem Group.vr_putBlock (g : Group) (first : Nat) {l : Nat} (hl : l < 32) (ws : List Word) {k : Nat} (hk : k < ws.length) :
    (g.putBlock first l ws).vr (first + k) l = ws[k] := by
  induction ws using List.reverseRecOn with
  | nil => simp at hk
  | append_singleton ws w ih =>
    have hlane : (maskOf fun k => k == l).getLsbD l = true := by rw [getLsbD_maskOf _ hl, beq_self_eq_true]
    rw [Group.putBlock_append]
    by_cases h : k < ws.length
    · rw [(Group.putVec_writes _ _ _ _).vectors _ _ hl (by omega), ih h, List.getElem_append_left h]
    · have hke : k = ws.length := by rw [List.length_append, List.length_singleton] at hk; omega
      subst hke
      rw [Group.vr_putVec_active _ _ _ hlane, List.getElem_append_right (by omega)]
      simp

/-! ### The disposition of a parked lane -/

theorem resumeLane_values (s : State) {p : ParkRec} {n : Nat} (vals : List Word) (h : n ≤ p.op.dest.2) :
    resumeLane s p 2 n vals =
      .ok { s.acquire .sys with g := (s.acquire .sys).g.putBlock p.op.dest.1 p.lane (vals.take n) } := by
  rw [resumeLane, if_neg (by omega)]
  rfl

theorem resumeLane_kill (s : State) {p : ParkRec} {disp n : Nat} (vals : List Word) (h : p.op.dest.2 < n ∨ disp = 4) :
    resumeLane s p disp n vals =
      .ok { s.acquire .sys with g := { (s.acquire .sys).g with killMask := putBit (s.acquire .sys).g.killMask p.lane true } } := by
  have h4 : (if n > p.op.dest.2 then 4 else disp) = 4 := by split <;> omega
  rw [resumeLane]
  simp only [h4]

/-- A lane's slot is free and the lane is no longer parked. -/
def unparked (s : State) (c seq : Nat) (p : ParkRec) : State :=
  let s0 := freeLf s c seq
  { s0 with ch := 2 + p.lane, g := { s0.g with parked := s0.g.parked.filter fun q => !(q.core == c && q.seq == seq) } }

theorem parked_unparked (s : State) (c seq : Nat) (p : ParkRec) :
    ∀ q ∈ (unparked s c seq p).g.parked, q.core ≠ c ∨ q.seq ≠ seq := by
  intro q hq
  have hn := (List.mem_filter.mp hq).2
  by_cases hc : q.core = c
  · exact .inr fun hs => by simp [hc, hs] at hn
  · exact .inl hc

theorem acquire_g_mem (s : State) (sc : Scope) : (s.acquire sc).g = s.g ∧ (s.acquire sc).mem = s.mem := by
  rw [acquire_eq]
  exact ⟨rfl, rfl⟩

/-- The cells of a lane's record that the device looks at: DONE, the disposition and the values. -/
def laneCells (a : Nat) : List (Nat × Nat) := (a + 56, 8) :: (List.range 10).map fun i => (a + 48 + 8 * i, 8)

/-- A lane of the group in focus waits in slot `seq` of a core's queue. -/
structure Parked (s : State) (c seq : Nat) (p : ParkRec) : Prop where
  live : s.g.live = true
  party : s.party = .group
  slot : ∃ r ∈ (s.core c).lfLive, r.seq = seq
  parked : s.g.parked.find? (fun q => q.core == c && q.seq == seq) = some p

section
variable {s u : State} {c seq : Nat} {p : ParkRec} {val : Nat → Nat → Nat} (h : Parked s c seq p)
  (hf : s.look (2 ^ 64 + 2 ^ 32 * c + seq) (laneCells (lfqSlot s c seq)) = .ok (u, some val))
include h hf

theorem exec_laneResume_again (hd : val (lfqSlot s c seq + 56) 8 = 0) :
    exec (.laneResume c seq) s = .next (u.post (.laneResume c seq)) := by
  obtain ⟨r, hr, hseq⟩ := h.slot
  have hany : ((s.core c).lfLive.any fun r => r.seq == seq) = true := List.any_eq_true.mpr ⟨r, hr, by rw [hseq, beq_self_eq_true]⟩
  show execLaneResume c seq s = _
  rw [laneCells] at hf
  simp only [execLaneResume, hany, hf, hd]
  rfl

theorem exec_laneResume_done (hd : val (lfqSlot s c seq + 56) 8 ≠ 0) {t : State}
    (hr : resumeLane (unparked u c seq p) p (val (lfqSlot s c seq + 48) 4) (val (lfqSlot s c seq + 52) 4)
      ((List.range 16).map fun i => BitVec.ofNat 32 (val (lfqSlot s c seq + 64 + 4 * i) 4)) = .ok t) :
    exec (.laneResume c seq) s = .next { t with ch := u.ch } := by
  obtain ⟨r, hmem, hseq⟩ := h.slot
  have hany : ((s.core c).lfLive.any fun r => r.seq == seq) = true := List.any_eq_true.mpr ⟨r, hmem, by rw [hseq, beq_self_eq_true]⟩
  have hu := look_ok hf
  have hg : u.g = s.g := by rw [hu]
  have hlive : u.g.live = true := by rw [hg, h.live]
  have hparty : u.party = .group := by rw [hu]; exact h.party
  have hpark : u.g.parked.find? (fun q => q.core == c && q.seq == seq) = some p := by rw [hg, h.parked]
  have hfind : (u.groups.find? fun g => g.parked.any fun p => p.core == c && p.seq == seq) = some u.g := by
    have his : (u.g.parked.any fun p => p.core == c && p.seq == seq) = true :=
      List.any_eq_true.mpr ⟨p, List.mem_of_find?_eq_some hpark, List.find?_some (p := fun q : ParkRec => q.core == c && q.seq == seq) hpark⟩
    simp only [State.groups, hlive, if_true, List.find?_cons, his]
  show execLaneResume c seq s = _
  rw [laneCells] at hf
  simp only [execLaneResume, hany, hf, if_neg hd, hfind, hpark, State.focus_self hlive hparty]
  simp only [unparked] at hr
  simp only [hr]
  rfl

/-- DISP 2: the values stand in the lane's block (R258). -/
theorem laneResume_values (hd : val (lfqSlot s c seq + 56) 8 ≠ 0) (hn : val (lfqSlot s c seq + 52) 4 ≤ p.op.dest.2)
    (h2 : val (lfqSlot s c seq + 48) 4 = 2) : ∃ t, exec (.laneResume c seq) s = .next t ∧
      (∀ q ∈ t.g.parked, q.core ≠ c ∨ q.seq ≠ seq) ∧ SameBytes s t ∧
      (p.lane < 32 → ∀ k, k < val (lfqSlot s c seq + 52) 4 → k < 16 →
        t.g.vr (p.op.dest.1 + k) p.lane = BitVec.ofNat 32 (val (lfqSlot s c seq + 64 + 4 * k) 4)) := by
  obtain ⟨hag, ham⟩ := acquire_g_mem (unparked u c seq p) .sys
  refine ⟨_, exec_laneResume_done h hf hd (by rw [h2]; exact resumeLane_values _ _ hn), ?_, ?_, ?_⟩
  · rw [hag, Group.putBlock_eq]
    exact parked_unparked u c seq p
  · intro b
    rw [ham, look_ok hf]
    rfl
  · intro hl k hk h16
    refine (Group.vr_putBlock _ _ hl _ (by simp; omega)).trans ?_
    simp

/-- A lane is killed by DISP 4 and by a count of values beyond its block (R258). -/
theorem laneResume_kill (hd : val (lfqSlot s c seq + 56) 8 ≠ 0)
    (hk : p.op.dest.2 < val (lfqSlot s c seq + 52) 4 ∨ val (lfqSlot s c seq + 48) 4 = 4) : ∃ t, exec (.laneResume c seq) s = .next t ∧
      (∀ q ∈ t.g.parked, q.core ≠ c ∨ q.seq ≠ seq) ∧ SameBytes s t ∧ (p.lane < 32 → t.g.killMask.getLsbD p.lane = true) ∧
      t.g.vreg = s.g.vreg := by
  obtain ⟨hag, ham⟩ := acquire_g_mem (unparked u c seq p) .sys
  refine ⟨_, exec_laneResume_done h hf hd (resumeLane_kill _ _ hk), ?_, ?_, ?_, ?_⟩
  · rw [hag]
    exact parked_unparked u c seq p
  · intro b
    rw [ham, look_ok hf]
    rfl
  · intro hl
    exact (putBit_getLsbD _ _ _ _ hl).trans (if_pos rfl)
  · rw [hag, look_ok hf]
    rfl

end

end Sys2Proof.Machine
end

-- ==== Dispositions of stopped groups: O46 ====
section
/-!
# Dispositions of stopped groups

A stopped group goes on by the disposition of its record (R401): at its instruction, past it, or at its region's entry.
-/
namespace Sys2Proof.Machine

/-! ### The record's slot -/

theorem setDom_groups (s : State) (d : Nat) (x : Domain) : (s.setDom d x).groups = s.groups := by
  unfold State.setDom
  split <;> rfl

/-- Where no group waits for a slot, none is written. -/
theorem writeWaiting_none {s : State} (d : Nat) (h : ∀ g ∈ s.groups, ∀ t l, g.phase ≠ .stopped none t l) : writeWaiting s d = s := by
  unfold writeWaiting
  dsimp only
  rw [List.filter_eq_nil_iff.mpr, List.foldl_nil]
  intro g hg
  split
  next hp => exact absurd hp (h g hg _ _)
  next => exact Bool.false_ne_true

theorem freeGf_none {s : State} (d seq : Nat) (h : ∀ g ∈ s.groups, ∀ t l, g.phase ≠ .stopped none t l) :
    freeGf s d seq = s.setDom d { s.dom d with gfLive := (s.dom d).gfLive.filter fun r => r.seq != seq } :=
  writeWaiting_none d (by rw [setDom_groups]; exact h)

/-! ### A group that goes on -/

/-- The group in focus goes on after an acquire. -/
def resumed (s : State) : State := { s.acquire .sys with g := s.g.goOn }

theorem Group.goOn_free {g : Group} (h : g.call = none) : g.goOn = { g with phase := .running } := by
  unfold Group.goOn
  rw [h]
  rfl

theorem resumed_mem (s : State) : (resumed s).mem = s.mem := (acquire_g_mem s .sys).2

theorem disposeGroup_retry {s : State} {t : Trap} (lane : Bool) (hk : t.kind = .precise) (hc : t.code ≠ .brk) :
    disposeGroup s t lane 1 = resumed s := by
  have hb : (t.code == .brk) = false := beq_eq_false_iff_ne.mpr hc
  simp only [disposeGroup, hk, hb, Bool.false_eq_true, if_false, if_true]
  rfl

theorem disposeGroup_skip {s : State} {t : Trap} (hk : t.kind = .precise) (hc : t.code ≠ .brk) :
    disposeGroup s t false 2 = resumed s.next := by
  have hb : (t.code == .brk) = false := beq_eq_false_iff_ne.mpr hc
  simp only [disposeGroup, hk, hb, Bool.false_eq_true, if_false]
  rfl

theorem disposeGroup_brk {s : State} {t : Trap} (lane : Bool) (hk : t.kind = .precise) (hc : t.code = .brk) :
    disposeGroup s t lane 1 = resumed s.next := by
  have hb : (t.code == .brk) = true := beq_iff_eq.mpr hc
  simp only [disposeGroup, hk, hb, if_true]
  rfl

theorem disposeGroup_restart {s : State} {t : Trap} (lane : Bool) {disp : Nat} (hd : disp = 1 ∨ disp = 2) (hk : t.kind = .restart) :
    disposeGroup s t lane disp = s.g.restart.goOn.refills.foldl State.post (resumed { s with g := s.g.restart }) := by
  rcases hd with rfl | rfl <;> simp only [disposeGroup, hk] <;> rfl

theorem foldl_post (es : List Ev) (s : State) : (es.foldl State.post s).g = s.g ∧ (es.foldl State.post s).mem = s.mem :=
  foldl_keeps_mem (fun t : State => t.g = s.g ∧ t.mem = s.mem) es
    (fun t e _ h => ⟨(t.post_g e).trans h.1, (t.post_mem e).trans h.2⟩) ⟨rfl, rfl⟩

/-! ### The disposition -/

/-- The cells of a fault record that the device looks at: DONE and the disposition. -/
def faultCells (a : Nat) : List (Nat × Nat) := [(a + 96, 8), (a + 88, 4)]

theorem exec_faultDisposition_none {s : State} {d seq : Nat} (h : ∀ r ∈ (s.dom d).gfLive, r.seq ≠ seq) :
    exec (.faultDisposition d seq) s = .next s := by
  have hnone : ((s.dom d).gfLive.find? fun r => r.seq == seq) = none :=
    List.find?_eq_none.mpr fun r hr => by simpa using h r hr
  show execFaultDisposition d seq s = _
  simp only [execFaultDisposition, hnone]

section
variable {s u : State} {d seq : Nat} {r : GfRec} {val : Nat → Nat → Nat}
  (hr : ((s.dom d).gfLive.find? fun r => r.seq == seq) = some r)
  (hf : s.look (2 ^ 62 + 2 * seq + d) (faultCells (gfSlot s d seq)) = .ok (u, some val))
include hr hf

theorem exec_faultDisposition_again (hd : val (gfSlot s d seq + 96) 8 = 0) :
    exec (.faultDisposition d seq) s = .next (u.post (.faultDisposition d seq)) := by
  show execFaultDisposition d seq s = _
  rw [faultCells] at hf
  simp only [execFaultDisposition, hr, hf, hd, if_true]

variable {tr : Trap} {lane : Bool} (hd : val (gfSlot s d seq + 96) 8 ≠ 0) (hw : r.withdrawn = false) (hpass : r.pass = none)
  (hgid : r.gid = some s.g.gid) (hlive : s.g.live = true) (hp : s.party = .group)
  (hwait : ∀ g ∈ s.groups, ∀ t l, g.phase ≠ .stopped none t l) (hstop : s.g.phase = .stopped (some seq) tr lane)
include hd hw hpass hgid hlive hp hwait hstop

/-- A record whose DONE is written frees its slot, and its group, in focus, is disposed of. -/
theorem exec_faultDisposition_done : ∃ t, exec (.faultDisposition d seq) s =
      .next (disposeGroup t tr lane (val (gfSlot s d seq + 88) 4)) ∧ t.g = s.g ∧ t.party = .group ∧ t.mem = s.mem := by
  have hu := look_ok hf
  have hug : u.g = s.g := by rw [hu]
  have hfree : freeGf u d seq = _ := freeGf_none (s := u) d seq (by rw [hu]; exact hwait)
  have hrec := recorded_setDom u d { u.dom d with gfLive := (u.dom d).gfLive.filter fun r => r.seq != seq }
  rw [← hfree] at hrec
  have hg : (freeGf u d seq).g = s.g := hrec.g.trans hug
  have hparty : (freeGf u d seq).party = .group := by rw [hrec.party, hu]; exact hp
  have hlive' : (freeGf u d seq).g.live = true := by rw [hg, hlive]
  have hfocus : (freeGf u d seq).focus s.g.gid = some (freeGf u d seq) := by rw [← hg]; exact State.focus_self hlive' hparty
  have hon (f : State → State) : onGroup (freeGf u d seq) s.g.gid f = f (freeGf u d seq) := by
    rw [onGroup, hfocus]
  refine ⟨freeGf u d seq, ?_, hg, hparty, by rw [hfree, State.setDom_mem, hu]⟩
  show execFaultDisposition d seq s = _
  rw [faultCells] at hf
  simp only [execFaultDisposition, hr, hf, if_neg hd, hw, hpass, hgid, hug, hfocus, Option.getD_some, hon, hg, hstop,
    Bool.false_eq_true, if_false, if_true]

end

/-- A group whose call is over goes on with its phase running. -/
theorem resumed_goes {s f : State} {g : Group} (hg : f.g = g) (hc : g.call = none) (hm : f.mem = s.mem) :
    (resumed f).g = { g with phase := .running } ∧ SameBytes s (resumed f) := by
  subst hg
  exact ⟨Group.goOn_free hc, fun b => by rw [resumed_mem, hm]⟩

theorem next_g_eq {s t : State} (hg : t.g = s.g) (ht : t.party = .group) (hs : s.party = .group) : t.next.g = (s.setPc (s.pc + 4)).g := by
  rw [next_group ht, setPc_group hs, hg, State.pc, State.sc_group hs]

/-- Settles O46: the four answers, each by the lemma of its event. -/
theorem answersResumeTheirGroups : Obligations.AnswersResumeTheirGroups := by
  refine ⟨?_, ?_, ?_, ?_⟩
  · intro s seq d rep vrep em hlive hp hphase hcall hleave a found
    have h : InCall s seq d rep vrep em := ⟨hlive, hp, hphase, hcall, hleave⟩
    refine ⟨fun u hf => exec_syscallReply_again h hf, fun u val hf => ?_⟩
    have hexec := exec_syscallReply_found h hf
    refine ⟨fun hd => by rw [hexec, if_pos hd], fun hd => ⟨_, by rw [hexec, if_neg hd], ?_⟩⟩
    exact answered_facts h (by rw [look_ok hf]) _ _
  · intro s ch cells h
    refine ⟨_, _, look_local s ch h, ?_, ?_, fun key n hk => ?_⟩
    · exact State.remClear_g _
    · exact State.remClear_mem _
    · rw [State.seen, hk]
      rfl
  · intro s c seq p hlive hp hslot hpark a found u val hf
    have h : Parked s c seq p := ⟨hlive, hp, hslot, hpark⟩
    exact ⟨exec_laneResume_again h hf, fun hd => ⟨laneResume_values h hf hd, laneResume_kill h hf hd⟩⟩
  · intro s d seq a
    refine ⟨exec_faultDisposition_none, fun r hr u val hf => ⟨exec_faultDisposition_again hr hf, ?_⟩⟩
    intro tr lane hd hw hpass hgid hlive hp hcall hwait hstop goes
    obtain ⟨f, hexec, hg, hparty, hm⟩ := exec_faultDisposition_done hr hf hd hw hpass hgid hlive hp hwait hstop
    have hnext : f.next.g = (s.setPc (s.pc + 4)).g := next_g_eq hg hparty hp
    have hnextm : f.next.mem = s.mem := by rw [State.next_mem, hm]
    have hncall : (s.setPc (s.pc + 4)).g.call = none := by rw [setPc_group hp]; exact hcall
    refine ⟨fun h1 hk hc => ?_, fun h2 hk hc hl => ?_, fun h1 hk hc => ?_, fun h12 hk => ?_⟩
    · exact ⟨_, by rw [hexec, h1, disposeGroup_retry lane hk hc], resumed_goes hg hcall hm⟩
    · subst hl
      exact ⟨_, by rw [hexec, h2, disposeGroup_skip hk hc], resumed_goes hnext hncall hnextm⟩
    · exact ⟨_, by rw [hexec, h1, disposeGroup_brk lane hk hc], resumed_goes hnext hncall hnextm⟩
    · obtain ⟨hpg, hpm⟩ := foldl_post f.g.restart.goOn.refills (resumed { f with g := f.g.restart })
      obtain ⟨hgo, hbytes⟩ := resumed_goes (s := s) (f := { f with g := f.g.restart }) (g := s.g.restart) (by rw [hg]) hcall hm
      exact ⟨_, by rw [hexec, disposeGroup_restart lane h12 hk], hpg.trans hgo, fun b => by rw [hpm, hbytes b]⟩

end Sys2Proof.Machine
end

section
/-!
# The status word, the execution mask and the lane fence (R144, R165, R186, R288, R305)

Each instruction issues, has one effect of its own on the state that its issue leaves, and completes (`laneDo_next`, `statOp_next`).
-/
namespace Sys2Proof.Machine
open Forms (LView)

/-! ### Issue, effect and completion -/

section
variable {v : LView} {s t : State} {f : LIn → State → Res State}

/-- An instruction that is ready issues, has its effect and completes. -/
theorem laneDo_next (h : LaneReady v v.h.sw s) (hf : f (laneIn v s) (laneStart v.h.sw s) = .ok t) :
    laneDo v f s = .next (laneDone v t) := by
  have hissue : laneIssue v s = .ok (laneIn v s, laneStart v.h.sw s) := laneIssueWith_ready h
  simp only [laneDo, hissue, bind, Except.bind, hf]
  rfl

/-- VSTAT issues as a marked instruction (R165). -/
theorem statOp_next (h : LaneReady v true s) (hf : f (laneIn v s) (laneStart true s) = .ok t) :
    statOp v f s = .next (laneDone v t) := by
  simp only [statOp, laneIssueWith_ready h, bind, Except.bind, hf]
  rfl
end

/-! ### LSTAT (R165) -/

theorem Group.lst_setLst_active (g : Group) {act : Word} (f : Nat → Word) {l : Nat} (h : act.getLsbD l = true) :
    (g.setLst act f).lst l = f l :=
  SMap.get_foldl_update 0 id (fun l _ => f l) (nodup_lanesOf act) g.lstat (mem_lanesOf h) fun _ _ e => e

theorem Group.lst_setLst_inactive (g : Group) {act : Word} (f : Nat → Word) {l : Nat} (h : ¬ act.getLsbD l = true) :
    (g.setLst act f).lst l = g.lst l :=
  SMap.get_foldl_set 0 f id (lanesOf act) g.lstat l fun _ hi e => h (e ▸ getLsbD_of_mem_lanesOf hi)

theorem exec_vstatGet (o : LOp) (s : State) : exec (.vstatGet o) s =
    statOp (Forms.vstatGet o) (fun x t => writeField s t x.act .w32 false o.vd fun l => lo32 (t.g.lst l)) s := rfl

theorem exec_vstatSet (o : LOp) (s : State) : exec (.vstatSet o) s =
    statOp (Forms.vstatPut o) (fun x t => .ok { t with g := t.g.setLst x.act fun l => (x.a l).setWidth 32 &&& 0xF3F }) s := rfl

theorem exec_vstatClr (o : LOp) (s : State) : exec (.vstatClr o) s =
    statOp (Forms.vstatPut o) (fun x t =>
      .ok { t with g := t.g.setLst x.act fun l => t.g.lst l &&& ~~~((x.a l).setWidth 32 &&& 0xF3F) }) s := rfl

/-- VSTAT.get writes its register in the active lanes. -/
theorem vstatGet_next {o : LOp} {n : BitVec 11} {s : State} (hn : o.vd = .v n) (h : LaneReady (Forms.vstatGet o) true s) :
    exec (.vstatGet o) s = .next (laneDone (Forms.vstatGet o)
      { laneStart true s with g := (laneStart true s).g.putVec n.toNat (s.g.active o.h) s.g.lst }) := by
  refine (exec_vstatGet o s).trans (statOp_next h ?_)
  have hlow : (fun l => (lo32 (s.g.lst l)).setWidth 32) = s.g.lst := funext fun l => setWidth_lo32 _
  rw [hn, writeField_notPort rfl]
  exact congrArg (fun f => Except.ok { laneStart true s with g := (laneStart true s).g.putVec n.toNat (s.g.active o.h) f }) hlow

theorem laneStatusInstructions : Spec.LaneStatusInstructions := by
  refine fun o s => ⟨fun n hn h => ⟨_, vstatGet_next hn h, ?_, fun l hl => Group.vr_putVec_active _ _ _ hl⟩, fun h => ⟨?_, ?_⟩⟩
  · have hdst : LView.dst (Forms.vstatGet o) = [(n.toNat, 1)] := by
      simp [Forms.vstatGet, LView.dst, Forms.ofOp, hn, Forms.Use.span]
    refine laneFrame_of_writesVec ((Group.putVec_writes _ n.toNat _ _).congr fun k => ?_) rfl
    rw [hdst]
    simp
    omega
  · exact ⟨_, (exec_vstatSet o s).trans (statOp_next h rfl), fun _ => rfl, rfl, fun l hl => Group.lst_setLst_active _ _ hl,
      fun l hl => Group.lst_setLst_inactive _ _ hl⟩
  · exact ⟨_, (exec_vstatClr o s).trans (statOp_next h rfl), fun _ => rfl, rfl, fun l hl => Group.lst_setLst_active _ _ hl,
      fun l hl => Group.lst_setLst_inactive _ _ hl⟩

/-! ### The execution mask (R144) -/

/-- The predicate that mod[6:0] names. -/
theorem ofNat_xf_low7 (o : LOp) : BitVec.ofNat 7 (Forms.xf o 0 7) = o.x.setWidth 7 := by
  apply BitVec.eq_of_toNat_eq
  simp [Forms.xf]

theorem emPred_eq (o : LOp) (t : State) : emPred o t = t.g.pr (o.x.setWidth 7) := by
  rw [emPred, ofNat_xf_low7]

/-- A member of EMSET gives `em` its value. -/
theorem emset_next {i : Instr} {v : LView} {s : State} {m : LIn → State → Word}
    (hexec : exec i s = laneDo v (fun x t => setEm t (m x t)) s) (h : LaneReady v v.h.sw s) : exec i s =
      .next (laneDone v { s with g := { s.g with haz := s.g.haz.at v.h.sw, em := m (laneIn v s) (laneStart v.h.sw s) } }) :=
  hexec.trans (laneDo_next h rfl)

theorem executionMask : Spec.ExecutionMask := by
  intro o s
  have hpred : emPred o (laneStart o.h.sw s) = s.g.pr (o.x.setWidth 7) := emPred_eq o _
  dsimp only
  rw [← hpred]
  refine ⟨fun h => ⟨?_, ?_, ?_⟩, fun h => ⟨?_, fun r hr => ?_⟩⟩
  · exact emset_next (m := fun _ t => t.g.em &&& emPred o t) rfl h
  · exact emset_next (m := fun _ t => t.g.em &&& ~~~(emPred o t)) rfl h
  · exact emset_next (m := fun _ t => t.g.em ||| emPred o t) rfl h
  · exact emset_next (m := fun _ t => t.g.em) rfl h
  · have hread : (laneIn (Forms.emsetSet o) s).a 0 = snapS s.g.run r := by
      show s.g.rdOpd s.gteam.teamlin true o.va 0 = _
      rw [hr]
      rfl
    rw [← hread]
    exact emset_next (m := fun x _ => (x.a 0).setWidth 32) rfl h

/-! ### VFENCE (R186, R288, R305) -/

theorem fenced_lane {u : State} (hp : u.party = .group) (sc : Scope) :
    u.fenced true sc = if sc = .sys then { u with g := { u.g with relL := true } } else u := by
  cases sc <;> simp [State.fenced, hp]

theorem exec_vfence (h : LHdr) (kind : FenceKind) (scope : Scope) (s : State) : exec (.vfence h kind scope) s =
    laneDo { h := h, lat := .none, mem := true } (fun _ t => match kind with
      | .acq => .ok (t.acquire scope)
      | .rel => t.release scope >>= fun _ => .ok (t.fenced true scope)
      | .ar => t.release scope >>= fun _ => .ok ((t.acquire scope).fenced true scope)) s := by
  cases kind <;> rfl

theorem laneFences : Spec.LaneFences := by
  intro h kind scope s v hready hrel
  have hp (acq : Option Scope) : (Spec.afterAcquire (laneStart h.sw s) acq).party = .group := by
    rw [afterAcquire_eq]
    exact hready.group
  have hgo (hk : kind ≠ .acq) : (laneStart h.sw s).release scope = .ok () := release_ok (hrel hk)
  refine (exec_vfence h kind scope s).trans (laneDo_next hready ?_)
  cases kind with
  | acq => simp [acquire_eq_afterAcquire]
  | rel =>
    simp only [hgo (by decide), bind, Except.bind]
    rw [fenced_lane (u := laneStart h.sw s) hready.group]
    simp [Spec.afterAcquire]
  | ar =>
    simp only [hgo (by decide), bind, Except.bind, acquire_eq_afterAcquire]
    rw [fenced_lane (hp _)]
    simp

/-- Settles O35: the status word, the execution mask and the fence. -/
theorem laneStateInstructions : Obligations.LaneStateInstructions := ⟨laneStatusInstructions, executionMask, laneFences⟩

end Sys2Proof.Machine
end

section
/-!
# Loops and the end of a run (R140 to R143)

LOOP and LOOPW share `openLoop`, whose checks pass for a loop instruction that opens a body (`Opens`): then the first pass begins
(`Opens.enters`) or the loop is stepped past (`Opens.skips`). ENDL is one change of the lane stream (`afterEndl`), and so is VRET.
-/
namespace Sys2Proof.Machine

/-! ### Bodies -/

/-- A body whose words can all be fetched fills the loop buffer. -/
theorem fillLoopBuf_ok {s : State} {m i : Nat} (h : ∀ k, i ≤ k → k < i + m → ∃ x, fetchLane s k = .ok x) :
    ∃ ws, fillLoopBuf s m i = .ok ws := by
  induction m generalizing i with
  | zero => exact ⟨[], rfl⟩
  | succ m ih =>
    obtain ⟨w, hw⟩ := h i (by omega) (by omega)
    obtain ⟨ws, hws⟩ := ih (i := i + 1) fun k hk hlt => h k (by omega) (by omega)
    exact ⟨(i, w) :: ws, by simp only [fillLoopBuf, hw, hws]; rfl⟩

/-- A loop instruction of run `r` that names a body of `n` words: there is room for one more loop, the body ends in ENDL within the loop
around it, and an outermost body can be fetched (R140, R141). -/
structure Opens (s : State) (r : Run) (n : Nat) : Prop where
  active : s.g.lane.active = some r
  length : 1 ≤ n ∧ n ≤ 254
  room : s.g.lane.frames.length < 3
  last : ∃ w, laneWordAt s (r.lpc + n + 1) = .ok w ∧ isEndl w = true
  inside : ∀ f ∈ s.g.lane.frames.head?, r.lpc + n + 1 < f.stop
  body : s.g.lane.frames = [] → ∀ k, r.lpc < k → k ≤ r.lpc + n + 1 → ∃ x, fetchLane s k = .ok x

/-- The first pass of a loop whose ENDL stands at `e` has begun. -/
def LoopEntered (s t : State) (r : Run) (e : Nat) (isW : Bool) (pa : PReg) (cnt : Word) : Prop :=
  t.g.lane.active = some { r with lpc := r.lpc + 1 } ∧ t.g.lane.frames = ⟨r.lpc + 1, e, isW, pa⟩ :: s.g.lane.frames ∧
    SMap.get 0 t.g.lane.lc s.g.lane.frames.length = cnt ∧ t.g.vreg = s.g.vreg ∧ t.g.sc = s.g.sc ∧ SameBytes s t

/-- The loop whose ENDL stands at `e` has been stepped past. -/
def LoopSkipped (s t : State) (r : Run) (e : Nat) : Prop :=
  t.g.lane = { s.g.lane with active := some { r with lpc := e + 1 } } ∧ t.g.vreg = s.g.vreg ∧ t.g.sc = s.g.sc ∧ SameBytes s t

/-- The state as the first pass of a loop begins, its body in the buffer. -/
def bodyBegun (s : State) (r : Run) (n : Nat) (isW : Bool) (pa : PReg) (cnt : Word) (buf : List (Nat × LaneWord)) : State :=
  State.laneJump { s with g := { s.g with lane := { s.g.lane with
    frames := ⟨r.lpc + 1, r.lpc + n + 1, isW, pa⟩ :: s.g.lane.frames
    lc := SMap.set 0 s.g.lane.lc s.g.lane.frames.length cnt
    loopBuf := buf } } } (r.lpc + 1)

theorem Group.run_of_active {g : Group} {r : Run} (h : g.lane.active = some r) : g.run = r := by
  rw [Group.run, h]
  rfl

/-- The length and the last word of the body pass their checks. -/
theorem Opens.checks {s : State} {r : Run} {n : Nat} (h : Opens s r n) : (decide (1 ≤ n) && decide (n ≤ 254) && !false) = true ∧
    ∃ w, laneWordAt s (r.lpc + n + 1) = .ok w ∧
      (isEndl w && s.g.lane.frames.head?.all fun f => decide (r.lpc + n + 1 < f.stop)) = true := by
  obtain ⟨w, hw, hend⟩ := h.last
  exact ⟨by simp [h.length], w, hw, by simpa [hend, Option.all_eq_true] using h.inside⟩

section
variable {s : State} {r : Run} {n : Nat} (h : Opens s r n) (isW : Bool) (pa : PReg) (cnt : Word)
include h

/-- The checks of a loop instruction pass, and its body, an outermost loop's from memory, stands in the buffer. -/
theorem Opens.openLoop_enter : ∃ buf, openLoop s n isW pa cnt true false = .ok (bodyBegun s r n isW pa cnt buf) := by
  obtain ⟨hlen, w, hw, hin⟩ := h.checks
  simp only [openLoop, Group.run_of_active h.active, require_ok (decide_eq_true h.room), require_ok hlen, hw, lift, require_ok hin, bind,
    Except.bind]
  cases hf : s.g.lane.frames with
  | nil =>
    obtain ⟨ws, hws⟩ := fillLoopBuf_ok (s := s) (m := n + 1) (i := r.lpc + 1) fun k hk hlt => h.body hf k (by omega) (by omega)
    refine ⟨ws, ?_⟩
    simp only [hws, bodyBegun, hf]
    rfl
  | cons f rest =>
    refine ⟨s.g.lane.loopBuf, ?_⟩
    simp only [bodyBegun, hf]
    rfl

/-- The checks of a loop instruction pass, and the loop is stepped past. -/
theorem Opens.openLoop_skip : openLoop s n isW pa cnt false false = .ok (s.laneJump (r.lpc + n + 1 + 1)) := by
  obtain ⟨hlen, w, hw, hin⟩ := h.checks
  simp only [openLoop, Group.run_of_active h.active, require_ok (decide_eq_true h.room), require_ok hlen, hw, lift, require_ok hin, bind,
    Except.bind]
  rfl

theorem Opens.enters : ∃ t, openLoop s n isW pa cnt true false = .ok t ∧ t.g.haz = s.g.haz ∧
    LoopEntered s t r (r.lpc + n + 1) isW pa cnt := by
  obtain ⟨buf, hopen⟩ := h.openLoop_enter isW pa cnt
  exact ⟨_, hopen, rfl, congrArg (Option.map _) h.active, rfl, SMap.get_set_same .., rfl, rfl, fun _ => rfl⟩

theorem Opens.skips : ∃ t, openLoop s n isW pa cnt false false = .ok t ∧ t.g.haz = s.g.haz ∧ LoopSkipped s t r (r.lpc + n + 1) := by
  refine ⟨_, h.openLoop_skip isW pa cnt, rfl, ?_, rfl, rfl, fun _ => rfl⟩
  show ({ s.g.lane with active := s.g.lane.active.map _ } : LaneCtx) = _
  rw [h.active]
  rfl

/-- A loop instruction enters its body or steps past it. -/
theorem Opens.openLoop_ok (go : Bool) : ∃ t, openLoop s n isW pa cnt go false = .ok t ∧ t.g.haz = s.g.haz ∧
    (go = true → LoopEntered s t r (r.lpc + n + 1) isW pa cnt) ∧ (go = false → LoopSkipped s t r (r.lpc + n + 1)) := by
  cases go with
  | true =>
    obtain ⟨t, ht, hz, he⟩ := h.enters isW pa cnt
    exact ⟨t, ht, hz, fun _ => he, nofun⟩
  | false =>
    obtain ⟨t, ht, hz, he⟩ := h.skips isW pa cnt
    exact ⟨t, ht, hz, nofun, fun _ => he⟩

/-- LOOPW's parking leaves what opens a loop: fetching reads nothing of the hazard state. -/
theorem Opens.withHaz (z : Hazard) : Opens { s with g := { s.g with haz := z } } r n :=
  ⟨h.active, h.length, h.room, h.last, h.inside, h.body⟩

end

section
variable {s : State} {r : Run} {n : BitVec 8} (hp : s.party = .group) (h : Opens s r n.toNat)
include hp h

theorem exec_loopImm (cnt : BitVec 20) : ∃ t, exec (.loopImm cnt n) s = .next t ∧ t.g.haz = s.g.haz ∧
    (cnt ≠ 0 → LoopEntered s t r (r.lpc + n.toNat + 1) false 0 (cnt.setWidth 32)) ∧
    (cnt = 0 → LoopSkipped s t r (r.lpc + n.toNat + 1)) := by
  obtain ⟨t, ht, hz, henter, hskip⟩ := h.openLoop_ok false 0 (cnt.setWidth 32) (cnt != 0)
  refine ⟨t, ?_, hz, fun hc => henter (bne_iff_ne.mpr hc), fun hc => hskip (by simp [hc])⟩
  show execLoopImm cnt n s = _
  simp only [execLoopImm, needLanes_ok hp, bind, Except.bind, ht]
  rfl

theorem exec_loopReg {a : Opd} (ha : ∀ q, a = .s q → s.g.waits q = false ∧ (q = 0 ∨ s.g.run.bad.getLsbD q.toNat = false)) :
    let cnt : Word := (s.g.rdOpd s.gteam.teamlin true a 0).setWidth 32
    ∃ t, exec (.loopReg a n) s = .next t ∧ t.g.haz = s.g.haz ∧
      (cnt ≠ 0 → LoopEntered s t r (r.lpc + n.toNat + 1) false 0 cnt) ∧ (cnt = 0 → LoopSkipped s t r (r.lpc + n.toNat + 1)) := by
  intro cnt
  obtain ⟨t, ht, hz, henter, hskip⟩ := h.openLoop_ok false 0 cnt (cnt != 0)
  refine ⟨t, ?_, hz, fun hc => henter (bne_iff_ne.mpr hc), fun hc => hskip (by simp [hc])⟩
  show execLoopReg a n s = _
  cases a with
  | s q =>
    obtain ⟨hw, hb⟩ := ha q rfl
    have hbad : (!(q != 0 && s.g.run.bad.getLsbD q.toNat)) = true := by simpa [Decidable.imp_iff_not_or] using hb
    simp only [execLoopReg, needLanes_ok hp, hw, require_ok hbad, bind, Except.bind]
    exact congrArg (finishL s) ht
  | _ =>
    simp only [execLoopReg, needLanes_ok hp, bind, Except.bind]
    exact congrArg (finishL s) ht

theorem exec_loopw {pa : PReg} {cap : BitVec 14} (hpa : pa.toNat < s.g.predsz) (hcap : cap ≠ 0) :
    ∃ t, exec (.loopw pa cap n) s = .next t ∧ t.g.haz = {} ∧
      (anyLane s.g pa = true → LoopEntered s t r (r.lpc + n.toNat + 1) true pa (cap.setWidth 32)) ∧
      (anyLane s.g pa = false → LoopSkipped s t r (r.lpc + n.toNat + 1)) := by
  obtain ⟨t, ht, hz, henter, hskip⟩ := (h.withHaz {}).openLoop_ok true pa (cap.setWidth 32) (anyLane s.g pa)
  refine ⟨t, ?_, hz, henter, hskip⟩
  have hcap : (cap == 0) = false := by simpa using hcap
  show execLoopw pa cap n s = _
  simp only [execLoopw, needLanes_ok hp, require_ok (decide_eq_true hpa), hcap, bind, Except.bind]
  exact congrArg (finishL s) ht

end

/-! ### The end of a body (R142) -/

/-- The state after ENDL of the innermost loop `f`, inside the loops `rest`; `c` is the count that is left. -/
def afterEndl (s : State) (f : Frame) (rest : List Frame) (c : Word) (again : Bool) : State :=
  State.laneJump { s with g := { s.g with
    haz := if f.isW then {} else s.g.haz
    lane := { s.g.lane with
      lc := SMap.set 0 s.g.lane.lc rest.length c
      frames := if again then f :: rest else rest
      loopBuf := if again || !rest.isEmpty then s.g.lane.loopBuf else [] } } } (if again then f.start else s.g.run.lpc + 1)

theorem exec_endl {s : State} {f : Frame} {rest : List Frame} (hp : s.party = .group) (hf : s.g.lane.frames = f :: rest)
    (hstop : f.stop = s.g.run.lpc) : exec .endl s =
      let c := SMap.get 0 s.g.lane.lc rest.length - 1
      .next (afterEndl s f rest c (c != 0 && (!f.isW || anyLane s.g f.pa))) := by
  show execEndl s = _
  have hb : (f.stop == s.g.run.lpc) = true := beq_iff_eq.mpr hstop
  simp only [execEndl, needLanes_ok hp, hf, require_ok hb, bind, Except.bind, afterEndl]
  cases f.isW <;> rfl

theorem endOfABody {s : State} {r : Run} {f : Frame} {rest : List Frame} (hp : s.party = .group) (hact : s.g.lane.active = some r)
    (hf : s.g.lane.frames = f :: rest) (hstop : f.stop = r.lpc) :
    let c := SMap.get 0 s.g.lane.lc rest.length - 1
    let again := c ≠ 0 ∧ (f.isW = true → anyLane s.g f.pa = true)
    ∃ t, exec .endl s = .next t ∧ SameBytes s t ∧ t.g.vreg = s.g.vreg ∧ t.g.sc = s.g.sc ∧ SMap.get 0 t.g.lane.lc rest.length = c ∧
      (f.isW = false → t.g.haz = s.g.haz) ∧ (f.isW = true → t.g.haz = {}) ∧
      (again → t.g.lane.active = some { r with lpc := f.start } ∧ t.g.lane.frames = f :: rest) ∧
      (¬ again → t.g.lane.active = some { r with lpc := r.lpc + 1 } ∧ t.g.lane.frames = rest) := by
  intro c again
  have hrun := Group.run_of_active hact
  have hagain : (c != 0 && (!f.isW || anyLane s.g f.pa)) = true ↔ again := by
    simp [again, ← Bool.not_eq_true, imp_iff_not_or]
  have hexec := exec_endl hp hf (hstop.trans (congrArg Run.lpc hrun).symm)
  refine ⟨_, hexec, fun _ => rfl, rfl, rfl, SMap.get_set_same .., fun hw => if_neg (by simp [hw]), fun hw => if_pos hw, fun ha => ?_,
    fun ha => ?_⟩
  · rw [hagain.mpr ha]
    exact ⟨congrArg (Option.map _) hact, rfl⟩
  · rw [Bool.eq_false_iff.mpr (ha ∘ hagain.mp)]
    exact ⟨(congrArg (Option.map _) hact).trans (by rw [hrun]; rfl), rfl⟩

/-! ### The end of a run (R143) -/

/-- Folding the words that wait for a run changes the session's hash alone (R417). -/
theorem Group.foldReady_eq (g : Group) : g.foldReady = { g with replay := g.foldReady.replay } := by
  unfold Group.foldReady
  split <;> rfl

theorem exec_vret {s : State} (hp : s.party = .group) (hf : s.g.lane.frames = []) : exec .vret s =
    .next { s with g := Group.foldReady { s.g with
      lane := { s.g.lane with active := s.g.lane.queue.head?, queue := s.g.lane.queue.tail } } } := by
  show execVret s = _
  simp only [execVret, needLanes_ok hp, hf, List.isEmpty_nil, require_ok, bind, Except.bind]
  rfl

theorem exec_vret_inLoop {s : State} (hp : s.party = .group) (hf : s.g.lane.frames ≠ []) :
    exec .vret s = .next (takeTrap s true { code := .reservedField }) := by
  show execVret s = _
  simp only [execVret, needLanes_ok hp, require_error (List.isEmpty_eq_false_iff.mpr hf), bind, Except.bind]
  rfl

/-- Settles O31: LOOP and LOOPW by the checks that open a body, ENDL by the count that is left, VRET by the queue of runs. -/
theorem loopsAndTheEndOfARun : Obligations.LoopsAndTheEndOfARun := by
  refine ⟨?_, fun s r f rest => endOfABody, ?_, fun s => exec_vret_inLoop⟩
  · intro s r n w hp hact hlow hhigh e hroom hw hend hin hbody
    have h : Opens s r n.toNat := ⟨hact, ⟨hlow, hhigh⟩, hroom, ⟨w, hw, hend⟩, hin, hbody⟩
    exact ⟨exec_loopImm hp h, fun a => exec_loopReg hp h, fun pa cap => exec_loopw hp h⟩
  · intro s hp hf
    refine ⟨_, exec_vret hp hf, fun _ => rfl, ?_⟩
    rw [Group.foldReady_eq]
    exact ⟨rfl, rfl, rfl, rfl⟩

end Sys2Proof.Machine
end

section
/-!
# A group's number that passes 32 bits

A source field of 32 bits that names `group` reads the group's number (R47). The statements take it as a word; the model keeps the number
itself, which neither the state nor the statements bound, and V2P tests and VREDUCE sums all of its bits.
-/
namespace Sys2Proof.Machine

/-- A group with a number of 33 bits, of which lane 0 alone is active. -/
def overnumbered : State := { State.reset with party := .group, g := { gidx := 2 ^ 32, em := 1 } }

/-- The operand `group` reads as the word 0. -/
theorem overnumbered_word : Spec.word overnumbered .group 0 = 0 := by decide

/-! ### V2P (R130) -/

/-- V2P of the group's number into predicate 1. -/
def testNumber : LOp := ⟨⟨false, 0, false⟩, .v 0, .group, .v 0, .v 0, .b32, .rne, false, 1, false, 0⟩

theorem testNumber_ready : LaneReady (Forms.v2p testNumber) false overnumbered := by
  constructor <;> decide

/-- The bit of a predicate in a lane that an instruction leaves. -/
def predicateBit (p : PReg) (l : Nat) : Out → Option Bool
  | .next t => some ((t.g.pr p).getLsbD l)
  | _ => none

theorem testNumber_sets : predicateBit 1 0 (exec (.v2p testNumber) overnumbered) = some true := by decide

/-- Refutes O27: V2P of a group's number 2^32 sets its predicate, where the number's word is zero. -/
theorem not_predicatesAndSelects : ¬ Obligations.PredicatesAndSelects := by
  intro h
  obtain ⟨-, -, -, -, -, hv2p⟩ := h testNumber overnumbered
  obtain ⟨t, ht, hlanes⟩ := hv2p (by decide) testNumber_ready
  have hset := testNumber_sets
  rw [ht] at hset
  have hclear : (t.g.pr 1).getLsbD 0 = (Spec.word overnumbered .group 0 != 0) := hlanes 0 (by decide)
  rw [overnumbered_word] at hclear
  exact absurd (hclear.symm.trans (Option.some.inj hset)) (by decide)

/-! ### VREDUCE (R135) -/

/-- VREDUCE.add.n32 of the group's number into s1. -/
def sumNumber : LOp := ⟨⟨false, 0, false⟩, .s 1, .group, .v 0, .v 0, .n32, .rne, false, 0, false, 0⟩

theorem sumNumber_ready : LaneReady (Forms.vreduce sumNumber) false overnumbered := by
  constructor <;> decide

/-- The scalar register that an instruction leaves. -/
def scalarLeft (r : SReg) : Out → Option DWord
  | .next t => some (t.rdS r)
  | _ => none

theorem sumNumber_leaves : scalarLeft 1 (exec (.vreduce sumNumber) overnumbered) = some (2 ^ 32) := by decide

/-- Refutes O30: VREDUCE.add.n32 of a group's number 2^32 in one active lane leaves 2^32, where the sum modulo 2^32 is zero. -/
theorem not_blocksReductionsAndBallots : ¬ Obligations.BlocksReductionsAndBallots := by
  intro ⟨_, hreduce, _⟩
  obtain ⟨t, ht, -, -, -, -, -, hsum⟩ := hreduce sumNumber 1 overnumbered rfl sumNumber_ready
  have hleft := sumNumber_leaves
  rw [ht] at hleft
  have hlanes : lanesOf (overnumbered.g.active sumNumber.h) = [0] := by decide
  have hzero := hsum rfl (by decide) rfl (by decide) (by decide)
  rw [hlanes] at hzero
  exact absurd (hzero.symm.trans (Option.some.inj hleft)) (by decide)

end Sys2Proof.Machine
end

section
/-!
# What an access leaves behind, and the scalar loads (R168, R172, R173)

A load changes translations, caches and the requests its party has used, which are apart from every scalar context; so a load is a
register write in a state that differs from the first one in those fields alone.
-/
namespace Sys2Proof.Machine

/-! ### Fields apart from the scalar contexts -/

/-- What reads neither the group in focus nor a policy core reads the same after a change of a scalar context. -/
theorem State.setSc_keeps {β : Type} (f : State → β)
    (hf : ∀ (s : State) (g : Group) (p q r t : PolicyCore), f { s with g := g, pol0 := p, pol1 := q, pol2 := r, pol3 := t } = f s) (s : State)
    (c : SCtx) : f (s.setSc c) = f s := by
  rcases s.party_cases with h | ⟨k, h⟩
  · rw [State.setSc_group h]
    exact hf s _ s.pol0 s.pol1 s.pol2 s.pol3
  · rw [State.setSc_policy h]
    match k with
    | 0 => exact hf s s.g _ s.pol1 s.pol2 s.pol3
    | 1 => exact hf s s.g s.pol0 _ s.pol2 s.pol3
    | 2 => exact hf s s.g s.pol0 s.pol1 _ s.pol3
    | _ + 3 => exact hf s s.g s.pol0 s.pol1 s.pol2 _

@[simp] theorem State.setSc_tlb (s : State) (c : SCtx) : (s.setSc c).tlb = s.tlb := State.setSc_keeps (·.tlb) (fun _ _ _ _ _ _ => rfl) s c
@[simp] theorem State.setSc_l1 (s : State) (c : SCtx) : (s.setSc c).l1 = s.l1 := State.setSc_keeps (·.l1) (fun _ _ _ _ _ _ => rfl) s c
@[simp] theorem State.setSc_l2 (s : State) (c : SCtx) : (s.setSc c).l2 = s.l2 := State.setSc_keeps (·.l2) (fun _ _ _ _ _ _ => rfl) s c
@[simp] theorem State.setSc_granary (s : State) (c : SCtx) : (s.setSc c).granary = s.granary :=
  State.setSc_keeps (·.granary) (fun _ _ _ _ _ _ => rfl) s c
@[simp] theorem State.setSc_poison (s : State) (c : SCtx) : (s.setSc c).poison = s.poison :=
  State.setSc_keeps (·.poison) (fun _ _ _ _ _ _ => rfl) s c

/-- What reads neither the group in focus nor a policy core reads the same after a register write. -/
theorem OnlyRegs.keeps {s t : State} (h : OnlyRegs s t) {β : Type} (f : State → β)
    (hf : ∀ (s : State) (g : Group) (p q r t : PolicyCore), f { s with g := g, pol0 := p, pol1 := q, pol2 := r, pol3 := t } = f s) : f t = f s := by
  rw [h]
  exact State.setSc_keeps f hf s _

/-! ### What an access leaves -/

/-- `t` is `s` but for the translations, the caches and the window requests. -/
def OnlyCaches (s t : State) : Prop :=
  t = { s with tlb := t.tlb, remote := t.remote, l1 := t.l1, l2 := t.l2, granary := t.granary }

theorem OnlyCaches.refl (s : State) : OnlyCaches s s := rfl
theorem OnlyCaches.trans {s t u : State} (h : OnlyCaches s t) (k : OnlyCaches t u) : OnlyCaches s u := by
  unfold OnlyCaches at h k ⊢
  rw [k, h]
theorem onlyCaches_touch (s : State) (va : DWord) (st : Bool) (cls : Option Nat) : OnlyCaches s (s.touch va st cls) := by
  obtain ⟨a, b, c, d, h⟩ := touch_caches s va st cls
  rw [h]
  rfl
theorem onlyCaches_remClear (s : State) : OnlyCaches s s.remClear := by
  rw [remClear_eq]
  rfl
theorem onlyCaches_acquire (s : State) (sc : Scope) : OnlyCaches s (s.acquire sc) := by
  rw [acquire_eq]
  rfl

/-- What reads none of the translations, the caches and the requests reads the same. -/
theorem OnlyCaches.keeps {s t : State} (h : OnlyCaches s t) {β : Type} (f : State → β)
    (hf : ∀ (s : State) (a : List TlbEntry) (b : List RemReq) (c : List L1Sector) (d e : List CacheLine),
      f { s with tlb := a, remote := b, l1 := c, l2 := d, granary := e } = f s) : f t = f s := by
  rw [h]
  exact hf s _ _ _ _ _

theorem OnlyCaches.sc {s t : State} (h : OnlyCaches s t) : t.sc = s.sc := h.keeps State.sc fun _ _ _ _ _ _ => State.sc_congr rfl rfl rfl
theorem OnlyCaches.rdS {s t : State} (h : OnlyCaches s t) (r : SReg) : t.rdS r = s.rdS r := by simp only [State.rdS, h.sc]
theorem OnlyCaches.pc {s t : State} (h : OnlyCaches s t) : t.pc = s.pc := congrArg SCtx.pc h.sc
theorem OnlyCaches.mem {s t : State} (h : OnlyCaches s t) : t.mem = s.mem := h.keeps State.mem fun _ _ _ _ _ _ => rfl
theorem OnlyCaches.party {s t : State} (h : OnlyCaches s t) : t.party = s.party := h.keeps State.party fun _ _ _ _ _ _ => rfl
theorem OnlyCaches.g {s t : State} (h : OnlyCaches s t) : t.g = s.g := h.keeps State.g fun _ _ _ _ _ _ => rfl
theorem OnlyCaches.gteam {s t : State} (h : OnlyCaches s t) : t.gteam = s.gteam := h.keeps State.gteam fun _ _ _ _ _ _ => rfl
theorem OnlyCaches.poison {s t : State} (h : OnlyCaches s t) : t.poison = s.poison := h.keeps State.poison fun _ _ _ _ _ _ => rfl
theorem OnlyCaches.fabric {s t : State} (h : OnlyCaches s t) : t.fabric = s.fabric := h.keeps State.fabric fun _ _ _ _ _ _ => rfl

/-! ### Steps of a scalar access that pass -/

theorem inOrder_ok {s : State} {sc : Scope} (h : InOrder s sc) : s.inOrder sc = .ok () := by
  obtain ⟨hrel, hsync⟩ := h
  simp only [State.inOrder, release_ok hrel, bind, Except.bind]
  split
  · next hp => exact require_ok (hsync hp)
  · rfl
theorem grants_ok {s : State} (h : s.member? = none) (lane : Bool) (ls : List (Loc × DWord)) : s.grants lane ls = .ok s := by
  simp only [State.grants, h]
theorem lift_ok {α : Type} {r : Except Trap α} {x : α} (h : r = .ok x) : lift r = .ok x := by rw [h]; rfl

/-- A load whose checks pass: the value, and the state with its translation. -/
theorem loadRaw_ok {s : State} {va : DWord} {n : Nat} {l : Loc} (acq : Bool) (hacc : access s va n .load .scalarLoad = .ok l)
    (harr : arrive s l va n = .ok ()) (hm : acq = true → s.member? = none) : loadRaw s va n acq = .ok (s.readOwn l n, s.touch va) := by
  simp only [loadRaw, lift_ok hacc, harr, bind, Except.bind]
  cases acq with
  | false => rfl
  | true => simp only [if_true, grants_ok (hm rfl)]
theorem loadS_ok {s : State} {va : DWord} {n : Nat} {l : Loc} (acq : Bool) (hacc : access s va n .load .scalarLoad = .ok l)
    (harr : arrive s l va n = .ok ()) (hm : acq = true → s.member? = none) :
    loadS s va n acq = .ok (s.readOwn l n, (s.touch va).remClear) := by
  simp only [loadS, loadRaw_ok acq hacc harr hm, bind, Except.bind]

/-- A load that answers leaves translations and caches behind. -/
theorem onlyCaches_loadRaw {s : State} {va : DWord} {n v : Nat} {t : State} (h : loadRaw s va n false = .ok (v, t)) : OnlyCaches s t := by
  simp only [loadRaw, bind, Except.bind] at h
  split at h
  · cases h
  · split at h
    · cases h
    · cases h
      exact onlyCaches_touch ..
/-- A record that was read leaves translations and caches behind. -/
theorem onlyCaches_recordAt {s : State} {va : DWord} {n : Nat} {b : List Byte} {t : State} (h : recordAt s va n = .ok (b, t)) :
    OnlyCaches s t := by
  induction n generalizing s va b with
  | zero =>
    cases h
    exact .refl _
  | succ n ih =>
    simp only [recordAt, bind, Except.bind] at h
    split at h
    · cases h
    · next x hx =>
      split at h
      · cases h
      · next y hy =>
        cases h
        exact (onlyCaches_loadRaw hx).trans (ih hy)

/-! ### Extension (R172) -/

theorem sizeBytes_eq (sz : MSize) : sizeBytes sz = Spec.bytes sz := by cases sz <;> rfl
theorem bytes_pos (sz : MSize) : 0 < Spec.bytes sz := by cases sz <;> decide
theorem bytes_le (sz : MSize) : Spec.bytes sz ≤ 8 := by cases sz <;> decide

theorem toSigned_eq_toInt {w : Nat} (hw : 0 < w) (v : Nat) : toSigned w v = (BitVec.ofNat w v).toInt := by
  obtain ⟨k, rfl⟩ : ∃ k, w = k + 1 := ⟨w - 1, by omega⟩
  rw [toSigned, BitVec.toInt_eq_toNat_cond, BitVec.toNat_ofNat, Nat.add_sub_cancel, Nat.pow_succ]
  split <;> split <;> omega

theorem extend_eq {n : Nat} (hn : 0 < n) (z : Bool) (v : Nat) : extend n z v = Spec.extended n z v := by
  unfold extend Spec.extended
  rw [toSigned_eq_toInt (by omega) v]
  rfl

/-! ### The loads -/

/-- The effect of a load's acquire, if it is one. -/
def State.acquired (s : State) : Option Scope → State
  | none => s
  | some sc => s.acquire sc

theorem onlyCaches_acquired (s : State) (acq : Option Scope) : OnlyCaches s (s.acquired acq) := by
  cases acq with
  | none => exact .refl s
  | some sc => exact onlyCaches_acquire s sc

/-- A load whose checks pass writes its register in the state that the access leaves. -/
theorem exec_loads {i : Instr} {s : State} {d a : SReg} {va : DWord} {n : Nat} {z : Bool} {acq : Option Scope} {l : Loc}
    (hi : Spec.loads s i = some (d, a, va, n, z, acq)) (hs : Settled s [d] [a]) (ho : ∀ sc, acq = some sc → InOrder s sc)
    (hacc : access s va n .load .scalarLoad = .ok l) (harr : arrive s l va n = .ok ()) (hm : acq ≠ none → s.member? = none) :
    exec i s = .next ((((s.touch va).remClear.acquired acq).wrS d (Spec.extended n z (s.readOwn l n))).next) := by
  cases i with
  | sld d' a' sz z' off =>
    cases hi
    show execSld d a sz z off s = _
    simp only [execSld, ready_ok hs, sizeBytes_eq, loadS_ok false hacc harr (fun h => by cases h), extend_eq (bytes_pos sz), bind, Except.bind]
    rfl
  | sldAcq d' a' sc sz =>
    cases hi
    show execSldAcq d a sc sz s = _
    simp only [execSldAcq, ready_ok hs, inOrder_ok (ho sc rfl), sizeBytes_eq, loadS_ok true hacc harr (fun _ => hm (by simp)),
      extend_eq (bytes_pos sz), bind, Except.bind]
    rfl
  | _ => cases hi

/-- An acquire of scope `.clu` or wider leaves no sector to the core (R288). -/
theorem acquire_empties {s : State} {sc : Scope} (hp : s.party = .group) (hsc : sc ≠ .team) :
    ∀ x ∈ (s.acquire sc).l1, x.core ≠ s.gteam.core := by
  intro x hx
  have h : s.acquire sc = s.dropSectors s.gteam.core := by
    simp only [State.acquire, hp]
  rw [h] at hx
  simpa using (List.mem_filter.mp hx).2

/-- What a load of memory reads, with nothing staged over it. -/
theorem readOwn_memory {s : State} {l : Loc} {n : Nat} (hst : s.gteam.staged = []) (hr : isRemote l.key = false) :
    s.readOwn l n = Memory.read s.mem l.key n := by
  simp [State.readOwn, hst, State.seen, hr, State.read]

/-- Settles O3: the register write of the load in the state that its access leaves. -/
theorem loadsReadMemory : Obligations.LoadsReadMemory := by
  intro i s d a va n z acq l hi hs ho hacc harr hm
  have hc : OnlyCaches s ((s.touch va).remClear.acquired acq) :=
    ((onlyCaches_touch s va false none).trans (onlyCaches_remClear _)).trans (onlyCaches_acquired _ acq)
  have hw := writesReg_wrS ((s.touch va).remClear.acquired acq) d (Spec.extended n z (s.readOwn l n))
  refine ⟨_, exec_loads hi hs ho hacc harr hm, hw.dest, fun r hr => (hw.others r hr).trans (hc.rdS r), ?_, ?_, ?_, ?_, readOwn_memory⟩
  · rw [hw.pc, hc.pc]
  · intro b
    rw [State.next_mem, State.wrS_mem, hc.mem]
  · have hframe := hw.frame
    rw [hframe.keeps State.tlb fun _ _ _ _ _ _ => rfl, hframe.keeps State.remote fun _ _ _ _ _ _ => rfl,
      hframe.keeps State.l1 fun _ _ _ _ _ _ => rfl, hframe.keeps State.l2 fun _ _ _ _ _ _ => rfl,
      hframe.keeps State.granary fun _ _ _ _ _ _ => rfl, ← hc]
    exact hframe
  · rintro hp sc rfl hsc x hx
    rw [hw.frame.keeps State.l1 fun _ _ _ _ _ _ => rfl] at hx
    have hc' := (onlyCaches_touch s va false none).trans (onlyCaches_remClear _)
    rw [← hc'.gteam]
    exact acquire_empties (hc'.party.trans hp) hsc x hx

end Sys2Proof.Machine
end

section
/-!
# The scalar stores (R172, R173, R404, R441, R443)

A store whose checks pass is one placement in the state that its translation leaves: staged in the team, sent to the host, or written.
-/
namespace Sys2Proof.Machine

/-! ### Writes that no poisoned word meets -/

theorem poisonUnit_cases (p : Nat) : poisonUnit p = 8 ∨ poisonUnit p = 16 := by
  unfold poisonUnit
  split
  · exact .inl rfl
  · exact .inr rfl
/-- Eight bytes from `p` on reach beyond the start of the word at `p`. -/
theorem le_poisonKey {p : Nat} (h : poisonUnit p = 8) : p ≤ poisonKey (p + 7) := by
  unfold poisonUnit home1Base home2Base at h
  unfold poisonKey poisonUnit home1Base home2Base
  split at h <;> split <;> omega

/-- A scalar write covers no whole poisoned word where it meets none. -/
theorem not_covered {s : State} {key n p : Nat} (hn : n ≤ 8) (h : poisoned s key n = false) (hp : p ∈ s.poison) :
    ¬ (key ≤ p ∧ p + poisonUnit p ≤ key + n) := by
  rintro ⟨hlo, hhi⟩
  have hunit : poisonUnit p = 8 := by rcases poisonUnit_cases p with h | h <;> omega
  obtain rfl : p = key := by omega
  obtain rfl : n = 8 := by omega
  rw [poisoned, List.any_eq_false] at h
  refine h p hp ?_
  have hbelow : poisonKey p ≤ p := Nat.div_mul_le_self ..
  simp [hbelow, le_poisonKey hunit]

/-- A scalar write where no poisoned word reaches changes memory alone. -/
theorem write_eq_of_clean {s : State} {key n : Nat} (v : Nat) (hn : n ≤ 8) (h : poisoned s key n = false) :
    s.write key n v = { s with mem := Memory.write s.mem key n v } := by
  have hpoison : (s.write key n v).poison = s.poison := by
    unfold State.write
    split
    · rfl
    · exact List.filter_eq_self.mpr fun p hp => by
        rw [Bool.not_eq_true', ← Bool.decide_and]
        exact decide_eq_false (not_covered hn h hp)
  rw [write_eq, write_clean s key n v h, hpoison]

/-! ### Teams -/

/-- Replacing the element of a key, seen from a key. -/
theorem find?_replace {α : Type} (key : α → Nat) (t : α) (k : Nat) (l : List α) :
    (l.map fun x => if key x == key t then t else x).find? (fun x => key x == k) =
      if key t = k then (l.find? fun x => key x == k).map fun _ => t else l.find? fun x => key x == k := by
  induction l with
  | nil => simp
  | cons x l ih =>
    simp only [List.map_cons, List.find?_cons, ih]
    by_cases hx : key x = key t
    · by_cases hk : key t = k
      · simp [hx, hk]
      · have hkb : (key t == k) = false := beq_false_of_ne hk
        simp only [hx, beq_self_eq_true, if_true, hkb, if_neg hk]
    · have hxb : (key x == key t) = false := beq_false_of_ne hx
      cases hk : key x == k with
      | false => simp [hxb, hk]
      | true =>
        have hne : key t ≠ k := fun h => hx ((beq_iff_eq.mp hk).trans h.symm)
        simp [hxb, hk, if_neg hne]

theorem State.team?_setTeam (s : State) (t : Team) (k : Nat) :
    (s.setTeam t).team? k = if t.tid = k then (s.team? k).map fun _ => t else s.team? k := find?_replace Team.tid t k s.teams
theorem State.tid_of_team? {s : State} {k : Nat} {t : Team} (h : s.team? k = some t) : t.tid = k := by
  simpa using List.find?_some h
theorem State.gteam_setTeam {s : State} {t : Team} (h : s.team? s.g.team = some s.gteam) (ht : t.tid = s.gteam.tid) :
    (s.setTeam t).gteam = t := by
  have hk : t.tid = s.g.team := ht.trans (State.tid_of_team? h)
  rw [State.gteam, State.team, State.setTeam_g, State.team?_setTeam, if_pos hk, h]
  rfl

@[simp] theorem State.setSc_teams (s : State) (c : SCtx) : (s.setSc c).teams = s.teams :=
  State.setSc_keeps (·.teams) (fun _ _ _ _ _ _ => rfl) s c
@[simp] theorem State.setSc_gteam (s : State) (c : SCtx) : (s.setSc c).gteam = s.gteam := by
  rcases s.party_cases with h | ⟨k, h⟩
  · rw [State.setSc_group h]
    rfl
  · have hteams := s.setSc_teams c
    rw [State.setSc_policy h] at hteams ⊢
    simp only [State.gteam, State.team, State.team?, hteams, State.setPol_g]

/-! ### A store that its checks let pass -/

theorem replay_none {s : State} (h : s.member? = none) : s.g.replay = none := Option.map_eq_none_iff.mp h

theorem OnlyCaches.stages {s t : State} (h : OnlyCaches s t) (l : Loc) : t.stages l = s.stages l :=
  h.keeps (·.stages l) fun _ _ _ _ _ _ => rfl
theorem OnlyCaches.owned {s t : State} (h : OnlyCaches s t) (key n : Nat) : t.owned key n = s.owned key n :=
  h.keeps (·.owned key n) fun _ _ _ _ _ _ => rfl

/-- A store outside replay is its placement in the state that its translation leaves. -/
theorem storeS_ok {s : State} {va : DWord} {n : Nat} {l : Loc} (v : Nat) (ordered sync : Bool)
    (hacc : access s va n .store .plainStore = .ok l) (hm : s.member? = none) :
    storeS s va n v ordered sync = (s.touch va true).put l va n v (ordered || s.g.relS) sync := by
  have hfold : ∀ ws, s.fold false ws = s := fun ws => by simp only [State.fold, replay_none hm]
  simp only [storeS, lift_ok hacc, State.foldRoom, replay_none hm, grants_ok hm, ite_self, hfold, bind, Except.bind]

theorem exec_stores {i : Instr} {s : State} {a b : SReg} {va : DWord} {n : Nat} {sc : Option Scope} {l : Loc}
    (hi : Spec.stores s i = some (a, b, va, n, sc)) (hs : Settled s [] [a, b]) (ho : ∀ k, sc = some k → InOrder s k)
    (hacc : access s va n .store .plainStore = .ok l) (hm : s.member? = none) :
    exec i s = finishS s ((s.touch va true).put l va n ((s.rdS b).toNat % 256 ^ n) (sc == some .sys || s.g.relS) sc.isSome >>=
      fun t => .ok t.next) := by
  obtain ⟨hp, hf⟩ := hs
  cases i with
  | sst b' a' sz off =>
    cases hi
    have hsettled : Settled s [b] [a] := ⟨by simp_all, by simp_all⟩
    show execSst b a sz off s = _
    simp only [execSst, ready_ok hsettled, sizeBytes_eq, storeS_ok _ false false hacc hm]
    rfl
  | sstRel a' b' k sz =>
    cases hi
    show execSstRel a b k sz s = _
    simp only [execSstRel, ready_ok ⟨hp, hf⟩, inOrder_ok (ho k rfl), sizeBytes_eq, storeS_ok _ (k == .sys) true hacc hm]
    rfl
  | _ => cases hi

theorem stores_bytes {i : Instr} {s : State} {a b : SReg} {va : DWord} {n : Nat} {sc : Option Scope}
    (hi : Spec.stores s i = some (a, b, va, n, sc)) : n ≤ 8 := by
  cases i with
  | sst _ _ sz _ | sstRel _ _ _ sz =>
    cases hi
    exact bytes_le sz
  | _ => cases hi

/-- An instruction that waits notes it on a group and changes nothing on a policy core. -/
theorem finishS_waits (s : State) (w : Stall) :
    finishS s (.error (.stall w)) = .next (match s.party with
      | .group => { s with g := { s.g with sStall := some w } }
      | .policy _ => s) := by
  rcases s.party_cases with h | ⟨k, h⟩
  · rw [finishS_stall h, h]
  · rw [finishS_stall_policy h, h]

theorem storesWriteTheirBytes : Spec.StoresWriteTheirBytes := by
  intro i s a b va n sc l hi hs ho hacc hm hst hr how hpo
  have hc := onlyCaches_touch s va true none
  have hclean : poisoned (s.touch va true) l.key n = false := by rwa [poisoned, hc.poison]
  have hexec := exec_stores hi hs ho hacc hm
  simp only [State.put, hc.stages, hst, hc.owned, how, hr, Bool.false_eq_true, if_false] at hexec
  refine ⟨_, hexec, ?_, fun x hx => ?_, ?_⟩
  · rw [State.next_mem, write_read _ _ _ _ hclean, Nat.mod_mod]
  · rw [State.next_mem, write_other _ _ _ _ _ hx, hc.mem]
  · have hw := write_eq_of_clean ((s.rdS b).toNat % 256 ^ n) (stores_bytes hi) hclean
    rw [touch_eq] at hw ⊢
    rw [hw]
    simp only [State.next, State.setPc, State.setSc_mem, State.setSc_tlb, State.setSc_l1, State.setSc_l2, State.setSc_granary]
    rfl

theorem mod_two_pow_of_lt {x n : Nat} (hn : n ≤ 8) : x % 256 ^ n % 2 ^ 64 = x % 256 ^ n := by
  refine Nat.mod_eq_of_lt (Nat.lt_of_lt_of_le (Nat.mod_lt _ (Nat.pow_pos (by decide))) ?_)
  calc 256 ^ n ≤ 256 ^ 8 := Nat.pow_le_pow_right (by decide) hn
    _ = 2 ^ 64 := by decide

theorem storesThatDoNotReachMemoryNow : Spec.StoresThatDoNotReachMemoryNow := by
  intro i s a b va n sc l hi hs ho hacc hm
  have hc := onlyCaches_touch s va true none
  have hexec := exec_stores hi hs ho hacc hm
  refine ⟨fun hst hroom hteam hrep => ?_, fun hst how hhost => ?_, fun hst hr how => ?_⟩
  · simp only [State.put, hc.stages, hst, if_true, hc.gteam, if_neg (Nat.not_le.mpr hroom)] at hexec
    have hgteam : ∀ x : Team, x.tid = s.gteam.tid → (((s.touch va true).setTeam x).next).gteam = x := by
      intro x hx
      rw [State.next, State.setPc, State.setSc_gteam, State.gteam_setTeam]
      · rw [hc.g, hc.gteam]
        exact (hc.keeps (·.team? s.g.team) fun _ _ _ _ _ _ => rfl).trans hteam
      · rw [hc.gteam, hx]
    refine ⟨_, _, hexec, (congrArg Team.staged (hgteam { s.gteam with staged := s.gteam.staged ++ [_] } rfl)).trans rfl, rfl, rfl, ?_, ?_⟩
    · rw [BitVec.toNat_ofNat, mod_two_pow_of_lt (stores_bytes hi), Nat.mod_mod]
    · rw [touch_eq]
      simp only [State.next, State.setPc, State.setSc_teams, State.setSc_tlb, State.setSc_l1, State.setSc_l2, State.setSc_granary]
      rfl
  · have hr : isRemote l.key = true := by simp [isRemote, hhost]
    simp only [State.put, hc.stages, hst, hc.owned, how, hr, Bool.false_eq_true, if_false, if_true, State.putRemote, hhost] at hexec
    rw [hexec, touch_eq]
    simp only [bne, Bool.not_or]
    rfl
  · simp only [State.put, hc.stages, hst, hc.owned, how, Bool.false_eq_true, if_false, if_true] at hexec
    exact hexec.trans (finishS_waits s .recall)

/-- Settles O4: the placement's three outcomes, and its wait. -/
theorem storesGoWhereTheirAddressReaches : Obligations.StoresGoWhereTheirAddressReaches :=
  ⟨storesWriteTheirBytes, storesThatDoNotReachMemoryNow⟩

end Sys2Proof.Machine
end

section
/-!
# The scalar atomics (R171, R174)

An atomic whose checks pass is one write of memory and one of a register, with the end of a region between them.
-/
namespace Sys2Proof.Machine

/-! ### The value (R174) -/

theorem atomNew_eq {w : Nat} (hw : 0 < w) (op : AtomOp) {old : Nat} (x e : Nat) (hold : old < 2 ^ w) :
    atomNew w true op old x e = (Spec.atomValue op (BitVec.ofNat w old) (BitVec.ofNat w x) (BitVec.ofNat w e)).toNat := by
  have hmod : old % 2 ^ w = old := Nat.mod_eq_of_lt hold
  have hcas : BitVec.ofNat w old = BitVec.ofNat w e ↔ old = e % 2 ^ w := by
    rw [← BitVec.toNat_inj, BitVec.toNat_ofNat, BitVec.toNat_ofNat, hmod]
  cases op with
  | add => simp [atomNew, Spec.atomValue, BitVec.toNat_add]
  | cas =>
    simp only [atomNew, Spec.atomValue, hmod, hcas]
    split <;> simp [hmod]
  | min | max =>
    simp only [atomNew, Spec.atomValue, toSigned_eq_toInt hw, if_true, decide_eq_true_eq]
    split <;> simp
  | exch | and | or | xor => simp [atomNew, Spec.atomValue, hmod]

theorem atomNew_lt {w : Nat} (hw : 0 < w) (op : AtomOp) {old : Nat} (x e : Nat) (hold : old < 2 ^ w) : atomNew w true op old x e < 2 ^ w := by
  rw [atomNew_eq hw op x e hold]
  exact BitVec.isLt _

theorem Memory.read_lt (m : Memory) (a n : Nat) : Memory.read m a n < 256 ^ n := by
  induction n generalizing a with
  | zero => simp [Memory.read]
  | succ n ih =>
    have hbyte := (Memory.byte m a).isLt
    have hrest := ih (a + 1)
    simp only [Memory.read, Nat.pow_succ]
    omega
theorem pow_bytes (n : Nat) : 256 ^ n = 2 ^ (8 * n) := (Nat.pow_mul 2 8 n).symm

/-! ### The instruction -/

theorem arrive_ok {s : State} {l : Loc} {va : DWord} {n : Nat} (hr : isRemote l.key = false) (how : s.owned l.key n = false)
    (hpo : poisoned s l.key n = false) : arrive s l va n = .ok () := by
  simp only [arrive, how, hr, hpo, Bool.false_eq_true, if_false]

/-- What an atomic of this package leaves before its acquire. -/
def atomWritten (s : State) (va : DWord) (l : Loc) (n : Nat) (op : AtomOp) (x e : Nat) : State :=
  (s.touch va true).write l.key n (atomNew (8 * n) true op (s.read l.key n) x e)

theorem atomS_ok {s : State} {va : DWord} {n : Nat} {l : Loc} (op : AtomOp) (x e : Nat) (hacc : access s va n .atomic .atomic = .ok l)
    (hr : isRemote l.key = false) (how : s.owned l.key n = false) (hpo : poisoned s l.key n = false) (hst : s.stages l = false)
    (hm : s.member? = none) : atomS s va n op x e = .ok (s.read l.key n, atomWritten s va l n op x e) := by
  have hfold : ∀ ws, s.fold false ws = s := fun ws => by simp only [State.fold, replay_none hm]
  simp only [atomS, lift_ok hacc, hr, arrive_ok hr how hpo, hst, State.foldRoom, replay_none hm, grants_ok hm, hfold, bind, Except.bind,
    Bool.false_eq_true, if_false]
  rfl

theorem exec_atoms {i : Instr} {s : State} {op : AtomOp} {d a b : SReg} {sc : Scope} {n : Nat} {l : Loc}
    (hi : Spec.atoms i = some (op, d, a, b, sc, n)) (hs : Settled s [d] (if op = .cas then [a, b, d] else [a, b])) (hd : Drained s)
    (ho : InOrder s sc) (hacc : access s (s.rdS a) n .atomic .atomic = .ok l) (hr : isRemote l.key = false)
    (how : s.owned l.key n = false) (hpo : poisoned s l.key n = false) (hst : s.stages l = false) (hm : s.member? = none) :
    exec i s = .next ((((atomWritten s (s.rdS a) l n op (s.rdS b).toNat (s.rdS d).toNat).acquire sc).endRegion.wrS d
      (BitVec.ofNat 64 (s.read l.key n))).next) := by
  have hexec : ∀ sz, n = Spec.bytes sz → satom op d a b sc sz s = .next ((((atomWritten s (s.rdS a) l n op (s.rdS b).toNat
      (s.rdS d).toNat).acquire sc).endRegion.wrS d (BitVec.ofNat 64 (s.read l.key n))).next) := by
    rintro sz rfl
    have hready : ready s [d] (if op == .cas then [a, b, d] else [a, b]) = .ok () := by
      refine ready_ok ?_
      simpa using hs
    simp only [satom, hready, drain_ok hd, inOrder_ok ho, sizeBytes_eq, atomS_ok _ _ _ hacc hr how hpo hst hm, bind, Except.bind]
    rfl
  cases i with
  | satomAdd d' a' b' sc' sz | satomExch d' a' b' sc' sz | satomCas d' a' b' sc' sz | satomMin d' a' b' sc' sz | satomMax d' a' b' sc' sz =>
    cases hi
    exact hexec sz rfl
  | _ => cases hi

/-- What an atomic leaves before the end of its region: its word in memory, and translations and caches. -/
theorem atomWritten_acquired {s : State} (va : DWord) {l : Loc} {n : Nat} (op : AtomOp) (x e : Nat) (sc : Scope) (hn : n ≤ 8)
    (hpo : poisoned s l.key n = false) :
    ∃ a b c d, (atomWritten s va l n op x e).acquire sc =
      { s with mem := Memory.write s.mem l.key n (atomNew (8 * n) true op (s.read l.key n) x e), tlb := a, l1 := b, l2 := c, granary := d } := by
  obtain ⟨a, b, c, d, h⟩ := touch_caches s va true none
  have hclean : poisoned { s with tlb := a, l1 := b, l2 := c, granary := d } l.key n = false := hpo
  rw [atomWritten, h, write_eq_of_clean _ hn hclean, acquire_eq]
  exact ⟨_, _, _, _, rfl⟩

theorem atoms_bytes {i : Instr} {op : AtomOp} {d a b : SReg} {sc : Scope} {n : Nat} (hi : Spec.atoms i = some (op, d, a, b, sc, n)) :
    0 < n ∧ n ≤ 8 := by
  cases i with
  | satomAdd _ _ _ _ sz | satomExch _ _ _ _ sz | satomCas _ _ _ _ sz | satomMin _ _ _ _ sz | satomMax _ _ _ _ sz =>
    cases hi
    exact ⟨bytes_pos sz, bytes_le sz⟩
  | _ => cases hi

/-- The end of a region changes the count, the entry and the parked handlers of the group. -/
theorem endRegion_eq (s : State) : s.endRegion =
    { s with g := { s.g with regcnt := s.endRegion.g.regcnt, region := s.endRegion.g.region, parkNew := s.endRegion.g.parkNew } } := by
  rcases s.party_cases with h | ⟨k, h⟩
  · rw [endRegion_group h]
    rfl
  · have hsame : s.endRegion = s := by simp only [State.endRegion, h]
    rw [hsame]
theorem State.setSc_g (s : State) (c : SCtx) : (s.setSc c).g = { s.g with sc := (s.setSc c).g.sc } := by
  rcases s.party_cases with h | ⟨k, h⟩
  · rw [State.setSc_group h]
  · rw [State.setSc_policy h, State.setPol_g]

/-- Settles O6: the write of memory, the end of the region and the register write, each by its law. -/
theorem atomicsReadModifyWrite : Obligations.AtomicsReadModifyWrite := by
  intro i s op d a b sc n l hi hs hd ho hacc hr how hpo hst hm
  obtain ⟨hn, hn8⟩ := atoms_bytes hi
  let new := atomNew (8 * n) true op (s.read l.key n) (s.rdS b).toNat (s.rdS d).toNat
  have hold : s.read l.key n < 2 ^ (8 * n) := by
    rw [← pow_bytes]
    exact Memory.read_lt ..
  obtain ⟨ca, cb, cc, cd, hwritten⟩ := atomWritten_acquired (s.rdS a) op (s.rdS b).toNat (s.rdS d).toNat sc hn8 hpo
  have hexec := exec_atoms hi hs hd ho hacc hr how hpo hst hm
  rw [hwritten] at hexec
  obtain ⟨v, hv⟩ : ∃ v : State, v = { s with mem := Memory.write s.mem l.key n new, tlb := ca, l1 := cb, l2 := cc, granary := cd } := ⟨_, rfl⟩
  obtain ⟨u, hu⟩ : ∃ u, u = v.endRegion := ⟨_, rfl⟩
  rw [← hv, ← hu] at hexec
  have hmem : u.mem = Memory.write s.mem l.key n new := by rw [hu, endRegion_eq, hv]
  have hframe : u = { s with mem := u.mem, tlb := u.tlb, l1 := u.l1, l2 := u.l2, granary := u.granary,
                             g := { s.g with regcnt := u.g.regcnt, region := u.g.region, parkNew := u.g.parkNew } } := by
    rw [hu, endRegion_eq, hv]
  have hsc : u.sc = s.sc := by
    rw [hframe]
    exact State.sc_congr rfl rfl rfl
  have hw := writesReg_wrS u d (BitVec.ofNat 64 (s.read l.key n))
  obtain ⟨t, ht⟩ : ∃ t, t = (u.wrS d (BitVec.ofNat 64 (s.read l.key n))).next := ⟨_, rfl⟩
  rw [← ht] at hexec hw
  have htmem : t.mem = Memory.write s.mem l.key n new := by rw [ht, State.next_mem, State.wrS_mem, hmem]
  have htg : t.g = { u.g with sc := t.g.sc } := by
    rw [hw.frame]
    exact State.setSc_g u _
  refine ⟨t, hexec, hw.dest, fun r hne => ?_, ?_, ?_, fun x hx => ?_, fun hp => ?_, ?_⟩
  · rw [hw.others r hne, State.rdS, State.rdS, hsc]
  · rw [hw.pc, State.pc, State.pc, hsc]
  · rw [htmem, Memory.read_write_same, pow_bytes, Nat.mod_eq_of_lt (atomNew_lt (by omega) op _ _ hold)]
    exact atomNew_eq (by omega) op _ _ hold
  · rw [htmem, Memory.byte_write_other _ _ _ _ _ hx]
  · have hpv : v.party = .group := by rw [hv]; exact hp
    have hug : u.g = s.g.endRegion (s.pc + 4) := by
      rw [hu, endRegion_group hpv, hv, State.pc, State.sc_group hp]
    rw [htg, hug]
    exact ⟨rfl, rfl, rfl⟩
  · have hkeep := hw.frame
    rw [htg, hkeep.keeps State.mem fun _ _ _ _ _ _ => rfl, hkeep.keeps State.tlb fun _ _ _ _ _ _ => rfl,
      hkeep.keeps State.l1 fun _ _ _ _ _ _ => rfl, hkeep.keeps State.l2 fun _ _ _ _ _ _ => rfl,
      hkeep.keeps State.granary fun _ _ _ _ _ _ => rfl]
    rwa [← hframe]

end Sys2Proof.Machine
end

section
/-!
# Team barriers, cluster barriers and arrival watches (R202 to R204)
-/
namespace Sys2Proof.Machine

/-- A group that waits after a change notes the wait in what it has changed. -/
theorem finishS_stallIn_group {s t : State} (hp : t.party = .group) (w : Stall) :
    finishS s (.error (.stallIn t w)) = .next { t with g := { t.g with sStall := some w } } := by
  simp only [finishS, finish, State.wait, State.unissue, Bool.false_eq_true, if_false, hp]

/-- A state with the scalar context of `s` goes on at the word after that of `s`. -/
theorem next_of_sc {s t : State} (h : t.sc = s.sc) : t.next = t.setPc (s.pc + 4) := by
  rw [State.next, h]
  rfl

/-! ### BAR.TEAM (R202) -/

/-- The barrier's instance ends when every group has exited or arrived. -/
theorem barStep_eq (t : Team) (i : Nat) (l : List Nat) (h : t.barArrived = i :: l) :
    t.barStep = if ∀ j, j < t.ngroups → j ∈ t.exited ∨ j ∈ t.barArrived then { t with barGen := t.barGen + 1, barArrived := [] } else t := by
  have hall : (∀ j, j < t.ngroups → j ∈ t.exited ∨ j ∈ t.barArrived) ↔
      (!t.barArrived.isEmpty && (List.range t.ngroups).all fun i => t.exited.contains i || t.barArrived.contains i) = true := by
    simp [h]
  unfold Team.barStep
  simp only [hall]

theorem exec_barTeam_arrives {s : State} (hd : Drained s) (hj : s.g.barJoined = none) :
    exec .barTeam s = finishS s
      (let u := ({ s.gteam with barArrived := s.g.gidx :: s.gteam.barArrived } : Team).barStep
       if u.barGen ≠ s.gteam.barGen then .ok (s.setTeam u).next
       else .error (.stallIn { s.setTeam u with g := { s.g with barJoined := some s.gteam.barGen } } .barrier)) := by
  show execBarTeam s = _
  simp only [execBarTeam, drain_ok hd, hj, bind, Except.bind]
theorem exec_barTeam_joined {s : State} {n : Nat} (hd : Drained s) (hj : s.g.barJoined = some n) :
    exec .barTeam s = finishS s
      (if s.gteam.barGen ≠ n then .ok { s with g := { s.g with barJoined := none } }.next else .error (.stall .barrier)) := by
  show execBarTeam s = _
  simp only [execBarTeam, drain_ok hd, hj, bind, Except.bind]

theorem teamBarrier : Spec.TeamBarrier := by
  intro s hp hd all
  have hall : (∀ j, j < s.gteam.ngroups → j ∈ s.gteam.exited ∨ j ∈ s.g.gidx :: s.gteam.barArrived) ↔ all := by
    refine forall₂_congr fun j _ => ?_
    rw [List.mem_cons]
    tauto
  have hstep := barStep_eq { s.gteam with barArrived := s.g.gidx :: s.gteam.barArrived } _ _ rfl
  simp only [hall] at hstep
  refine ⟨fun hj ha => ?_, fun hj ha => ?_, fun n hj => ⟨fun hne => ?_, fun he => ?_⟩⟩
  · rw [exec_barTeam_arrives hd hj, hstep, if_pos ha]
    dsimp only
    rw [if_pos (Nat.succ_ne_self _)]
    rfl
  · rw [exec_barTeam_arrives hd hj, hstep, if_neg ha]
    dsimp only
    rw [if_neg (fun h => h rfl)]
    refine finishS_stallIn_group ?_ _
    exact hp
  · rw [exec_barTeam_joined hd hj, if_pos hne]
    exact congrArg _ (next_of_sc (State.sc_congr rfl rfl rfl))
  · rw [exec_barTeam_joined hd hj, if_neg (fun h => h he)]
    exact finishS_stall hp _

/-! ### CLU.ARRIVE and CLU.WAIT (R202, R203) -/

/-- The phase completes when every live group has arrived, and no other barrier changes. -/
theorem phaseStep_eq (c : Cluster) (live : List Nat) (b i : Nat) (l : List Nat) (h : SMap.get [] c.arrived b = i :: l) :
    c.phaseStep live b = if ∀ x ∈ live, x ∈ i :: l then
      { c with phase := SMap.set 0 c.phase b (SMap.get 0 c.phase b + 1), arrived := SMap.set [] c.arrived b [] } else c := by
  have hall : (∀ x ∈ live, x ∈ i :: l) ↔ (!(i :: l).isEmpty && live.all (i :: l).contains) = true := by
    simp
  unfold Cluster.phaseStep
  simp only [hall, h]

theorem clusterArrival (d : SReg) (b : BitVec 4) (s : State) (hp : s.party = .group) (hs : Settled s [d] []) (hd : Drained s) :
    let c := s.gcluster
    let me := cluKey s.gteam.k s.g.gidx
    let phase := SMap.get 0 c.phase b.toNat
    let here := SMap.get [] c.arrived b.toNat
    let done := ∀ x ∈ clusterLive s c, x = me ∨ x ∈ here
    (me ∉ here → ∃ t u, exec (.cluArrive d b) s = .next t ∧ t = ((s.setCluster u).wrS d (phase.setWidth 64)).setPc (s.pc + 4) ∧
      u = { c with phase := u.phase, arrived := u.arrived } ∧
      (done → SMap.get 0 u.phase b.toNat = phase + 1 ∧ SMap.get [] u.arrived b.toNat = []) ∧
      (¬ done → SMap.get 0 u.phase b.toNat = phase ∧ SMap.get [] u.arrived b.toNat = me :: here) ∧
      (∀ j, j ≠ b.toNat → SMap.get 0 u.phase j = SMap.get 0 c.phase j ∧ SMap.get [] u.arrived j = SMap.get [] c.arrived j)) ∧
    (me ∈ here → exec (.cluArrive d b) s = .next { s with g := { s.g with sStall := some .cluWait } }) := by
  intro c me phase here done
  have hrel : s.release .clu = .ok () := by simp only [State.release, hp]
  refine ⟨fun hnot => ?_, fun hin => ?_⟩
  · have hreq : require (!here.contains me) (.stall .cluWait) = .ok () := require_ok (by simpa using hnot)
    have hstep := phaseStep_eq { c with arrived := SMap.set [] c.arrived b.toNat (me :: here) } (clusterLive s c) b.toNat me here
      (by rw [SMap.get_set_same])
    have hdone : (∀ x ∈ clusterLive s c, x ∈ me :: here) ↔ done := by simp only [List.mem_cons, done]
    simp only [hdone] at hstep
    obtain ⟨u, hu⟩ : ∃ u, u = ({ c with arrived := SMap.set [] c.arrived b.toNat (me :: here) } : Cluster).phaseStep (clusterLive s c) b.toNat :=
      ⟨_, rfl⟩
    rw [← hu] at hstep
    refine ⟨_, u, ?_, rfl, ?_⟩
    · show execCluArrive d b s = _
      simp only [execCluArrive, ready_ok hs, drain_ok hd, hrel, bind, Except.bind]
      rw [hreq]
      dsimp only
      rw [State.next, ← State.pc, State.wrS_pc, hu]
      rfl
    · rw [hstep]
      by_cases hd : done
      · rw [if_pos hd]
        refine ⟨rfl, fun _ => ⟨SMap.get_set_same .., by rw [SMap.get_set_same]⟩, fun h => absurd hd h, fun j hj => ⟨SMap.get_set_other _ _ _ hj, ?_⟩⟩
        rw [SMap.get_set_other _ _ _ hj, SMap.get_set_other _ _ _ hj]
      · rw [if_neg hd]
        exact ⟨rfl, fun h => absurd h hd, fun _ => ⟨rfl, by rw [SMap.get_set_same]⟩, fun j hj => ⟨rfl, by rw [SMap.get_set_other _ _ _ hj]⟩⟩
  · have hreq : require (!here.contains me) (.stall .cluWait) = .error (.stall .cluWait) := require_error (by simpa using hin)
    show execCluArrive d b s = _
    simp only [execCluArrive, ready_ok hs, drain_ok hd, hrel, bind, Except.bind]
    rw [hreq]
    exact finishS_stall hp _

/-- After an acquire the stream goes on at the next word. -/
theorem acquire_next (s : State) (sc : Scope) : (s.acquire sc).next = (Spec.afterAcquire s (some sc)).setPc (s.pc + 4) := by
  rw [next_of_sc (onlyCaches_acquire s sc).sc, acquire_eq_afterAcquire]

theorem clusterBarriers : Spec.ClusterBarriers := by
  refine ⟨clusterArrival, ?_⟩
  intro a b s hp hs gone
  have hexec : exec (.cluWait a b) s = finishS s (require (phaseDone (SMap.get 0 s.gcluster.phase b.toNat) ((s.rdS a).setWidth 32))
      (.stall .cluWait) >>= fun _ => .ok (s.acquire .clu).next) := by
    show execCluWait a b s = _
    simp only [execCluWait, ready_ok hs, bind, Except.bind]
  have hdone : phaseDone (SMap.get 0 s.gcluster.phase b.toNat) ((s.rdS a).setWidth 32) = true ↔ 1 ≤ gone ∧ gone ≤ 2 ^ 31 := by
    simp [phaseDone, gone]
  refine ⟨fun h => ?_, fun h => ?_⟩
  · rw [hexec, require_ok (hdone.mpr h), ← acquire_next]
    rfl
  · rw [hexec, require_error (Bool.eq_false_iff.mpr fun hc => h (hdone.mp hc))]
    exact finishS_stall hp _

/-! ### ARR.SET and ARR.WAIT (R204) -/

/-- An arrival counter is no cached line: its access leaves a translation at most. -/
theorem touch_counter {s : State} {va : DWord} {l : Loc} (hp : s.party = .group) (hl : counterLoc s va = .ok l) :
    s.touch va = { s with tlb := (s.touch va).tlb } := by
  have htouch : s.touch va = s ∨ s.touch va = s.touchTlb va := by
    unfold counterLoc at hl
    unfold State.touch
    rw [hp]
    cases hw : windowLoc s va with
    | some r => exact .inl rfl
    | none =>
      simp only [hw, bind, Except.bind] at hl
      cases ht : translate s va .load with
      | error e => exact .inr rfl
      | ok x =>
        simp only [ht, lift] at hl
        split at hl
        · cases hl
        · next hhome =>
          have h1 : x.home = 1 := by simpa using hhome
          simp [Loc.inL1, h1]
  rcases htouch with h | h
  · rw [h]
  · rw [h]
    exact touchTlb_eq s va

theorem exec_arrSet {a b : SReg} {s : State} (hs : Settled s [] [a, b]) (h8 : (s.rdS a).toNat % 8 = 0) :
    exec (.arrSet a b) s = finishS s (counterLoc s (s.rdS a) >>= fun _ =>
      let rest := s.gteam.watches.filter fun w => w.1 != s.rdS a
      require (rest.length < 8) (trapP .bounds 0 (s.rdS a)) >>= fun _ =>
      .ok ((s.touch (s.rdS a)).setTeam { s.gteam with watches := rest ++ [(s.rdS a, s.rdS b)] }).next) := by
  show execArrSet a b s = _
  simp only [execArrSet, ready_ok hs, h8, decide_true, require, if_true, bind, Except.bind]

theorem arrSet_registers (a b : SReg) (l : Loc) (s : State) (hp : s.party = .group) (hs : Settled s [] [a, b])
    (h8 : (s.rdS a).toNat % 8 = 0) (hl : counterLoc s (s.rdS a) = .ok l) :
    let rest := s.gteam.watches.filter fun w => w.1 != s.rdS a
    (rest.length < 8 → ∃ t, exec (.arrSet a b) s = .next t ∧
      t = (({ s with tlb := t.tlb }.setTeam { s.gteam with watches := rest ++ [(s.rdS a, s.rdS b)] }).setPc (s.pc + 4))) ∧
    (8 ≤ rest.length → exec (.arrSet a b) s = .next (takeTrap s false { code := .bounds, addr := s.rdS a })) := by
  intro rest
  have hexec := exec_arrSet hs h8
  rw [hl] at hexec
  refine ⟨fun hr => ?_, fun hr => ?_⟩
  · refine ⟨(({ s with tlb := (s.touch (s.rdS a)).tlb } : State).setTeam
      { s.gteam with watches := rest ++ [(s.rdS a, s.rdS b)] }).setPc (s.pc + 4), ?_, ?_⟩
    · rw [hexec]
      simp only [bind, Except.bind]
      rw [require_ok (by simpa using hr)]
      dsimp only
      rw [touch_counter hp hl]
      exact congrArg _ (next_of_sc (State.sc_congr rfl rfl rfl))
    · rw [State.setPc, State.setSc_tlb]
      rfl
  · rw [hexec]
    simp only [bind, Except.bind]
    rw [require_error (by simpa using hr)]
    rfl

theorem arrSet_refuses (a b : SReg) (s : State) (hs : Settled s [] [a, b]) (h8 : (s.rdS a).toNat % 8 = 0) :
    let va := s.rdS a
    let refused := exec (.arrSet a b) s = .next (takeTrap s false (preciseAt .protection va 3))
    (∀ t, windowLoc s va = some (.error t) → refused) ∧
    (∀ l, windowLoc s va = some (.ok l) → (l.key - 2 ^ 60) / 2 ^ 21 ≠ s.gteam.tid → refused) ∧
    (∀ l, windowLoc s va = none → translate s va .load = .ok l → l.home ≠ 1 → refused) ∧
    (∀ t, windowLoc s va = none → translate s va .load = .error t → exec (.arrSet a b) s = .next (takeTrap s false t)) := by
  intro va refused
  have htrap : ∀ t, counterLoc s va = .error (.trap t) → exec (.arrSet a b) s = .next (takeTrap s false t) := by
    intro t ht
    rw [exec_arrSet hs h8, ht]
    rfl
  refine ⟨fun t h => htrap _ ?_, fun l h hne => htrap _ ?_, fun l h ht hne => htrap _ ?_, fun t h ht => htrap _ ?_⟩
  · simp only [counterLoc, h]
  · simp only [counterLoc, h, if_neg hne]
  · simp only [counterLoc, h, ht, lift, bind, Except.bind, if_pos hne]
  · simp only [counterLoc, h, ht, lift, bind, Except.bind]

theorem arrWait_answers (a : SReg) (s : State) (hp : s.party = .group) (hs : Settled s [] [a]) :
    (∀ (v : DWord) (l : Loc), s.gteam.watches.find? (fun w => w.1 == s.rdS a) = some (s.rdS a, v) → counterLoc s (s.rdS a) = .ok l →
      arrive s l (s.rdS a) 8 = .ok () →
      (v.toNat ≤ Memory.read s.mem l.key 8 → exec (.arrWait a) s = .next ((Spec.afterAcquire s (some .fab)).setPc (s.pc + 4))) ∧
      (Memory.read s.mem l.key 8 < v.toNat → exec (.arrWait a) s = .next { s with g := { s.g with sStall := some .arrWait } })) ∧
    ((∀ w ∈ s.gteam.watches, w.1 ≠ s.rdS a) → exec (.arrWait a) s = .next (takeTrap s false { code := .reservedField })) := by
  refine ⟨fun v l hfind hl harr => ?_, fun hnone => ?_⟩
  · have hexec : exec (.arrWait a) s = finishS s (require (v.toNat ≤ Memory.read s.mem l.key 8) (.stall .arrWait) >>= fun _ => .ok (s.acquire .fab).next) := by
      show execArrWait a s = _
      simp only [execArrWait, ready_ok hs, hfind, hl, harr, State.read, bind, Except.bind]
      rfl
    rw [hexec]
    refine ⟨fun h => ?_, fun h => ?_⟩
    · rw [require_ok (decide_eq_true h), ← acquire_next]
      rfl
    · rw [require_error (decide_eq_false (Nat.not_le.mpr h))]
      exact finishS_stall hp _
  · have hfind : s.gteam.watches.find? (fun w => w.1 == s.rdS a) = none := by
      rw [List.find?_eq_none]
      exact fun w hw => by simpa using hnone w hw
    show execArrWait a s = _
    simp only [execArrWait, ready_ok hs, hfind, bind, Except.bind]
    rfl

theorem arrivalWatches : Spec.ArrivalWatches := by
  refine ⟨arrSet_registers, fun a b s _ => arrSet_refuses a b s, fun a b s _ hs h8 => ?_, arrWait_answers⟩
  show execArrSet a b s = _
  simp only [execArrSet, ready_ok hs, bind, Except.bind]
  rw [require_error (decide_eq_false h8)]
  rfl

/-- Settles O14: the team's barrier, the cluster's and the watches. -/
theorem barriersAndWatches : Obligations.BarriersAndWatches := ⟨teamBarrier, clusterBarriers, arrivalWatches⟩

end Sys2Proof.Machine
end

section
/-!
# Channels (R205, R171, R281)

Each of the four instructions is its checks and then one change of the channel: the equations say which, and the waits and traps are the
checks that fail.
-/
namespace Sys2Proof.Machine

theorem settled_src {s : State} {dst src : List SReg} (h : Settled s dst src) : Settled s [] src :=
  ⟨fun r hr => h.1 r (List.mem_append_right _ hr), h.2⟩
theorem settled_dst {s : State} {dst src : List SReg} (h : Settled s dst src) : Settled s dst [] :=
  ⟨fun r hr => h.1 r (List.mem_append_left _ (by simpa using hr)), by simp⟩

/-- A state at the PC of `s` goes on at the word after it. -/
theorem next_of_pc {s t : State} (h : t.pc = s.pc) : t.next = t.setPc (s.pc + 4) := by
  rw [State.next, ← h]
  rfl
theorem wrC_next (s : State) (k : CReg) (b : Bool) : (s.wrC k b).next = (s.wrC k b).setPc (s.pc + 4) := next_of_pc (s.wrC_pc k b)

theorem release_near (s : State) : s.release .clu = .ok () := by
  unfold State.release
  rcases s.party_cases with h | ⟨k, h⟩ <;> rw [h]

/-- The end of a region in a state that has the scalar context of `s`. -/
def endsRegion (s u : State) : State := { u with g := u.g.endRegion (s.pc + 4) }

theorem endRegion_of_sc {s u : State} (hp : u.party = .group) (hpc : u.pc = s.pc) : u.endRegion = endsRegion s u := by
  rw [endRegion_group hp, endsRegion, ← hpc, State.pc, State.sc_group hp]
theorem endsRegion_sc (s u : State) : (endsRegion s u).sc = u.sc := State.sc_congr rfl rfl rfl

/-! ### The channel of a team -/

theorem channel_none {s : State} {ch : BitVec 5} {send : Bool}
    (h : ∀ x ∈ s.gcluster.chans, x.ch ≠ ch.toNat ∨ (if send then x.prod else x.cons) ≠ s.gteam.k) :
    channel s ch send = .error (trapP .channelUndeclared) := by
  have hfind : (s.gcluster.chans.find? fun x => x.ch == ch.toNat && (if send then x.prod else x.cons) == s.gteam.k) = none := by
    rw [List.find?_eq_none]
    intro x hx
    have hne := h x hx
    simp only [Bool.and_eq_true, beq_iff_eq]
    tauto
  simp only [channel, hfind]

section
variable {s : State} {ch : BitVec 5} {x : Chan}

theorem setChan_sc (x : Chan) : (setChan s x).sc = s.sc := State.sc_congr rfl rfl rfl

/-! ### SEND and SEND.TRY -/

theorem exec_send {a : SReg} (hs : Settled s [] [a]) (hd : Drained s) (hx : channel s ch true = .ok x)
    (hlive : teamGone s x.cons = false) :
    exec (.send a ch) s = finishS s (require (x.msgs.length < x.depth) (.stall .chanFull) >>= fun _ =>
      .ok (setChan s { x with msgs := x.msgs ++ [s.rdS a] }).endRegion.next) := by
  show execSend a ch s = _
  simp only [execSend, ready_ok hs, drain_ok hd, hx, hlive, release_near, require, bind, Except.bind, Bool.not_false, if_true]

theorem exec_sendTry {k : CReg} {a : SReg} (hs : Settled s [] [a]) (hd : Drained s) (hx : channel s ch true = .ok x)
    (hlive : teamGone s x.cons = false) :
    exec (.sendTry k a ch) s = .next (if x.depth ≤ x.msgs.length then (s.wrC k false).next
      else ((setChan s { x with msgs := x.msgs ++ [s.rdS a] }).endRegion.wrC k true).next) := by
  show execSendTry k a ch s = _
  simp only [execSendTry, ready_ok hs, drain_ok hd, hx, hlive, release_near, bind, Except.bind, Bool.false_or, decide_eq_true_eq]
  split <;> rfl

/-! ### RECV and RECV.TRY -/

/-- The channel after the group has taken the message at its place. -/
def Chan.taken (x : Chan) (n gid : Nat) : Chan :=
  { x with msgs := x.msgs.eraseIdx n, bad := (x.bad.filter (· != n)).map fun j => if n < j then j - 1 else j
           waits := x.waits.filter fun w => w != gid }

/-- The channel with the group among those that wait for a message. -/
def Chan.awaited (x : Chan) (gid : Nat) : Chan := if x.waits.contains gid then x else { x with waits := x.waits ++ [gid] }

theorem takeMsg_eq (s : State) (x : Chan) :
    takeMsg s x = x.msgs[recvPlace s x]?.map fun v => (v, setChan s (x.taken (recvPlace s x) s.g.gid)) := rfl

theorem soundMsg_ok (h : recvPlace s x ∉ x.bad) : soundMsg s x = .ok () :=
  require_ok (by simp [h])
theorem soundMsg_flawed {v : DWord} (hv : x.msgs[recvPlace s x]? = some v) (h : recvPlace s x ∈ x.bad) :
    soundMsg s x = .error (sramError s) := by
  have hlt : recvPlace s x < x.msgs.length := (List.getElem?_eq_some_iff.mp hv).1
  exact require_error (by simp [h, hlt])
theorem soundMsg_absent (hv : x.msgs[recvPlace s x]? = none) : soundMsg s x = .ok () := by
  have hge : x.msgs.length ≤ recvPlace s x := List.getElem?_eq_none_iff.mp hv
  exact require_ok (by simp [Nat.not_lt.mpr hge])

/-- The state that a received message leaves, but for its register. -/
def received (s : State) (x : Chan) : State :=
  endsRegion s (Spec.afterAcquire (setChan s (x.taken (recvPlace s x) s.g.gid)) (some .clu))

theorem received_pc (s : State) (x : Chan) : (received s x).pc = s.pc := by
  rw [State.pc, received, endsRegion_sc, ← acquire_eq_afterAcquire, (onlyCaches_acquire _ _).sc, setChan_sc]
  rfl

theorem received_eq (hp : s.party = .group) :
    ((setChan s (x.taken (recvPlace s x) s.g.gid)).acquire .clu).endRegion = received s x := by
  have hc := onlyCaches_acquire (setChan s (x.taken (recvPlace s x) s.g.gid)) .clu
  rw [received, ← acquire_eq_afterAcquire]
  refine endRegion_of_sc (hc.party.trans hp) ?_
  rw [State.pc, hc.sc, setChan_sc]
  rfl

variable {d : SReg} (hs : Settled s [d] []) (hd : Drained s) (hx : channel s ch false = .ok x)
include hs hd hx

theorem exec_recv_takes {v : DWord} (hp : s.party = .group) (hv : x.msgs[recvPlace s x]? = some v) (hb : recvPlace s x ∉ x.bad) :
    exec (.recv d ch) s = .next (((received s x).wrS d v).setPc (s.pc + 4)) := by
  have hnext : ((received s x).wrS d v).next = ((received s x).wrS d v).setPc (s.pc + 4) :=
    next_of_pc ((State.wrS_pc ..).trans (received_pc s x))
  show execRecv d ch s = _
  simp only [execRecv, ready_ok hs, drain_ok hd, hx, soundMsg_ok hb, takeMsg_eq, hv, Option.map_some, received_eq hp, hnext, bind,
    Except.bind]
  rfl

theorem exec_recvTry_takes {k : CReg} {v : DWord} (hp : s.party = .group) (hv : x.msgs[recvPlace s x]? = some v)
    (hb : recvPlace s x ∉ x.bad) :
    exec (.recvTry d k ch) s = .next ((((received s x).wrS d v).wrC k true).setPc (s.pc + 4)) := by
  have hnext : (((received s x).wrS d v).wrC k true).next = (((received s x).wrS d v).wrC k true).setPc (s.pc + 4) :=
    next_of_pc ((State.wrC_pc ..).trans ((State.wrS_pc ..).trans (received_pc s x)))
  show execRecvTry d k ch s = _
  simp only [execRecvTry, ready_ok hs, drain_ok hd, hx, soundMsg_ok hb, takeMsg_eq, hv, Option.map_some, received_eq hp, hnext,
    bind, Except.bind]
  rfl

theorem exec_recv_flawed {k : CReg} {v : DWord} (hv : x.msgs[recvPlace s x]? = some v) (hb : recvPlace s x ∈ x.bad) :
    ∀ i ∈ [Instr.recv d ch, .recvTry d k ch],
      exec i s = .next (takeTrap (s.errRecord 1 1 s.gteam.core 0 0) false (restartAt .uncorrectableData 0)) := by
  intro i hi
  rw [List.mem_cons, List.mem_singleton] at hi
  rcases hi with rfl | rfl
  · show execRecv d ch s = _
    simp only [execRecv, ready_ok hs, drain_ok hd, hx, soundMsg_flawed hv hb, bind, Except.bind]
    rfl
  · show execRecvTry d k ch s = _
    simp only [execRecvTry, ready_ok hs, drain_ok hd, hx, soundMsg_flawed hv hb, takeMsg_eq, hv, Option.map_some, bind, Except.bind]
    rfl

omit hd in
theorem exec_recvTry_empty {k : CReg} (hv : x.msgs[recvPlace s x]? = none) :
    exec (.recvTry d k ch) s = .next ((s.wrC k false).setPc (s.pc + 4)) := by
  show execRecvTry d k ch s = _
  simp only [execRecvTry, ready_ok hs, hx, takeMsg_eq, hv, Option.map_none, wrC_next, bind, Except.bind]
  rfl

theorem exec_recv_waits (hp : s.party = .group) (hv : x.msgs[recvPlace s x]? = none)
    (hlive : x.msgs ≠ [] ∨ teamGone s x.prod = false) :
    ∃ t, exec (.recv d ch) s = .next t ∧ t.g = { s.g with sStall := some .chanEmpty } := by
  have hreq : require (!(x.msgs.isEmpty && teamGone s x.prod)) (trapP .channelUndeclared) = .ok () :=
    require_ok (by rcases hlive with h | h <;> simp [h])
  refine ⟨{ setChan s (x.awaited s.g.gid) with g := { s.g with sStall := some .chanEmpty } }, ?_, rfl⟩
  show execRecv d ch s = _
  simp only [execRecv, ready_ok hs, drain_ok hd, hx, soundMsg_absent hv, takeMsg_eq, hv, Option.map_none, hreq, bind, Except.bind]
  refine finishS_stallIn_group ?_ _
  exact hp

end

/-- Settles O15, instruction by instruction. -/
theorem channelsMoveMessages : Obligations.ChannelsMoveMessages := by
  intro s ch a d k hp hs hd ends
  have hsa := settled_src hs
  have hsd := settled_dst hs
  refine ⟨fun x hx hlive => ?_, fun x hx => ⟨?_, ?_, ?_⟩, fun h => ?_, fun h => ?_⟩
  · have hsent : (setChan s { x with msgs := x.msgs ++ [s.rdS a] }).endRegion =
        ends (setChan s { x with msgs := x.msgs ++ [s.rdS a] }) := endRegion_of_sc hp (congrArg SCtx.pc (setChan_sc _))
    have hpc : (ends (setChan s { x with msgs := x.msgs ++ [s.rdS a] })).pc = s.pc :=
      congrArg SCtx.pc ((endsRegion_sc s _).trans (setChan_sc _))
    intro sent
    refine ⟨fun hroom => ⟨?_, ?_⟩, fun hfull => ⟨?_, ?_⟩⟩
    · rw [exec_send hsa hd hx hlive, require_ok (decide_eq_true hroom), hsent]
      exact congrArg _ (next_of_pc hpc)
    · rw [exec_sendTry hsa hd hx hlive, if_neg (Nat.not_le.mpr hroom), hsent]
      exact congrArg _ (next_of_pc ((State.wrC_pc ..).trans hpc))
    · rw [exec_send hsa hd hx hlive, require_error (decide_eq_false (Nat.not_lt.mpr hfull))]
      exact finishS_stall hp _
    · rw [exec_sendTry hsa hd hx hlive, if_pos hfull, wrC_next]
  · exact fun v hv hb => exec_recv_flawed hsd hd hx hv hb
  · exact fun v hv hb => ⟨exec_recv_takes hsd hd hx hp hv hb, exec_recvTry_takes hsd hd hx hp hv hb⟩
  · exact fun hv => ⟨exec_recvTry_empty hsd hx hv, exec_recv_waits hsd hd hx hp hv⟩
  · have hc := channel_none (send := true) h
    refine ⟨?_, ?_⟩
    · show execSend a ch s = _
      simp only [execSend, ready_ok hsa, drain_ok hd, hc, bind, Except.bind]
      rfl
    · show execSendTry k a ch s = _
      simp only [execSendTry, ready_ok hsa, hc, bind, Except.bind]
      rfl
  · have hc := channel_none (send := false) h
    refine ⟨?_, ?_⟩
    · show execRecv d ch s = _
      simp only [execRecv, ready_ok hsd, drain_ok hd, hc, bind, Except.bind]
      rfl
    · show execRecvTry d k ch s = _
      simp only [execRecvTry, ready_ok hsd, hc, bind, Except.bind]
      rfl

end Sys2Proof.Machine
end

section
/-!
# Stream descriptors (R176, R178)
-/
namespace Sys2Proof.Machine

/-! ### Descriptors of a group -/

theorem Group.stream_setStream (g : Group) (k : Nat) (x : Stream) : (g.setStream k x).stream k = x := SMap.get_set_same ..
theorem Group.stream_setStream_other (g : Group) {k m : Nat} (x : Stream) (h : m ≠ k) : (g.setStream k x).stream m = g.stream m :=
  SMap.get_set_other _ _ _ h

/-- A change of every entry reads as the change of what was read, where the default is unchanged. -/
theorem SMap.get_map {α : Type} (d : α) (f : α → α) (hd : f d = d) (m : SMap α) (k : Nat) :
    SMap.get d (m.map fun y => (y.1, f y.2)) k = f (SMap.get d m k) := by
  induction m with
  | nil => exact hd.symm
  | cons y m ih =>
    obtain ⟨i, v⟩ := y
    simp only [List.map_cons, SMap.get]
    split
    · rfl
    · exact ih

/-- A descriptor that gives up a port it is bound to. -/
def Stream.unbound (j : Nat) (y : Stream) : Stream := if y.port == some j then { y with port := none, loadQ := [] } else y

theorem Stream.unbound_port (j : Nat) (y : Stream) : (y.unbound j).port ≠ some j := by
  unfold Stream.unbound
  split
  · simp
  · next h => simpa using h
theorem Stream.unbound_pos (j : Nat) (y : Stream) : (y.unbound j).pos = y.pos := by
  unfold Stream.unbound
  split <;> rfl

/-- The group's descriptors with a port taken from whichever has it. -/
def Group.unbound (g : Group) (j : Nat) : Group := { g with streams := g.streams.map fun y => (y.1, y.2.unbound j) }

theorem Group.stream_unbound (g : Group) (j m : Nat) : (g.unbound j).stream m = (g.stream m).unbound j :=
  SMap.get_map ({} : Stream) (Stream.unbound j) rfl g.streams m

/-! ### The instructions -/

theorem strmStart_ok {s : State} {dst src : List SReg} (hs : Settled s dst src) (hd : Drained s) : strmStart s dst src = .ok () := by
  simp only [strmStart, ready_ok hs, drain_ok hd, bind, Except.bind]
theorem defined_ok {s : State} {k : BitVec 4} (h : (s.g.stream k.toNat).defined = true) : defined s k = .ok (s.g.stream k.toNat) := by
  simp only [defined, h, if_true]
theorem defined_error {s : State} {k : BitVec 4} (h : (s.g.stream k.toNat).defined = false) : defined s k = .error (trapP .queueUnbound) := by
  simp only [defined, h, Bool.false_eq_true, if_false]

theorem startPrefetch_eq (s : State) (x : Stream) : startPrefetch s x = { s with engineQ := (startPrefetch s x).engineQ } := by
  unfold startPrefetch
  split
  · split
    · rfl
    · exact post_eq ..
  · rfl

/-- The group `g` in place of the group in focus, its prefetch begun, at the next word. -/
def strmNext (s : State) (g : Group) (x : Stream) : State := (startPrefetch { s with g := g } x).next

theorem strmNext_pc (s : State) {g : Group} (x : Stream) (hsc : g.sc = s.g.sc) : (strmNext s g x).pc = s.pc + 4 := by
  have h : (startPrefetch { s with g := g } x).sc = s.sc := by
    rw [startPrefetch_eq]
    exact State.sc_congr rfl hsc rfl
  rw [strmNext, State.next_pc, State.pc, h]
  rfl
theorem strmNext_mem (s : State) (g : Group) (x : Stream) : (strmNext s g x).mem = s.mem := by
  rw [strmNext, State.next_mem, startPrefetch_eq]
theorem strmNext_stream (s : State) (g : Group) (x : Stream) (m : Nat) : (strmNext s g x).g.stream m = g.stream m := by
  rw [strmNext, State.next, State.setPc, State.setSc_g, startPrefetch_eq]
  rfl

theorem exec_strmDef {s u : State} {k : BitVec 4} {a : SReg} {b : List Byte} {y : Stream} (hs : Settled s [] [a]) (hd : Drained s)
    (hc : canonical (s.rdS a) = true) (h64 : (s.rdS a).toNat % 64 = 0) (hb : recordAt s (s.rdS a) 8 = .ok (b, u))
    (hy : streamOf b = some y) :
    let x : Stream := { y with port := (u.remClear.g.stream k.toNat).port }
    exec (.strmDef k a) s = .next (strmNext u.remClear (u.remClear.g.setStream k.toNat x) x) := by
  show execStrmDef k a s = _
  simp only [execStrmDef, strmStart_ok hs hd, recordCheck_ok hc h64, hb, hy, bind, Except.bind]
  rfl

section
variable {s : State} {k : BitVec 4} (hs : Settled s [] []) (hd : Drained s) (hdef : (s.g.stream k.toNat).defined = true)
include hs hd hdef

theorem exec_strmBind (j : BitVec 4) :
    let x : Stream := { (s.g.unbound j.toNat).stream k.toNat with port := some j.toNat, loadQ := [] }
    exec (.strmBind j k) s = .next (strmNext s ((s.g.unbound j.toNat).setStream k.toNat x) x) := by
  have hmap : (s.g.streams.map fun (y : Nat × Stream) =>
      if y.2.port == some j.toNat then (y.1, { y.2 with port := none, loadQ := [] }) else y) =
      s.g.streams.map fun y => (y.1, y.2.unbound j.toNat) := by
    refine List.map_congr_left fun y _ => ?_
    unfold Stream.unbound
    split <;> rfl
  show execStrmBind j k s = _
  simp only [execStrmBind, strmStart_ok hs hd, defined_ok hdef, hmap, bind, Except.bind]
  rfl

theorem exec_strmClose : exec (.strmClose k) s = .next ({ s with g := s.g.setStream k.toNat {} }.next) := by
  show execStrmClose k s = _
  simp only [execStrmClose, strmStart_ok hs hd, defined_ok hdef, bind, Except.bind]
  rfl

end

theorem exec_strmSeek {s : State} {k : BitVec 4} {a : SReg} (hs : Settled s [] [a]) (hd : Drained s)
    (hdef : (s.g.stream k.toNat).defined = true) :
    let x : Stream := { s.g.stream k.toNat with pos := (s.rdS a).toNat, loadQ := [] }
    exec (.strmSeek k a) s = finishS s (require ((s.rdS a).toNat ≤ (s.g.stream k.toNat).total) (trapP .bounds) >>= fun _ =>
      .ok (strmNext s (s.g.setStream k.toNat x) x)) := by
  show execStrmSeek k a s = _
  simp only [execStrmSeek, strmStart_ok hs hd, defined_ok hdef, bind, Except.bind]
  rfl

theorem exec_strmPos {s : State} {k : BitVec 4} {d : SReg} (hs : Settled s [d] []) (hd : Drained s)
    (hdef : (s.g.stream k.toNat).defined = true) :
    exec (.strmPos d k) s = .next ((s.wrS d (BitVec.ofNat 64 (s.g.stream k.toNat).pos)).next) := by
  show execStrmPos d k s = _
  simp only [execStrmPos, strmStart_ok hs hd, defined_ok hdef, bind, Except.bind]
  rfl

theorem exec_strm_undefined {s : State} {j k : BitVec 4} {a d : SReg} (hs : Settled s [d] [a]) (hd : Drained s)
    (hdef : (s.g.stream k.toNat).defined = false) : ∀ i ∈ [Instr.strmBind j k, .strmPos d k, .strmSeek k a, .strmClose k],
      exec i s = .next (takeTrap s false { code := .queueUnbound }) := by
  intro i hi
  simp only [List.mem_cons, List.not_mem_nil, or_false] at hi
  rcases hi with rfl | rfl | rfl | rfl
  · show execStrmBind j k s = _
    simp only [execStrmBind, strmStart_ok (settled_dst (settled_src hs)) hd, defined_error hdef, bind, Except.bind]
    rfl
  · show execStrmPos d k s = _
    simp only [execStrmPos, strmStart_ok (settled_dst hs) hd, defined_error hdef, bind, Except.bind]
    rfl
  · show execStrmSeek k a s = _
    simp only [execStrmSeek, strmStart_ok (settled_src hs) hd, defined_error hdef, bind, Except.bind]
    rfl
  · show execStrmClose k s = _
    simp only [execStrmClose, strmStart_ok (settled_dst (settled_src hs)) hd, defined_error hdef, bind, Except.bind]
    rfl

/-- Settles O17, instruction by instruction. -/
theorem streamDescriptors : Obligations.StreamDescriptors := by
  intro s k j a d _ hs hd x
  have hn : Settled s [] [] := settled_dst (settled_src hs)
  refine ⟨fun b u y hc h64 hb hy => ?_, fun hdef => ⟨?_, exec_strmPos (settled_dst hs) hd hdef, fun hle => ?_, fun hlt => ?_,
    exec_strmClose hn hd hdef⟩, exec_strm_undefined hs hd⟩
  · have hclear := onlyCaches_remClear u
    refine ⟨_, exec_strmDef (settled_src hs) hd hc h64 hb hy, ?_, fun c => ?_, ?_⟩
    · refine (strmNext_pc _ _ ?_).trans (congrArg (· + 4) hclear.pc)
      rfl
    · rw [strmNext_mem, hclear.mem]
    · rw [strmNext_stream, Group.stream_setStream]
  · refine ⟨_, exec_strmBind hn hd hdef j, strmNext_pc _ _ rfl, fun c => by rw [strmNext_mem], ?_, ?_, ?_, fun m hm => ?_⟩
    · rw [strmNext_stream, Group.stream_setStream]
    · rw [strmNext_stream, Group.stream_setStream, Group.stream_unbound]
      exact Stream.unbound_pos ..
    · rw [strmNext_stream, Group.stream_setStream]
    · rw [strmNext_stream, Group.stream_setStream_other _ _ hm, Group.stream_unbound]
      exact Stream.unbound_port _ _
  · have hexec := exec_strmSeek (settled_src hs) hd hdef
    rw [require_ok (decide_eq_true hle)] at hexec
    refine ⟨_, hexec, strmNext_pc _ _ rfl, fun c => by rw [strmNext_mem], ?_⟩
    rw [strmNext_stream, Group.stream_setStream]
  · rw [exec_strmSeek (settled_src hs) hd hdef, require_error (decide_eq_false (Nat.not_le.mpr hlt))]
    rfl

end Sys2Proof.Machine
end

section
/-!
# GRID.BIND, GRID.PUB and GRID.STAT (R190 to R192)
-/
namespace Sys2Proof.Machine

/-- The address of a record that was read is admitted, so its alignment alone is left to check. -/
theorem recordCheck_of_read {s : State} {va : DWord} {n m : Nat} {r : List Byte × State} (h : recordAt s va (n + 1) = .ok r)
    (ha : va.toNat % m = 0) : recordCheck va m = .ok () := recordCheck_ok (canonical_of_recordAt h) ha

/-! ### GRID.BIND (R190, R296) -/

/-- The grid that a binding finds or begins. -/
def bindTarget (s : State) (va : DWord) (d : GridD) : Grid :=
  let fresh : Grid := { dom := s.gdom, asn := s.gasn, desc := va, d := d, launches := [], parts := [] }
  match s.grid? s.gdom s.gasn va with
  | some o => if o.lives s && o.d == d then o else fresh
  | none => fresh

/-- It has the descriptor, and the domain, address space and address by which it is named. -/
theorem bindTarget_named (s : State) (va : DWord) (d : GridD) :
    (bindTarget s va d).d = d ∧ (bindTarget s va d).dom = s.gdom ∧ (bindTarget s va d).asn = s.gasn ∧ (bindTarget s va d).desc = va := by
  unfold bindTarget
  dsimp only
  split
  · next o ho =>
    split
    · next hlives =>
      have hfind : s.grids.find? (fun g : Grid => g.isOf s.gdom s.gasn va) = some o := ho
      have hname := List.find?_some hfind
      simp only [Grid.isOf, Bool.and_eq_true, beq_iff_eq] at hname hlives
      obtain ⟨⟨hdom, hasn⟩, hdesc⟩ := hname
      exact ⟨hlives.2, hdom, hasn, hdesc⟩
    · exact ⟨rfl, rfl, rfl, rfl⟩
  · exact ⟨rfl, rfl, rfl, rfl⟩

/-- The state that a binding of a grid leaves, before the stream goes on. -/
def bindGrid (t : State) (gr : Grid) (va : DWord) (launch slot part : Nat) : State :=
  let u := if gr.parts == [] then { t with deliveries := t.deliveries.filter fun x => !x.isOf gr } else t
  let u := u.setGrid { gr with launches := (launch :: gr.launches).eraseDups }
  { u with g := { u.g with grids := SMap.set ⟨0, 0⟩ u.g.grids slot ⟨va, part + 1⟩ } }

theorem bindGrid_eq (t : State) (gr : Grid) (va : DWord) (launch slot part : Nat) :
    bindGrid t gr va launch slot part = { t with
      deliveries := (bindGrid t gr va launch slot part).deliveries
      grids := { gr with launches := (launch :: gr.launches).eraseDups } :: t.grids.filter fun x => !x.isOf gr.dom gr.asn gr.desc
      g := { t.g with grids := SMap.set ⟨0, 0⟩ t.g.grids slot ⟨va, part + 1⟩ } } := by
  unfold bindGrid State.setGrid
  dsimp only
  split <;> rfl

@[simp] theorem State.setSc_grids (s : State) (c : SCtx) : (s.setSc c).grids = s.grids :=
  State.setSc_keeps (·.grids) (fun _ _ _ _ _ _ => rfl) s c

theorem exec_gridBind {s t u : State} {n : BitVec 4} {a : SReg} {b : List Byte} {d0 : GridD} {os : List GOwner} {part : Nat}
    (hp : s.party = .group) (hs : Settled s [] [a]) (hd : Drained s) (ha : (s.rdS a).toNat % 256 = 0)
    (hb : recordAt s (s.rdS a) 32 = .ok (b, t)) (hgrid : gridOf s s.gdom b = some d0)
    (hown : readOwners t (BitVec.ofNat 64 (fieldOf b 72 8)) (d0.p.foldl (· * ·) 1) = .ok (os, u))
    (hpart : os.findIdx? (fun o => o.pkg == s.fabric.pkg && o.team == s.gteam.teamlin) = some part)
    (hst : storageOk u.remClear (bindTarget s (s.rdS a) { d0 with owners := os }) part = .ok ()) :
    exec (.gridBind n a) s =
      .next (bindGrid u.remClear (bindTarget s (s.rdS a) { d0 with owners := os }) (s.rdS a) s.gteam.launch n.toNat part).next := by
  have hgroup : (s.party == .group) = true := beq_iff_eq.mpr hp
  show execGridBind n a s = _
  unfold bindTarget at hst ⊢
  simp only [execGridBind, ready_ok hs, drain_ok hd, recordCheck_of_read hb ha, hb, hgrid, hown, hgroup, Bool.true_and, hpart, bind,
    Except.bind]
  cases hfound : s.grid? s.gdom s.gasn (s.rdS a) <;> simp only [hfound] at hst ⊢ <;> rw [hst] <;> rfl

theorem gridBind_binds {s t u : State} {n : BitVec 4} {a : SReg} {b : List Byte} {d0 : GridD} {os : List GOwner} {part : Nat}
    (hp : s.party = .group) (hs : Settled s [] [a]) (hd : Drained s) (ha : (s.rdS a).toNat % 256 = 0)
    (hb : recordAt s (s.rdS a) 32 = .ok (b, t)) (hgrid : gridOf s s.gdom b = some d0)
    (hown : readOwners t (BitVec.ofNat 64 (fieldOf b 72 8)) (d0.p.foldl (· * ·) 1) = .ok (os, u))
    (hpart : os.findIdx? (fun o => o.pkg == s.fabric.pkg && o.team == s.gteam.teamlin) = some part)
    (hst : ∀ g : Grid, g.d = { d0 with owners := os } → g.dom = s.gdom → g.asn = s.gasn → g.desc = s.rdS a →
      storageOk u.remClear g part = .ok ()) :
    ∃ r, exec (.gridBind n a) s = .next r ∧ r.pc = u.remClear.pc + 4 ∧ SMap.get ⟨0, 0⟩ r.g.grids n.toNat = ⟨s.rdS a, part + 1⟩ ∧
      SameBytes u r ∧ ∃ g ∈ r.grids, g.desc = s.rdS a ∧ s.gteam.launch ∈ g.launches := by
  obtain ⟨hgd, hdom, hasn, hdesc⟩ := bindTarget_named s (s.rdS a) { d0 with owners := os }
  refine ⟨_, exec_gridBind hp hs hd ha hb hgrid hown hpart (hst _ hgd hdom hasn hdesc), ?_, ?_, fun c => ?_, ?_⟩
  · have hsc : (bindGrid u.remClear (bindTarget s (s.rdS a) { d0 with owners := os }) (s.rdS a) s.gteam.launch n.toNat part).sc = u.remClear.sc := by
      rw [bindGrid_eq]
      exact State.sc_congr rfl rfl rfl
    rw [State.next_pc, State.pc, hsc]
    rfl
  · rw [State.next, State.setPc, State.setSc_g, bindGrid_eq]
    exact SMap.get_set_same ..
  · rw [State.next_mem, bindGrid_eq, State.remClear_mem]
  · rw [State.next, State.setPc, State.setSc_grids, bindGrid_eq]
    exact ⟨_, List.mem_cons_self, hdesc, List.mem_eraseDups.mpr List.mem_cons_self⟩

/-! ### GRID.PUB (R191) -/

/-- GRID.PUB's refusal of a step: one before the step published, or 0xFFFFFFFF. -/
def stepRefused (published : Option Nat) (step : Nat) : Bool :=
  (match published with
    | some p => decide (step < p)
    | none => false) || step == 2 ^ 32 - 1

theorem stepRefused_iff (published : Option Nat) (step : Nat) :
    stepRefused published step = true ↔ (∃ p, published = some p ∧ step < p) ∨ step = 2 ^ 32 - 1 := by
  cases published <;> simp [stepRefused]

theorem exec_gridPub {s : State} {n : BitVec 4} {a : SReg} {g : Grid} {part step : Nat} (hs : Settled s [] [a]) (hd : Drained s)
    (hslot : slotGrid s n = .ok (g, part)) (hrel : Released s .fab) (hstep : (s.rdS a).toNat % 2 ^ 32 = step) :
    exec (.gridPub n a) s = finishS s (require (!stepRefused (g.partOf part).published step) (trapP .reservedField) >>= fun _ =>
      if (g.partOf part).published = some step then .ok s.next
      else require (!(pubLines s g part step).any fun l => s.owned l.1.key 1) (.stall .recall) >>= fun _ =>
        s.grants false (pubLines s g part step) >>= fun u => publish u g part step >>= fun u => .ok u.next) := by
  show execGridPub n a s = _
  simp only [execGridPub, ready_ok hs, drain_ok hd, hslot, release_ok hrel, hstep, stepRefused, Bool.not_or, bne, bind, Except.bind] <;> rfl

theorem gridPub_answers {s : State} {n : BitVec 4} {a : SReg} {g : Grid} {part step : Nat} (hs : Settled s [] [a]) (hd : Drained s)
    (hslot : slotGrid s n = .ok (g, part)) (hrel : Released s .fab) (hstep : (s.rdS a).toNat % 2 ^ 32 = step) :
    ((g.partOf part).published = some step → step ≠ 2 ^ 32 - 1 → exec (.gridPub n a) s = .next s.next) ∧
    (((∃ p, (g.partOf part).published = some p ∧ step < p) ∨ step = 2 ^ 32 - 1) →
      exec (.gridPub n a) s = .next (takeTrap s false { code := .reservedField })) ∧
    (∀ u w, (∀ p, (g.partOf part).published = some p → p < step) → step ≠ 2 ^ 32 - 1 →
      (∀ l ∈ pubLines s g part step, s.owned l.1.key 1 = false) → s.grants false (pubLines s g part step) = .ok u →
      publish u g part step = .ok w → exec (.gridPub n a) s = .next w.next) := by
  have hadmit : (∀ p, (g.partOf part).published = some p → p ≤ step) → step ≠ 2 ^ 32 - 1 →
      (!stepRefused (g.partOf part).published step) = true := by
    intro hle hmax
    rw [Bool.not_eq_true', Bool.eq_false_iff, Ne, stepRefused_iff]
    rintro (⟨p, hp, hlt⟩ | h)
    · exact Nat.not_lt.mpr (hle p hp) hlt
    · exact hmax h
  rw [exec_gridPub hs hd hslot hrel hstep]
  refine ⟨fun hpub hmax => ?_, fun h => ?_, fun u w hlater hmax hown hgr hw => ?_⟩
  · rw [require_ok (hadmit (fun p hp => Nat.le_of_eq (Option.some.inj (hp.symm.trans hpub))) hmax)]
    simp only [bind, Except.bind]
    rw [if_pos hpub]
    rfl
  · rw [require_error (by rw [(stepRefused_iff ..).mpr h]; rfl)]
    rfl
  · have hne : (g.partOf part).published ≠ some step := fun h => Nat.lt_irrefl _ (hlater step h)
    have hfree : (!(pubLines s g part step).any fun l => s.owned l.1.key 1) = true := by
      rw [Bool.not_eq_true', List.any_eq_false]
      exact fun l hl => by simp [hown l hl]
    rw [require_ok (hadmit (fun p hp => Nat.le_of_lt (hlater p hp)) hmax)]
    simp only [bind, Except.bind]
    rw [if_neg hne, require_ok hfree]
    simp only [hgr, hw]
    rfl

/-! ### GRID.STAT (R192), and a slot that is not bound -/

theorem exec_gridStat {s : State} {n : BitVec 4} {d : SReg} {g : Grid} {part : Nat} (hs : Settled s [d] [])
    (hslot : slotGrid s n = .ok (g, part)) :
    exec (.gridStat d n) s = .next ((s.wrS d (BitVec.ofNat 64
      (((g.partOf part).published.getD (2 ^ 32 - 1)) * 2 ^ 32 + rcvStep g (g.partOf part)))).next) := by
  show execGridStat d n s = _
  simp only [execGridStat, ready_ok hs, hslot, bind, Except.bind]
  rfl

theorem slotGrid_unbound {s : State} {n : BitVec 4} (h : (SMap.get ⟨0, 0⟩ s.g.grids n.toNat).part = 0) :
    slotGrid s n = .error (trapP .reservedField) := by
  unfold slotGrid
  split
  · rfl
  · next a p hslot =>
    rw [hslot] at h
    cases h

/-- Settles O20: the three instructions, and an unbound slot. -/
theorem gridBindingAndPublication : Obligations.GridBindingAndPublication := by
  intro s n a d hp hs hd
  refine ⟨fun b t d0 os u part ha hb hgrid hown hpart hst => gridBind_binds hp (settled_src hs) hd ha hb hgrid hown hpart hst,
    fun g part hslot => ⟨fun hrel => gridPub_answers (settled_src hs) hd hslot hrel rfl, exec_gridStat (settled_dst hs) hslot⟩,
    fun h i hi => ?_⟩
  have hslot := slotGrid_unbound h
  rw [List.mem_cons, List.mem_singleton] at hi
  rcases hi with rfl | rfl
  · show execGridPub n a s = _
    simp only [execGridPub, ready_ok (settled_src hs), drain_ok hd, hslot, bind, Except.bind]
    rfl
  · show execGridStat d n s = _
    simp only [execGridStat, ready_ok (settled_dst hs), hslot, bind, Except.bind]
    rfl

end Sys2Proof.Machine
end

section
/-!
# Replay sessions (R214, R412, R413, R418)
-/
namespace Sys2Proof.Machine

/-! ### A group's place in its session -/

/-- The group in focus with another membership. -/
def State.withReplay (s : State) (r : Option Replay) : State := { s with g := { s.g with replay := r } }

theorem withReplay_sc (s : State) (r : Option Replay) : (s.withReplay r).sc = s.sc := State.sc_congr rfl rfl rfl
theorem next_replay (s : State) : s.next.g.replay = s.g.replay := by
  rw [State.next, State.setPc, State.setSc_g]
theorem wrS_replay (s : State) (d : SReg) (v : DWord) : (s.wrS d v).g.replay = s.g.replay := by
  unfold State.wrS
  split
  · rfl
  · rw [State.setSc_g]

/-! ### REPLAY.REC and REPLAY.PLAY (R412, R413) -/

/-- What the operand of a join says (R412): its reserved byte and its participant number. -/
theorem join_operand {x : Nat} (hx : x < 2 ^ 64) : bitsOf x 56 8 = x / 2 ^ 56 ∧ (x / 2 ^ 56 = 0 → bitsOf x 32 24 = x / 2 ^ 32) := by
  simp only [bitsOf, Nat.shiftRight_eq_div_pow]
  omega

theorem enterSession_eq (s : State) (m : Member) (rcd : List Byte) :
    enterSession s m rcd = { s with sessions := (enterSession s m rcd).sessions, sessNodes := (enterSession s m rcd).sessNodes } := by
  unfold enterSession
  dsimp only
  split <;> rfl

section
variable {s u : State} {a b : SReg} {e : List Byte} (play : Bool) (hs : Settled s [] [a, b]) (hd : Drained s)
  (h64 : (s.rdS a).toNat % 64 = 0) (he : recordAt s (s.rdS a) 8 = .ok (e, u))
include hs hd h64 he

theorem joinSession_reserved (h : (s.rdS b).toNat / 2 ^ 56 ≠ 0 ∨ fieldOf e 12 4 ≤ (s.rdS b).toNat / 2 ^ 32 ∨ s.g.replay.isSome = true) :
    joinSession play a b s = .next (takeTrap s false { code := .reservedField }) := by
  obtain ⟨htop, hpid⟩ := join_operand (s.rdS b).isLt
  have hbad : ¬ (bitsOf (s.rdS b).toNat 56 8 = 0 ∧ bitsOf (s.rdS b).toNat 32 24 < fieldOf e 12 4 ∧ s.g.replay.isNone = true) := by
    rintro ⟨h56, hcount, hout⟩
    rw [htop] at h56
    rw [hpid h56] at hcount
    rcases h with h | h | h
    · exact h h56
    · exact Nat.not_lt.mpr h hcount
    · rw [Option.isNone_iff_eq_none] at hout
      rw [hout] at h
      cases h
  simp only [joinSession, ready_ok hs, drain_ok hd, recordCheck_of_read he h64, he, require_error (decide_eq_false hbad), bind, Except.bind]
  rfl

theorem joinSession_joins (h56 : (s.rdS b).toNat / 2 ^ 56 = 0) (hcount : (s.rdS b).toNat / 2 ^ 32 < fieldOf e 12 4)
    (hout : s.g.replay = none) (hplay : play = true → fieldOf e 40 8 % 2 = 0 ∧ fieldOf e 40 8 / 4 % 2 = 0) :
    ∃ t, joinSession play a b s = .next t ∧ t.pc = u.pc + 4 ∧ SameBytes u t ∧ t.g.replay =
      some { sess := s.rdS a, play := play, pid := (s.rdS b).toNat / 2 ^ 32, g := BitVec.ofNat 32 (s.rdS b).toNat, idx := 0, pend := [] } := by
  obtain ⟨htop, hpid⟩ := join_operand (s.rdS b).isLt
  have hgood : bitsOf (s.rdS b).toNat 56 8 = 0 ∧ (s.rdS b).toNat / 2 ^ 32 < fieldOf e 12 4 ∧ s.g.replay.isNone = true := by
    rw [htop, hout]
    exact ⟨h56, hcount, rfl⟩
  have hstatus : (!play || (bitsOf (fieldOf e 40 8) 0 1 = 0 && bitsOf (fieldOf e 40 8) 2 1 = 0 : Bool)) = true := by
    cases play with
    | false => rfl
    | true => simpa [bitsOf, Nat.shiftRight_eq_div_pow] using hplay rfl
  let m : Member := ⟨s.gdom, s.gasn, s.party != .group, s.rdS a, play, (s.rdS b).toNat / 2 ^ 32⟩
  let r : Replay := { sess := s.rdS a, play := play, pid := (s.rdS b).toNat / 2 ^ 32, g := BitVec.ofNat 32 (s.rdS b).toNat, idx := 0, pend := [] }
  have hexec : joinSession play a b s = .next ((enterSession u.remClear m e).withReplay (some r)).next := by
    simp only [joinSession, ready_ok hs, drain_ok hd, recordCheck_of_read he h64, he, require_ok (decide_eq_true hgood), require_ok hstatus,
      hpid h56, bind, Except.bind]
    rfl
  have hclear := onlyCaches_remClear u
  have hsc : (enterSession u.remClear m e).sc = u.sc := by
    rw [enterSession_eq, ← hclear.sc]
    exact State.sc_congr rfl rfl rfl
  refine ⟨_, hexec, ?_, fun c => ?_, next_replay _⟩
  · rw [State.next_pc, State.pc, withReplay_sc, hsc]
    rfl
  · rw [State.next_mem, State.withReplay, enterSession_eq, hclear.mem]

end

/-! ### REPLAY.CHK (R418) -/

/-- The place of a participant's next entry in its log. -/
def entryPlace (s : State) (m : Member) (r : Replay) : DWord :=
  BitVec.ofNat 64 (sessField s m 16 8 + 8 * (r.pid * sessField s m 24 4 + r.idx))

/-- A check delivers G and moves to the next index. -/
theorem checked_state (u : State) (d : SReg) (r : Replay) :
    let t := ((u.withReplay (some { r with idx := r.idx + 1 })).wrS d (r.g.setWidth 64)).next
    (d ≠ 0 → t.rdS d = r.g.setWidth 64) ∧ t.pc = u.pc + 4 ∧ t.g.replay = some { r with idx := r.idx + 1 } ∧ SameBytes u t := by
  intro t
  have hw := writesReg_wrS (u.withReplay (some { r with idx := r.idx + 1 })) d (r.g.setWidth 64)
  refine ⟨hw.dest, ?_, ?_, fun c => ?_⟩
  · rw [hw.pc, State.pc, withReplay_sc]
    rfl
  · rw [next_replay, wrS_replay]
    rfl
  · rw [State.next_mem, State.wrS_mem]
    rfl

section
variable {s : State} {d : SReg} {r : Replay} {m : Member} (hs : Settled s [d] []) (hd : Drained s) (hr : s.g.replay = some r)
  (hm : s.member? = some m) (hidx : r.idx < sessField s m 24 4)
include hs hd hr hm hidx

theorem exec_replayChk_plays {e : Nat} {u : State} (hplay : m.play = true) (he : loadS s (entryPlace s m r) 8 false = .ok (e, u)) :
    exec (.replayChk d) s = finishS s (require (bitsOf e 63 1 = 1 ∧ bitsOf e 0 32 = r.g.toNat)
      (.trapIn (setStatus s m 1) { code := .replayDiverge }) >>= fun _ =>
        .ok ((u.withReplay (some { r with idx := r.idx + 1 })).wrS d (r.g.setWidth 64)).next) := by
  unfold entryPlace at he
  show execReplayChk d s = _
  simp only [execReplayChk, ready_ok hs, drain_ok hd, hr, hm, require_ok (decide_eq_true hidx), hplay, if_true, he, bind, Except.bind]
  rcases require _ _ with e | e <;> rfl

theorem exec_replayChk_records {l : Loc} {u : State} (hrec : m.play = false) (hacc : access s (entryPlace s m r) 8 .store .plainStore = .ok l)
    (hput : (s.touch (entryPlace s m r) true).put l (entryPlace s m r) 8 (2 ^ 63 + r.g.toNat) s.g.relS = .ok u) :
    exec (.replayChk d) s = .next ((u.withReplay (some { r with idx := r.idx + 1 })).wrS d (r.g.setWidth 64)).next := by
  unfold entryPlace at hacc hput
  show execReplayChk d s = _
  simp only [execReplayChk, ready_ok hs, drain_ok hd, hr, hm, require_ok (decide_eq_true hidx), hrec, Bool.false_eq_true, if_false,
    lift_ok hacc, hput, bind, Except.bind]
  rfl

end

/-- The entry's mark and value, as the check reads them. -/
theorem entry_bits {e : Nat} (he : e < 2 ^ 64) (g : Nat) :
    (bitsOf e 63 1 = 1 ∧ bitsOf e 0 32 = g) ↔ 2 ^ 63 ≤ e ∧ e % 2 ^ 32 = g := by
  simp only [bitsOf, Nat.shiftRight_eq_div_pow]
  omega

/-- Settles O22: a join, a check of either kind, and the end of a membership. -/
theorem replaySessions : Obligations.ReplaySessions := by
  intro s a b d _ hs hd va x
  have hsrc := settled_src hs
  have hdst := settled_dst hs
  refine ⟨?_, fun r m hr hm hidx => ⟨?_, ?_⟩, ?_⟩
  · intro e u play h64 he _ i
    have hi : exec i s = joinSession play a b s := by cases play <;> rfl
    rw [hi]
    exact ⟨joinSession_joins play hsrc hd h64 he, joinSession_reserved play hsrc hd h64 he⟩
  · intro hplay e u he he64 _
    rw [exec_replayChk_plays hdst hd hr hm hidx hplay he]
    refine ⟨fun hmark hval => ?_, fun hbad => ?_⟩
    · obtain ⟨hdest, hpc, hrep, _⟩ := checked_state u d r
      rw [require_ok (decide_eq_true ((entry_bits he64 _).mpr ⟨hmark, hval⟩))]
      exact ⟨_, rfl, hdest, hpc, hrep⟩
    · have hnot : ¬ (bitsOf e 63 1 = 1 ∧ bitsOf e 0 32 = r.g.toNat) := by
        rw [entry_bits he64]
        rintro ⟨hmark, hval⟩
        rcases hbad with h | h
        · exact Nat.not_lt.mpr hmark h
        · exact h hval
      rw [require_error (decide_eq_false hnot)]
      rfl
  · intro hrec l u hacc hput _
    exact ⟨_, exec_replayChk_records hdst hd hr hm hidx hrec hacc hput, checked_state u d r⟩
  · show execReplayOff s = _
    simp only [execReplayOff, drain_ok hd, bind, Except.bind]
    rfl

end Sys2Proof.Machine
end

section
/-!
# Tensor copies and their tokens (R195, R199, R200)
-/
namespace Sys2Proof.Machine

/-! ### Work that begins (R171, R199) -/

/-- The piece of work that a state begins for a register. -/
def jobOf (u : State) (d : SReg) (k : JobKind) (status : DWord) : Job :=
  { id := u.nextId, gid := u.g.gid, dom := u.gdom, asn := u.gasn, launch := u.gteam.launch, reg := d, kind := k, status := status, area := none }

theorem exists_post (s : State) (e : Ev) : ∃ q, s.post e = { s with engineQ := q } := ⟨_, post_eq s e⟩

theorem startJob_group {u : State} (hp : u.party = .group) (d : SReg) (k : JobKind) (status : DWord) :
    ∃ q, u.startJob d k status =
      { u with g := { u.g with sc := u.g.sc.await d }, jobs := u.jobs ++ [jobOf u d k status], nextId := u.nextId + 1, engineQ := q } := by
  have htok := setTok_group (s := { u with jobs := u.jobs ++ [jobOf u d k status], nextId := u.nextId + 1 }) hp d
  obtain ⟨q, hq⟩ := exists_post
    { u with g := { u.g with sc := u.g.sc.await d }, jobs := u.jobs ++ [jobOf u d k status], nextId := u.nextId + 1 } (k.ev u.nextId)
  exact ⟨q, (congrArg (State.post · (k.ev u.nextId)) htok).trans hq⟩

/-- Work of a group begins at the end of its region, and the stream goes on. -/
theorem startJob_next {u : State} (hp : u.party = .group) (d : SReg) (k : JobKind) (status : DWord) :
    ∃ q, (u.endRegion.startJob d k status).next =
      { u with
        g := { u.g.endRegion (u.g.sc.pc + 4) with sc := { u.g.sc.await d with pc := u.g.sc.pc + 4 } }
        jobs := u.jobs ++ [jobOf u d k status], nextId := u.nextId + 1, engineQ := q } := by
  have hregion := endRegion_group hp
  obtain ⟨v, hv⟩ : ∃ v, v = u.endRegion := ⟨_, rfl⟩
  have hpv : v.party = .group := by rw [hv, hregion]; exact hp
  obtain ⟨q, hq⟩ := startJob_group hpv d k status
  refine ⟨q, ?_⟩
  rw [← hv, hq]
  have hnext := next_group (s := { v with g := { v.g with sc := v.g.sc.await d }, jobs := v.jobs ++ [jobOf v d k status], nextId := v.nextId + 1, engineQ := q }) hpv
  rw [hnext, SCtx.await_pc, hv, hregion]
  rfl

theorem await_pending (c : SCtx) (d r : SReg) :
    (r != 0 && (c.await d).tok.getLsbD r.toNat) = if d ≠ 0 ∧ r = d then true else (r != 0 && c.tok.getLsbD r.toNat) := by
  unfold SCtx.await
  by_cases hd : d = 0
  · simp [hd]
  · rw [if_neg hd]
    simp only [putBit_getLsbD _ _ _ _ (show d.toNat < 64 from d.isLt)]
    by_cases hr : r = d
    · subst hr
      rw [if_pos rfl, if_pos ⟨hd, rfl⟩, bne_iff_ne.mpr hd]
      rfl
    · simp [hr, toNat_ne hr]

theorem started_of_startJob {u : State} (hp : u.party = .group) (d : SReg) (k : JobKind) (status : DWord) :
    Spec.Started u (u.endRegion.startJob d k status).next d k status := by
  obtain ⟨q, h⟩ := startJob_next hp d k status
  obtain ⟨t, ht⟩ : ∃ t, t = (u.endRegion.startJob d k status).next := ⟨_, rfl⟩
  rw [← ht] at h ⊢
  have hsc : t.sc = { u.g.sc.await d with pc := u.g.sc.pc + 4 } := by
    rw [h]
    exact State.sc_group hp
  have husc : u.sc = u.g.sc := State.sc_group hp
  have hpend : ∀ r, t.pending r = if d ≠ 0 ∧ r = d then true else u.pending r := by
    intro r
    rw [State.pending, hsc, State.pending, husc]
    exact await_pending u.g.sc d r
  refine ⟨⟨jobOf u d k status, ?_, rfl, rfl, rfl, rfl, rfl⟩, ?_, fun hd => ?_, fun r hr => ?_, fun r => ?_, ?_, ?_, ?_, fun b => ?_⟩
  · rw [h]
  · rw [h]
  · rw [hpend, if_pos ⟨hd, rfl⟩]
  · rw [hpend, if_neg fun hc => hr hc.2]
  · have hreg : (u.g.sc.await d).sreg = u.g.sc.sreg := by
      unfold SCtx.await
      split <;> rfl
    rw [State.rdS, State.rdS, hsc, husc, hreg]
  · rw [h]
    rfl
  · rw [h]
    rfl
  · rw [State.pc, State.pc, hsc, husc]
  · rw [h]

/-! ### CP.TENS (R195) -/

theorem recordCheck_misaligned {va : DWord} {n : Nat} (hc : canonical va = true) (h : va.toNat % n ≠ 0) :
    recordCheck va n = .error (trapP .misaligned 0 va) := by
  simp only [recordCheck, require_ok hc, require_error (decide_eq_false h), bind, Except.bind]

theorem exec_tensorCopy {i : Instr} {m : CpMode} {d l c p : SReg} (s : State) (h : Spec.tensorCopy i = some (m, d, l, c, p)) :
    exec i s = cpTens m d l c p s := by
  cases i with
  | cpTensTile | cpTensConv | cpTensGather =>
    cases h
    rfl
  | _ => cases h

section
variable {s u : State} {m : CpMode} {d l c p : SReg} {b : List Byte} {t : Tlr} {xs : Option (List CpItem)} {key room : Nat}
  (hs : Settled s [d] [l, p]) (hd : Drained s) (h64 : (s.rdS l).toNat % 64 = 0) (hb : recordAt s (s.rdS l) 8 = .ok (b, u))
  (ht : tlrOf b m = some t) (hrank : c.toNat + t.rank ≤ 64)
  (hcoords : Settled s [] ((List.range t.rank).map fun n => BitVec.ofNat 6 (c.toNat + n)))
  (hxs : cpItems s t m c.toNat = .ok xs) (hroom : windowRoom s (s.rdS p) = some (key, room)) (hesz : (s.rdS p).toNat % t.esz = 0)
include hs hd h64 hb ht hrank hcoords hxs hroom hesz

theorem cpTens_overruns (hover : xs = none ∨ ∃ y, xs = some y ∧ room < t.esz * y.length) (hct : s.g.copyTrap = false) :
    cpTens m d l c p s = .next ((u.remClear.endRegion.wrS d (statusWord 1 0)).next) := by
  have hcond : (xs.isNone || decide (room < t.esz * (xs.getD []).length)) = true := by
    rcases hover with rfl | ⟨y, rfl, hlt⟩
    · rfl
    · simpa using hlt
  simp only [cpTens, ready_ok hs, drain_ok hd, recordCheck_of_read hb h64, hb, ht, require_ok (decide_eq_true hrank), ready_ok hcoords, hxs,
    hroom, require_ok (decide_eq_true hesz), hcond, hct, if_true, Bool.false_eq_true, if_false, bind, Except.bind]
  rfl

theorem cpTens_moves {y : List CpItem} {w v : State} {bytes code : Nat} (hy : xs = some y) (hfit : t.esz * y.length ≤ room)
    (hfree : ∀ e ∈ cpLines u t key (s.rdS p) (((badIndex s t m c.toNat).map fun k => y.take (t.box.getD 0 1 * k.1)).getD y),
      s.owned e.1.key t.esz = false)
    (hw : u.grants false (cpLines u t key (s.rdS p) (((badIndex s t m c.toNat).map fun k => y.take (t.box.getD 0 1 * k.1)).getD y)) = .ok w)
    (hrun : cpRun t key w.nextId (((badIndex s t m c.toNat).map fun k => y.take (t.box.getD 0 1 * k.1)).getD y) w 0 0 =
      .ok (v, bytes, code)) :
    let e := if code = 0 ∨ code = 3 then indexEnd v (badIndex s t m c.toNat) code else (v, code)
    cpTens m d l c p s = .next (e.1.remClear.endRegion.startJob d .copy (statusWord e.2 bytes)).next := by
  subst hy
  have hcond : ((some y : Option (List CpItem)).isNone || decide (room < t.esz * y.length)) = false := by
    simpa using hfit
  have hlines : (!(cpLines u t key (s.rdS p)
      (((badIndex s t m c.toNat).map fun k => y.take (t.box.getD 0 1 * k.1)).getD y)).any fun l => s.owned l.1.key t.esz) = true := by
    rw [Bool.not_eq_true', List.any_eq_false]
    exact fun e he => by simp [hfree e he]
  simp only [cpTens, ready_ok hs, drain_ok hd, recordCheck_of_read hb h64, hb, ht, require_ok (decide_eq_true hrank), ready_ok hcoords, hxs,
    hroom, require_ok (decide_eq_true hesz), Option.getD_some, hcond, Bool.false_eq_true, if_false, require_ok hlines, hw, hrun, bind,
    Except.bind]
  rfl

end

theorem indexEnd_party (s : State) (bad : Option (Nat × Nat)) (code : Nat) : (indexEnd s bad code).1.party = s.party := by
  unfold indexEnd
  split
  · rfl
  · next k =>
    show (s.errRecord 1 (unitOf s k 1).1 (unitOf s k 1).2 0 k).party = s.party
    rw [errRecord_eq]

theorem tensorCopies : Spec.TensorCopies := by
  intro s i m d l c p hi hp hs hd
  rw [exec_tensorCopy s hi]
  refine ⟨fun hc h64 => ?_, ?_⟩
  · simp only [cpTens, ready_ok hs, drain_ok hd, recordCheck_misaligned hc h64, bind, Except.bind]
    rfl
  · intro b u t h64 hb ht hrank hcoords xs key room hxs hroom hesz
    refine ⟨cpTens_overruns hs hd h64 hb ht hrank hcoords hxs hroom hesz, ?_⟩
    intro y w v bytes code hy hfit bad ys hfree hw hrun hparty e
    have hgroup : e.1.remClear.party = .group := by
      rw [(onlyCaches_remClear e.1).party]
      unfold e
      split
      · exact (indexEnd_party ..).trans hparty
      · exact hparty
    exact ⟨_, cpTens_moves hs hd h64 hb ht hrank hcoords hxs hroom hesz hy hfit hfree hw hrun, started_of_startJob hgroup ..⟩

/-! ### CP.TRY (R200) -/

theorem tokenPolling : Spec.TokenPolling := by
  intro s k r imm rest
  refine ⟨fun hdone => ?_, fun hwait hover => ?_, fun hp hwait himm hover => ?_⟩ <;> show execCpTry k r imm s = _
  · simp only [execCpTry, hdone, Bool.not_false, if_true]
    rfl
  · simp only [execCpTry, hwait, Bool.not_true, Bool.false_eq_true, if_false, if_pos hover]
    rfl
  · have hno : ¬ (imm = 0 ∨ s.g.tryOver = true) := by
      rw [hover]
      rintro (h | h)
      · exact himm h
      · cases h
    simp only [execCpTry, hwait, Bool.not_true, Bool.false_eq_true, if_false, if_neg hno]
    refine finishS_stallIn_group ?_ _
    exact hp

/-- Settles O18: the copies, and the polling of their tokens. -/
theorem tensorCopiesAndTheirTokens : Obligations.TensorCopiesAndTheirTokens := ⟨tensorCopies, tokenPolling⟩

end Sys2Proof.Machine
end

section
/-!
# Seals, transfers and collectives (R188, R206, R208)

A request changes the fabric alone, so work that has sent its packets begins in the state of the registers, the memory and the pieces of
work before them.
-/
namespace Sys2Proof.Machine

/-! ### Requests -/

/-- `t` is `s` but for the fabric, whose collectives are as many. -/
structure OnlyFabric (s t : State) : Prop where
  frame : t = { s with fabric := t.fabric }
  collSeq : t.fabric.collSeq = s.fabric.collSeq

theorem OnlyFabric.refl (s : State) : OnlyFabric s s := ⟨rfl, rfl⟩
theorem OnlyFabric.trans {s t u : State} (h : OnlyFabric s t) (k : OnlyFabric t u) : OnlyFabric s u := by
  refine ⟨?_, k.collSeq.trans h.collSeq⟩
  rw [k.frame, h.frame]
theorem OnlyFabric.foldl {α : Type} {f : State → α → State} (hf : ∀ s a, OnlyFabric s (f s a)) (l : List α) (s : State) :
    OnlyFabric s (l.foldl f s) := by
  induction l generalizing s with
  | nil => exact .refl s
  | cons a l ih => exact (hf s a).trans (ih _)

/-- What does not read the fabric reads the same. -/
theorem OnlyFabric.keeps {s t : State} (h : OnlyFabric s t) {β : Type} (f : State → β)
    (hf : ∀ (s : State) (x : Fabric), f { s with fabric := x } = f s) : f t = f s := by
  rw [h.frame]
  exact hf s _

theorem onlyFabric_offer (s : State) (h : HeldReq) : OnlyFabric s (s.offer h) := by
  unfold State.offer
  split
  · exact ⟨rfl, rfl⟩
  · exact ⟨rfl, rfl⟩
theorem onlyFabric_send (s : State) (p : Packet) (r : FabReq) : OnlyFabric s (s.send p r) := by
  unfold State.send
  refine OnlyFabric.trans ?_ (onlyFabric_offer _ _)
  exact ⟨rfl, rfl⟩
theorem onlyFabric_sendOwn (s : State) (p : Packet) (r : FabReq) : OnlyFabric s (s.sendOwn p r) := by
  unfold State.sendOwn
  split <;> exact onlyFabric_send ..

/-! ### GRAD.SEAL (R188) -/

/-- The parts of a range of pages: its start, and the boundaries within it. -/
theorem mem_sealRanges (s : State) (hi : Nat) (r : Nat × Nat) : ∀ (n a : Nat), a < hi → hi ≤ (a / 65536 + n) * 65536 →
    (r ∈ sealRanges s hi n a ↔ ∃ x l, a ≤ x ∧ x < hi ∧ (x = a ∨ x % 65536 = 0) ∧
      translate s (BitVec.ofNat 64 x) .load = .ok l ∧ l.g = true ∧ r = (l.key, min hi ((x / 65536 + 1) * 65536) - x)) := by
  intro n
  induction n with
  | zero => intro a ha hn; omega
  | succ n ih =>
    intro a ha hn
    obtain ⟨stop, hdef⟩ : ∃ stop, stop = min hi ((a / 65536 + 1) * 65536) := ⟨_, rfl⟩
    have hrest : r ∈ (if stop < hi then sealRanges s hi n stop else []) ↔ ∃ x l, a < x ∧ x < hi ∧ x % 65536 = 0 ∧
        translate s (BitVec.ofNat 64 x) .load = .ok l ∧ l.g = true ∧ r = (l.key, min hi ((x / 65536 + 1) * 65536) - x) := by
      by_cases hstop : stop < hi
      · have heq : stop = (a / 65536 + 1) * 65536 := by omega
        have hnext : stop / 65536 = a / 65536 + 1 := by rw [heq, Nat.mul_div_cancel _ (by decide)]
        have hfuel : hi ≤ (stop / 65536 + n) * 65536 := by
          rw [hnext]
          calc hi ≤ (a / 65536 + (n + 1)) * 65536 := hn
            _ = (a / 65536 + 1 + n) * 65536 := by ring
        rw [if_pos hstop, ih stop hstop hfuel]
        refine exists_congr fun x => exists_congr fun l => ?_
        constructor
        · rintro ⟨hle, hlt, hx, hrow⟩
          refine ⟨by omega, hlt, ?_, hrow⟩
          rcases hx with rfl | hx
          · rw [heq, Nat.mul_mod_left]
          · exact hx
        · rintro ⟨hle, hlt, hx, hrow⟩
          exact ⟨by omega, hlt, .inr hx, hrow⟩
      · rw [if_neg hstop]
        refine ⟨fun h => (List.not_mem_nil h).elim, ?_⟩
        rintro ⟨x, l, hle, hlt, hx, -⟩
        omega
    have hsplit : (∃ x l, a ≤ x ∧ x < hi ∧ (x = a ∨ x % 65536 = 0) ∧
        translate s (BitVec.ofNat 64 x) .load = .ok l ∧ l.g = true ∧ r = (l.key, min hi ((x / 65536 + 1) * 65536) - x)) ↔
        (∃ l, translate s (BitVec.ofNat 64 a) .load = .ok l ∧ l.g = true ∧ r = (l.key, stop - a)) ∨
          r ∈ (if stop < hi then sealRanges s hi n stop else []) := by
      rw [hrest]
      constructor
      · rintro ⟨x, l, hle, hlt, hx, hrow⟩
        by_cases hxa : x = a
        · subst hxa
          exact .inl ⟨l, hdef ▸ hrow⟩
        · exact .inr ⟨x, l, by omega, hlt, by omega, hrow⟩
      · rintro (⟨l, hrow⟩ | ⟨x, l, hle, hlt, hx, hrow⟩)
        · exact ⟨a, l, Nat.le_refl _, ha, .inl rfl, hdef ▸ hrow⟩
        · exact ⟨x, l, Nat.le_of_lt hle, hlt, .inr hx, hrow⟩
    rw [hsplit, sealRanges, ← hdef]
    cases htr : translate s (BitVec.ofNat 64 a) .load with
    | error e => simp
    | ok l =>
      cases hg : l.g with
      | false => simp [hg]
      | true => simp [hg]

theorem gradSeal_begins {s : State} {d a b : SReg} (hs : Settled s [d] [a, b]) (hd : Drained s) (ha : (s.rdS a).toNat % 512 = 0)
    (hb : (s.rdS b).toNat % 512 = 0) : ∃ t rs, exec (.gradSeal d a b) s = .next t ∧
      t = (s.startJob d (.seal rs) 0).next ∧ (rs = none ↔ s.rdS b = 0) ∧
      let lo := (s.rdS a).toNat
      let hi := lo + (s.rdS b).toNat
      ∀ xs, rs = some xs → ∀ r, r ∈ xs ↔ ∃ x l, lo ≤ x ∧ x < hi ∧ (x = lo ∨ x % 65536 = 0) ∧
        translate s (BitVec.ofNat 64 x) .load = .ok l ∧ l.g = true ∧ r = (l.key, min hi ((x / 65536 + 1) * 65536) - x) := by
  refine ⟨_, if s.rdS b = 0 then none
    else some (sealRanges s ((s.rdS a).toNat + (s.rdS b).toNat) ((s.rdS b).toNat / 65536 + 2) (s.rdS a).toNat), ?_, rfl, ?_, ?_⟩
  · show execGradSeal d a b s = _
    simp only [execGradSeal, ready_ok hs, drain_ok hd, require_ok (decide_eq_true ha), require_ok (decide_eq_true hb), bind, Except.bind]
    rfl
  · by_cases h0 : s.rdS b = 0
    · rw [if_pos h0]
      exact ⟨fun _ => h0, fun _ => rfl⟩
    · rw [if_neg h0]
      exact ⟨fun h => absurd h (Option.some_ne_none _), fun h => absurd h h0⟩
  · intro lo hi xs hxs r
    by_cases h0 : s.rdS b = 0
    · rw [if_pos h0] at hxs
      cases hxs
    · rw [if_neg h0] at hxs
      cases hxs
      have hpos : 0 < (s.rdS b).toNat := Nat.pos_of_ne_zero (toNat_ne h0)
      exact mem_sealRanges s _ r _ _ (by omega) (by omega)

/-! ### XFER (R206) -/

section
variable {s u : State} {d a : SReg} {x : List Byte} (hs : Settled s [d] [a]) (hd : Drained s) (h32 : (s.rdS a).toNat % 32 = 0)
  (hx : recordAt s (s.rdS a) 4 = .ok (x, u))
include hs hd h32 hx

theorem exec_xfer_reserved (h : xferOf x = none) : exec (.xfer d a) s = .next (takeTrap s false { code := .reservedField }) := by
  show execXfer d a s = _
  simp only [execXfer, ready_ok hs, drain_ok hd, recordCheck_of_read hx h32, hx, h, bind, Except.bind]
  rfl

theorem exec_xfer_unreachable {r : XferRec} (h : xferOf x = some r) (hrel : Released s .fab) (hdown : reachable s = false) :
    exec (.xfer d a) s = .next ((u.remClear.endRegion.startJob d (.xfer 0 0 5) 0).next) := by
  show execXfer d a s = _
  simp only [execXfer, ready_ok hs, drain_ok hd, recordCheck_of_read hx h32, hx, h, release_ok hrel, hdown, Bool.not_false, if_true, bind,
    Except.bind]
  rfl

theorem exec_xfer_sends {r : XferRec} {data : List Byte} {w : State} (h : xferOf x = some r) (hrel : Released s .fab)
    (hup : reachable s = true) (hread : readRange u r.src (r.len / 8) = (data, none, w)) :
    let cs := xferChunks (r.len / 64 + 1) r.dst data
    let v := cs.zipIdx.foldl (sendXfer r w.nextId) w.remClear
    exec (.xfer d a) s = .next ((v.endRegion.startJob d (.xfer cs.length 0 0) 0).next) := by
  show execXfer d a s = _
  simp only [execXfer, ready_ok hs, drain_ok hd, recordCheck_of_read hx h32, hx, h, release_ok hrel, hup, hread, Bool.not_true,
    Bool.false_eq_true, if_false, Option.map_none, bind, Except.bind]
  rfl

end

/-! ### COLL (R208, R454) -/

theorem exec_collective {i : Instr} {op : Nat} {d a : SReg} (s : State) (h : Spec.collective i = some (op, d, a)) : exec i s = coll op d a s := by
  cases i with
  | collAr | collAg | collRs | collBc =>
    cases h
    rfl
  | _ => cases h

/-- Work that begins in a state with the pieces of work, the group and the memory of `u` begins in `u`. -/
theorem started_of_same {u v t : State} {d : SReg} {k : JobKind} {status : DWord} (h : Spec.Started v t d k status)
    (hjobs : v.jobs = u.jobs) (hid : v.nextId = u.nextId) (hg : v.g = u.g) (hmem : v.mem = u.mem) (hsc : v.sc = u.sc) :
    Spec.Started u t d k status := by
  obtain ⟨j, hj, hjid, hreg, hkind, hstatus, hgid⟩ := h.jobs
  refine ⟨⟨j, hjobs ▸ hj, hid ▸ hjid, hreg, hkind, hstatus, hg ▸ hgid⟩, hid ▸ h.ident, h.awaits, fun r hr => ?_, fun r => ?_, hg ▸ h.region,
    hg ▸ h.entry, ?_, fun b => ?_⟩
  · rw [h.others r hr, State.pending, State.pending, hsc]
  · rw [h.regs r, State.rdS, State.rdS, hsc]
  · rw [h.pc, State.pc, State.pc, hsc]
  · rw [h.bytes b, hmem]

theorem failColl_started {w : State} (hp : w.party = .group) (d : SReg) (c : Coll) (code : Nat) (pkgs : List Nat) :
    Spec.Started w (failColl w d c code pkgs) d (.coll { c with code := code, finished := true, pkgs := pkgs }) 0 ∧
      (failColl w d c code pkgs).fabric.collSeq = w.fabric.collSeq := by
  unfold failColl
  dsimp only
  obtain ⟨t, ht⟩ : ∃ t, t = (((List.range pkgs.length).filter fun i => pkgs.getD i 0 != w.fabric.pkg && pkgs.getD i 0 < 512).foldl
      (collSend w.gdom w.nextId { c with code := code, finished := true, pkgs := pkgs } 0 code []) w) := ⟨_, rfl⟩
  have hsent : OnlyFabric w t := by
    rw [ht]
    exact OnlyFabric.foldl (fun s i => onlyFabric_send ..) _ _
  rw [← ht]
  have hpt : t.party = .group := by
    exact (hsent.keeps State.party fun _ _ => rfl).trans hp
  refine ⟨started_of_same (started_of_startJob hpt ..) (hsent.keeps State.jobs fun _ _ => rfl) (hsent.keeps State.nextId fun _ _ => rfl)
    (hsent.keeps State.g fun _ _ => rfl) (hsent.keeps State.mem fun _ _ => rfl) ?_, ?_⟩
  · exact hsent.keeps State.sc fun _ _ => State.sc_congr rfl rfl rfl
  · obtain ⟨q, hq⟩ := startJob_next hpt d (.coll { c with code := code, finished := true, pkgs := pkgs }) 0
    rw [hq]
    exact hsent.collSeq

section
variable {s u : State} {op : Nat} {d a : SReg} {x : List Byte} (hs : Settled s [d] [a]) (hd : Drained s) (h64 : (s.rdS a).toNat % 64 = 0)
  (hx : recordAt s (s.rdS a) 8 = .ok (x, u))
include hs hd h64 hx

theorem coll_reserved (h : collOf op x = none) : coll op d a s = .next (takeTrap s false { code := .reservedField }) := by
  simp only [coll, ready_ok hs, drain_ok hd, recordCheck_of_read hx h64, hx, h, bind, Except.bind]
  rfl

theorem coll_fails {c : Coll} (h : collOf op x = some c) (hrel : Released s .fab) {w : State} {code : Nat} {pkgs : List Nat}
    (hcomm : commOf u u.gdom c.comm = .error (w, code, pkgs)) :
    coll op d a s = .next (failColl { w.remClear with fabric := { w.remClear.fabric with
      collSeq := SMap.set 0 w.remClear.fabric.collSeq (2 ^ 32 * u.gdom + c.comm) (SMap.get 0 u.fabric.collSeq (2 ^ 32 * u.gdom + c.comm) + 1) } }
      d { c with seq := SMap.get 0 u.fabric.collSeq (2 ^ 32 * u.gdom + c.comm) } code pkgs) := by
  simp only [coll, ready_ok hs, drain_ok hd, recordCheck_of_read hx h64, hx, h, release_ok hrel, hcomm, bind, Except.bind]
  rfl

theorem coll_starts {c : Coll} (h : collOf op x = some c) (hrel : Released s .fab) {pkgs : List Nat} {key : Nat} {own : List Byte}
    {w v : State} {ls : List (Loc × DWord)} (hcomm : commOf u u.gdom c.comm = .ok (pkgs, key)) (hroot : c.root < pkgs.length) :
    let n := collElem c.ty
    let idx := 2 ^ 32 * u.gdom + c.comm
    let e : Coll := { c with pkgs := pkgs, key := key, rank := pkgs.findIdx (· == u.fabric.pkg), seq := SMap.get 0 u.fabric.collSeq idx }
    collRead u (BitVec.ofNat 64 (fieldOf x 0 8)) n e.reads = .ok (own, w) → collDest w (BitVec.ofNat 64 (fieldOf x 8 8)) n e.writes = .ok ls →
      (∀ l ∈ ls, s.owned l.1.key n = false) → w.grants false ls = .ok v →
      coll op d a s = .next (startColl
        { v.remClear with fabric := { v.remClear.fabric with collSeq := SMap.set 0 v.remClear.fabric.collSeq idx (e.seq + 1) } }
        d { e with own := own, keys := ls.map fun l => l.1.key }) := by
  intro n idx e hread hdest hfree hgr
  have hown : (!ls.any fun l => s.owned l.1.key (collElem c.ty)) = true := by
    rw [Bool.not_eq_true', List.any_eq_false]
    exact fun l hl => by simp [show s.owned l.1.key (collElem c.ty) = false from hfree l hl]
  simp only [n, idx, e] at hread hdest
  simp only [coll, ready_ok hs, drain_ok hd, recordCheck_of_read hx h64, hx, h, release_ok hrel, hcomm, if_neg (Nat.not_le.mpr hroot), hread,
    hdest, require_ok hown, hgr, bind, Except.bind]
  rfl

end

/-- Settles O19: the seal, the transfer and the collective, each by the checks that it passes. -/
theorem transfersSealsAndCollectives : Obligations.TransfersSealsAndCollectives := by
  intro s d a b hp hs hd
  have hsa : Settled s [d] [a] := ⟨fun r hr => hs.1 r (by simp_all; tauto), fun r hr => hs.2 r (by simp_all)⟩
  refine ⟨gradSeal_begins hs hd, fun ha => ?_, fun ha hb => ?_, fun i op hi hc h64 => ?_, fun hc h32 => ?_, fun x u h32 hx => ?_,
    fun i op x u hi h64 hx => ?_⟩
  · show execGradSeal d a b s = _
    simp only [execGradSeal, ready_ok hs, drain_ok hd, require_error (decide_eq_false ha), bind, Except.bind]
    rfl
  · show execGradSeal d a b s = _
    simp only [execGradSeal, ready_ok hs, drain_ok hd, require_ok (decide_eq_true ha), require_error (decide_eq_false hb), bind, Except.bind]
    rfl
  · rw [exec_collective s hi]
    simp only [coll, ready_ok hsa, drain_ok hd, recordCheck_misaligned hc h64, bind, Except.bind]
    rfl
  · show execXfer d a s = _
    simp only [execXfer, ready_ok hsa, drain_ok hd, recordCheck_misaligned hc h32, bind, Except.bind]
    rfl
  · refine ⟨exec_xfer_reserved hsa hd h32 hx, fun r hr hrel => ⟨fun hdown hpu => ?_, fun data w hup hread => ?_⟩⟩
    · have hgroup : u.remClear.party = .group := (onlyCaches_remClear u).party.trans hpu
      exact ⟨_, exec_xfer_unreachable hsa hd h32 hx hr hrel hdown, started_of_startJob hgroup ..⟩
    · exact exec_xfer_sends hsa hd h32 hx hr hrel hup hread
  · rw [exec_collective s hi]
    refine ⟨coll_reserved hsa hd h64 hx, fun c hc hrel => ⟨fun w code pkgs hcomm hpw => ?_, fun pkgs key own w hcomm hroot => ?_⟩⟩
    · have hgroup : w.remClear.party = .group := (onlyCaches_remClear w).party.trans hpw
      obtain ⟨hst, hseq⟩ := failColl_started (w := { w.remClear with fabric := { w.remClear.fabric with
        collSeq := SMap.set 0 w.remClear.fabric.collSeq (2 ^ 32 * u.gdom + c.comm) (SMap.get 0 u.fabric.collSeq (2 ^ 32 * u.gdom + c.comm) + 1) } })
        hgroup d { c with seq := SMap.get 0 u.fabric.collSeq (2 ^ 32 * u.gdom + c.comm) } code pkgs
      refine ⟨_, coll_fails hsa hd h64 hx hc hrel hcomm, started_of_same hst rfl rfl rfl rfl (State.sc_congr rfl rfl rfl), ?_⟩
      rw [hseq]
      dsimp only
      rw [SMap.get_set_same]
    · intro n idx e hread ls v hdest hfree hgr
      exact coll_starts hsa hd h64 hx hc hrel hcomm hroot hread hdest hfree hgr

end Sys2Proof.Machine
end

section
/-!
# Launch control by groups (R209 to R212, R367, R368, R374)
-/
namespace Sys2Proof.Machine

/-! ### Stores that the device makes for a push (R168, R368) -/

/-- What a push keeps: the group in focus, the party that moves. -/
def SameGroup (s t : State) : Prop := t.g = s.g ∧ t.party = s.party

theorem SameGroup.trans {s t u : State} (h : SameGroup s t) (k : SameGroup t u) : SameGroup s u := ⟨k.1.trans h.1, k.2.trans h.2⟩
theorem sameGroup_write (s : State) (key n v : Nat) : SameGroup s (s.write key n v) := by
  rw [write_eq]
  exact ⟨rfl, rfl⟩
theorem sameGroup_putRemote (s : State) (pa n v : Nat) (ordered sync : Bool) : SameGroup s (s.putRemote pa n v ordered sync) := by
  unfold State.putRemote
  split
  · exact ⟨rfl, rfl⟩
  · have h := onlyFabric_sendOwn s
    exact ⟨(h _ _).keeps State.g fun _ _ => rfl, (h _ _).keeps State.party fun _ _ => rfl⟩
theorem mem_putRemote (s : State) (pa n v : Nat) (ordered sync : Bool) : (s.putRemote pa n v ordered sync).mem = s.mem := by
  unfold State.putRemote
  split
  · rfl
  · exact (onlyFabric_sendOwn ..).keeps State.mem fun _ _ => rfl

/-- A store that the device has made: the access, and where it went. -/
theorem putAt_cases {u w : State} {va : DWord} {n v : Nat} (h : putAt u va n v = .ok w) :
    ∃ l, access u va n .store .plainStore = .ok l ∧
      w = if isRemote l.key then (u.touch va true).putRemote l.key n v u.g.relS else (u.touch va true).write l.key n v := by
  simp only [putAt, bind, Except.bind] at h
  split at h
  · cases h
  · next l hl =>
    split at h
    · cases h
    · refine ⟨l, ?_, (Except.ok.inj h).symm⟩
      cases hacc : access u va n .store .plainStore with
      | error e =>
        rw [hacc] at hl
        cases hl
      | ok x =>
        rw [hacc] at hl
        cases hl
        rfl

theorem sameGroup_putAt {u w : State} {va : DWord} {n v : Nat} (h : putAt u va n v = .ok w) : SameGroup u w := by
  obtain ⟨l, -, rfl⟩ := putAt_cases h
  have hc := onlyCaches_touch u va true none
  have ht : SameGroup u (u.touch va true) := ⟨hc.g, hc.party⟩
  split
  · exact ht.trans (sameGroup_putRemote ..)
  · exact ht.trans (sameGroup_write ..)

theorem putAt_writes {u w : State} {va : DWord} {n v : Nat} (h : putAt u va n v = .ok w) :
    ∃ l, access u va n .store .plainStore = .ok l ∧ w.g = u.g ∧ (isRemote l.key = true → SameBytes u w) ∧ SameBytesOutside u w l.key n ∧
      (isRemote l.key = false → poisoned u l.key n = false → Memory.read w.mem l.key n = v % 256 ^ n) := by
  obtain ⟨l, hacc, hw⟩ := putAt_cases h
  have hc := onlyCaches_touch u va true none
  refine ⟨l, hacc, (sameGroup_putAt h).1, fun hr b => ?_, fun b hb => ?_, fun hr hpo => ?_⟩
  · rw [hw, if_pos hr, mem_putRemote, hc.mem]
  · rw [hw]
    split
    · rw [mem_putRemote, hc.mem]
    · rw [write_other _ _ _ _ _ hb, hc.mem]
  · have hclean : poisoned (u.touch va true) l.key n = false := by rwa [poisoned, hc.poison]
    rw [hw, if_neg (by simp [hr]), write_read _ _ _ _ hclean]

theorem putAll_succ {u w : State} {va : DWord} {b : List Byte} {n : Nat} (h : putAll u va b (n + 1) = .ok w) :
    ∃ w', putAt u va 8 (ofBytes (b.take 8)) = .ok w' ∧ putAll w' (va + 8) (b.drop 8) n = .ok w := by
  simp only [putAll, bind, Except.bind] at h
  split at h
  · cases h
  · next w' hw' => exact ⟨w', hw', h⟩

theorem sameGroup_putAll {u w : State} {va : DWord} {b : List Byte} {n : Nat} (h : putAll u va b n = .ok w) : SameGroup u w := by
  induction n generalizing u va b with
  | zero =>
    cases h
    exact ⟨rfl, rfl⟩
  | succ n ih =>
    obtain ⟨w', h1, h2⟩ := putAll_succ h
    exact (sameGroup_putAt h1).trans (ih h2)

/-! ### The push (R368) -/

/-- A header that obeys R367: its fields. -/
theorem edgeHdr_fields {h : List Byte} {q : EdgeHdr} (hq : edgeHdr h = some q) :
    q.log2 = fieldOf h 0 4 % 16 ∧ q.ring = fieldOf h 8 8 ∧ q.free = fieldOf h 16 4 ∧ q.pushed = fieldOf h 24 8 := by
  unfold edgeHdr at hq
  dsimp only at hq
  split at hq
  · cases hq
  · cases hq
    exact ⟨by simp [bitsOf], rfl, rfl, rfl⟩

/-- A push into a free slot: the record, the two counts, and the event that has the record taken. -/
theorem edgePush_cases {s t : State} {sa sb : DWord} (h : edgePush s sa sb = .ok (some t)) :
    ∃ r u h v w1 w2 w3, recordAt s sa 16 = .ok (r, u) ∧ recordAt u sb 8 = .ok (h, v) ∧ 0 < fieldOf h 16 4 ∧
      putAll v (BitVec.ofNat 64 (fieldOf h 8 8 + 128 * (fieldOf h 24 8 % 2 ^ (fieldOf h 0 4 % 16)))) r 16 = .ok w1 ∧
      putAt w1 (sb + 16) 4 (fieldOf h 16 4 - 1) = .ok w2 ∧ putAt w2 (sb + 24) 8 (fieldOf h 24 8 + 1) = .ok w3 ∧
      ∃ es, t = ({ w3.remClear with edges := es } : State).post (.launchTake (.edge s.gdom s.gasn sb)) := by
  simp only [edgePush, bind, Except.bind] at h
  split at h
  · cases h
  split at h
  · cases h
  split at h
  · cases h
  · next ru hru =>
    obtain ⟨r, u⟩ := ru
    dsimp only at h
    split at h
    · cases h
    · next hv hhv =>
      obtain ⟨hd, v⟩ := hv
      dsimp only at h
      split at h
      · cases h
      · next q hq =>
        obtain ⟨hlog, hring, hfree, hpushed⟩ := edgeHdr_fields hq
        split at h
        · cases h
        · next hpos =>
          split at h
          · cases h
          · next w1 hw1 =>
            split at h
            · cases h
            · next w2 hw2 =>
              split at h
              · cases h
              · next w3 hw3 =>
                split at h
                · cases h
                · rw [hring, hpushed, hlog] at hw1
                  rw [hfree] at hw2 hpos
                  rw [hpushed] at hw3
                  exact ⟨r, u, hd, v, w1, w2, w3, hru, hhv, Nat.pos_of_ne_zero hpos, hw1, hw2, hw3, _,
                    (Option.some.inj (Except.ok.inj h)).symm⟩

theorem sameGroup_recordAt {s t : State} {va : DWord} {n : Nat} {b : List Byte} (h : recordAt s va n = .ok (b, t)) : SameGroup s t :=
  ⟨(onlyCaches_recordAt h).g, (onlyCaches_recordAt h).party⟩

theorem sameGroup_edgePush {s t : State} {sa sb : DWord} (h : edgePush s sa sb = .ok (some t)) : SameGroup s t := by
  obtain ⟨r, u, hd, v, w1, w2, w3, hru, hhv, -, hw1, hw2, hw3, es, rfl⟩ := edgePush_cases h
  have hw : SameGroup s w3 :=
    ((((sameGroup_recordAt hru).trans (sameGroup_recordAt hhv)).trans (sameGroup_putAll hw1)).trans (sameGroup_putAt hw2)).trans
      (sameGroup_putAt hw3)
  have hc := onlyCaches_remClear w3
  refine hw.trans ⟨?_, ?_⟩
  · rw [State.post_g]
    exact hc.g
  · rw [State.post_party]
    exact hc.party

section
variable {s : State} {a b : SReg} (k : CReg) (hs : Settled s [] [a, b])
include hs

theorem exec_launchQ (hd : Drained s) : exec (.launchQ a b) s = finishS s (edgePush s (s.rdS a) (s.rdS b) >>= fun r => match r with
    | none => .error (.stallIn s.remClear .launchFull)
    | some t => .ok t.endRegion.next) := by
  show execLaunchQ a b s = _
  simp only [execLaunchQ, ready_ok hs, drain_ok hd, bind, Except.bind] <;> rfl

theorem launches_push {t : State} (hp : s.party = .group) (hd : Drained s) (h : edgePush s (s.rdS a) (s.rdS b) = .ok (some t)) :
    let u := { t with g := t.g.endRegion (t.pc + 4) }
    exec (.launchQ a b) s = .next (u.setPc (t.pc + 4)) ∧ exec (.launchTry k a b) s = .next ((u.wrC k true).setPc (t.pc + 4)) := by
  intro u
  have hpt : t.party = .group := (sameGroup_edgePush h).2.trans hp
  have hu : t.endRegion = u := endRegion_of_sc hpt rfl
  have hpc : u.pc = t.pc := congrArg SCtx.pc (endsRegion_sc t t)
  refine ⟨?_, ?_⟩
  · rw [exec_launchQ hs hd, h]
    exact congrArg _ (endRegion_next hpt)
  · show execLaunchTry k a b s = _
    simp only [execLaunchTry, ready_ok hs, drain_ok hd, h, hu, bind, Except.bind]
    exact congrArg _ (next_of_pc ((State.wrC_pc ..).trans hpc))

theorem launches_full (hp : s.party = .group) (h : edgePush s (s.rdS a) (s.rdS b) = .ok none) :
    (Drained s → exec (.launchQ a b) s = .next { s.remClear with g := { s.g with sStall := some .launchFull } }) ∧
    exec (.launchTry k a b) s = .next ((s.remClear.wrC k false).setPc (s.pc + 4)) := by
  have hc := onlyCaches_remClear s
  refine ⟨fun hd => ?_, ?_⟩
  · rw [exec_launchQ hs hd, h, ← State.remClear_g s]
    exact finishS_stallIn_group (hc.party.trans hp) _
  · show execLaunchTry k a b s = _
    simp only [execLaunchTry, ready_ok hs, h, bind, Except.bind]
    exact congrArg _ (next_of_pc ((State.wrC_pc ..).trans hc.pc))

end

theorem graphEdgePushes : Spec.GraphEdgePushes := by
  intro s a b k hp hs
  refine ⟨fun t hd h => ?_, fun u va n v w h => putAt_writes h, fun u va b n w h => putAll_succ h, launches_full k hs hp, fun hd hc h128 => ?_⟩
  · obtain ⟨hq, htry⟩ := launches_push k hs hp hd h
    refine ⟨hq, htry, (sameGroup_edgePush h).1, ?_, ?_⟩
    · obtain ⟨r, u, hd, v, w1, w2, w3, -, -, -, -, -, -, es, rfl⟩ := edgePush_cases h
      exact mem_post _ _
    · obtain ⟨r, u, hd, v, w1, w2, w3, h1, h2, h3, h4, h5, h6, es, rfl⟩ := edgePush_cases h
      refine ⟨r, u, hd, v, w1, w2, w3, h1, h2, h3, h4, h5, h6, fun c => ?_⟩
      rw [State.post_mem]
      exact congrArg (Memory.byte · c) (State.remClear_mem w3)
  · rw [exec_launchQ hs hd]
    simp only [edgePush, recordCheck_misaligned hc h128, bind, Except.bind]
    rfl

end Sys2Proof.Machine
end

section
/-!
# TRIGGER, YIELD and EXIT (R210 to R212, R374)
-/
namespace Sys2Proof.Machine

/-! ### Saves write memory alone -/

/-- `t` is `s` but for memory and poison, of which there is none where there was none. -/
def OnlyMemory (s t : State) : Prop := t = { s with mem := t.mem, poison := t.poison } ∧ (s.poison = [] → t.poison = [])

theorem OnlyMemory.refl (s : State) : OnlyMemory s s := ⟨rfl, id⟩
theorem OnlyMemory.trans {s t u : State} (h : OnlyMemory s t) (k : OnlyMemory t u) : OnlyMemory s u := by
  refine ⟨?_, fun hs => k.2 (h.2 hs)⟩
  rw [k.1, h.1]
theorem OnlyMemory.keeps {s t : State} (h : OnlyMemory s t) {β : Type} (f : State → β)
    (hf : ∀ (s : State) (m : Memory) (p : List Nat), f { s with mem := m, poison := p } = f s) : f t = f s := by
  rw [h.1]
  exact hf s _ _
theorem OnlyMemory.foldl {α : Type} {f : State → α → State} (hf : ∀ s a, OnlyMemory s (f s a)) (l : List α) (s : State) :
    OnlyMemory s (l.foldl f s) := by
  induction l generalizing s with
  | nil => exact .refl s
  | cons a l ih => exact (hf s a).trans (ih _)

theorem onlyMemory_write (s : State) (key n v : Nat) : OnlyMemory s (s.write key n v) := by
  refine ⟨write_eq .., fun h => ?_⟩
  simp [State.write, h]
theorem onlyMemory_clearArea (s : State) (a n : Nat) : OnlyMemory s (s.clearArea a n) := by
  refine ⟨rfl, fun h => ?_⟩
  simp [State.clearArea, h]
theorem onlyMemory_fields (s : State) (base : Nat) (fs : List (Nat × Nat × Nat)) : OnlyMemory s (s.fields base fs) :=
  OnlyMemory.foldl (fun s _ => onlyMemory_write s _ _ _) fs s
theorem onlyMemory_saveGroup (s : State) (area : Nat) (offs : List Nat) (size : Nat) (g : Group) : OnlyMemory s (saveGroup s area offs size g) := by
  unfold saveGroup
  dsimp only
  refine .trans ?_ (onlyMemory_fields _ _ _)
  have hloop : ∀ t : State, OnlyMemory t (if g.leave == .light then t else
      t.fields (area + offs.getD 4 0 + 3072 * g.gidx) (loopFields g)) := by
    intro t
    split
    · exact .refl t
    · exact onlyMemory_fields ..
  refine .trans ?_ (hloop _)
  refine .trans ?_ (onlyMemory_fields _ _ _)
  refine .trans ?_ (onlyMemory_fields _ _ _)
  refine .trans ?_ (onlyMemory_fields _ _ _)
  refine .trans ?_ (onlyMemory_fields _ _ _)
  exact OnlyMemory.foldl (fun s _ => onlyMemory_clearArea s _ _) _ _
theorem onlyMemory_saveTeamRecord (s : State) (area : Nat) (t : Team) : OnlyMemory s (saveTeamRecord s area t) := onlyMemory_fields ..
theorem onlyMemory_completeLight (s : State) (area gidx : Nat) : OnlyMemory s (completeLight s area gidx) :=
  (onlyMemory_write ..).trans (onlyMemory_write ..)

/-- A write where no word is poisoned changes memory alone. -/
theorem write_of_sound {s : State} (h : s.poison = []) (key n v : Nat) : s.write key n v = { s with mem := Memory.write s.mem key n v } := by
  simp [State.write, h]

theorem completeLight_reads {s : State} (h : s.poison = []) (area gidx : Nat) :
    Memory.read (completeLight s area gidx).mem (area + 4) 4 = 2 ∧
      Memory.read (completeLight s area gidx).mem (area + 4096 * gidx + 4) 4 = 2 := by
  have h' : (s.write (area + 4096 * gidx + 4) 4 2).poison = [] := (onlyMemory_write ..).2 h
  have hmem : (completeLight s area gidx).mem = Memory.write (Memory.write s.mem (area + 4096 * gidx + 4) 4 2) (area + 4) 4 2 := by
    rw [completeLight, write_of_sound h', write_of_sound h]
  rw [hmem]
  refine ⟨Memory.read_write_same .., ?_⟩
  by_cases h0 : gidx = 0
  · subst h0
    exact Memory.read_write_same ..
  · rw [Memory.read_write_other _ _ _ _ _ _ (by omega)]
    exact Memory.read_write_same ..

/-! ### TRIGGER (R210) -/

theorem trigger_marks (s : State) (hd : Drained s) :
    (s.g.triggered = true → exec .trigger s = .next (s.setPc (s.pc + 4))) ∧
    (s.g.triggered = false → exec .trigger s = .next
      ({ s.setLaunch { s.glaunch with triggers := s.glaunch.triggers + 1 } with g := { s.g with triggered := true } }.setPc (s.pc + 4))) := by
  have hexec : exec .trigger s = finishS s (if s.g.triggered then .ok s.next
      else .ok { s.setLaunch { s.glaunch with triggers := s.glaunch.triggers + 1 } with g := { s.g with triggered := true } }.next) := by
    show execTrigger s = _
    simp only [execTrigger, drain_ok hd, bind, Except.bind]
    rfl
  refine ⟨fun h => ?_, fun h => ?_⟩
  · rw [hexec, if_pos h]
    rfl
  · rw [hexec, if_neg (by simp [h])]
    exact congrArg _ (next_of_sc (State.sc_congr rfl rfl rfl))

/-! ### YIELD (R212, R374) -/

/-- The group's descriptors without what was fetched for them. -/
def Group.unfetched (g : Group) : Group := { g with streams := g.streams.map fun y => (y.1, { y.2 with loadQ := [] }) }

/-- The group as a light save begins. -/
def lightBegun (s : State) : State := { s with g := ({ s.g with leave := .light } : Group).unfetched }

/-- What a light save writes before STATE, in the area that firmware has chosen. -/
def lightImage (s : State) (a : Nat) : State :=
  saveTeamRecord (saveGroup (lightBegun s) a (geometry (lightBegun s) s.gteam).2.2.2 s.gteam.tapesz (lightBegun s).g) a s.gteam

theorem onlyMemory_lightImage (s : State) (a : Nat) : OnlyMemory (lightBegun s) (lightImage s a) :=
  (onlyMemory_saveGroup ..).trans (onlyMemory_saveTeamRecord ..)

/-- The group goes on in its slot, its streams fetching again. -/
def lightResumed (s : State) : State := s.g.refills.foldl State.post { s with g := { s.g with leave := .stay } }

theorem lightSave_eq (s : State) : lightSave s =
    let u := match yieldArea s s.gteam with
      | some a => if (lightImage s a).g.yieldReq then lightImage s a else completeLight (lightImage s a) a (lightImage s a).g.gidx
      | none => lightBegun s
    if u.g.yieldReq then u else lightResumed u := rfl

/-- While the request stands, the group keeps the registers of the save. -/
theorem lightSave_requested {s : State} (h : s.g.yieldReq = true) : (lightSave s).g = (lightBegun s).g := by
  have himage : ∀ a, (lightImage s a).g = (lightBegun s).g := fun a => (onlyMemory_lightImage s a).keeps State.g fun _ _ _ => rfl
  have hreq : (lightBegun s).g.yieldReq = true := h
  rw [lightSave_eq]
  cases yieldArea s s.gteam with
  | none => simp only [hreq, if_true]
  | some a => simp only [himage, hreq, if_true]

/-- With the request withdrawn, the save is completed in the area that firmware has chosen, and the group goes on. -/
theorem lightSave_withdrawn {s : State} (h : s.g.yieldReq = false) : ∃ t, OnlyMemory (lightBegun s) t ∧ lightSave s = lightResumed t ∧
    ∀ a, yieldArea s s.gteam = some a → t = completeLight (lightImage s a) a s.g.gidx := by
  have hreq : (lightBegun s).g.yieldReq = false := h
  rw [lightSave_eq]
  cases yieldArea s s.gteam with
  | none =>
    refine ⟨lightBegun s, .refl _, ?_, fun a ha => by cases ha⟩
    simp only [hreq, Bool.false_eq_true, if_false]
  | some a =>
    have himage : (lightImage s a).g = (lightBegun s).g := (onlyMemory_lightImage s a).keeps State.g fun _ _ _ => rfl
    have hdone := (onlyMemory_lightImage s a).trans (onlyMemory_completeLight _ a s.g.gidx)
    refine ⟨_, hdone, ?_, fun a' ha => by cases ha; rfl⟩
    simp only [himage, hreq, Bool.false_eq_true, if_false]
    rw [show (lightBegun s).g.gidx = s.g.gidx from rfl]
    simp only [hdone.keeps State.g fun _ _ _ => rfl, hreq, Bool.false_eq_true, if_false]

theorem lightResumed_eq (s : State) : (lightResumed s).g = { s.g with leave := .stay } ∧ (lightResumed s).mem = s.mem := foldl_post ..

theorem exec_yield_saves {s : State} (hp : s.party = .group) (hask : s.g.yieldReq = true ∨ s.g.leave = .yielding) (hd : Drained s) :
    exec .yield s = .next (tryLeave (lightSave (s.setPc (s.pc + 4))) s.gteam.cluster) := by
  obtain ⟨h1, h2, h3⟩ := hd hp
  have hdrained : s.g.drained = true := by simp [Group.drained, Group.runsDone, h1, h2, h3]
  have hissued : (!s.g.yieldReq && s.g.leave != .yielding) = false := by rcases hask with h | h <;> simp [h]
  show execYield s = _
  simp only [execYield, hissued, hdrained, Bool.not_true, Bool.and_false, Bool.false_eq_true, if_false]
  rfl

theorem yieldSaves (s : State) (hp : s.party = .group) (hask : s.g.yieldReq = true) (hd : Drained s) :
    let t := lightSave (s.setPc (s.pc + 4))
    exec .yield s = .next (tryLeave t s.gteam.cluster) ∧
      t.g = { s.g with leave := .light, sc := { s.g.sc with pc := s.pc + 4 }
                       streams := s.g.streams.map fun y => (y.1, { y.2 with loadQ := [] }) } := by
  have hask' : (s.setPc (s.pc + 4)).g.yieldReq = true := by rw [setPc_group hp]; exact hask
  refine ⟨exec_yield_saves hp (.inl hask) hd, ?_⟩
  rw [lightSave_requested hask', setPc_group hp]
  rfl

theorem yieldWithdrawn (s : State) (hp : s.party = .group) (hreq : s.g.yieldReq = false) (hleave : s.g.leave = .yielding) (hd : Drained s) :
    let t := lightSave (s.setPc (s.pc + 4))
    exec .yield s = .next (tryLeave t s.gteam.cluster) ∧ t.g.leave = .stay ∧ t.g.sc.pc = s.pc + 4 ∧
    ∀ a, yieldArea s s.gteam = some a → s.poison = [] → Memory.read t.mem (a + 4) 4 = 2 ∧ Memory.read t.mem (a + 4096 * s.g.gidx + 4) 4 = 2 := by
  have hreq' : (s.setPc (s.pc + 4)).g.yieldReq = false := by rw [setPc_group hp]; exact hreq
  obtain ⟨t, honly, hsave, harea⟩ := lightSave_withdrawn hreq'
  obtain ⟨hg, hmem⟩ := lightResumed_eq t
  have htg : t.g = (lightBegun (s.setPc (s.pc + 4))).g := honly.keeps State.g fun _ _ _ => rfl
  refine ⟨exec_yield_saves hp (.inr hleave) hd, ?_, ?_, fun a ha hpo => ?_⟩
  · rw [hsave, hg]
  · rw [hsave, hg, htg, setPc_group hp]
    rfl
  · have hsound : (lightImage (s.setPc (s.pc + 4)) a).poison = [] :=
      (onlyMemory_lightImage ..).2 ((State.setSc_poison ..).trans hpo)
    have ht := harea a (by rw [setPc_group hp]; exact ha)
    rw [hsave, hmem, ht, show (s.setPc (s.pc + 4)).g.gidx = s.g.gidx by rw [setPc_group hp]]
    exact completeLight_reads hsound a s.g.gidx

theorem triggerAndYield : Spec.TriggerAndYield := by
  refine ⟨fun s _ hd => trigger_marks s hd, fun s _ hreq hleave => ?_, fun s hp hask hbusy => ?_, yieldSaves, yieldWithdrawn⟩
  · have hidle : (!s.g.yieldReq && s.g.leave != .yielding) = true := by simp [hreq, hleave]
    show execYield s = _
    simp only [execYield, hidle, if_true]
    rfl
  · have hissued : (!s.g.yieldReq && s.g.leave != .yielding) = false := by rcases hask with h | h <;> simp [h]
    have hwait : (s.party == .group && !s.g.drained) = true := by simp [hp, hbusy]
    show execYield s = _
    simp only [execYield, hissued, hwait, Bool.false_eq_true, if_false, if_true]
    refine finishS_stallIn_group ?_ _
    exact hp

/-! ### EXIT (R211) -/

theorem tellHolder_g (s : State) (l : Launch) : (tellHolder s l).g = s.g := by
  unfold tellHolder
  split <;> rfl
theorem reserve_g (s : State) : (reserve s).g = s.g := by
  have hfold : (s.launches.foldl tellHolder s).g = s.g :=
    foldl_keeps_mem (fun t : State => t.g = s.g) s.launches (fun t l _ h => (tellHolder_g t l).trans h) rfl
  unfold reserve
  dsimp only
  split
  · exact hfold
  · split <;> exact hfold
theorem releaseTeam_g (s : State) (t : Team) (det : Bool) : (releaseTeam s t det).g = s.g := reserve_g s
theorem coverageEnd_g (s : State) (g : Group) (killed : Bool) : (coverageEnd s g killed).g = s.g := by
  unfold coverageEnd
  split
  · exact State.post_g ..
  · rfl

/-- A step that is taken or not leaves the group in focus as it is, if the step does. -/
theorem ite_g {c : Prop} [Decidable c] {t : State} {g : Group} (f : State → State) (hf : ∀ t, (f t).g = t.g) (h : t.g = g) :
    (if c then f t else t).g = g := by
  split
  · exact (hf t).trans h
  · exact h

/-- The group in focus leaves its slot. -/
theorem leave_g (s : State) (killed : Bool) : (s.leave killed).g = ({} : Group) := by
  unfold State.leave
  exact ite_g (·.post _) (fun t => t.post_g _) (ite_g (coverageEnd · _ _) (fun t => coverageEnd_g t _ _)
    (ite_g (·.post _) (fun t => t.post_g _) (ite_g (releaseTeam · _ _) (fun t => releaseTeam_g t _ _)
      (ite_g (dropTiles · _) (fun _ => rfl) rfl))))

theorem exitEndsTheGroup : Spec.ExitEndsTheGroup := by
  intro s hp hd
  have hexec : exec .exit s = finishS s (require (s.g.parked.isEmpty && s.sc.tok == 0) (.stall .exitWait) >>= fun _ =>
      .ok (tryLeave (s.leave false) s.gteam.cluster)) := by
    show execExit s = _
    simp only [execExit, drain_ok hd, hp, bind, Except.bind]
  have hsc : s.sc = s.g.sc := State.sc_group hp
  refine ⟨fun hpark htok => ⟨?_, leave_g s false⟩, fun hwait => ?_⟩
  · rw [hexec, require_ok (by rw [hsc, hpark, htok]; rfl)]
    rfl
  · have hstays : (s.g.parked.isEmpty && s.sc.tok == 0) = false := by
      rw [hsc]
      rcases hwait with h | h
      · simp [h]
      · rw [beq_eq_false_iff_ne.mpr h, Bool.and_false]
    rw [hexec, require_error hstays]
    exact finishS_stall hp _

/-- Settles O16: pushes, TRIGGER and YIELD, and EXIT. -/
theorem launchControl : Obligations.LaunchControl := ⟨graphEdgePushes, triggerAndYield, exitEndsTheGroup⟩

end Sys2Proof.Machine
end

section
/-!
# The lane stores, and what every lane access shares (R168, R184)

The stores of one instruction are the writes of its lanes one after another, so of lanes that name one byte the last remains.
-/
namespace Sys2Proof.Machine
open Forms (LView)

/-! ### Completion -/

/-- An instruction that has changed vector registers alone in its group, or has spent its limit at a stale cell, completes with its lane frame. -/
theorem laneMoves_done {v : LView} {sw : Bool} {s t : State} (hp : t.party = .group)
    (hg : t.g = { (laneStart sw s).g with vreg := t.g.vreg, badV := t.g.badV, haloOver := t.g.haloOver })
    (hv : ∀ k l, l < 32 → ¬ writesLane v s k l → t.g.vr k l = s.g.vr k l) : Spec.LaneMoves v sw s (laneDone v t) where
  party := hp
  run := by
    show (t.g.laneStep (t.g.run.lpc + 1)).lane = _
    rw [hg]
    rfl
  haz := by
    show t.g.haz.add v = _
    rw [hg]
    rfl
  vectors := hv
  preds := by
    show t.g.preds = _
    rw [hg]
    rfl
  flags := by
    show t.g.lstat = _
    rw [hg]
    rfl
  mask := by
    show t.g.em = _
    rw [hg]
    rfl
  scalars := by
    show t.g.sc = _
    rw [hg]
    rfl

/-! ### Arrival -/

theorem remReads_near {s : State} {cells : List (Nat × Nat)} (h : ∀ c ∈ cells, isRemote c.1 = false) (vec : Bool) :
    s.remReads cells vec = .ok [] := by
  have hnone : cells.filter (fun c => isRemote c.1) = [] := List.filter_eq_nil_iff.mpr (by simpa using h)
  simp [State.remReads, hnone]

/-- Lanes whose bytes are in this package, are owned by no collective and hold no error have their data. -/
theorem laneArrive_ok {s : State} {ls : List LaneLoc} {n : Nat}
    (h : ∀ y ∈ ls, isRemote y.loc.key = false ∧ s.owned y.loc.key n = false ∧ poisoned s y.loc.key n = false) (vec : Bool) :
    laneArrive s ls n vec = .ok () := by
  have howned : (!ls.any fun x => s.owned x.loc.key n) = true := by simpa using fun y hy => (h y hy).2.1
  have hnear : ∀ c ∈ ls.map fun x => (x.loc.key, n), isRemote c.1 = false := by simpa using fun y hy => (h y hy).1
  have hclean : (ls.filter fun x => !isRemote x.loc.key && poisoned s x.loc.key n) = [] :=
    List.filter_eq_nil_iff.mpr fun y hy => by simp [(h y hy).2.2]
  simp [laneArrive, require_ok howned, remReads_near hnear, hclean, laneFault, failLanes, bind, Except.bind]

theorem onlyCaches_touchAll (s : State) (vs : List DWord) (store : Bool) : OnlyCaches s (s.touchAll vs store) := by
  rw [touchAll_eq]
  rfl
theorem member_none {s : State} (h : s.g.replay = none) : s.member? = none := by simp [State.member?, h]

/-! ### The stores of an instruction -/

/-- The writes of the lanes, in lane order. -/
def laneWrites (n : Nat) (v : Nat → Nat) (s : State) (ls : List LaneLoc) : State := ls.foldl (fun t y => t.write y.loc.key n (v y.lane)) s

theorem onlyMemory_laneWrites (n : Nat) (v : Nat → Nat) (s : State) (ls : List LaneLoc) : OnlyMemory s (laneWrites n v s ls) :=
  OnlyMemory.foldl (fun _ _ => onlyMemory_write ..) ls s

theorem put_near {s : State} {l : Loc} {n : Nat} (hr : isRemote l.key = false) (hst : s.stages l = false) (how : s.owned l.key n = false)
    (va : DWord) (v : Nat) (ordered sync : Bool) : s.put l va n v ordered sync = .ok (s.write l.key n v) := by
  simp [State.put, hr, hst, how]

theorem foldlM_put {s : State} {ls : List LaneLoc} {n : Nat} (v : Nat → Nat) (ordered : Bool)
    (h : ∀ y ∈ ls, isRemote y.loc.key = false ∧ s.stages y.loc = false ∧ s.owned y.loc.key n = false) :
    ls.foldlM (fun t x => t.put x.loc x.va n (v x.lane) ordered) s = .ok (laneWrites n v s ls) := by
  induction ls generalizing s with
  | nil => rfl
  | cons y ys ih =>
    obtain ⟨hr, hst, how⟩ := h y List.mem_cons_self
    have hm := onlyMemory_write s y.loc.key n (v y.lane)
    rw [List.foldlM_cons, put_near hr hst how]
    refine ih fun z hz => ?_
    rw [hm.keeps (·.stages z.loc) fun _ _ _ => rfl, hm.keeps (·.owned z.loc.key n) fun _ _ _ => rfl]
    exact h z (List.mem_cons_of_mem _ hz)

theorem putPeers_nil (s : State) (n : Nat) : s.putPeers [] n = s := by simp [State.putPeers, vecGroups]

/-- The stores of lanes that reach this package's memory, outside replay and staging, are writes. -/
theorem laneStores_ok {s : State} {ls : List LaneLoc} {n : Nat} (v : Nat → Nat) (hrep : s.g.replay = none)
    (h : ∀ y ∈ ls, isRemote y.loc.key = false ∧ s.stages y.loc = false ∧ s.owned y.loc.key n = false) :
    laneStores s ls n v = .ok (laneWrites n v (s.touchAll (ls.map (·.va)) true) ls) := by
  have hfold : ∀ ws, s.fold true ws = s := fun ws => by simp only [State.fold, hrep]
  have hc := onlyCaches_touchAll s (ls.map (·.va)) true
  have htouched : ∀ y ∈ ls, isRemote y.loc.key = false ∧ (s.touchAll (ls.map (·.va)) true).stages y.loc = false ∧
      (s.touchAll (ls.map (·.va)) true).owned y.loc.key n = false := fun y hy => by
    rw [hc.stages, hc.owned]
    exact h y hy
  have hhere : ∀ y ∈ ls, isPeer y.loc.key = false := fun y hy => by
    have hr := (h y hy).1
    rw [isRemote, Bool.or_eq_false_iff] at hr
    exact hr.2
  have howned : (!ls.any fun x => !s.stages x.loc && s.owned x.loc.key n) = true := by
    simpa using fun y hy _ => (h y hy).2.2
  have haway : (ls.filter fun x => isPeer x.loc.key && !s.stages x.loc) = [] := List.filter_eq_nil_iff.mpr fun y hy => by simp [hhere y hy]
  have hkept : (ls.filter fun x => !(isPeer x.loc.key && !s.stages x.loc)) = ls := List.filter_eq_self.mpr fun y hy => by simp [hhere y hy]
  simp only [laneStores, grants_ok (member_none hrep), hfold, bind, Except.bind, require_ok howned, haway, List.map_nil, putPeers_nil, hkept,
    foldlM_put v s.g.relL htouched]

/-! ### The bytes (R184) -/

theorem laneWrites_poison {s : State} (h : s.poison = []) (n : Nat) (v : Nat → Nat) (ls : List LaneLoc) : (laneWrites n v s ls).poison = [] :=
  (onlyMemory_laneWrites n v s ls).2 h

/-- After the writes of the lanes a byte is that of the last lane that names it. -/
theorem laneWrites_byte {s : State} (h : s.poison = []) (n : Nat) (v : Nat → Nat) (ls : List LaneLoc) (a : Nat) :
    Memory.byte (laneWrites n v s ls).mem a = match (ls.filter fun y => y.loc.key ≤ a && a < y.loc.key + n).getLast? with
      | some y => BitVec.ofNat 8 (v y.lane / 256 ^ (a - y.loc.key))
      | none => Memory.byte s.mem a := by
  induction ls using List.reverseRecOn with
  | nil => rfl
  | append_singleton ls y ih =>
    have hstep : laneWrites n v s (ls ++ [y]) = (laneWrites n v s ls).write y.loc.key n (v y.lane) := List.foldl_append ..
    rw [hstep, write_of_sound (laneWrites_poison h n v ls), List.filter_append]
    by_cases hy : y.loc.key ≤ a ∧ a < y.loc.key + n
    · obtain ⟨i, rfl⟩ := Nat.exists_eq_add_of_le hy.1
      have hin : i < n := by omega
      simp [hin, Memory.byte_write_same _ _ _ _ i hin]
    · have hout : a < y.loc.key ∨ y.loc.key + n ≤ a := by omega
      rw [Memory.byte_write_other _ _ _ _ _ hout, ih]
      simp [hy]

theorem getLast?_mem {α : Type} {p : α → Bool} {l : List α} {y : α} (h : (l.filter p).getLast? = some y) : p y = true :=
  (List.mem_filter.mp (List.mem_of_getLast? h)).2

/-- A byte of the low bytes of a value is that byte of the value. -/
theorem byte_of_low (x : Nat) {n i : Nat} (h : i < n) : BitVec.ofNat 8 (x % 256 ^ n / 256 ^ i) = BitVec.ofNat 8 (x / 256 ^ i) := by
  apply BitVec.eq_of_toNat_eq
  obtain ⟨k, rfl⟩ := Nat.exists_eq_add_of_lt h
  rw [BitVec.toNat_ofNat, BitVec.toNat_ofNat, show i + k + 1 = i + (k + 1) by omega, Nat.pow_add, Nat.mod_mul_right_div_self,
    Nat.pow_succ 256 k, Nat.mod_mul_left_mod]

/-- Settles O33. -/
theorem laneStoresWriteTheirBytes : Obligations.LaneStoresWriteTheirBytes := by
  intro m ls s h hrep hpo
  dsimp only
  intro hls hnear
  let u := laneStart m.h.sw s
  let v (l : Nat) : Nat := ((laneIn (Forms.vst m) s).c l).toNat % 256 ^ sizeBytes m.size
  have hc := onlyCaches_touchAll u (ls.map (·.va)) true
  have hm := onlyMemory_laneWrites (sizeBytes m.size) v (u.touchAll (ls.map (·.va)) true) ls
  have hstores := laneStores_ok (s := u) v hrep hnear
  have hexec := laneDo_next (v := Forms.vst m) (f := fun x t => do
    let n := sizeBytes m.size
    let ls ← laneLocs t (laneAddrs m.form1 x) n .store (.laneStore m.raw)
    laneStores t ls n fun l => (x.c l).toNat % 256 ^ n) h (by
      show (laneLocs u _ _ _ _ >>= fun ls => laneStores u ls _ v) = _
      rw [hls]
      exact hstores)
  have hg : (laneWrites (sizeBytes m.size) v (u.touchAll (ls.map (·.va)) true) ls).g = u.g := (hm.keeps State.g fun _ _ _ => rfl).trans hc.g
  refine ⟨_, hexec, laneMoves_done ((hm.keeps State.party fun _ _ _ => rfl).trans (hc.party.trans h.group)) ?_ fun k l _ _ => ?_, ?_, fun a => ?_⟩
  · rw [hg]
  · rw [hg]
    rfl
  · show (laneWrites (sizeBytes m.size) v (u.touchAll (ls.map (·.va)) true) ls).g.vreg = _
    rw [hg]
    rfl
  · have hsound : (u.touchAll (ls.map (·.va)) true).poison = [] := hc.poison.trans hpo
    have hbyte := laneWrites_byte hsound (sizeBytes m.size) v ls a
    rw [hc.mem] at hbyte
    refine hbyte.trans ?_
    cases hy : (ls.filter fun y => y.loc.key ≤ a && a < y.loc.key + sizeBytes m.size).getLast? with
    | some y =>
      have hin := getLast?_mem hy
      simp only [Bool.and_eq_true, decide_eq_true_eq] at hin
      exact byte_of_low _ (by omega)
    | none => rfl

end Sys2Proof.Machine
end

section
/-!
# Lane atomics and gradient contributions (R171, R185, R187, R293)

A lane atomic is its lanes' reads and writes of memory and one write of its destination. A contribution changes the Threshers and their
spill records alone, and reads neither the group nor the fabric, so the lanes' contributions are the same before and after an issue.
-/
namespace Sys2Proof.Machine
open Forms (LView)

/-! ### A lane instruction that ends a region (R171) -/

/-- The instruction has completed, and its region has ended. -/
def regionDone (v : LView) (t : State) : State := { laneDone v t with g := (laneDone v t).g.endRegion (laneDone v t).g.sc.pc }

theorem laneDoRegion_next {v : LView} {s t : State} {f : LIn → State → Res State} (h : LaneReady v v.h.sw s)
    (hf : f (laneIn v s) (laneStart v.h.sw s) = .ok t) : laneDoRegion v f s = .next (regionDone v t) := by
  have hissue : laneIssue v s = .ok (laneIn v s, laneStart v.h.sw s) := laneIssueWith_ready h
  simp only [laneDoRegion, hissue, bind, Except.bind, hf]
  rfl

theorem laneDoRegion_trap {v : LView} {s : State} {f : LIn → State → Res State} {e : Trap} (h : LaneReady v v.h.sw s)
    (hf : f (laneIn v s) (laneStart v.h.sw s) = .error (.trap e)) : laneDoRegion v f s = .next (takeTrap s true e) := by
  have hissue : laneIssue v s = .ok (laneIn v s, laneStart v.h.sw s) := laneIssueWith_ready h
  simp only [laneDoRegion, hissue, bind, Except.bind, hf]
  rfl

/-! ### Steps of a lane atomic that pass -/

theorem orderRel_ok {s : State} {o : MOrder} {sc : Scope} (hrel : o = .rel ∨ o = .ar → InOrder s sc) (hacq : o = .acq → InOrder s .team) :
    s.orderRel o sc = .ok () := by
  cases o with
  | rel => exact inOrder_ok (hrel (.inl rfl))
  | ar => exact inOrder_ok (hrel (.inr rfl))
  | acq => exact inOrder_ok (hacq rfl)
  | rlx => rfl

theorem peerAtoms_near {s : State} {ls : List LaneLoc} (h : ∀ y ∈ ls, isRemote y.loc.key = false) (n : Nat) (ty : LType) (op : AtomOp)
    (x e : Nat → DWord) : peerAtoms s ls n ty op x e = .ok [] := by
  have hwin : ∀ y ∈ ls, isHost y.loc.key = false ∧ isPeer y.loc.key = false := fun y hy => by
    have hr := h y hy
    rwa [isRemote, Bool.or_eq_false_iff] at hr
  have hhost : (ls.filterMap fun y => if isHost y.loc.key then some (y.lane, restartAt .protection y.va 3) else none) = [] :=
    List.filterMap_eq_nil_iff.mpr fun y hy => by simp [(hwin y hy).1]
  have hpeer : (ls.filter fun y => isPeer y.loc.key) = [] := List.filter_eq_nil_iff.mpr fun y hy => by simp [(hwin y hy).2]
  simp only [peerAtoms, hhost, hpeer, failLanes, laneFault, bind, Except.bind, List.isEmpty_nil, if_true]

theorem onlyMemory_localAtoms (s : State) (ty : LType) (op : AtomOp) (n : Nat) (x e : Nat → DWord) (ls : List LaneLoc) :
    OnlyMemory s (localAtoms s ty op n x e ls).1 := by
  induction ls generalizing s with
  | nil => exact .refl s
  | cons y ys ih => exact (onlyMemory_write ..).trans (ih _)

theorem onlyCaches_orderAcq (s : State) (o : MOrder) (sc : Scope) : OnlyCaches s (s.orderAcq o sc) := by
  cases o with
  | acq | ar => exact onlyCaches_acquire ..
  | rel | rlx => exact .refl s

/-- What a lane atomic leaves before it writes its destination. -/
def atomsDone (m : LAtom) (ls : List LaneLoc) (u : State) (x : LIn) : State :=
  (((localAtoms u m.ty m.op (LType.ew m.ty / 8) x.c x.d ls).1.touchAll (ls.map (·.va)) true).remClear).orderAcq m.order m.scope

theorem onlyCaches_atomsDone (m : LAtom) (ls : List LaneLoc) (u : State) (x : LIn) :
    OnlyCaches (localAtoms u m.ty m.op (LType.ew m.ty / 8) x.c x.d ls).1 (atomsDone m ls u x) :=
  ((onlyCaches_touchAll ..).trans (onlyCaches_remClear _)).trans (onlyCaches_orderAcq ..)
theorem g_atomsDone (m : LAtom) (ls : List LaneLoc) (u : State) (x : LIn) : (atomsDone m ls u x).g = u.g :=
  (onlyCaches_atomsDone m ls u x).g.trans ((onlyMemory_localAtoms ..).keeps State.g fun _ _ _ => rfl)

section
variable {m : LAtom} {ls : List LaneLoc} {s : State} (h : LaneReady (Forms.vatom m) m.h.sw s) (hrep : s.g.replay = none)
  (hrel : m.order = .rel ∨ m.order = .ar → InOrder s m.scope) (hacq : m.order = .acq → InOrder s .team)
  (hls : laneLocs (laneStart m.h.sw s) (laneAddrs m.form1 (laneIn (Forms.vatom m) s)) (LType.ew m.ty / 8) .atomic .atomic = .ok ls)
  (hnear : ∀ y ∈ ls, isRemote y.loc.key = false ∧ s.owned y.loc.key (LType.ew m.ty / 8) = false ∧
    poisoned s y.loc.key (LType.ew m.ty / 8) = false ∧ s.stages y.loc = false)
include h hrep hrel hacq hls hnear

/-- A lane atomic whose checks pass: its writes, and then its destination. -/
theorem exec_vatom_next {u : State} {x : LIn} (hu : u = laneStart m.h.sw s) (hx : x = laneIn (Forms.vatom m) s) :
    exec (.vatom m) s = .next (regionDone (Forms.vatom m) { atomsDone m ls u x with
      g := u.g.putField x.act .el m.ty.wide m.vd (byLane (localAtoms u m.ty m.op (LType.ew m.ty / 8) x.c x.d ls).2) }) := by
  have hhere : (ls.filter fun y => !isRemote y.loc.key) = ls := List.filter_eq_self.mpr fun y hy => by simp [(hnear y hy).1]
  have harr : laneArrive u ls (LType.ew m.ty / 8) = .ok () :=
    laneArrive_ok (fun y hy => by
      obtain ⟨hr, how, hpo, -⟩ := hnear y hy
      rw [hu]
      exact ⟨hr, how, hpo⟩) true
  have hstage : (!ls.any fun y => u.stages y.loc) = true := by
    have hno : ∀ y ∈ ls, u.stages y.loc = false := fun y hy => hu ▸ (hnear y hy).2.2.2
    simpa using hno
  have hgrep : u.g.replay = none := by rw [hu]; exact hrep
  have hatoms := onlyMemory_localAtoms u m.ty m.op (LType.ew m.ty / 8) x.c x.d ls
  have hfold : ∀ ws, (localAtoms u m.ty m.op (LType.ew m.ty / 8) x.c x.d ls).1.fold true ws =
      (localAtoms u m.ty m.op (LType.ew m.ty / 8) x.c x.d ls).1 := fun ws => by
    simp only [State.fold, hatoms.keeps State.g fun _ _ _ => rfl, hgrep]
  have hport : notPort m.vd = true := h.ports _ List.mem_cons_self
  have horder : u.orderRel m.order m.scope = .ok () := by
    rw [hu]
    exact orderRel_ok hrel hacq
  show execVatom m s = _
  unfold execVatom
  refine laneDoRegion_next h ?_
  rw [← hx, ← hu] at hls
  rw [show laneStart (Forms.vatom m).h.sw s = u from hu.symm, ← hx]
  simp only [bind, Except.bind, horder, hls, hhere, harr, require_ok hstage, peerAtoms_near fun y hy => (hnear y hy).1, grants_ok (member_none hgrep),
    List.append_nil, hfold]
  rw [writeField_notPort hport, ← g_atomsDone m ls u x]
  rfl
end

/-- The lanes of a word's field, and of a pair's. -/
theorem vr_putField_active (g : Group) {act : Word} (wide : Bool) (n : BitVec 11) (f : Nat → DWord) {l : Nat} (h : act.getLsbD l = true) :
    (g.putField act .el wide (.v n) f).vr n.toNat l = (f l).setWidth 32 ∧
      (wide = true → (g.putField act .el wide (.v n) f).vr (n.toNat + 1) l = (f l).extractLsb' 32 32) := by
  have hl : l < 32 := lt_of_mem_lanesOf (mem_lanesOf h)
  cases wide with
  | false => exact ⟨Group.vr_putVec_active _ _ _ h, fun hw => by cases hw⟩
  | true =>
    refine ⟨?_, fun _ => Group.vr_putVec_active _ _ _ h⟩
    have hkeep := (Group.putVec_writes (g.putVec n.toNat act fun l => (f l).setWidth 32) (n.toNat + 1) act
      fun l => (f l).extractLsb' 32 32).vectors n.toNat l hl (by omega)
    exact hkeep.trans (Group.vr_putVec_active _ _ _ h)

theorem laneAtomicsInLaneOrder : Spec.LaneAtomicsInLaneOrder := by
  intro m n ls s hvd h hrep hrel hacq
  dsimp only
  intro hls hnear
  obtain ⟨u, hu⟩ : ∃ u, u = laneStart m.h.sw s := ⟨_, rfl⟩
  obtain ⟨x, hx⟩ : ∃ x, x = laneIn (Forms.vatom m) s := ⟨_, rfl⟩
  have hexec := exec_vatom_next h hrep hrel hacq hls hnear hu hx
  rw [← hu, ← hx]
  have hug : u.g.vr = s.g.vr ∧ u.g.sc = s.g.sc ∧ u.g.preds = s.g.preds ∧ u.g.lstat = s.g.lstat ∧ u.g.regcnt = s.g.regcnt := by
    rw [hu]
    exact ⟨rfl, rfl, rfl, rfl, rfl⟩
  have hact : x.act = s.g.active m.h := by
    rw [hx]
    rfl
  obtain ⟨hvr, hsc, hpreds, hlstat, hregcnt⟩ := hug
  obtain ⟨os, hos⟩ : ∃ os, os = (localAtoms u m.ty m.op (LType.ew m.ty / 8) x.c x.d ls).2 := ⟨_, rfl⟩
  have hput := Group.putField_eq u.g x.act .el m.ty.wide m.vd (byLane os)
  have hmem := (onlyCaches_atomsDone m ls u x).mem
  rw [← hos] at hexec ⊢
  refine ⟨_, hexec, hmem, ?_, ?_, ?_, ?_, fun l hl => ?_, fun k l hl hw => ?_, fun y rest hcons hpo hrest a => ?_⟩
  · show (u.g.putField x.act .el m.ty.wide m.vd (byLane os)).regcnt + 1 = _
    rw [hput, hregcnt]
  · show (u.g.putField x.act .el m.ty.wide m.vd (byLane os)).sc = _
    rw [hput, hsc]
  · show (u.g.putField x.act .el m.ty.wide m.vd (byLane os)).preds = _
    rw [hput, hpreds]
  · show (u.g.putField x.act .el m.ty.wide m.vd (byLane os)).lstat = _
    rw [hput, hlstat]
  · have hval := vr_putField_active u.g m.ty.wide n (byLane os) hl
    rw [← hvd] at hval
    exact hval
  · have hkeep := (Group.putField_writes (v := Forms.vatom m) rfl u.g x.act (byLane os)).vectors k l hl (by rwa [hact])
    exact hkeep.trans (by rw [hvr])
  · subst hrest hcons
    have hwritten : (localAtoms u m.ty m.op (LType.ew m.ty / 8) x.c x.d [y]).1.mem = Memory.write s.mem y.loc.key (LType.ew m.ty / 8)
        (laneAtom m.ty m.op (s.read y.loc.key (LType.ew m.ty / 8)) ((x.c y.lane).toNat % 256 ^ (LType.ew m.ty / 8))
          ((x.d y.lane).toNat % 256 ^ (LType.ew m.ty / 8))) := by
      have hpou : u.poison = [] := hu ▸ hpo
      show (u.write _ _ _).mem = _
      rw [write_of_sound hpou, hu]
      rfl
    have hbyte := congrArg (fun mem => Memory.byte mem a) (hmem.trans hwritten)
    refine hbyte.trans ?_
    split
    · next hin =>
      obtain ⟨i, rfl⟩ := Nat.exists_eq_add_of_le hin.1
      rw [Memory.byte_write_same _ _ _ _ i (by omega), Nat.add_sub_cancel_left]
    · next hout => exact Memory.byte_write_other _ _ _ _ _ (by omega)

end Sys2Proof.Machine
end

section
/-!
# Gradient contributions (R187, R293)

A contribution changes the Threshers and their spill records alone, and reads neither the group nor the fabric, so the lanes'
contributions are the same before and after the instruction has issued.
-/
namespace Sys2Proof.Machine
open Forms (LView)

/-! ### One contribution -/

theorem spill_eq (s : State) (slice : Nat) (v : ThrEntry) : spill s slice v = { s with spills := (spill s slice v).spills } := by
  unfold spill
  dsimp only
  split
  · split <;> rfl
  · rfl
theorem evictThr_eq (s : State) (slice : Nat) :
    evictThr s slice = { s with threshers := (evictThr s slice).threshers, spills := (evictThr s slice).spills } := by
  unfold evictThr
  split
  · rfl
  · dsimp only
    rw [spill_eq]
/-- A contribution changes the Threshers and the spill records alone. -/
theorem contribute_eq (s : State) (dom pa w : Nat) :
    contribute s dom pa w = { s with threshers := (contribute s dom pa w).threshers, spills := (contribute s dom pa w).spills } := by
  unfold contribute
  dsimp only
  split
  · rfl
  · split
    · rw [evictThr_eq]
    · rfl

theorem spill_apart (s : State) (g : Group) (f : Fabric) (slice : Nat) (v : ThrEntry) :
    spill { s with g := g, fabric := f } slice v = { spill s slice v with g := g, fabric := f } := by
  unfold spill
  cases hfind : s.spills.find? fun x => x.pa == v.pa && x.dom == v.dom with
  | none => simp only [hfind]; rfl
  | some o =>
    have hbad : o.bad { s with g := g, fabric := f } = o.bad s := rfl
    simp only [hfind, hbad]
    split <;> rfl
theorem evictThr_apart (s : State) (g : Group) (f : Fabric) (slice : Nat) :
    evictThr { s with g := g, fabric := f } slice = { evictThr s slice with g := g, fabric := f } := by
  have hslice : ∀ pa, thrSlice { s with g := g, fabric := f } pa = thrSlice s pa := fun _ => rfl
  unfold evictThr
  simp only [hslice]
  cases s.threshers.filter fun e => thrSlice s e.pa == slice with
  | nil => rfl
  | cons x rest =>
    dsimp only
    generalize rest.foldl (fun a b => if b.stamp < a.stamp then b else a) x = v
    exact spill_apart { s with threshers := s.threshers.filter fun e => !(e.pa == v.pa && e.dom == v.dom) } g f slice v
/-- A contribution reads neither the group nor the fabric. -/
theorem contribute_apart (s : State) (g : Group) (f : Fabric) (dom pa w : Nat) :
    contribute { s with g := g, fabric := f } dom pa w = { contribute s dom pa w with g := g, fabric := f } := by
  have hslice : ∀ pa, thrSlice { s with g := g, fabric := f } pa = thrSlice s pa := fun _ => rfl
  unfold contribute
  simp only [hslice, evictThr_apart]
  split
  · rfl
  · split <;> rfl

/-! ### The contributions of an instruction -/

/-- The contributions of the lanes whose words this package has. -/
def contributions (x : LIn) (s : State) (ls : List LaneLoc) : State :=
  (ls.filter fun y => !isPeer y.loc.key).foldl (fun w y => contribute w w.gdom y.loc.key ((x.c y.lane).setWidth 32 : Word).toNat) s

theorem contributions_cons (x : LIn) (s : State) (y : LaneLoc) (ys : List LaneLoc) : contributions x s (y :: ys) =
    if isPeer y.loc.key then contributions x s ys
    else contributions x (contribute s s.gdom y.loc.key ((x.c y.lane).setWidth 32 : Word).toNat) ys := by
  cases hy : isPeer y.loc.key <;> simp [contributions, hy]

theorem contributions_eq (x : LIn) (s : State) (ls : List LaneLoc) :
    contributions x s ls = { s with threshers := (contributions x s ls).threshers, spills := (contributions x s ls).spills } := by
  refine foldl_keeps (fun t : State => t = { s with threshers := t.threshers, spills := t.spills }) (fun t y ht => ?_) _ rfl
  rw [contribute_eq]
  generalize contribute t t.gdom y.loc.key ((x.c y.lane).setWidth 32 : Word).toNat = u
  rw [ht]

/-- Every lane's contribution, those in the peer window sent: the Threshers take what they take without the sends. -/
theorem gradAddTo_foldl (x : LIn) (ls : List LaneLoc) (s : State) (g : Group) (hg : { s with g := g }.gdom = s.gdom) (f : Fabric) :
    ∃ f', ls.foldl (fun t y => t.gradAddTo y.loc ((x.c y.lane).setWidth 32)) { s with g := g, fabric := f } =
      { contributions x s ls with g := g, fabric := f' } := by
  induction ls generalizing s f with
  | nil => exact ⟨f, rfl⟩
  | cons y ys ih =>
    rw [List.foldl_cons, contributions_cons, State.gradAddTo]
    cases hy : isPeer y.loc.key with
    | true =>
      simp only [if_true]
      rw [(onlyFabric_sendOwn ..).frame]
      exact ih s hg _
    | false =>
      simp only [Bool.false_eq_true, if_false]
      have hdom : ({ s with g := g, fabric := f } : State).gdom = s.gdom := hg
      rw [contribute_apart, hdom]
      refine ih _ ?_ f
      rw [contribute_eq]
      exact hg

theorem gradAdd_host {m : LMem} {ls : List LaneLoc} {s : State} (h : LaneReady (Forms.vst m) m.h.sw s)
    (hls : laneLocs (laneStart m.h.sw s) (laneAddrs m.form1 (laneIn (Forms.vst m) s)) 4 .store .gradAdd = .ok ls)
    (hhost : ∃ y ∈ ls, isHost y.loc.key = true) :
    ∃ e, exec (.gradAdd m) s = .next (takeTrap s true e) ∧ e.code = .protection ∧ e.sub = 3 ∧ e.kind = .restart := by
  obtain ⟨fails, hfails⟩ : ∃ fails, fails = ls.filterMap fun y =>
    if isHost y.loc.key then some (y.lane, restartAt .protection y.va 3) else none := ⟨_, rfl⟩
  have hall : ∀ x ∈ fails, ∃ va, x.2 = restartAt .protection va 3 := by
    intro x hx
    rw [hfails, List.mem_filterMap] at hx
    obtain ⟨y, -, hy⟩ := hx
    split at hy
    · cases hy
      exact ⟨_, rfl⟩
    · cases hy
  cases hcase : fails with
  | nil =>
    obtain ⟨y, hy, hyh⟩ := hhost
    rw [hfails] at hcase
    have := List.filterMap_eq_nil_iff.mp hcase y hy
    simp [hyh] at this
  | cons x rest =>
    obtain ⟨va, hva⟩ := hall x (hcase ▸ List.mem_cons_self)
    refine ⟨{ x.2 with lane := some x.1, mask := maskOf fun k => fails.any fun z => z.1 == k && z.2.code == x.2.code }, ?_, ?_, ?_, ?_⟩
    · show execGradAdd m s = _
      unfold execGradAdd
      refine laneDoRegion_trap h ?_
      rw [show laneStart (Forms.vst m).h.sw s = laneStart m.h.sw s from rfl]
      simp only [bind, Except.bind, hls, ← hfails, failLanes]
      rw [hcase]
      rfl
    · rw [hva]
      rfl
    · rw [hva]
      rfl
    · rw [hva]
      rfl

theorem gradAdd_contributes {m : LMem} {ls : List LaneLoc} {s : State} (h : LaneReady (Forms.vst m) m.h.sw s)
    (hls : laneLocs (laneStart m.h.sw s) (laneAddrs m.form1 (laneIn (Forms.vst m) s)) 4 .store .gradAdd = .ok ls)
    (hhost : ∀ y ∈ ls, isHost y.loc.key = false) :
    ∃ t f, exec (.gradAdd m) s = .next (regionDone (Forms.vst m) t) ∧
      OnlyCaches { contributions (laneIn (Forms.vst m) s) s ls with g := (laneStart m.h.sw s).g, fabric := f } t := by
  have hnone : (ls.filterMap fun y => if isHost y.loc.key then some (y.lane, restartAt .protection y.va 3) else none) = [] :=
    List.filterMap_eq_nil_iff.mpr fun y hy => by simp [hhost y hy]
  obtain ⟨f, hf⟩ := gradAddTo_foldl (laneIn (Forms.vst m) s) ls s (laneStart m.h.sw s).g rfl s.fabric
  refine ⟨({ contributions (laneIn (Forms.vst m) s) s ls with g := (laneStart m.h.sw s).g, fabric := f } : State).touchAll (ls.map (·.va)),
    f, ?_, onlyCaches_touchAll ..⟩
  show execGradAdd m s = _
  unfold execGradAdd
  refine laneDoRegion_next h ?_
  rw [show laneStart (Forms.vst m).h.sw s = laneStart m.h.sw s from rfl]
  simp only [bind, Except.bind, hls, hnone, failLanes, laneFault]
  exact congrArg (fun t : State => Except.ok (t.touchAll (ls.map (·.va)))) hf

theorem gradientContributions : Spec.GradientContributions := by
  refine ⟨fun m ls s h => ?_, fun s pa v => rfl, fun s dom pa w => ⟨fun b => ?_, ?_⟩⟩
  · dsimp only
    refine fun hls => ⟨gradAdd_host h hls, fun hhost => ?_⟩
    obtain ⟨t, f, hexec, hc⟩ := gradAdd_contributes h hls hhost
    have hsame := contributions_eq (laneIn (Forms.vst m) s) s ls
    have hg : t.g = (laneStart m.h.sw s).g := hc.g
    refine ⟨_, hexec, fun b => ?_, ?_, ?_, ?_, ?_, ?_, ?_⟩
    · show Memory.byte t.mem b = _
      rw [hc.mem]
      dsimp only
      rw [hsame]
    · show t.g.vreg = _
      rw [hg]
      rfl
    · show t.g.sc = _
      rw [hg]
      rfl
    · show t.g.lstat = _
      rw [hg]
      rfl
    · show t.g.regcnt + 1 = _
      rw [hg]
      rfl
    · exact hc.keeps State.threshers fun _ _ _ _ _ _ => rfl
    · exact hc.keeps State.spills fun _ _ _ _ _ _ => rfl
  · rw [contribute_eq]
  · rw [contribute_eq]

/-- Settles O34. -/
theorem laneAtomicsAndContributions : Obligations.LaneAtomicsAndContributions := ⟨laneAtomicsInLaneOrder, gradientContributions⟩

end Sys2Proof.Machine
end

section
/-!
# The lane loads (R26, R27, R182, R183, R287, R288, R459)

A lane load changes caches, requests and the free values that have been drawn; where L1 holds an error it also writes a record, which stays
within the error queue.
-/
namespace Sys2Proof.Machine
open Forms (LView)

/-! ### What a use of L1 leaves -/

/-- `t` is `s` but for caches, requests, free values drawn and error records, which stand in the error queue; under `q` none is written. -/
structure L1Used (q : Prop) (s t : State) : Prop where
  frame : t = { s with priv := t.priv, fresh := t.fresh, mem := t.mem, poison := t.poison, tlb := t.tlb, remote := t.remote, l1 := t.l1,
                       l2 := t.l2, granary := t.granary }
  base : t.priv.errbase = s.priv.errbase
  size : t.priv.errsize = s.priv.errsize
  outside : ∀ b, b < s.priv.errbase.toNat ∨ s.priv.errbase.toNat + s.priv.errsize.toNat ≤ b → Memory.byte t.mem b = Memory.byte s.mem b
  quiet : q → t.mem = s.mem

namespace L1Used
variable {q : Prop} {s t u : State}

theorem refl (q : Prop) (s : State) : L1Used q s s := ⟨rfl, rfl, rfl, fun _ _ => rfl, fun _ => rfl⟩
theorem trans (h : L1Used q s t) (k : L1Used q t u) : L1Used q s u where
  frame := by rw [k.frame, h.frame]
  base := k.base.trans h.base
  size := k.size.trans h.size
  outside b hb := (k.outside b (by rwa [h.base, h.size])).trans (h.outside b hb)
  quiet hq := (k.quiet hq).trans (h.quiet hq)
theorem g (h : L1Used q s t) : t.g = s.g := by rw [h.frame]
theorem party (h : L1Used q s t) : t.party = s.party := by rw [h.frame]
theorem ofCaches (h : OnlyCaches s t) : L1Used q s t := by
  rw [h]
  exact ⟨rfl, rfl, rfl, fun _ _ => rfl, fun _ => rfl⟩
theorem foldl {α : Type} {f : State → α → State} (l : List α) (hf : ∀ s, ∀ a ∈ l, L1Used q s (f s a)) (s : State) :
    L1Used q s (l.foldl f s) :=
  foldl_keeps_mem (L1Used q s) l (fun t a ha ht => ht.trans (hf t a ha)) (refl q s)
end L1Used

/-- An error record stands in the error queue (R461). -/
theorem l1Used_errRecord {q : Prop} (hq : ¬ q) (s : State) (cls struct unit info addr : Nat) :
    L1Used q s (s.errRecord cls struct unit info addr) := by
  refine ⟨?_, ?_, ?_, fun b hb => ?_, fun h => absurd h hq⟩
  · rw [errRecord_eq]
  all_goals
    unfold State.errRecord
    dsimp only
    split
  · rfl
  · show (State.write _ _ _ _).priv.errbase = _
    rw [write_eq]
  · rfl
  · show (State.write _ _ _ _).priv.errsize = _
    rw [write_eq]
  · rfl
  · next hroom =>
    have hslot : s.priv.errwptr.toNat % (s.priv.errsize.toNat / 32) < s.priv.errsize.toNat / 32 := Nat.mod_lt _ (by omega)
    rw [State.irq_mem]
    dsimp only [State.writeBytes]
    refine write_other _ _ _ _ _ ?_
    simp only [List.length_append, leBytes_length]
    omega

theorem l1Used_metSector {q : Prop} (hq : ¬ q) (t : State) (c : Nat) (x : L1Sector × Nat) : L1Used q t (t.metSector c x) := by
  unfold State.metSector
  split
  · exact .refl q t
  · split
    · exact .ofCaches rfl
    · exact (l1Used_errRecord hq ..).trans (.ofCaches rfl)

theorem l1Used_fillL1 {q : Prop} {s : State} {fresh : Bool} {l : Loc} (hq : q → fresh = true ∨ l1Fate s l = none) (t : State) :
    L1Used q t (t.fillL1 s fresh l) := by
  have hrefill : ∀ w : State, L1Used q w
      (if poisoned w (l.key / 128 * 128) 128 || w.owned (l.key / 128 * 128) 128 then w
        else w.addSector s.gteam.core (l.key / 128 * 128) (Memory.bytes w.mem (l.key / 128 * 128) 128)) := fun w => by
    split
    · exact .refl q w
    · exact .ofCaches rfl
  unfold State.fillL1
  dsimp only
  split
  · exact .refl q t
  · split
    · exact hrefill t
    · next x k hfate =>
      split
      · exact hrefill t
      · next hfresh =>
        split
        · exact .ofCaches rfl
        · refine (l1Used_metSector (fun h => ?_) t _ _).trans (hrefill _)
          rcases hq h with hf | hn
          · exact hfresh hf
          · rw [hfate] at hn
            cases hn

theorem l1Used_usedL1 {q : Prop} {s : State} {ls : List Loc} (hq : q → ∀ l ∈ ls, l1Fate s l = none) (t : State) : L1Used q t (t.usedL1 s ls) := by
  unfold State.usedL1 State.metSectors
  split
  · exact .refl q t
  · next hsome =>
    have hno : ¬ q := fun h => hsome (by rw [List.filterMap_eq_nil_iff.mpr (hq h)]; rfl)
    have hcount : L1Used q t { t with fresh := t.fresh + 1 } := ⟨rfl, rfl, rfl, fun _ _ => rfl, fun _ => rfl⟩
    exact hcount.trans (L1Used.foldl (f := fun t x => t.metSector s.gteam.core x) _ (fun w x _ => l1Used_metSector hno w _ x) _)

theorem l1Fate_none {s : State} {l : Loc} (h : s.sector? s.gteam.core l.key = none) : l1Fate s l = none := by
  simp [l1Fate, h]
/-- A core without a sector finds none. -/
theorem sector_none {s : State} (h : ∀ x ∈ s.l1, x.core ≠ s.gteam.core) (key : Nat) : s.sector? s.gteam.core key = none :=
  List.find?_eq_none.mpr fun x hx => by simp [h x hx]

/-! ### The lanes of the locations -/

/-- The locations of an access are those of some of its lanes, in their order. -/
theorem laneLocs_lanes {s : State} {as : List (Nat × DWord)} {n : Nat} {k : Access} {ad : Admit} {ls : List LaneLoc}
    (h : laneLocs s as n k ad = .ok ls) : (ls.map (·.lane)).Sublist (as.map (·.1)) := by
  simp only [laneLocs, bind, Except.bind] at h
  split at h
  · cases h
  · split at h
    · cases h
    · split at h
      · cases h
      · cases h
        clear * -
        induction as with
        | nil => exact .slnil
        | cons a as ih =>
          cases htr : translate s a.2 k with
          | error e => simpa [htr] using ih.cons a.1
          | ok l => simpa [htr] using ih

theorem laneAddrs_lanes (form1 : Bool) (x : LIn) : (laneAddrs form1 x).map (·.1) = lanesOf x.act := by
  rw [laneAddrs, List.map_map]
  exact List.map_id _

/-- The value that a list gives a lane that it names once. -/
theorem byLane_map {α : Type} (lane : α → Nat) (v : α → Nat) {ls : List α} (hd : (ls.map lane).Nodup) {y : α} (hy : y ∈ ls) :
    byLane (ls.map fun x => (lane x, v x)) (lane y) = BitVec.ofNat 64 (v y) := by
  induction ls with
  | nil => exact absurd hy List.not_mem_nil
  | cons x ls ih =>
    rw [List.map_cons, List.nodup_cons] at hd
    rcases List.mem_cons.mp hy with rfl | hy
    · simp [byLane]
    · have hne : lane x ≠ lane y := fun he => hd.1 (he ▸ List.mem_map_of_mem hy)
      rw [← ih hd.2 hy]
      simp [byLane, hne]

/-! ### The value -/

theorem ofBytes_lt (b : List Byte) : ofBytes b < 256 ^ b.length := by
  have h := ofBytes_take b b.length
  rw [List.take_length] at h
  rw [h]
  exact Nat.mod_lt _ (Nat.pow_pos (by decide))

theorem readOwn_lt {s : State} {l : Loc} (hr : isRemote l.key = false) (n : Nat) : s.readOwn l n < 256 ^ n := by
  have hseen : s.seen l.key n < 256 ^ n := by
    simp only [State.seen, hr]
    exact Memory.read_lt ..
  unfold State.readOwn
  split
  · simpa using ofBytes_lt ((List.range n).map fun i =>
      (stagedByte s.gteam.staged (l.key + i)).getD (BitVec.ofNat 8 (s.seen l.key n / 256 ^ i)))
  · exact hseen

theorem serve_lt {s : State} {l : Loc} (hr : isRemote l.key = false) (fresh : Bool) (n : Nat) : s.serve fresh l n < 256 ^ n := by
  unfold State.serve
  split
  · rw [fieldOf_eq]
    exact Nat.mod_lt _ (Nat.pow_pos (by decide))
  · exact readOwn_lt hr n

/-- A load that no sector serves reads memory under the team's staged stores. -/
theorem serve_direct {s : State} {l : Loc} {fresh : Bool} (h : fresh = true ∨ l1Fate s l = none) (n : Nat) :
    s.serve fresh l n = s.readOwn l n := by
  have hnone : (if fresh then none else l1Fate s l) = none := by
    rcases h with rfl | h
    · rfl
    · rw [h, ite_self]
  simp only [State.serve, hnone]

/-! ### Plain loads (R182, R183) -/

/-- What a plain load of lanes leaves. -/
def lanesLoaded (s : State) (fresh : Bool) (ls : List LaneLoc) : State :=
  let t := (s.touchAll (ls.map (·.va))).remClear
  let t := (((ls.map fun x => x.loc.key / 128).eraseDups).filterMap fun k => ls.find? fun x => x.loc.key / 128 == k).foldl
    (fun t x => t.fillL1 s fresh x.loc) t
  if !fresh && ls.any (fun x => (l1Fate s x.loc).isSome) then { t with fresh := t.fresh + 1 } else t

theorem laneLoads_ok {s : State} {as : List (Nat × DWord)} {n : Nat} {raw : Bool} {ls : List LaneLoc} (fresh : Bool)
    (hls : laneLocs s as n .load (.laneLoad raw) = .ok ls)
    (h : ∀ y ∈ ls, isRemote y.loc.key = false ∧ s.owned y.loc.key n = false ∧ poisoned s y.loc.key n = false) :
    laneLoads s as n raw fresh = .ok (ls.map fun x => (x.lane, s.serve fresh x.loc n), lanesLoaded s fresh ls) := by
  simp only [laneLoads, hls, laneArrive_ok h, bind, Except.bind]
  rfl

theorem l1Used_lanesLoaded {q : Prop} {s : State} {fresh : Bool} {ls : List LaneLoc}
    (hq : q → ∀ y ∈ ls, fresh = true ∨ l1Fate s y.loc = none) : L1Used q s (lanesLoaded s fresh ls) := by
  have hfill : L1Used q s ((((ls.map fun x => x.loc.key / 128).eraseDups).filterMap fun k => ls.find? fun x => x.loc.key / 128 == k).foldl
      (fun t x => t.fillL1 s fresh x.loc) (s.touchAll (ls.map (·.va))).remClear) := by
    refine (L1Used.ofCaches ((onlyCaches_touchAll ..).trans (onlyCaches_remClear _))).trans (L1Used.foldl _ (fun t y hy => ?_) _)
    obtain ⟨k, -, hk⟩ := List.mem_filterMap.mp hy
    exact l1Used_fillL1 (fun h => hq h y (List.mem_of_find?_eq_some hk)) t
  unfold lanesLoaded
  dsimp only
  split
  · exact hfill.trans ⟨rfl, rfl, rfl, fun _ _ => rfl, fun _ => rfl⟩
  · exact hfill

/-- A load writes its destination in the active lanes of the state that its accesses leave. -/
theorem loadMoves {m : LMem} {s w : State} {q : Prop} {wide : Bool} {f : Nat → DWord} (h : LaneReady (Forms.vld m) m.h.sw s)
    (hw : L1Used q (laneStart m.h.sw s) w) (hwide : wide = m.ty.wide) : Spec.LaneMoves (Forms.vld m) m.h.sw s
      (laneDone (Forms.vld m) { w with g := w.g.putField (s.g.active m.h) .el wide m.vd f }) := by
  subst hwide
  refine laneMoves_done (hw.party.trans h.group) ?_ fun k l hl hn => ?_
  · dsimp only
    rw [Group.putField_eq, hw.g]
  · have hkeep := (Group.putField_writes (v := Forms.vld m) rfl w.g (s.g.active m.h) f).vectors k l hl hn
    refine hkeep.trans ?_
    rw [hw.g]
    rfl

theorem exec_vld_plain {m : LMem} {ls : List LaneLoc} {s u : State} (helem : m.elem = false) (h : LaneReady (Forms.vld m) m.h.sw s)
    (hu : u = laneStart m.h.sw s)
    (hls : laneLocs u (laneAddrs m.form1 (laneIn (Forms.vld m) s)) (sizeBytes m.size) .load (.laneLoad m.raw) = .ok ls)
    (hnear : ∀ y ∈ ls, isRemote y.loc.key = false ∧ u.owned y.loc.key (sizeBytes m.size) = false ∧
      poisoned u y.loc.key (sizeBytes m.size) = false) :
    exec (.vld m) s = .next (laneDone (Forms.vld m) { lanesLoaded u m.fresh ls with
      g := (lanesLoaded u m.fresh ls).g.putField (s.g.active m.h) .el m.ty.wide m.vd fun l =>
        loadVal m.ty (sizeBytes m.size) (byLane (ls.map fun x => (x.lane, u.serve m.fresh x.loc (sizeBytes m.size))) l).toNat }) := by
  have hport : notPort m.vd = true := h.ports _ List.mem_cons_self
  show execVld m s = _
  unfold execVld
  refine laneDo_next h ?_
  rw [show laneStart (Forms.vld m).h.sw s = u from hu.symm]
  simp only [bind, Except.bind, helem, Bool.false_eq_true, if_false, laneLoads_ok m.fresh hls hnear, writeField_notPort hport]
  rfl

theorem laneLoadsReadMemory : Spec.LaneLoadsReadMemory := by
  intro m n ls s hvd helem h
  dsimp only
  intro hls hnear
  obtain ⟨u, hu⟩ : ∃ u, u = laneStart m.h.sw s := ⟨_, rfl⟩
  have hexec := exec_vld_plain helem h hu (by rw [hu]; exact hls) fun y hy => by
    rw [hu]
    exact hnear y hy
  have hdirect : ∀ y : LaneLoc, m.fresh = true ∨ s.sector? s.gteam.core y.loc.key = none → m.fresh = true ∨ l1Fate u y.loc = none :=
    fun y hy => hy.imp_right fun hs => by
      rw [hu]
      exact l1Fate_none (s := laneStart m.h.sw s) hs
  have hused : ∀ q : Prop, (q → ∀ y ∈ ls, m.fresh = true ∨ l1Fate u y.loc = none) → L1Used q (laneStart m.h.sw s) (lanesLoaded u m.fresh ls) :=
    fun q hq => hu ▸ l1Used_lanesLoaded hq
  rw [← hu]
  refine ⟨_, hexec, loadMoves h (hused False False.elim) rfl, ?_, fun hall b => ?_, fun y hy => ?_⟩
  · have hq := hused (∀ x ∈ s.l1, x.core ≠ s.gteam.core) fun hl y _ => hdirect y (.inr (sector_none hl _))
    exact ⟨hq.outside, fun hl b => congrArg (fun mem => Memory.byte mem b) (hq.quiet hl)⟩
  · exact congrArg (fun mem => Memory.byte mem b) ((hused _ fun hd y hy => hdirect y (hd y hy)).quiet hall)
  · have hr := (hnear y hy).1
    have hlanes := laneLocs_lanes hls
    rw [laneAddrs_lanes] at hlanes
    have hact : (s.g.active m.h).getLsbD y.lane = true := getLsbD_of_mem_lanesOf (hlanes.subset (List.mem_map_of_mem hy))
    have hval : (byLane (ls.map fun x => (x.lane, u.serve m.fresh x.loc (sizeBytes m.size))) y.lane).toNat =
        u.serve m.fresh y.loc (sizeBytes m.size) := by
      rw [byLane_map (·.lane) (fun x : LaneLoc => u.serve m.fresh x.loc (sizeBytes m.size)) (hlanes.nodup (nodup_lanesOf _)) hy,
        BitVec.toNat_ofNat]
      refine Nat.mod_eq_of_lt (Nat.lt_of_lt_of_le (serve_lt hr ..) ?_)
      calc 256 ^ sizeBytes m.size ≤ 256 ^ 8 := Nat.pow_le_pow_right (by decide) (by rw [sizeBytes_eq]; exact bytes_le _)
        _ = 2 ^ 64 := by decide
    have hput := vr_putField_active (lanesLoaded u m.fresh ls).g m.ty.wide n
      (fun l => loadVal m.ty (sizeBytes m.size) (byLane (ls.map fun x => (x.lane, u.serve m.fresh x.loc (sizeBytes m.size))) l).toNat) hact
    rw [← hvd] at hput
    rw [hval] at hput
    refine ⟨_, rfl, fun hd hst => ?_, hput⟩
    rw [serve_direct (hdirect y hd), readOwn_memory (by rw [hu]; exact hst) hr, hu]
    rfl

/-! ### Element loads (R26, R27, R183) -/

/-- What an element access leaves: uses of L1, unless it is fresh. -/
theorem elemWords_leaves (s : State) (base : DWord) (es : List (Nat × Nat)) (fresh vec : Bool) :
    Ends (fun _ => True) (fun r => ∀ q : Prop, (q → fresh = true ∨ ∀ l, l1Fate s l = none) → L1Used q s r.2) (elemWords s base es fresh vec) := by
  refine (ends_anyhow _).bind fun bs _ => ?_
  split
  · exact fun q _ => .refl q s
  split
  · trivial
  refine (ends_anyhow _).bind fun ls _ => (ends_anyhow _).bind fun _ _ => (ends_anyhow _).bind fun side _ =>
    (ends_anyhow _).bind fun _ _ => (ends_anyhow _).bind fun _ _ => fun q hq => ?_
  refine L1Used.trans ?_ (.ofCaches (onlyCaches_touchAll ..))
  split
  · exact .refl q s
  · next hf => exact l1Used_usedL1 (fun h l _ => (hq h).resolve_left hf l) s

theorem elementLoadsDecode : Spec.ElementLoadsDecode := by
  intro m n s hvd helem hty h
  dsimp only
  intro ws u hel
  obtain ⟨v, hv⟩ : ∃ v, v = laneStart m.h.sw s := ⟨_, rfl⟩
  have hport : notPort m.vd = true := h.ports _ List.mem_cons_self
  have hends := elemWords_leaves (laneStart m.h.sw s) ((laneIn (Forms.vld m) s).b 0)
    ((lanesOf (laneIn (Forms.vld m) s).act).map fun l => (l, ((laneIn (Forms.vld m) s).a l).toNat % 2 ^ 32)) m.fresh true
  rw [hel] at hends
  have hused : ∀ q : Prop, (q → m.fresh = true ∨ ∀ l, l1Fate (laneStart m.h.sw s) l = none) → L1Used q (laneStart m.h.sw s) u.remClear :=
    fun q hq => (hends q hq).trans (.ofCaches (onlyCaches_remClear u))
  have hwide : false = m.ty.wide := by rw [hty]; rfl
  have hexec : exec (.vld m) s = .next (laneDone (Forms.vld m) { u.remClear with
      g := u.remClear.g.putField (s.g.active m.h) .el false m.vd (byLane ws) }) := by
    show execVld m s = _
    unfold execVld
    refine laneDo_next h ?_
    rw [show laneStart (Forms.vld m).h.sw s = laneStart m.h.sw s from rfl]
    simp only [bind, Except.bind, helem, if_true, hel, writeField_notPort hport]
    rfl
  refine ⟨_, hexec, loadMoves h (hused False False.elim) hwide, ?_, fun hf b => ?_, fun l hl => ?_⟩
  · have hq := hused (∀ x ∈ s.l1, x.core ≠ s.gteam.core) fun hl => .inr fun l => l1Fate_none (s := laneStart m.h.sw s) (sector_none hl _)
    exact ⟨hq.outside, fun hl b => congrArg (fun mem => Memory.byte mem b) (hq.quiet hl)⟩
  · exact congrArg (fun mem => Memory.byte mem b) ((hused True fun _ => .inl hf).quiet trivial)
  · have hput := (vr_putField_active u.remClear.g false n (byLane ws) hl).1
    rw [← hvd] at hput
    exact hput

/-- Settles O32. -/
theorem laneLoadsDeliver : Obligations.LaneLoadsDeliver := ⟨laneLoadsReadMemory, elementLoadsDecode⟩

end Sys2Proof.Machine
end

section
/-!
# Grid loads and stores (R193, R300 to R302)

With every cell current a GLD reads its cells and writes one register; with every cell writable a GST puts its cells one after another and
tags those of the ghost zone.
-/
namespace Sys2Proof.Machine
open Forms (LView)

/-! ### Cells of lanes -/

theorem gridCells_lanes {s : State} {m : LGrid} {x : LIn} {gr : Grid} {part : Nat} {cs : List (Nat × List Int)}
    (h : gridCells s m x = .ok (gr, part, cs)) : cs.map (·.1) = lanesOf x.act := by
  simp only [gridCells, bind, Except.bind] at h
  split at h
  · cases h
  split at h
  · cases h
  split at h
  · cases h
  split at h
  · cases h
  cases h
  rw [List.map_map]
  exact List.map_id _

theorem gridLocs_lanes {s : State} {gr : Grid} {part t : Nat} {k : Access} {cs : List (Nat × List Int)} {ls : List (Nat × Nat × List Loc)}
    (h : gridLocs s gr part t k cs = .ok ls) : (ls.map (·.1)).Sublist (cs.map (·.1)) := by
  simp only [gridLocs, bind, Except.bind] at h
  split at h
  · cases h
  split at h
  · cases h
  cases h
  clear * -
  induction cs with
  | nil => exact .slnil
  | cons c cs ih =>
    cases hloc : cellLocs s gr k part (t % gr.d.nbuf) (gr.d.cell c.2) with
    | error e => simpa [hloc] using ih.cons c.1
    | ok l => simpa [hloc] using ih

/-! ### GLD -/

theorem exec_gld_current {m : LGrid} {s u : State} {gr : Grid} {part step : Nat} {cs : List (Nat × List Int)} {ls : List (Nat × Nat × List Loc)}
    (h : LaneReady (Forms.gld m) m.h.sw s) (hu : u = laneStart m.h.sw s) (hcells : gridCells u m (laneIn (Forms.gld m) s) = .ok (gr, part, cs))
    (hstep : stepTag u m.k = .ok step) (hcur : ∀ c ∈ cs, current gr (gr.partOf part) c.2 step = true)
    (hls : gridLocs u gr part step .load cs = .ok ls) (hpo : ∀ y ∈ ls, ∀ l ∈ y.2.2, poisoned u l.key 1 = false) :
    exec (.gld m) s = .next (laneDone (Forms.gld m) { u.haloDone.acquire .fab with
      g := (u.haloDone.acquire .fab).g.putField (s.g.active m.h) .w32 false m.vd
        (byLane (ls.map fun y => (y.1, gr.d.load m.ty (rawAt u gr.d part (step % gr.d.nbuf) y.2.1 y.2.2)))) }) := by
  have hport : notPort m.vd = true := h.ports _ List.mem_cons_self
  have hstale : (cs.filter fun c => !current gr (gr.partOf part) c.2 step) = [] := List.filter_eq_nil_iff.mpr fun c hc => by simp [hcur c hc]
  have hclean : (ls.filterMap fun l => (l.2.2.find? fun y => poisoned u y.key 1).map fun y => (l.1, flawed 0 y.key y.home)) = [] := by
    refine List.filterMap_eq_nil_iff.mpr fun y hy => ?_
    rw [List.find?_eq_none.mpr fun l hl => by simp [hpo y hy l hl]]
    rfl
  show execGld m s = _
  unfold execGld
  refine laneDo_next h ?_
  rw [show laneStart (Forms.gld m).h.sw s = u from hu.symm]
  simp only [bind, Except.bind, hcells, hstep, hstale, staleWait, List.isEmpty_nil, if_true, hls, hclean, failLanes, laneFault,
    writeField_notPort hport]
  rfl

theorem gld_delivers {m : LGrid} {n : BitVec 11} {s u : State} {gr : Grid} {part step : Nat} {cs : List (Nat × List Int)}
    {ls : List (Nat × Nat × List Loc)} (hvd : m.vd = .v n) (h : LaneReady (Forms.gld m) m.h.sw s) (hu : u = laneStart m.h.sw s)
    (hcells : gridCells u m (laneIn (Forms.gld m) s) = .ok (gr, part, cs))
    (hstep : stepTag u m.k = .ok step) (hcur : ∀ c ∈ cs, current gr (gr.partOf part) c.2 step = true)
    (hls : gridLocs u gr part step .load cs = .ok ls) (hpo : ∀ y ∈ ls, ∀ l ∈ y.2.2, poisoned u l.key 1 = false) :
    ∃ t, exec (.gld m) s = .next t ∧ Spec.LaneMoves (Forms.gld m) m.h.sw s t ∧ SameBytes s t ∧
      ∀ y ∈ ls, t.g.vr n.toNat y.1 = BitVec.ofNat 32 (gr.d.load m.ty (rawAt u gr.d part (step % gr.d.nbuf) y.2.1 y.2.2)) := by
  have hc := onlyCaches_acquire u.haloDone .fab
  have hg : (u.haloDone.acquire .fab).g = { (laneStart m.h.sw s).g with haloOver := false } := by
    rw [hc.g, hu]
    rfl
  have hexec := exec_gld_current h hu hcells hstep hcur hls hpo
  obtain ⟨f, hf⟩ : ∃ f, f = byLane (ls.map fun y => (y.1, gr.d.load m.ty (rawAt u gr.d part (step % gr.d.nbuf) y.2.1 y.2.2))) := ⟨_, rfl⟩
  rw [← hf] at hexec
  refine ⟨_, hexec, laneMoves_done ?_ ?_ fun k l hl hn => ?_, fun b => ?_, fun y hy => ?_⟩
  · refine hc.party.trans ?_
    rw [hu]
    exact h.group
  · dsimp only
    rw [Group.putField_eq, hg]
  · have hkeep := (Group.putField_writes (v := Forms.gld m) rfl (u.haloDone.acquire .fab).g (s.g.active m.h) f).vectors k l hl hn
    refine hkeep.trans ?_
    rw [hg]
    rfl
  · show Memory.byte (u.haloDone.acquire .fab).mem b = _
    rw [hc.mem, hu]
    rfl
  · have hlanes := gridLocs_lanes hls
    rw [gridCells_lanes hcells] at hlanes
    have hact : (s.g.active m.h).getLsbD y.1 = true := getLsbD_of_mem_lanesOf (hlanes.subset (List.mem_map_of_mem hy))
    have hput : ((u.haloDone.acquire .fab).g.putField (s.g.active m.h) .w32 false (.v n) f).vr n.toNat y.1 = (f y.1).setWidth 32 :=
      Group.vr_putVec_active _ _ _ hact
    rw [hf, byLane_map (·.1) (fun y : Nat × Nat × List Loc => gr.d.load m.ty (rawAt u gr.d part (step % gr.d.nbuf) y.2.1 y.2.2))
      (hlanes.nodup (nodup_lanesOf _)) hy, BitVec.setWidth_ofNat_of_le (by decide)] at hput
    rw [← hf, ← hvd] at hput
    exact hput

/-! ### GST -/

theorem onlyMemory_putRaw (s : State) (d : GridD) (part buf c v : Nat) (ls : List Loc) : OnlyMemory s (putRaw s d part buf c v ls) := by
  unfold putRaw
  split
  · exact .refl s
  · split
    · exact onlyMemory_write ..
    · exact OnlyMemory.foldl (fun _ _ => onlyMemory_write ..) _ s

/-- The cells of a GST put one after another. -/
def cellsPut (gr : Grid) (part buf : Nat) (val : Nat → Nat) (ls : List (Nat × Nat × List Loc)) (u : State) : State :=
  ls.foldl (fun w y => putRaw w gr.d part buf y.2.1 (val y.1) y.2.2) u

/-- The partition once the ghost cells of a GST carry its step. -/
def ghostsTagged (gr : Grid) (step : Nat) (cs : List (Nat × List Int)) (p : GridPart) : GridPart :=
  (cs.filter fun c => !gr.d.interior c.2).foldl (fun q c => putGhost gr q (gr.d.cell c.2) ⟨step, true⟩) p

theorem ghostsTagged_part (gr : Grid) (step : Nat) (cs : List (Nat × List Int)) (p : GridPart) : (ghostsTagged gr step cs p).part = p.part := by
  unfold ghostsTagged
  refine foldl_keeps (fun q : GridPart => q.part = p.part) (fun q c h => ?_) _ rfl
  unfold putGhost
  exact h

theorem tagAt_putGhost (gr : Grid) (p : GridPart) (c : Nat) (tag : CellTag) (x : List Int) (t : Nat) : tagAt gr (putGhost gr p c tag) x t =
    if t % gr.d.nbuf * gr.d.vol + gr.d.cell x = tag.step % gr.d.nbuf * gr.d.vol + c then some tag else tagAt gr p x t := by
  unfold tagAt putGhost
  dsimp only
  rw [SMap.get_set]

theorem tagAt_ghostsTagged (gr : Grid) (step : Nat) (p : GridPart) {cs : List (Nat × List Int)} {c : Nat × List Int} (hc : c ∈ cs)
    (hghost : gr.d.interior c.2 = false) : tagAt gr (ghostsTagged gr step cs p) c.2 step = some ⟨step, true⟩ := by
  have hmem : c ∈ cs.filter fun c => !gr.d.interior c.2 := List.mem_filter.mpr ⟨hc, by simp [hghost]⟩
  unfold ghostsTagged
  generalize cs.filter (fun c => !gr.d.interior c.2) = ds at hmem
  induction ds using List.reverseRecOn with
  | nil => exact absurd hmem List.not_mem_nil
  | append_singleton ds d ih =>
    rw [List.foldl_append, List.foldl_cons, List.foldl_nil, tagAt_putGhost]
    split
    · rfl
    · next hne =>
      rcases List.mem_append.mp hmem with h | h
      · exact ih h
      · exact absurd (by rw [List.mem_singleton.mp h]) hne

theorem partOf_part (gr : Grid) (k : Nat) : (gr.partOf k).part = k := by
  unfold Grid.partOf
  cases hfind : gr.parts.find? fun x => x.part == k with
  | none => rfl
  | some p => simpa using List.find?_some hfind
theorem partOf_setPart (gr : Grid) {p : GridPart} {k : Nat} (h : p.part = k) : (gr.setPart p).partOf k = p := by
  simp [Grid.partOf, Grid.setPart, h]

theorem exec_gst_writes {m : LGrid} {s u : State} {gr : Grid} {part step : Nat} {cs : List (Nat × List Int)} {ls : List (Nat × Nat × List Loc)}
    {x : LIn} (h : LaneReady (Forms.gst m) m.h.sw s) (hrep : s.g.replay = none) (hu : u = laneStart m.h.sw s) (hx : x = laneIn (Forms.gst m) s)
    (hcells : gridCells u m x = .ok (gr, part, cs)) (hstep : stepTag u m.k = .ok step)
    (hcase : ∀ c ∈ cs, gstCase u gr (gr.partOf part) c.2 step = .write) (hls : gridLocs u gr part step .store cs = .ok ls) :
    ∃ w, w = cellsPut gr part (step % gr.d.nbuf) (fun l => gr.d.store m.ty ((x.d l).toNat % 2 ^ 32)) ls u ∧
      exec (.gst m) s = .next (laneDone (Forms.gst m)
        ((w.haloDone.dropSectors w.gteam.core).setGrid (gr.setPart (ghostsTagged gr step cs (gr.partOf part))))) := by
  refine ⟨_, rfl, ?_⟩
  have hrepu : u.g.replay = none := by rw [hu]; exact hrep
  have hfold : ∀ ws, u.fold true ws = u := fun ws => by simp only [State.fold, hrepu]
  have hno (k : GstCase) (hk : k ≠ .write) :
      ((cs.map fun c => (c, gstCase u gr (gr.partOf part) c.2 step)).filter fun c => c.2 == k) = [] := by
    refine List.filter_eq_nil_iff.mpr fun y hy => ?_
    obtain ⟨c, hc, rfl⟩ := List.mem_map.mp hy
    simpa [hcase c hc] using hk.symm
  have hall : ((cs.map fun c => (c, gstCase u gr (gr.partOf part) c.2 step)).filter fun c => c.2 == .write).map (·.1) = cs := by
    rw [List.filter_eq_self.mpr, List.map_map]
    · exact List.map_id _
    · intro y hy
      obtain ⟨c, hc, rfl⟩ := List.mem_map.mp hy
      simp [hcase c hc]
  show execGst m s = _
  unfold execGst
  refine laneDo_next h ?_
  rw [show laneStart (Forms.gst m).h.sw s = u from hu.symm, ← hx]
  simp only [bind, Except.bind, hcells, hstep, hno .fault (by decide), hno .wait (by decide), hall, staleTrap, staleWait, List.map_nil,
    List.isEmpty_nil, if_true, failLanes, laneFault, hls, grants_ok (member_none hrepu), hfold]
  rfl

theorem gst_writes {m : LGrid} {s u : State} {gr : Grid} {part step : Nat} {cs : List (Nat × List Int)} {ls : List (Nat × Nat × List Loc)}
    {x : LIn} (h : LaneReady (Forms.gst m) m.h.sw s) (hrep : s.g.replay = none) (hu : u = laneStart m.h.sw s) (hx : x = laneIn (Forms.gst m) s)
    (hcells : gridCells u m x = .ok (gr, part, cs)) (hstep : stepTag u m.k = .ok step)
    (hcase : ∀ c ∈ cs, gstCase u gr (gr.partOf part) c.2 step = .write) (hls : gridLocs u gr part step .store cs = .ok ls) :
    ∃ t, exec (.gst m) s = .next t ∧ t.g.vreg = s.g.vreg ∧ t.g.sc = s.g.sc ∧ t.g.preds = s.g.preds ∧
      t.mem = (ls.foldl (fun w y =>
        putRaw w gr.d part (step % gr.d.nbuf) y.2.1 (gr.d.store m.ty ((x.d y.1).toNat % 2 ^ 32)) y.2.2) u).mem ∧
      ∃ g ∈ t.grids, g.desc = gr.desc ∧ ∀ c ∈ cs, gr.d.interior c.2 = false → tagAt g (g.partOf part) c.2 step = some ⟨step, true⟩ := by
  obtain ⟨w, hw, hexec⟩ := exec_gst_writes h hrep hu hx hcells hstep hcase hls
  have hm : OnlyMemory u w := hw ▸ OnlyMemory.foldl (fun _ _ => onlyMemory_putRaw ..) ls u
  have hg : w.g = (laneStart m.h.sw s).g := hu ▸ hm.keeps State.g fun _ _ _ => rfl
  refine ⟨_, hexec, ?_, ?_, ?_, ?_, gr.setPart (ghostsTagged gr step cs (gr.partOf part)), List.mem_cons_self, rfl, fun c hc hghost => ?_⟩
  · show w.g.vreg = _
    rw [hg]
    rfl
  · show w.g.sc = _
    rw [hg]
    rfl
  · show w.g.preds = _
    rw [hg]
    rfl
  · show w.mem = _
    rw [hw]
    rfl
  · rw [partOf_setPart gr ((ghostsTagged_part ..).trans (partOf_part gr part))]
    exact tagAt_ghostsTagged gr step _ hc hghost

/-- Settles O36. -/
theorem gridCellsAreReadAndWritten : Obligations.GridCellsAreReadAndWritten := by
  refine ⟨fun m n s hvd h => ?_, fun m s h hrep => ?_⟩
  · dsimp only
    exact fun gr part cs step ls hcells hstep hcur hls hpo => gld_delivers hvd h rfl hcells hstep hcur hls hpo
  · dsimp only
    exact fun gr part cs step ls hcells hstep hcase hls => gst_writes h hrep rfl rfl hcells hstep hcase hls

end Sys2Proof.Machine
end

section
/-!
# How work ends (R188, R199, R207, R208)

A piece of work that looks is found by its number; what it then does is by its kind. Its end is one delivery to its group.
-/
namespace Sys2Proof.Machine

/-! ### What a piece of work finds when it looks -/

/-- A number that names no piece of work does nothing. -/
theorem work_unknown {s : State} {n : Nat} (h : s.job? n = none) :
    ∀ e ∈ [Instr.copyComplete n, .xferComplete n, .collComplete n, .gradSealComplete n], exec e s = .next s := by
  simp only [List.forall_mem_cons, List.not_mem_nil, false_imp_iff, implies_true, and_true]
  refine ⟨?_, ?_, ?_, ?_⟩
  · show execCopyComplete n s = _
    simp only [execCopyComplete, h]
  · show execXferComplete n s = _
    simp only [execXferComplete, h]
  · show execCollComplete n s = _
    simp only [execCollComplete, h]
  · show execGradSealComplete n s = _
    simp only [execGradSealComplete, h]

section
variable {s : State} {n : Nat} {j : Job} (h : s.job? n = some j)
include h

theorem copy_looks (hk : j.kind = .copy) : exec (.copyComplete n) s =
    .next (if s.jobWaits n then s.post (.copyComplete n) else s.finishJob j j.status) := by
  show execCopyComplete n s = _
  simp only [execCopyComplete, h, hk]

theorem xfer_ends {acked code : Nat} (hk : j.kind = .xfer 0 acked code) :
    exec (.xferComplete n) s = .next (s.finishJob j (statusWord code acked)) := by
  show execXferComplete n s = _
  simp only [execXferComplete, h, hk]
theorem xfer_looks {left acked code : Nat} (hk : j.kind = .xfer left acked code) (hleft : left ≠ 0) :
    exec (.xferComplete n) s = .next (s.post (.xferComplete n)) := by
  obtain ⟨m, rfl⟩ := Nat.exists_eq_succ_of_ne_zero hleft
  show execXferComplete n s = _
  simp only [execXferComplete, h, hk]

theorem seal_ends {rs : Option (List (Nat × Nat))} (hk : j.kind = .seal rs) : exec (.gradSealComplete n) s =
    .next ((foldThr s (sealSel j.dom rs)).1.dropL1.finishJob j (BitVec.ofNat 64 (foldThr s (sealSel j.dom rs)).2)) := by
  show execGradSealComplete n s = _
  simp only [execGradSealComplete, h, hk]
end

/-! ### Collectives (R208) -/

/-- The results of a collective put at their places. -/
def collWritten (j : Job) (c : Coll) (s : State) : State :=
  c.keys.zipIdx.foldl (fun t k => collPut j (collElem c.ty) (c.result c.stream k.2) t k.1) s

section
variable {s : State} {n : Nat} {j : Job} {c : Coll} (h : s.job? n = some j) (hk : j.kind = .coll c)
include h hk

theorem coll_looks (hw : c.finished = false ∨ s.jobWaits n = true) : exec (.collComplete n) s = .next (s.post (.collComplete n)) := by
  have hlook : (!c.finished || s.jobWaits n) = true := by simpa using hw
  show execCollComplete n s = _
  simp only [execCollComplete, h, hk, hlook, if_true]

theorem coll_ends (hf : c.finished = true) (hw : s.jobWaits n = false) (hd : c.code ≠ 0 ∨ c.written = true) :
    exec (.collComplete n) s = .next (endColl s j c) := by
  show execCollComplete n s = _
  simp only [execCollComplete, h, hk, hf, hw, hd, Bool.not_true, Bool.or_self, Bool.false_eq_true, if_false, if_true]

theorem coll_writes (hf : c.finished = true) (hw : s.jobWaits n = false) (hc : c.code = 0) (hd : c.written = false) :
    exec (.collComplete n) s = .next (if c.keys.any isPeer then
      ((collWritten j c s).setJob { j with kind := .coll { c with written := true } }).post (.collComplete n) else endColl (collWritten j c s) j c) := by
  have hno : ¬ (c.code ≠ 0 ∨ c.written = true) := by simp [hc, hd]
  show execCollComplete n s = _
  simp only [execCollComplete, h, hk, hf, hw, if_neg hno, Bool.not_true, Bool.or_self, Bool.false_eq_true, if_false]
  rfl
end

theorem endColl_failed {s : State} {j : Job} {c : Coll} (h : c.code ≠ 0) :
    endColl s j c = releaseGone (s.dropL1.finishJob j (statusWord c.code 0)) := by simp only [endColl, if_neg h]
theorem endColl_done {s : State} {j : Job} {c : Coll} (h : c.code = 0) :
    endColl s j c = releaseGone (s.dropL1.finishJob j (statusWord 0 (collElem c.ty * c.writes))) := by simp only [endColl, if_pos h]

/-- `t` is `s` but for memory, requests and messages to the host. -/
def Placed (s t : State) : Prop := t = { s with mem := t.mem, poison := t.poison, fabric := t.fabric, hostOut := t.hostOut }

theorem Placed.trans {s t u : State} (h : Placed s t) (k : Placed t u) : Placed s u := by
  unfold Placed at h k ⊢
  rw [k, h]
theorem Placed.g {s t : State} (h : Placed s t) : t.g = s.g := by rw [h]
theorem Placed.jobs {s t : State} (h : Placed s t) : t.jobs = s.jobs := by rw [h]

theorem placed_collPut (j : Job) (n v : Nat) (s : State) (key : Nat) : Placed s (collPut j n v s key) := by
  unfold collPut State.placeAt
  split
  · generalize peerOf key = place
    dsimp only [Placed]
    rw [(onlyFabric_send ..).frame]
  · split
    · rfl
    · dsimp only [Placed]
      rw [write_eq]

theorem placed_collWritten (j : Job) (c : Coll) (s : State) : Placed s (collWritten j c s) :=
  foldl_keeps (Placed s) (fun _ _ ht => ht.trans (placed_collPut ..)) _ rfl

/-- Results whose places are in this package are written. -/
theorem collWritten_near {j : Job} {c : Coll} {s : State} (h : ∀ k ∈ c.keys, isRemote k = false) :
    collWritten j c s = c.keys.zipIdx.foldl (fun w k => w.write k.1 (collElem c.ty) (c.result c.stream k.2)) s := by
  refine List.foldl_ext _ _ _ fun t k hk => ?_
  have hr := h k.1 (List.fst_mem_of_mem_zipIdx hk)
  rw [isRemote, Bool.or_eq_false_iff] at hr
  simp [collPut, State.placeAt, hr.1, hr.2]

theorem job?_id {s : State} {n : Nat} {j : Job} (h : s.job? n = some j) : j.id = n := by
  simpa using List.find?_some h

theorem setJob_found {s : State} {n : Nat} {j k : Job} (h : s.job? n = some j) (hk : k.id = n) : (s.setJob k).job? n = some k := by
  have hrep := find?_replace Job.id k n s.jobs
  rw [if_pos hk, show s.jobs.find? (fun x => x.id == n) = some j from h] at hrep
  exact hrep

theorem coll_cases {s : State} {n : Nat} {j : Job} {c : Coll} (h : s.job? n = some j) (hk : j.kind = .coll c) (hf : c.finished = true)
    (hw : s.jobWaits n = false) (hc : c.code = 0) (hd : c.written = false) :
    ((∀ k ∈ c.keys, isPeer k = false) → ∃ t, exec (.collComplete n) s =
        .next (releaseGone (t.dropL1.finishJob j (statusWord 0 (collElem c.ty * c.writes)))) ∧ t.g = s.g ∧
        ((∀ k ∈ c.keys, isRemote k = false) → t = c.keys.zipIdx.foldl (fun w k => w.write k.1 (collElem c.ty) (c.result c.stream k.2)) s)) ∧
      ((∃ k ∈ c.keys, isPeer k = true) → ∃ t, exec (.collComplete n) s = .next t ∧ t.g = s.g ∧ .collComplete n ∈ t.engineQ ∧
        t.job? n = some { j with kind := .coll { c with written := true } }) := by
  have hexec := coll_writes h hk hf hw hc hd
  have hg : (collWritten j c s).g = s.g := (placed_collWritten j c s).g
  have hjob : (collWritten j c s).job? n = some j := by rw [State.job?, (placed_collWritten j c s).jobs, ← State.job?, h]
  refine ⟨fun hp => ⟨collWritten j c s, ?_, hg, collWritten_near⟩, fun hp =>
    ⟨((collWritten j c s).setJob { j with kind := .coll { c with written := true } }).post (.collComplete n), ?_, ?_, mem_post _ _, ?_⟩⟩
  · have hno : c.keys.any isPeer = false := by simpa using hp
    rw [hexec, hno, ← endColl_done hc]
    rfl
  · have hyes : c.keys.any isPeer = true := by simpa using hp
    rw [hexec, hyes]
    rfl
  · rw [State.post_g]
    exact hg
  · rw [post_eq]
    exact setJob_found hjob (show j.id = n from job?_id h)

/-! ### The token (R199) -/

section
variable {s : State} {j : Job} (v : DWord) (hl : s.g.live = true) (hgid : s.g.gid = j.gid) (hid : j.gid < polId 0) (hp : s.party = .group)
  (harea : j.area = none)
include hl hgid hid hp harea

/-- The work of the group in focus ends with a delivery to it. -/
theorem finishJob_sc : (s.finishJob j v).sc = s.sc.deliver j.reg v := by
  have hlow : ¬ polId 0 ≤ j.gid := by omega
  have hit : (s.g.live && s.g.gid == j.gid) = true := by simp [hl, hgid]
  have hgroup : (s.finishJob j v).g = s.g.deliver j.reg v := by
    simp only [State.finishJob, State.deliverTo, harea, if_neg hlow, State.mapGroups_g, hit, if_true]
  have hparty : (s.finishJob j v).party = .group := by
    simp only [State.finishJob, State.deliverTo, harea, if_neg hlow]
    exact hp
  rw [State.sc_group hparty, State.sc_group hp, hgroup]
  exact (Group.deliver_frame s.g j.reg v).2.1

omit hl hgid hp in
theorem finishJob_jobs : (s.finishJob j v).jobs = s.jobs.filter fun x => x.id != j.id := by
  have hlow : ¬ polId 0 ≤ j.gid := by omega
  simp only [State.finishJob, State.deliverTo, harea, if_neg hlow]
  rfl
end

theorem SCtx.deliver_tok_other (c : SCtx) {r q : SReg} (v : DWord) (h : q ≠ r) : (c.deliver r v).tok.getLsbD q.toNat = c.tok.getLsbD q.toNat := by
  unfold SCtx.deliver
  split
  · rfl
  · dsimp only
    rw [putBit_getLsbD _ _ _ _ r.isLt]
    simp [toNat_ne h]

theorem token_written {s : State} {n : Nat} {j : Job} (h : s.job? n = some j) (v : DWord) (hown : Spec.own s j.gid) (hid : j.gid < polId 0)
    (hp : s.party = .group) (harea : j.area = none) (hreg : j.reg ≠ 0) :
    (s.finishJob j v).rdS j.reg = v ∧ (s.finishJob j v).pending j.reg = false ∧ (s.finishJob j v).job? n = none ∧
      ∀ r, r ≠ j.reg → (s.finishJob j v).rdS r = s.rdS r ∧ (s.finishJob j v).pending r = s.pending r := by
  obtain ⟨hl, hgid⟩ := hown
  have hsc := finishJob_sc v hl hgid hid hp harea
  obtain ⟨hval, htok⟩ := s.sc.deliver_same v hreg
  refine ⟨?_, ?_, ?_, fun r hr => ⟨?_, ?_⟩⟩
  · rw [State.rdS, hsc, if_neg hreg, hval]
  · rw [State.pending, hsc, htok, Bool.and_false]
  · rw [State.job?, finishJob_jobs v hid harea, ← job?_id h]
    exact List.find?_eq_none.mpr fun x hx => by simpa using (List.mem_filter.mp hx).2
  · rw [State.rdS, State.rdS, hsc, SCtx.deliver_other s.sc v hr]
  · rw [State.pending, State.pending, hsc, SCtx.deliver_tok_other s.sc v hr]

theorem workEndsWithItsToken : Spec.WorkEndsWithItsToken := by
  intro s n
  refine ⟨work_unknown, fun j h => ⟨fun hk => ⟨fun hw => ?_, fun hw => ?_⟩, fun left acked code hk => ⟨?_, xfer_looks h hk⟩,
    fun c hk => ⟨coll_looks h hk, fun hf hw hc => ?_, fun hf hw hc hd => ?_, coll_cases h hk⟩, fun rs hk => seal_ends h hk,
    fun v hown hid hp harea hreg => token_written h v hown hid hp harea hreg⟩⟩
  · rw [copy_looks h hk, hw]
    rfl
  · rw [copy_looks h hk, hw]
    rfl
  · rintro rfl
    exact xfer_ends h hk
  · rw [coll_ends h hk hf hw (.inl hc), endColl_failed hc]
  · rw [coll_ends h hk hf hw (.inr hd), endColl_done hc]

end Sys2Proof.Machine
end

section
/-!
# How limits end their waits (R200, R233, R301, R416, R441)

A limit acts on its group when the group is in focus; a request that is given up is answered with an error, which changes the records of
requests, work and deliveries, and what a group owes.
-/
namespace Sys2Proof.Machine

/-! ### Limits of a group -/

theorem onGroup_gone {s : State} {gid : Nat} (h : s.focus gid = none) (f : State → State) : onGroup s gid f = s := by
  rw [onGroup, h]
theorem onGroup_own {s : State} {gid : Nat} (h : Spec.own s gid) (hp : s.party = .group) (f : State → State) : onGroup s gid f = f s := by
  obtain ⟨hl, rfl⟩ := h
  exact onGroup_self hl hp f

theorem exec_cpTryTimeout {gid : Nat} (h : gid < polId 0) (s : State) : exec (.cpTryTimeout gid) s =
    .next (onGroup s gid fun s => if s.g.tryWait then { s with g := { s.g with tryOver := true, sStall := none } } else s) := by
  show execCpTryTimeout gid s = _
  simp only [execCpTryTimeout, if_neg (Nat.not_le.mpr h)]

/-- A team whose first staged entry is of another group is left as it is. -/
theorem releaseStaged_other {s : State} {gid : Nat} {t : Team} (h : ∀ e ∈ t.staged.head?, e.gid ≠ gid) : releaseStaged s gid t = t := by
  unfold releaseStaged
  split
  · next e rest hst =>
    have hne : (e.gid == gid) = false := beq_false_of_ne (h e (by rw [hst]; rfl))
    split
    · simp only [hne, Bool.false_and, Bool.false_eq_true, if_false]
    · rfl
  · rfl

theorem limits_gone {s : State} {gid : Nat} (hid : gid < polId 0) (h : s.focus gid = none) :
    (∀ e ∈ [Instr.cpTryTimeout gid, .pairTimeout gid, .staleHaloTimeout gid], exec e s = .next s) ∧
      ((∀ t ∈ s.teams, ∀ e ∈ t.staged.head?, e.gid ≠ gid) → exec (.stileTimeout gid) s = .next s) := by
  simp only [List.forall_mem_cons, List.not_mem_nil, false_imp_iff, implies_true, and_true]
  refine ⟨⟨?_, ?_, ?_⟩, fun hst => ?_⟩
  · rw [exec_cpTryTimeout hid, onGroup_gone h]
  · exact congrArg Host.Outcome.next (onGroup_gone h _)
  · exact congrArg Host.Outcome.next (onGroup_gone h _)
  · have hteams : s.teams.map (releaseStaged s gid) = s.teams :=
      (List.map_congr_left fun t ht => releaseStaged_other (hst t ht)).trans (List.map_id _)
    show execStileTimeout gid s = _
    simp only [execStileTimeout, hteams]
    exact congrArg Host.Outcome.next (onGroup_gone h _)

theorem stile_released {s : State} {gid : Nat} (hown : Spec.own s gid) (hp : s.party = .group) {m : Member}
    (hm : ({ s with teams := s.teams.map (releaseStaged s gid) } : State).member? = some m)
    (hlim : sessField { s with teams := s.teams.map (releaseStaged s gid) } m 28 4 ≠ 0)
    (hheld : s.g.sStall = some .stile ∨ s.g.lStall = some .stile) : exec (.stileTimeout gid) s =
      .next { s with teams := s.teams.map (releaseStaged s gid), g := { s.g with stileOver := true, sStall := none, lStall := none } } := by
  have hb : (s.g.sStall == some .stile || s.g.lStall == some .stile) = true := by simpa using hheld
  show execStileTimeout gid s = _
  unfold execStileTimeout
  dsimp only
  rw [onGroup_own (s := { s with teams := s.teams.map (releaseStaged s gid) }) hown hp]
  simp only [hm, hb, hlim, ne_eq, not_false_eq_true, decide_true, Bool.and_self, if_true]

theorem limits_own {s : State} {gid : Nat} (hid : gid < polId 0) (hown : Spec.own s gid) (hp : s.party = .group) :
    exec (.cpTryTimeout gid) s = .next (if s.g.tryWait then { s with g := { s.g with tryOver := true, sStall := none } } else s) ∧
      (∀ p, s.pairs.find? (fun p => p.gid == gid) = some p → exec (.pairTimeout gid) s =
        .next (takeTrap { s.unpair gid with pairMarks := s.pairMarks ++ [{ p with west := !p.west }] } true { code := .pairTimeout })) ∧
      (s.g.lStall = some .staleHalo →
        exec (.staleHaloTimeout gid) s = .next { s with g := { s.g with haloOver := true, lStall := none } }) ∧
      (s.g.lStall ≠ some .staleHalo → exec (.staleHaloTimeout gid) s = .next s) := by
  have hhalo : exec (.staleHaloTimeout gid) s =
      .next (if s.g.lStall = some .staleHalo then { s with g := { s.g with haloOver := true, lStall := none } } else s) :=
    congrArg Host.Outcome.next (onGroup_own hown hp _)
  refine ⟨?_, fun p hfind => ?_, fun h => ?_, fun h => ?_⟩
  · rw [exec_cpTryTimeout hid, onGroup_own hown hp]
  · refine (congrArg Host.Outcome.next (onGroup_own hown hp _)).trans ?_
    simp only [hfind]
  · rw [hhalo, if_pos h]
  · rw [hhalo, if_neg h]

/-! ### Requests that are given up (R441) -/

/-- An answer leaves memory and the fabric's requests as they are. -/
theorem answer_keeps (s : State) (r : FabReq) (st code : Nat) (old : DWord) (data : List Byte) :
    (answer s r st code old data).mem = s.mem ∧ (answer s r st code old data).fabric = s.fabric := by
  unfold answer
  split
  · unfold jobAnswer
    split
    · exact ⟨rfl, rfl⟩
    · split
      · exact ⟨rfl, rfl⟩
      · exact ⟨rfl, rfl⟩
      · split <;> exact ⟨rfl, rfl⟩
      · exact ⟨rfl, rfl⟩
  · split <;> exact ⟨rfl, rfl⟩
  · unfold remAnswer
    dsimp only
    split
    · exact ⟨rfl, rfl⟩
    · split
      · exact ⟨rfl, rfl⟩
      · split
        · exact ⟨rfl, rfl⟩
        · split <;> exact ⟨rfl, rfl⟩

theorem peerTimeout_young {s : State} {gid : Nat} (h : ∀ r ∈ s.fabric.reqs, s.clock < r.sent + 1250000) :
    exec (.peerTimeout gid) s = .next s := by
  have hnone (p : FabReq → Bool) : (s.fabric.reqs.filter fun r => p r && decide (r.sent + 1250000 ≤ s.clock)) = [] :=
    List.filter_eq_nil_iff.mpr fun r hr => by simp [Nat.not_le.mpr (h r hr)]
  show execPeerTimeout gid s = _
  simp only [execPeerTimeout, hnone, List.foldl_nil]

theorem peerTimeout_old {s : State} {gid : Nat} {r : FabReq} (hreqs : s.fabric.reqs = [r]) (hg : r.gid = some gid)
    (hold : r.sent + 1250000 ≤ s.clock) : exec (.peerTimeout gid) s = .next (answer (s.dropReq r) r 5 5 0 []) := by
  show execPeerTimeout gid s = _
  simp [execPeerTimeout, hreqs, hg, hold, timedOut]

/-- A window request that is lost has its completion, with an error. -/
theorem answer_lost {s : State} {r : FabReq} (hj : r.job = none) (hd : r.deliv = none) {x : RemReq} (hx : x ∈ s.remote)
    (hpeer : isPeer x.pa = true) (hopen : x.isDone = false) (htag : x.tag = r.tag) :
    ∃ y ∈ (answer s r 5 5 0 []).remote, y.pa = x.pa ∧ y.gid = x.gid ∧ y.ch = x.ch ∧ y.isDone = true ∧ y.status = 5 := by
  have hit : (isPeer x.pa && !x.isDone && x.tag == r.tag) = true := by simp [hpeer, hopen, htag]
  have hany : (s.remote.any fun x => isPeer x.pa && !x.isDone && x.tag == r.tag) = true := List.any_eq_true.mpr ⟨x, hx, hit⟩
  simp only [answer, hj, hd, remAnswer, hany, if_true]
  refine ⟨_, List.mem_map_of_mem hx, ?_⟩
  rw [if_pos hit]
  exact ⟨rfl, rfl, rfl, rfl, rfl⟩

/-- A posted store that is lost is its group's fault. -/
theorem answer_posted {s : State} {r : FabReq} {gid : Nat} (hj : r.job = none) (hd : r.deliv = none) (hg : r.gid = some gid)
    (hw : r.write = true) (hc : r.compl = false) (hnone : ∀ x ∈ s.remote, x.tag ≠ r.tag) (hown : Spec.own s gid) (howed : s.g.owed = none) :
    (answer s r 5 5 0 []).g.owed = some (restartAt .uncorrectableData 0) := by
  have hany : (s.remote.any fun x => isPeer x.pa && !x.isDone && x.tag == r.tag) = false :=
    List.any_eq_false.mpr fun x hx => by simp [hnone x hx]
  obtain ⟨hl, rfl⟩ := hown
  simp [answer, hj, hd, remAnswer, hany, hw, hc, hg, postedFault, State.owe, hl, howed, remFault]

theorem limitsEndTheirWaits : Spec.LimitsEndTheirWaits := by
  intro s gid hid
  refine ⟨limits_gone hid, fun hown hp => ?_, peerTimeout_young, fun r hreqs hg hold => ⟨_, peerTimeout_old hreqs hg hold, ?_, fun b => ?_,
    fun hj hd => ⟨fun x hx hpeer hopen htag => answer_lost hj hd hx hpeer hopen htag,
      fun hw hc hnone hown howed => answer_posted hj hd hg hw hc hnone hown howed⟩⟩⟩
  · obtain ⟨htry, hpair, hstale, hfresh⟩ := limits_own hid hown hp
    exact ⟨htry, hpair, hstale, hfresh, fun m hm hlim hheld => stile_released hown hp hm hlim hheld⟩
  · rw [(answer_keeps ..).2]
    simp [State.dropReq, hreqs]
  · rw [(answer_keeps ..).1]
    rfl

/-- Settles O43. -/
theorem workAndWaitsEnd : Obligations.WorkAndWaitsEnd := ⟨workEndsWithItsToken, limitsEndTheirWaits⟩

end Sys2Proof.Machine
end

section
/-!
# What the engines do for a resident group (R178, R179, R268, R278, R298, R398)

Each engine acts on the group in focus. Of the candidates of a trap window the one that no other comes before is named, and its group stops
where nothing of it is in flight.
-/
namespace Sys2Proof.Machine

/-! ### Streams and pushes (R178, R179, R278) -/

section
variable {s : State} {gid port k : Nat} {x : Stream} (hown : Spec.own s gid) (hp : s.party = .group) (hport : s.g.portOf port = some (k, x))
include hown hp hport

theorem prefetch_full (hroom : x.room = false) : exec (.streamPrefetch gid port) s = .next s := by
  show execStreamPrefetch gid port s = _
  simp only [execStreamPrefetch, onGroup_own hown hp, hport, hroom, Bool.not_false, if_true]

theorem prefetch_later (hroom : x.room = true) (hturn : earlierPort s port = true) :
    exec (.streamPrefetch gid port) s = .next (s.post (.streamPrefetch gid port)) := by
  show execStreamPrefetch gid port s = _
  simp only [execStreamPrefetch, onGroup_own hown hp, hport, hroom, hturn, Bool.not_true, Bool.false_eq_true, if_false, if_true]

section
variable {u t : State} (hroom : x.room = true) (hturn : earlierPort s port = false)
  (hu : u = { s.setCore s.gteam.core { s.core s.gteam.core with strmTurn := (16 * s.g.slot + port + 1) % 1024 } with ch := 34 + port })
include hroom hturn hu

theorem prefetch_vector {v : List QElem} (hf : fetchVec u x 32 (x.pos + 32 * x.loadQ.length) = (t, some v)) :
    exec (.streamPrefetch gid port) s =
      .next ({ t.remClear with g := t.remClear.g.setStream k { x with loadQ := x.loadQ ++ [v] }, ch := s.ch }.post (.streamPrefetch gid port)) := by
  rw [hu] at hf
  show execStreamPrefetch gid port s = _
  simp only [execStreamPrefetch, onGroup_own hown hp, hport, hroom, hturn, hf, Bool.not_true, Bool.false_eq_true, if_false]
  rfl

theorem prefetch_awaits (hf : fetchVec u x 32 (x.pos + 32 * x.loadQ.length) = (t, none)) :
    exec (.streamPrefetch gid port) s = .next ({ t with ch := s.ch }.post (.streamPrefetch gid port)) := by
  rw [hu] at hf
  show execStreamPrefetch gid port s = _
  simp only [execStreamPrefetch, onGroup_own hown hp, hport, hroom, hturn, hf, Bool.not_true, Bool.false_eq_true, if_false]
  rfl
end
end

/-- The writes of a pushed vector, in lane order. -/
def pushWritten (s : State) (port : Nat) (v : PushVec) : Res State :=
  v.elems.foldlM (fun t (y : QStore) => t.put y.loc y.va 4 y.w.toNat s.g.relL) { s with ch := 34 + port }

section
variable {s : State} {gid port : Nat} {v : PushVec} {q : List PushVec} (hown : Spec.own s gid) (hp : s.party = .group) (hv : s.g.pushes = v :: q)
include hown hp hv

theorem push_written {t : State} (hw : pushWritten s port v = .ok t) :
    ∃ u, exec (.storeEngineWrite gid port) s = .next u ∧ u.g = { t.g with pushes := q } ∧ SameBytes t u := by
  unfold pushWritten at hw
  refine ⟨if q.isEmpty then { t.dropSectors t.gteam.core with g := { t.g with pushes := q }, ch := s.ch }
    else ({ t.dropSectors t.gteam.core with g := { t.g with pushes := q }, ch := s.ch } : State).post (.storeEngineWrite gid port), ?_, ?_⟩
  · show execStoreEngineWrite gid port s = _
    simp only [execStoreEngineWrite, onGroup_own hown hp, hv, hw]
  · split
    · exact ⟨rfl, fun _ => rfl⟩
    · exact ⟨State.post_g .., fun b => by rw [State.post_mem]; rfl⟩

theorem push_waits {e : Stop} (hw : pushWritten s port v = .error e) :
    exec (.storeEngineWrite gid port) s = .next (s.post (.storeEngineWrite gid port)) := by
  unfold pushWritten at hw
  show execStoreEngineWrite gid port s = _
  simp only [execStoreEngineWrite, onGroup_own hown hp, hv, hw]
end

/-! ### A held pop (R268) -/

theorem recompute_starts {s : State} {gid : Nat} (hown : Spec.own s gid) (hp : s.party = .group) (hheld : s.g.tape.held = true)
    (hrec : s.g.tape.recomp = false) {x : TapeSeg} (hx : s.g.tape.segs.getLast? = some x) :
    ∃ t, exec (.recompute gid) s = .next t ∧ t.rdS 1 = x.id.setWidth 64 ∧ t.pc = s.g.tape.handler ∧ t.g.tape.recomp = true ∧
      t.g.tape.savedPc = s.pc ∧ t.g.tape.savedS1 = s.rdS 1 ∧ t.g.regcnt = s.g.regcnt + 1 ∧ SameBytes s t ∧
      ∀ r, r ≠ 1 → t.rdS r = s.rdS r := by
  have hexec : exec (.recompute gid) s = .next (takeRecompute s) := congrArg Host.Outcome.next (onGroup_own hown hp _)
  have hgo : (!s.g.tape.held || s.g.tape.recomp) = false := by simp [hheld, hrec]
  have hsc : s.sc = s.g.sc := State.sc_group hp
  have htake : takeRecompute s = { s with g := (takeRecompute s).g } := by
    simp only [takeRecompute, hgo, Bool.false_eq_true, if_false]
  have hscalars : (takeRecompute s).g.sc = { s.g.sc with
      sreg := SMap.set 0 s.g.sc.sreg 1 (x.id.setWidth 64), pc := s.g.tape.handler, bad := putBit s.g.sc.bad 1 false } := by
    simp only [takeRecompute, hgo, Bool.false_eq_true, if_false, hx]
    rfl
  have htape : (takeRecompute s).g.tape = { s.g.tape with recomp := true, savedS1 := s.rdS 1, savedPc := s.pc } ∧
      (takeRecompute s).g.regcnt = s.g.regcnt + 1 := by
    simp only [takeRecompute, hgo, Bool.false_eq_true, if_false, State.rdS, State.pc, hsc]
    exact ⟨rfl, rfl⟩
  have hsct : (takeRecompute s).sc = (takeRecompute s).g.sc := by
    refine State.sc_group ?_
    rw [htake]
    exact hp
  obtain ⟨htape, hregcnt⟩ := htape
  refine ⟨_, hexec, ?_, ?_, ?_, ?_, ?_, hregcnt, fun b => ?_, fun r hr => ?_⟩
  · rw [State.rdS, hsct, hscalars]
    exact SMap.get_set_same ..
  · rw [State.pc, hsct, hscalars]
  · rw [htape]
  · rw [htape]
  · rw [htape]
  · rw [htake]
  · rw [State.rdS, State.rdS, hsct, hscalars, hsc]
    split
    · rfl
    · exact SMap.get_set_other _ _ _ (toNat_ne hr)

/-! ### The window of floating-point traps (R398) -/

theorem FpCand.before_asymm {a b : FpCand} (h : a.before b = true) : b.before a = false := by
  simp only [FpCand.before, Bool.or_eq_true, Bool.and_eq_true, decide_eq_true_eq, beq_iff_eq] at h
  simp only [FpCand.before, Bool.or_eq_false_iff, Bool.and_eq_false_iff, decide_eq_false_iff_not, beq_eq_false_iff_ne]
  omega
theorem FpCand.before_irrefl (a : FpCand) : a.before a = false := by simp [FpCand.before]

/-- The earlier of the candidate so far and a new one. -/
def fpEarlier (b : Option FpCand) (a : FpCand) : Option FpCand :=
  match b with
  | none => some a
  | some x => if a.before x then some a else b

/-- A candidate that comes before all others stays named. -/
theorem fpEarlier_stays {c : FpCand} {cs : List FpCand} (h : ∀ x ∈ cs, x = c ∨ c.before x = true) : cs.foldl fpEarlier (some c) = some c := by
  refine foldl_keeps_mem (fun b => b = some c) cs (fun b a ha hb => ?_) rfl
  have hno : a.before c = false := by
    rcases h a ha with rfl | h
    · exact a.before_irrefl
    · exact FpCand.before_asymm h
  simp only [hb, fpEarlier, hno, Bool.false_eq_true, if_false]

/-- The candidate that comes before all others is named. -/
theorem fpNamed_first {c : FpCand} {cs : List FpCand} (hc : c ∈ cs) (h : ∀ x ∈ cs, x = c ∨ c.before x = true) : fpNamed cs = some c := by
  have hlate : ∀ b : Option FpCand, (∀ y ∈ b, y = c ∨ c.before y = true) → cs.foldl fpEarlier b = some c := by
    induction cs with
    | nil => exact absurd hc List.not_mem_nil
    | cons a cs ih =>
      intro b hb
      have hrest : ∀ x ∈ cs, x = c ∨ c.before x = true := fun x hx => h x (List.mem_cons_of_mem a hx)
      rw [List.foldl_cons]
      by_cases hca : a = c
      · subst hca
        have hnamed : fpEarlier b a = some a := by
          cases b with
          | none => rfl
          | some y =>
            rcases hb y rfl with rfl | hy
            · simp [fpEarlier]
            · simp [fpEarlier, hy]
        rw [hnamed]
        exact fpEarlier_stays hrest
      · refine ih (List.mem_of_ne_of_mem (Ne.symm hca) hc) hrest _ fun y hy => ?_
        cases b with
        | none =>
          cases hy
          exact h a List.mem_cons_self
        | some x =>
          simp only [fpEarlier] at hy
          split at hy
          · cases hy
            exact h a List.mem_cons_self
          · cases hy
            exact hb y rfl
  exact hlate none fun y hy => by cases hy

/-- A record, its notification and the reading of the configuration block leave the cores' windows. -/
theorem Recorded.coreTab {s t : State} (h : Recorded s t) : t.coreTab = s.coreTab := by
  obtain ⟨_, _, _, _, _, _, rfl⟩ := h
  rfl
theorem readBlock_coreTab (s : State) (d : Nat) : (s.readBlock d).coreTab = s.coreTab := by
  unfold State.readBlock
  dsimp only
  split
  · rw [errRecord_eq]
  · exact (recorded_setDom ..).coreTab
theorem gfAppend_coreTab (s : State) (d code : Nat) (rcd : List Byte) (gid pass : Option Nat) :
    (gfAppend s d code rcd gid pass).coreTab = s.coreTab := by
  unfold gfAppend
  dsimp only
  rw [post_eq]
  exact ((((recorded_putRecord _ _ _ _).trans (recorded_putRecord _ _ _ _)).trans (recorded_setDom _ _ _)).trans (recorded_notify _ _ _ _).1).coreTab

/-- A stop leaves the cores' windows and the group stopped on its trap. -/
theorem stopGroup_stops (s : State) (lane : Bool) (t : Trap) :
    (stopGroup s lane t).coreTab = s.coreTab ∧ ∃ q, (stopGroup s lane t).g.phase = .stopped q t lane := by
  have hcore : (s.abandon.readBlock s.gdom).coreTab = s.coreTab := readBlock_coreTab s.abandon s.gdom
  unfold stopGroup
  dsimp only
  split
  · exact ⟨hcore, none, rfl⟩
  · exact ⟨(gfAppend_coreTab ..).trans hcore, _, rfl⟩

/-- A fault without an error record of a group that has nothing in flight stops it. -/
theorem groupTrap_stops {s : State} {lane : Bool} {t : Trap} (he : t.errAt = none) (hph : ∀ u l, s.g.phase ≠ .stopping u l)
    (h1 : inFlight s s.g true = false) (h0 : inFlight s s.g false = false) : groupTrap s lane t = stopGroup s lane t := by
  have hnote : s.note t = s := by simp only [State.note, he]
  have ht : { t with errAt := none } = t := by
    cases t
    simp only at he
    rw [he]
  cases hphase : s.g.phase with
  | stopping u l => exact absurd hphase (hph u l)
  | _ => simp only [groupTrap, hnote, ht, hphase, h1, h0, Bool.or_self, Bool.false_eq_true, if_false]

/-- The group as it stops: a system call that it awaits goes on once it does. -/
def fpKept (g : Group) : Group := if g.phase == .running then g else { g with call := some g.phase }

theorem fpKept_eq (g : Group) : fpKept g = { g with call := (fpKept g).call } := by
  unfold fpKept
  split <;> rfl

/-- The trap of a candidate. -/
def fpTrapOf (c : FpCand) (others : Nat) : Trap :=
  { code := .fpTrap, kind := .collected, lane := some c.lane, mask := c.mask, flags := c.flags.setWidth 16, others := others, pcAt := some c.lpc }

theorem fpEligible_phase {s : State} {k : Nat} {g : Group} (h : fpEligible s k g = true) (u : Trap) (l : Bool) : g.phase ≠ .stopping u l := by
  intro hph
  simp [fpEligible, hph] at h

theorem window_stays {s : State} {k : Nat} {c : FpCand} {rest : List FpCand} (hw : (s.core k).fpWin = c :: rest) (h : s.clock < c.ck + 64) :
    exec (.fpTrapCollect k) s = .next s := by
  have hover : fpOver s k = false := by simp [fpOver, hw, h]
  show execFpTrapCollect k s = _
  simp only [execFpTrapCollect, hover, Bool.false_eq_true, if_false]

theorem window_stops {s : State} {gid k : Nat} (hown : Spec.own s gid) (hp : s.party = .group) {h c : FpCand} {rest : List FpCand}
    (hw : (s.core k).fpWin = h :: rest) (hck : h.ck + 64 ≤ s.clock) (hc : c ∈ (s.core k).fpWin) (hgid : c.gid = gid)
    (hel : fpEligible s k s.g = true)
    (hfirst : ∀ x ∈ (s.core k).fpWin, x = c ∨ c.ck < x.ck ∨ (c.ck = x.ck ∧ c.slot < x.slot) ∨
      ∀ g ∈ s.groups, g.gid = x.gid → fpEligible s k g = false)
    (h1 : inFlight s s.g true = false) (h0 : inFlight s s.g false = false) :
    ∃ t, exec (.fpTrapCollect k) s = .next t ∧ (t.core k).fpWin = [] ∧
      ∃ q tr, t.g.phase = .stopped q tr true ∧ tr.code = .fpTrap ∧ tr.kind = .collected ∧ tr.lane = some c.lane ∧ tr.pcAt = some c.lpc ∧
        tr.mask = c.mask := by
  have hover : fpOver s k = true := by simp [fpOver, hw, hck]
  have hself : s.g ∈ s.groups := by
    rw [State.groups, if_pos hown.1]
    exact List.mem_cons_self
  have hnamed : fpNamed ((s.core k).fpWin.filter fun c => s.groups.any fun g => g.gid == c.gid && fpEligible s k g) = some c := by
    refine fpNamed_first (List.mem_filter.mpr ⟨hc, List.any_eq_true.mpr ⟨s.g, hself, ?_⟩⟩) fun x hx => ?_
    · simp [hown.2, hgid, hel]
    · obtain ⟨hxin, hxel⟩ := List.mem_filter.mp hx
      obtain ⟨g, hg, hgx⟩ := List.any_eq_true.mp hxel
      simp only [Bool.and_eq_true, beq_iff_eq] at hgx
      rcases hfirst x hxin with he | hlt | ⟨heq, hslot⟩ | hno
      · exact .inl he
      · exact .inr (by simp [FpCand.before, hlt])
      · exact .inr (by simp [FpCand.before, heq, hslot])
      · exact absurd hgx.2 (by rw [hno g hg hgx.1]; decide)
  obtain ⟨others, hothers⟩ : ∃ n, n = ((((s.core k).fpWin.map (·.gid)).eraseDups.filter fun i => i != c.gid).length) := ⟨_, rfl⟩
  obtain ⟨u, hu⟩ : ∃ u, u = { s.setCore k { s.core k with fpWin := [] } with g := fpKept s.g } := ⟨_, rfl⟩
  have hug : u.g = { s.g with call := (fpKept s.g).call } := by
    rw [hu]
    exact fpKept_eq s.g
  have hexec : exec (.fpTrapCollect k) s = .next (groupTrap u true (fpTrapOf c others)) := by
    show execFpTrapCollect k s = _
    simp only [execFpTrapCollect, hover, if_true, fpClose, hnamed]
    rw [hgid, onGroup_own (s := s.setCore k { s.core k with fpWin := [] }) hown hp, ← hgid, ← hothers, hu]
    rfl
  have hflight : ∀ lane, inFlight s s.g lane = false → inFlight u u.g lane = false := fun lane hl => by
    rw [hug, hu]
    exact hl
  have hstop : groupTrap u true (fpTrapOf c others) = stopGroup u true (fpTrapOf c others) :=
    groupTrap_stops rfl (fun a l => by rw [hug]; exact fpEligible_phase hel a l) (hflight true h1) (hflight false h0)
  obtain ⟨htab, q, hph⟩ := stopGroup_stops u true (fpTrapOf c others)
  refine ⟨_, hexec, ?_, q, fpTrapOf c others, hstop ▸ hph, rfl, rfl, rfl, rfl, rfl⟩
  rw [hstop, State.core, htab, hu]
  exact congrArg Core.fpWin (State.setCore_core s k _)

/-! ### Deliveries (R298) -/

theorem delivery_moves {s : State} {x : Delivery} {gr : Grid} (hx : s.deliveries.find? (fun y => y.id == x.id) = some x) (hsent : x.sent = false)
    (hpk : x.packet = none) (hgr : s.grid? x.dom x.asn x.desc = some gr) (hasn : gr.asn = x.asn) (hdesc : gr.desc = x.desc) {u : State}
    (hu : u = { s with deliveries := s.deliveries.map fun y => if y.id == x.id then x else y }) : exec (.headlandDelivery x.id) s =
      .next (if deliverable u gr x then deliver u gr x else u.post (.headlandDelivery x.id)) := by
  have hgrid : deliveryGrid s x = some gr := by simp only [deliveryGrid, hpk, hgr]
  have hsame : { x with asn := gr.asn, desc := gr.desc } = x := by rw [hasn, hdesc]
  show execHeadlandDelivery x.id s = _
  simp only [execHeadlandDelivery, hx]
  rw [if_neg (by simp [hsent]), hgrid]
  dsimp only
  rw [if_neg (by simp [hpk]), hsame, hu]

/-- Settles O42, engine by engine. -/
theorem enginesServeTheirGroups : Obligations.EnginesServeTheirGroups := by
  intro s gid port hown hp
  refine ⟨fun k x hport => ?_, fun v q hv => ?_, fun hheld hrec x hx => recompute_starts hown hp hheld hrec hx, ?_, fun x gr hx hsent hpk hgr hasn hdesc => ?_⟩
  · exact ⟨prefetch_full hown hp hport, prefetch_later hown hp hport, fun hroom hturn =>
      ⟨fun t v hf => prefetch_vector hown hp hport hroom hturn rfl hf, fun t hf => prefetch_awaits hown hp hport hroom hturn rfl hf⟩⟩
  · exact ⟨fun t hw => push_written hown hp hv hw, fun e hw => push_waits hown hp hv hw⟩
  · exact ⟨fun c rest hw hck => window_stays hw hck, fun h rest c hw hck hc hgid hel hfirst h1 h0 =>
      window_stops hown hp hw hck hc hgid hel hfirst h1 h0⟩
  · have hmoves := delivery_moves hx hsent hpk hgr hasn hdesc rfl
    exact ⟨fun hd => by rw [hmoves, if_pos hd], fun hd => by rw [hmoves, hd]; rfl⟩

end Sys2Proof.Machine
end
